-- ==== Sys2Proof/Word.lean ====
section
/-! DEFINITION. The word types of the model (spec 09, R297, R302; spec 00, *Notation*). -/

namespace Sys2Proof

/-- One byte. -/
abbrev Byte := BitVec 8
/-- A 16-bit word. -/
abbrev W16 := BitVec 16
/-- A 32-bit word: a lane register, a counter, a ledger. -/
abbrev W32 := BitVec 32
/-- A 64-bit word: an instruction, a control-window register, an arena element. -/
abbrev W64 := BitVec 64

/-- A sparse map from numbers to values: keys strictly rising; what is unlisted reads as the default the reader names. -/
abbrev SMap (α : Type) := List (Nat × α)

end Sys2Proof
end

