-- ==== Sys2Proof/Config.lean ====
section
/-! DEFINITION. What one implementation fixes, and the FREE VALUES the spec leaves open (they have no body: nothing can
evaluate them or prove a value of them). -/

namespace Sys2Proof

/-- R314: `fex2` is one fixed function of its FP32 input, the same on every block; the spec gives its bits only at
the infinities and for a NaN, and bounds it elsewhere (`withinTwo`; log 21, safe: any function within the bound is allowed). -/
opaque Config.fex2 : W32 → W32
/-- R314: `flg2`, as `fex2` (log 21, safe). -/
opaque Config.flg2 : W32 → W32
/-- R206: the SiLU activation on a finite input (log 21, safe). -/
opaque Config.silu : W32 → W32
/-- R206: the GELU activation on a finite input (log 21, safe). -/
opaque Config.gelu : W32 → W32
/-- R206: the tanh activation on a finite input (log 21, safe). -/
opaque Config.tanh : W32 → W32
/-- A fresh 32-bit free value: what the spec calls undefined, unspecified or "some mixture". The argument is the
model's own counter `State.free` (log 22, safe). -/
opaque Config.freeWord : Nat → W32
/-- Bytes that the spec calls undefined: any bytes at any addresses (log 157, safe). -/
opaque Config.freeCells : Nat → List (Nat × Byte)
/-- R442: the unit an order fault names for an order word whose OP is reserved, as it names none (log 152, safe). -/
opaque Config.noUnit : BitVec 7 → BitVec 8
/-- R417: the save format that the front-end firmware writes and accepts (log 58, safe). -/
opaque Config.saveFormat : W32

/-- R433: the largest value of a statistics counter. -/
def Config.cntMax : Nat := 2 ^ 48 - 1
/-- R351: the front end holds 32 rings. -/
def Config.nRings : Nat := 32
/-- R405: up to eight tenancies. -/
def Config.nTen : Nat := 8
/-- R12: eight clusters. -/
def Config.nClusters : Nat := 8
/-- R12: sixteen line ports. -/
def Config.nPorts : Nat := 16
/-- R12: sixteen lanes per cluster. -/
def Config.nLanes : Nat := 16
/-- R328: accepted orders that one queue of a unit holds. -/
def Config.queueDepth : Nat := 32
/-- R7, R263: carriages between a brake tick and the stop carriage. -/
def Config.brakeDistance : Nat := 4096
/-- R241: the largest link latency with skew, in ticks. -/
def Config.linkMax : Nat := 48
/-- R410: bytes of a unit-state area. -/
def Config.unitArea : Nat := 548864
/-- R504: entries of timetable memory. -/
def Config.ttCap : Nat := 1052672
/-- R55: locked entries of the block TLB. -/
def Config.lockedMax : Nat := 1024
/-- R446: records the on-die event queue holds. -/
def Config.evrQueue : Nat := 256
/-- R226: hitches and carts the block holds. -/
def Config.hitchMax : Nat := 2048
/-- R226. -/
def Config.cartMax : Nat := 16384
/-- R392: bytes one shared-cache way holds for the block on a Ulucharoth package. -/
def Config.wayCap : Nat := 8388608
/-- R487, R491: the hardware stepping, bits [31:28] of IDCODE 0x04F1_F74B (log 7). -/
def Config.stepping : Nat := 0
end Sys2Proof
end

