-- ==== Sys2Proof/Syntax.lean ====
section
/-! DEFINITION. The commands of the block: one constructor of `Instr` per row of spec/opcode_table.json, with the
operands the row's event carries. -/

namespace Sys2Proof

/-- R441: an error that an on-die array's code finds: corrected, or uncorrectable in a line of the row cache, an entry of a TLB (the
n-th of an engine or a cluster), what belongs to a task (register files, lane-local memory, order queues), a word of the scratchpad or a
unit-state area, the timetable memory or line cart buffers of a tenancy's membership, or the block's own arrays. `unit` is the
unit word of the record (R442), the unit that raised it (log 97). -/
inductive ArrayErr where
  | corrected
  | rowCache (slice set way : Nat)
  | blockTlb (set way : Nat)
  | gatherTlb (engine n : Nat)
  | clusterTlb (cluster n : Nat)
  | task (id : Nat) (unit : BitVec 11)
  | scratchpad (cluster addr : Nat) (unit : BitVec 11)
  | line (ten : Nat) (unit : BitVec 11)
  | block (unit : BitVec 11)
deriving DecidableEq, Repr, Inhabited

/-- What has happened outside the commands by the time of one of the host's (log 3): the bytes written to the package's memory, the
64 B granules that it has come to report uncorrectable (R397; log 45), the errors it has corrected (R396), and the errors of
the on-die arrays (R441; log 97). -/
structure HostMem where
  cells : List Host.Cell := []
  bad : List Nat := []
  ce : Nat := 0
  errs : List ArrayErr := []
deriving DecidableEq, Repr, Inhabited

/-- Which coach issues a lane instruction: the task (the model's number for it), the cohort (R47) and the coach
within its cohort (R303). -/
structure CoachRef where
  task : Nat
  cohort : Nat
  coach : Nat
deriving DecidableEq, Repr, Inhabited

/-- R297, R298: the fetched instruction word less CLASS and OP, which the row gives: bits [50:32] by field and bits
[31:0] as `lo`. -/
structure LaneWord where
  g : Bool := false
  gn : Bool := false
  gp : BitVec 3 := 0
  i : Bool := false
  ua : Bool := false
  d : BitVec 6 := 0
  a : BitVec 6 := 0
  lo : W32 := 0
  /-- R300: the CLASS and OP of the fetched word where they are reserved, and no row is theirs: then any lane row names a word of
  classes 0x01–0x07 or of a reserved class, and any order row one of classes 0x08–0x0A (log 152). -/
  other : Option (BitVec 6 × BitVec 7) := none
deriving DecidableEq, Repr, Inhabited

/-- R352: a command entry less OPCODE, which the row gives. `flags` is bits [31:8] of its first word (bit 0 is NOTIFY). -/
structure CmdEntry where
  flags : BitVec 24 := 0
  usertag : W32 := 0
  result : W64 := 0
  arg0 : W64 := 0
  arg1 : W64 := 0
deriving DecidableEq, Repr, Inhabited

/-- R245: a carriage: its header fields and its payload bytes; `fec` is how many of its symbols the receiver corrects (R247). -/
structure Carriage where
  cls : BitVec 3 := 0
  vlate : Bool := false
  cstart : Bool := false
  cend : Bool := false
  srank : BitVec 9 := 0
  drank : BitVec 9 := 0
  dhitch : BitVec 8 := 0
  sport : BitVec 4 := 0
  carno : W64 := 0
  stamp : W64 := 0
  len : BitVec 11 := 0
  offset : BitVec 20 := 0
  tag : W32 := 0
  entry : W16 := 0
  brkt : W64 := 0
  cret0 : BitVec 8 := 0
  cret1 : BitVec 8 := 0
  rotm : W16 := 0
  rotp : BitVec 5 := 0
  rotv : Bool := false
  jreqp : BitVec 5 := 0
  jreqv : Bool := false
  ctype : BitVec 8 := 0
  vc : Bool := false
  payload : List Byte := []
  fec : Nat := 0
deriving DecidableEq, Repr, Inhabited

/-- R67, R68, R419: what the tensor cores do at an exchange window; `start` and `stop` open and close their traffic to
it (log 48). -/
inductive TensorOp where
  | start
  | stop
  | read (off len : Nat)
  | write (off : Nat) (data : List Byte)
  | readCounter (xc : Nat)
  | addCounter (xc : Nat) (amount : W32)
deriving DecidableEq, Repr

/-- R465, R466: the outcome of a calibration visit. -/
inductive Verdict where
  | pass
  | fail
  | hardFail
deriving DecidableEq, Repr

/-- R463: how the physical steps of training ended. -/
inductive TrainResult where
  /-- Lanes found good, lanes inverted, and the measured latency. -/
  | trained (good : BitVec 17) (inverted : BitVec 17) (latency : Nat)
  /-- Marker alignment or deskew failed. -/
  | misaligned
deriving DecidableEq, Repr

/-- R487: the TAP instructions. -/
inductive TapOp where
  | bypass | idcode | samplePreload | extest | clamp | highz
deriving DecidableEq, Repr

/-- R488: the wrapper instructions. -/
inductive WrapOp where
  | wsBypass | wsExtest | wsIntestScan | wsSafe | privateTest
deriving DecidableEq, Repr

/-- R454, R457, R459: the verdicts of the signature checks of the three images (log 8). -/
structure Verdicts where
  per : Bool
  fe : Bool
  ln : Bool
deriving DecidableEq, Repr

/-- The commands. A tick operand `t` is the tick in which the boundary takes the event (R33, R34). `hm` is what the
host has written to the package's memory by then (log 3). -/
inductive Instr where
  -- front-end commands, taken at the head of ring r (R354)
  | dispatch (r : Nat) (e : CmdEntry)
  | fenceFull (r : Nat) (e : CmdEntry)
  | fenceOverlap (r : Nat) (e : CmdEntry)
  | tableLoad (r : Nat) (e : CmdEntry)
  | tableReplace (r : Nat) (e : CmdEntry)
  | tableRelease (r : Nat) (e : CmdEntry)
  | timetableLoad (r : Nat) (e : CmdEntry)
  | timetableUnload (r : Nat) (e : CmdEntry)
  | hitchBuild (r : Nat) (e : CmdEntry)
  | hitchDismantle (r : Nat) (e : CmdEntry)
  | dismantleComplete (ten hitch : Nat)
  | invalidateAll (r : Nat) (e : CmdEntry)
  | invalidateAllDone (ten : Nat)
  | arm (r : Nat) (e : CmdEntry)
  | brake (r : Nat) (e : CmdEntry)
  | checkpoint (r : Nat) (e : CmdEntry)
  | checkpointDone (ten : Nat)
  | park (r : Nat) (e : CmdEntry)
  | parkDone (ten slot : Nat)
  | parkTimeout (ten slot t : Nat)
  | unpark (r : Nat) (e : CmdEntry)
  | audit (r : Nat) (e : CmdEntry)
  | ringWake (r : Nat) (tail : W32) (hm : HostMem)
  | ringResume (r : Nat)
  | ringEnable (r : Nat) (log2n : BitVec 5) (base : W64)
  -- tasks and cohorts
  | cohortPlacement (task cluster lane : Nat)
  | cohortEnd (task cohort : Nat)
  | cohortStuck (task cohort : Nat)
  | sharedWaitLimit (c : CoachRef) (t : Nat)
  -- class 0x01
  | add (c : CoachRef) (w : LaneWord)
  | sub (c : CoachRef) (w : LaneWord)
  | mulLo (c : CoachRef) (w : LaneWord)
  | mulHiS (c : CoachRef) (w : LaneWord)
  | mulHiU (c : CoachRef) (w : LaneWord)
  | mad (c : CoachRef) (w : LaneWord)
  | divS (c : CoachRef) (w : LaneWord)
  | divU (c : CoachRef) (w : LaneWord)
  | remS (c : CoachRef) (w : LaneWord)
  | remU (c : CoachRef) (w : LaneWord)
  | and (c : CoachRef) (w : LaneWord)
  | or (c : CoachRef) (w : LaneWord)
  | xor (c : CoachRef) (w : LaneWord)
  | not (c : CoachRef) (w : LaneWord)
  | shl (c : CoachRef) (w : LaneWord)
  | shr (c : CoachRef) (w : LaneWord)
  | sar (c : CoachRef) (w : LaneWord)
  | minS (c : CoachRef) (w : LaneWord)
  | minU (c : CoachRef) (w : LaneWord)
  | maxS (c : CoachRef) (w : LaneWord)
  | maxU (c : CoachRef) (w : LaneWord)
  | popc (c : CoachRef) (w : LaneWord)
  | clz (c : CoachRef) (w : LaneWord)
  | bfe (c : CoachRef) (w : LaneWord)
  | bfi (c : CoachRef) (w : LaneWord)
  | sel (c : CoachRef) (w : LaneWord)
  | mov (c : CoachRef) (w : LaneWord)
  | movh (c : CoachRef) (w : LaneWord)
  | cmp (c : CoachRef) (w : LaneWord)
  | pop (c : CoachRef) (w : LaneWord)
  | addX64 (c : CoachRef) (w : LaneWord)
  | subX64 (c : CoachRef) (w : LaneWord)
  | mulWideS (c : CoachRef) (w : LaneWord)
  | mulWideU (c : CoachRef) (w : LaneWord)
  | cxGet (c : CoachRef) (w : LaneWord)
  | cqAny (c : CoachRef) (w : LaneWord)
  | cqAll (c : CoachRef) (w : LaneWord)
  | cqMask (c : CoachRef) (w : LaneWord)
  | movSr (c : CoachRef) (w : LaneWord)
  | prPack (c : CoachRef) (w : LaneWord)
  | prUnpack (c : CoachRef) (w : LaneWord)
  | cqCnt (c : CoachRef) (w : LaneWord)
  -- class 0x02
  | fadd (c : CoachRef) (w : LaneWord)
  | fsub (c : CoachRef) (w : LaneWord)
  | fmul (c : CoachRef) (w : LaneWord)
  | ffma (c : CoachRef) (w : LaneWord)
  | fdiv (c : CoachRef) (w : LaneWord)
  | fsqrt (c : CoachRef) (w : LaneWord)
  | fmin (c : CoachRef) (w : LaneWord)
  | fmax (c : CoachRef) (w : LaneWord)
  | fminNum (c : CoachRef) (w : LaneWord)
  | fmaxNum (c : CoachRef) (w : LaneWord)
  | fabs (c : CoachRef) (w : LaneWord)
  | fneg (c : CoachRef) (w : LaneWord)
  | fex2 (c : CoachRef) (w : LaneWord)
  | flg2 (c : CoachRef) (w : LaneWord)
  | fcmp (c : CoachRef) (w : LaneWord)
  -- class 0x03
  | cvtF32S32 (c : CoachRef) (w : LaneWord)
  | cvtF32U32 (c : CoachRef) (w : LaneWord)
  | cvtS32F32 (c : CoachRef) (w : LaneWord)
  | cvtU32F32 (c : CoachRef) (w : LaneWord)
  | cvtBf16F32 (c : CoachRef) (w : LaneWord)
  | cvtF16F32 (c : CoachRef) (w : LaneWord)
  | cvtE4m3F32 (c : CoachRef) (w : LaneWord)
  | cvtE5m2F32 (c : CoachRef) (w : LaneWord)
  | cvtF32Bf16 (c : CoachRef) (w : LaneWord)
  | cvtF32F16 (c : CoachRef) (w : LaneWord)
  | cvtF32E4m3 (c : CoachRef) (w : LaneWord)
  | cvtF32E5m2 (c : CoachRef) (w : LaneWord)
  | cvtQ64F32 (c : CoachRef) (w : LaneWord)
  | cvtF32Q64 (c : CoachRef) (w : LaneWord)
  -- class 0x04
  | llLd (c : CoachRef) (w : LaneWord)
  | llSt (c : CoachRef) (w : LaneWord)
  | spLd (c : CoachRef) (w : LaneWord)
  | spSt (c : CoachRef) (w : LaneWord)
  | pmLd (c : CoachRef) (w : LaneWord)
  | pmSt (c : CoachRef) (w : LaneWord)
  | pmAddU32 (c : CoachRef) (w : LaneWord)
  | pmAddS64 (c : CoachRef) (w : LaneWord)
  | pmCasB64 (c : CoachRef) (w : LaneWord)
  | pinnedAccessReturn (c : CoachRef)
  -- class 0x05
  | cpU (c : CoachRef) (w : LaneWord)
  | cpT (c : CoachRef) (w : LaneWord)
  | copyComplete (id : Nat)
  -- class 0x06
  | barSync (c : CoachRef) (w : LaneWord)
  | acWait (c : CoachRef) (w : LaneWord)
  | acAdd (c : CoachRef) (w : LaneWord)
  | acMode (c : CoachRef) (w : LaneWord)
  | fencePm (c : CoachRef) (w : LaneWord)
  | fenceSp (c : CoachRef) (w : LaneWord)
  | epochAdv (c : CoachRef) (w : LaneWord)
  | hcGet (c : CoachRef) (w : LaneWord)
  | hcPut (c : CoachRef) (w : LaneWord)
  | hcTake (c : CoachRef) (w : LaneWord)
  | hcRet (c : CoachRef) (w : LaneWord)
  -- class 0x07
  | nop (c : CoachRef) (w : LaneWord)
  | br (c : CoachRef) (w : LaneWord)
  | call (c : CoachRef) (w : LaneWord)
  | ret (c : CoachRef) (w : LaneWord)
  | jmpR (c : CoachRef) (w : LaneWord)
  | exit (c : CoachRef) (w : LaneWord)
  -- class 0x08 and what its orders do
  | gathQ (c : CoachRef) (w : LaneWord)
  | gathBk (c : CoachRef) (w : LaneWord)
  | gathOvf (c : CoachRef) (w : LaneWord)
  | saddOpen (c : CoachRef) (w : LaneWord)
  | saddX64 (c : CoachRef) (w : LaneWord)
  | saddQ64 (c : CoachRef) (w : LaneWord)
  | saddSeal (c : CoachRef) (w : LaneWord)
  | sealTakesEffect (ten table : Nat) (send : Bool)
  | saddClose (c : CoachRef) (w : LaneWord)
  | arenaAddComplete (n : Nat)
  | stRun (c : CoachRef) (w : LaneWord)
  | streamTransferLands (mover queue n : Nat)
  | plBag (c : CoachRef) (w : LaneWord)
  | poolingPass (cluster : Nat)
  | gatherRowLands (engine queue pos : Nat)
  | scanLd (c : CoachRef) (w : LaneWord)
  | scanB1 (c : CoachRef) (w : LaneWord)
  | tkRd (c : CoachRef) (w : LaneWord)
  | tkMerge (c : CoachRef) (w : LaneWord)
  | tkClr (c : CoachRef) (w : LaneWord)
  | iaMma (c : CoachRef) (w : LaneWord)
  | iaSt (c : CoachRef) (w : LaneWord)
  | iaLd (c : CoachRef) (w : LaneWord)
  | iaZero (c : CoachRef) (w : LaneWord)
  | epCvt (c : CoachRef) (w : LaneWord)
  -- `hitch` is 256 + the order's number where the cart is a code cart of a scan
  | chainLinkCopy (ten hitch cart : Nat)
  -- class 0x09
  | lnPut (c : CoachRef) (w : LaneWord)
  | lnTake (c : CoachRef) (w : LaneWord)
  | lnOvf (c : CoachRef) (w : LaneWord)
  -- class 0x0A
  | foldSgd (c : CoachRef) (w : LaneWord)
  | foldAdagrad (c : CoachRef) (w : LaneWord)
  | foldAdam (c : CoachRef) (w : LaneWord)
  | foldGet (c : CoachRef) (w : LaneWord)
  -- queues, the memory port and translation
  | orderAccept (c : CoachRef)
  | orderComplete (id : Nat)
  | bulkPromotion (id t : Nat)
  | memoryResponse (link tag : Nat) (umask pmask : BitVec 8) (sat : Bool) (ce mis : Nat)
  | rowCacheFill (slice n : Nat)
  | rcwayClearDone (ten : Nat)
  | walkComplete (n : Nat)
  | pin (ten k : Nat) (base : BitVec 27) (size : W16) (hm : HostMem)
  | unpin (ten k : Nat)
  | pinWalkDone (ten k : Nat)
  | faultRetry (ten : Nat) (fid : W16) (hm : HostMem)
  | faultAbort (ten : Nat) (fid : W16)
  | faultTimeout (ten : Nat) (fid : W16) (t : Nat)
  | invalidationRange (asid : W16) (va : BitVec 44) (pages : W32)
  | invalidationSpace (asid : W16)
  | invalidationAll
  | invalidationAck (t : Nat)
  -- windows
  | winCommitSend (entry : BitVec 8) (hm : HostMem)
  | winCommitRecv (entry : BitVec 8) (hm : HostMem)
  | podexpCommit (entry : BitVec 8) (hm : HostMem)
  | windowReleased (entry : Nat)
  | read (port : Nat)
  | write (port : Nat)
  | add64 (port : Nat)
  | add32 (port : Nat)
  | cas64 (port : Nat)
  | resp (port : Nat)
  | windowTimeout (rtag : W32) (t : Nat)
  | tensorCoreAccess (ten slot cluster : Nat) (op : TensorOp)
  -- the line
  | carriageDeparture (port t : Nat)
  | dataCarriage (port : Nat) (c : Carriage)
  | vacantCarriage (port : Nat) (c : Carriage)
  | rollCarriage (port : Nat) (c : Carriage)
  | auditCarriage (port : Nat) (c : Carriage)
  | freeCarriage (port : Nat) (c : Carriage)
  | carriageTimeout (port n t : Nat)
  | armControl (port : Nat) (c : Carriage)
  | ack (port : Nat) (c : Carriage)
  | nak (port : Nat) (c : Carriage)
  | confirm (port : Nat) (c : Carriage)
  | disarm (port : Nat) (c : Carriage)
  | link (port : Nat) (c : Carriage)
  | departure (ten t : Nat)
  | rollCallCheck (ten t : Nat)
  | stopCarriage (ten t : Nat)
  | brakeIdle (ten t : Nat)
  | lineTrain (port : Nat)
  | trainingComplete (port : Nat) (r : TrainResult)
  | trainingSignalTimeout (port t : Nat)
  | lineDown (port : Nat)
  | lineRetire (port : Nat) (lanes : BitVec 17)
  | lineFence (fence : W16)
  | routeWrite (index : BitVec 9) (mask : W16)
  | rotationStep (port t : Nat)
  | rotationSwitch (port t : Nat)
  | calibrationVisit (port : Nat) (v : Verdict)
  | retirementStep (port t : Nat)
  | laneLost (port lane : Nat)
  | spareJump (port t : Nat)
  | injectorArm (port : Nat) (v : W64)
  | hallCounterSlip
  -- power
  | governorEvaluation (t : Nat)
  | rateReport (t mhz : Nat)
  | powerTelemetry (p : W16)
  | powerReportStale (t : Nat)
  | vidAck
  | thermalReport (stack : Nat) (temp : BitVec 9)
  -- tenancies
  | openTenancy (ten : Nat)
  | runTenancy (ten : Nat)
  | ledEpochAdv (ten : Nat)
  | epochDeferredAdvance (ten : Nat)
  | holderSwitch (ten : Nat)
  | holdTimeout (ten t : Nat)
  | swapHint (ten t : Nat)
  | quiesce (kind : BitVec 3) (index : BitVec 8) (lane : BitVec 5) (force : Bool)
  | quiesceEnable (kind : BitVec 3) (index : BitVec 8) (lane : BitVec 5)
  | functionDisabled
  | tenancyClear (ten : Nat)
  | containBlock
  | haltTenancy (ten : Nat)
  | holdoffEnd (t : Nat)
  -- bring-up and firmware
  | powerGood
  | supplyLoss
  | reset
  | ctlReset
  | ctlDrain
  | go (v : Verdicts) (grant : W32) (ways : W64) (hm : HostMem)
  | selfTestDone (pass : BitVec 8) (shared : Bool)
  | selftestRun (cluster : BitVec 3)
  | update (kind : BitVec 2) (utmo : W32) (sig : Bool) (hm : HostMem)
  | fwImageReady
  | fwSwitch
  | fwUpdateTimeout (t : Nat)
  | fwWatchdog (image : Nat)
  | memMargin (v : W64)
  | registerWrite (addr : BitVec 17) (be : BitVec 8) (data : W64)
  | discardedCarriage (port carno fec : Nat)
  | unparkDone (ten slot : Nat)
  | tableLoadDone (ten : Nat)
  | timetableLoadDone (ten : Nat)
  | clusterTestDone (pass : Bool)
  | resetRelease (testEn : Bool)
  | tapInstruction (op : TapOp)
  | wrapperInstruction (op : WrapOp)
deriving DecidableEq, Repr

end Sys2Proof
end

