-- ==== Sys2Proof/Decode.lean ====
section
/-! DEFINITION. Words. The opcode table gives no row any bits, so no word spells a command (`decodeTableWord`). The layouts the
spec does give to what commands carry are here: the instruction word (R297, R298), whose CLASS and OP the row itself is, and
the command entry (R352). -/

namespace Sys2Proof

/-- The command a table word spells: the table gives no row bits, so none. -/
def decodeTableWord (_nbits _w : Nat) : Option Instr := none

/-- R297: the 64-bit instruction word of a class, an operation and the remaining fields. -/
def LaneWord.toWord (cls : BitVec 6) (op : BitVec 7) (w : LaneWord) : W64 :=
  cls ++ op ++ BitVec.ofBool w.g ++ BitVec.ofBool w.gn ++ w.gp ++ BitVec.ofBool w.i ++ BitVec.ofBool w.ua ++ w.d ++ w.a ++ w.lo

/-- R297: CLASS [63:58]. -/
def wordClass (x : W64) : BitVec 6 := x.extractLsb' 58 6
/-- R297: OP [57:51]. -/
def wordOp (x : W64) : BitVec 7 := x.extractLsb' 51 7

/-- R297, R298: the fields below OP. -/
def LaneWord.ofWord (x : W64) : LaneWord :=
  { g := x.getLsbD 50, gn := x.getLsbD 49, gp := x.extractLsb' 46 3, i := x.getLsbD 45, ua := x.getLsbD 44,
    d := x.extractLsb' 38 6, a := x.extractLsb' 32 6, lo := x.extractLsb' 0 32 }

/-- R352: the 32 bytes of a command entry as one number, OPCODE in bits [7:0]. -/
def CmdEntry.toBits (opcode : BitVec 8) (e : CmdEntry) : BitVec 256 :=
  e.arg1 ++ e.arg0 ++ e.result ++ e.usertag ++ e.flags ++ opcode

/-- R352: OPCODE of an entry. -/
def entryOpcode (x : BitVec 256) : BitVec 8 := x.extractLsb' 0 8

/-- R352: the fields of an entry. -/
def CmdEntry.ofBits (x : BitVec 256) : CmdEntry :=
  { flags := x.extractLsb' 8 24, usertag := x.extractLsb' 32 32, result := x.extractLsb' 64 64, arg0 := x.extractLsb' 128 64,
    arg1 := x.extractLsb' 192 64 }

end Sys2Proof
end

