-- ==== Sys2Proof/Machine/State.lean ====
section
/-! DEFINITION. The state of the block: every register, buffer, queue, counter, mode and pin the spec names, as plain
data, and the queue of commands that wait. Names follow the spec; each type's docstring names the rules it rests on. -/

namespace Sys2Proof.Machine

/-- Why the block stops with a fault. -/
inductive Fault where
  /-- Raised by `withHost` for a byte the host has written past the 64 TiB of the own package's pool (R277): the spec
  gives no such address. Safe: the model stops where no hardware access exists. -/
  | noSuchAddress (pa : Nat)
deriving DecidableEq, Repr

/-- Why a command is turned away with no effect. -/
inductive Refusal where
  /-- A row whose meaning is not written. Safe. -/
  | notModelled (mnemonic : String)
  /-- The event of the row cannot take place in this state: the spec's own condition for it does not hold (nothing is
  in flight, no such coach, the tick is past, the entry names another row). Raised by every row's guard. Safe: the
  hardware takes no such step. -/
  | notEnabled (why : String)
deriving DecidableEq, Repr

/-- R448. -/
inductive BlockSt where
  | off | safe | loaded | ready | serving | draining | contained
deriving DecidableEq, Repr, Inhabited

/-- R406. -/
inductive TenSt where
  | free | loading | running | quiescing | halted
deriving DecidableEq, Repr, Inhabited

/-- R240, *Port states*. -/
inductive PortSt where
  | down | training | idle | armed | running | braking
deriving DecidableEq, Repr, Inhabited

/-- R409, `TEN_CTXn_STATE`: an occupied slot is resident, or being parked, or being unparked. -/
inductive SlotSt where
  | empty | resident | parking | unparking
deriving DecidableEq, Repr, Inhabited

/-- R229. -/
inductive CartSt where
  | free | filling | queued | held | chain
deriving DecidableEq, Repr, Inhabited

/-- R128. -/
inductive BankSt where
  | clear | opened | sealed
deriving DecidableEq, Repr, Inhabited

/-- R210: the spaces of a stream or copy. -/
inductive Space where
  | memory | scratch | laneLocal | hitch
deriving DecidableEq, Repr, Inhabited

/-- The units that hold order queues (R328, R331). -/
inductive UnitRef where
  | gather (e : Nat)
  | mover (m : Nat)
  | arena (c : Nat)
  | pool (c : Nat)
  | scan (c : Nat)
  | topk (c : Nat)
  | ia (c : Nat)
deriving DecidableEq, Repr, Inhabited

/-- R369: kinds of access to memory. -/
inductive Access where
  | read | write | atomic | fetch
deriving DecidableEq, Repr, Inhabited

/-- A command the front end has taken and not yet completed: its ring, ring index, tenancy, context, opcode
and entry (R352, R353). -/
structure CmdRef where
  ring : Nat
  idx : W32
  ten : Nat
  ctx : Nat
  opcode : Nat
  entry : CmdEntry
deriving DecidableEq, Repr, Inhabited

/-- R82: a table descriptor as the block holds it. -/
structure TableDesc where
  format : Nat := 0
  width : Nat := 0
  exp : Int := 0
  train : Bool := false
  nocache : Bool := false
  dir : Bool := false
  base : Nat := 0
  rows : Nat := 0
  slots : Nat := 0
  dirptr : Nat := 0
  ownfn : Nat := 0
  nown : Nat := 0
  obase : Nat := 0
  wbase : Nat := 0
  exclog : Nat := 0
  ownparm : Nat := 0
  aways : Nat := 0
  acap : Nat := 0
deriving DecidableEq, Repr, Inhabited

/-- R126–R129, R511: an arena bank: its address, its header's fields, the block's own CLOSED term, which slots are done
(folded or passed out), which SEND slots have been sent, the seal accepted and not yet in effect (R143), and whether a line put of its
rows has been accepted since it was opened (R135). -/
structure Bank where
  addr : Nat := 0
  st : BankSt := .clear
  step : W32 := 0
  nslot : Nat := 0
  conv : W32 := 0
  comb : W32 := 0
  added : W32 := 0
  nan : W32 := 0
  recvrow : W32 := 0
  under : W32 := 0
  sat : W32 := 0
  folded : W32 := 0
  held : W32 := 0
  closed : W32 := 0
  unapplied : W32 := 0
  done : List Nat := []
  sent : List Nat := []
  sealing : Option Nat := none
  put : Bool := false
deriving DecidableEq, Repr, Inhabited

/-- R80, R125, R393: a table the tenancy holds. -/
structure Table where
  num : Nat
  desc : TableDesc
  recv : Bank := {}
  send : Bank := {}
  ways : W64 := 0
deriving DecidableEq, Repr, Inhabited

/-- Who holds a cart in FILLING or HELD (R233, R236): an order of a task, a coach, a port. -/
inductive CartHolder where
  | none
  | order (id task : Nat) (unit : UnitRef)
  | coach (c : CoachRef)
  | port (p : Nat)
deriving DecidableEq, Repr, Inhabited

/-- R94, R346: the SEND rows a cart carries: their table, first slot and number, and the context and task of their `ln.put`. -/
structure SentRows where
  table : Nat
  first : Nat
  count : Nat
  ctx : Nat
  task : Nat
deriving DecidableEq, Repr, Inhabited

/-- R229, R230, R234, R346: one cart of a pool; `clu` is the cluster a CHAIN cart stands at; `rows` is the SEND rows it
carries. -/
structure Cart where
  st : CartSt := .free
  len : Nat := 0
  tag : W32 := 0
  holder : CartHolder := .none
  clu : Nat := 0
  rows : Option SentRows := none
deriving DecidableEq, Repr, Inhabited

/-- R226–R232: a built hitch; `queue` is its QUEUED carts, oldest first; `dismantle` the commands that wait for it. -/
structure Hitch where
  num : Nat
  ctx : Nat
  prod : Nat
  cons : Nat
  cluster : Nat
  base : Nat
  size : Nat
  carts : List Cart
  queue : List Nat := []
  produced : W32 := 0
  consumed : W32 := 0
  dismantle : List CmdRef := []
  users : List Nat := []
deriving DecidableEq, Repr, Inhabited

/-- R416–R419: a PARK or UNPARK in execution; `restore`: the TICK of the save that an UNPARK brings back. -/
structure Move where
  cmd : CmdRef
  area : Nat
  start : Nat
  restore : Option Nat := none
deriving DecidableEq, Repr, Inhabited

/-- R65, R408–R411, R498: a resident slot: its share registers, its context, its shared counters (16 × cluster + n), and
when it became RESIDENT-BLOCKED (R421). -/
structure Slot where
  lane : W32 := 0
  sp : W32 := 0
  xwin : W32 := 0
  ctx : Nat := 0
  st : SlotSt := .empty
  xc : SMap W32 := []
  blockedSince : Option Nat := none
  move : Option Move := none
  tcOpen : Bool := false
deriving DecidableEq, Repr, Inhabited

/-- R55, R497: a pinned range and its status. -/
structure Pin where
  en : Bool := false
  base : BitVec 27 := 0
  size : W16 := 0
  st : BitVec 2 := 0
  w : Bool := false
  limit : Bool := false
  fault : BitVec 8 := 0
  faddr : BitVec 27 := 0
deriving DecidableEq, Repr, Inhabited

/-- R371, *Translation faults*: what an access serves. -/
inductive Serving where
  | task (id : Nat)
  | checkpoint
  | window
  | pinWalk
deriving DecidableEq, Repr, Inhabited

/-- R365, R371: one that waits for a walk or for a fault's answer: the unit, what its access serves, its device address and kind. -/
structure Party where
  unit : UnitRef
  serv : Serving
  va : Nat := 0
  kind : Access := .read
deriving DecidableEq, Repr, Inhabited

/-- R371, R372: a pending fault: its id, its record's SEQ, code, 2 MiB region, the parties stalled on it, and when its record was
written. -/
structure PendFault where
  fid : W16
  seq : W32
  code : BitVec 8
  va : Nat
  units : List Party
  serving : Serving
  tick : Nat
deriving DecidableEq, Repr, Inhabited

/-- R291–R293: a checkpoint region and a checkpoint. -/
structure CkRegion where
  src : Nat
  len : Nat
  dst : Nat
deriving DecidableEq, Repr, Inhabited

/-- R291: a part of a checkpoint region within one leaf: its source, length and destination, where its source lies once it has been
translated, and its bytes as they stood at the tick taken. -/
structure CkPiece where
  src : Nat
  len : Nat
  dst : Nat
  pa : Option Nat := none
  bytes : List Byte := []
deriving DecidableEq, Repr, Inhabited

/-- R291, R293: a checkpoint; `image` is its regions' pieces that are not yet written; `writing`: the image is written but for the
windows' responses. -/
structure Checkpoint where
  cmd : CmdRef
  taken : Nat
  image : List CkPiece
  writing : Bool := false
deriving DecidableEq, Repr, Inhabited

/-- R259: a roll record as it travels and as the block holds it. -/
structure RollRec where
  rank : Nat
  stamp : W64
  ident : W32
deriving DecidableEq, Repr, Inhabited

/-- R253, R254: a cart being sent from, or filled by, the line: the hitch, the cart and the bytes done. -/
structure LineCart where
  hitch : Nat
  cart : Nat
  off : Nat
deriving DecidableEq, Repr, Inhabited

/-- R242, `TT_INFO`: states of a held timetable. -/
inductive TtSt where
  | loaded | armed | running | braking
deriving DecidableEq, Repr, Inhabited

/-- R249–R264: a held timetable and its membership's start, roll call and brake. `roll` and `cyc` list, per port of
PORTS, its entries; `sending` and `filling` are the carts under way, by hitch, and `ended` the take hitches whose last cart
has ended. -/
structure Timetable where
  stamp : W64
  rank : Nat
  fsize : Nat
  ports : W16
  cycle : Nat
  parent : Nat
  root : Bool
  children : W16
  roll : List (Nat × List W64)
  cyc : List (Nat × List W64)
  st : TtSt := .loaded
  confirmed : Bool := false
  acks : List Nat := []
  ackCount : Nat := 0
  nak : Option (Nat × Nat) := none
  armCmd : Option CmdRef := none
  brakeCmds : List CmdRef := []
  records : List RollRec := []
  rolled : Bool := false
  sending : List LineCart := []
  filling : List LineCart := []
  ended : List Nat := []
deriving DecidableEq, Repr, Inhabited

/-- R156–R158: a tracked epoch and its outstanding tickets. -/
structure EpochTrack where
  epoch : W32
  outstanding : Nat
deriving DecidableEq, Repr, Inhabited

/-- R430: the aborted-work ledger. -/
structure AbortLedger where
  tasks : W32 := 0
  pos : W32 := 0
  xfer : W32 := 0
  cartRet : W32 := 0
  cartPurge : W32 := 0
  contrib : W32 := 0
  late : W32 := 0
  tcDisc : W32 := 0
  loss : W32 := 0
deriving DecidableEq, Repr, Inhabited

/-- R39: a tenancy's ledger counters as the current tick began. -/
structure TenLed where
  gtokIss : W32 := 0
  gtokRet : W32 := 0
  mtokIss : W32 := 0
  mtokRet : W32 := 0
  tickTaken : W32 := 0
  tickRet : W32 := 0
  ab : AbortLedger := {}
deriving DecidableEq, Repr, Inhabited

/-- R405–R415 and the tenancy's registers (R382, R384, R392, R493–R498, R505); `chainQ` is the carts of the coupling chain in the order in
which they were queued (R235): hitch and cart, or 256 + order and code cart. -/
structure Tenancy where
  st : TenSt := .free
  clusters : BitVec 8 := 0
  mode : BitVec 2 := 0
  testPriv : Bool := false
  jobTag : W32 := 0
  chgrp : W32 := 0
  scway : W64 := 0
  scwayRsv : W64 := 0
  rcway : W16 := 0
  rcwayNew : Option W16 := none
  allotHitches : BitVec 9 := 0
  allotCarts : BitVec 15 := 0
  glimit : W64 := 0x03FF03FF03FF03FF
  mlimit : W32 := 0xFFFFFFFF
  nanPolicy : BitVec 5 := 0
  statusBase : BitVec 42 := 0
  arenaBase : BitVec 36 := 0
  arenaSize : BitVec 36 := 0
  xltEn : Bool := false
  xltRoot : W32 := 0
  apbase : BitVec 26 := 0
  asid : W16 := 0
  faultTmo : W32 := 0x01000000
  winTmo : W32 := 0x00020000
  invTaken : W32 := 0
  invDone : W32 := 0
  invCmd : Option CmdRef := none
  evrun : BitVec 8 := 0
  hold : BitVec 24 := 0x003E80
  ptmo : W32 := 0x0001E848
  slots : List Slot := List.replicate 4 {}
  holder : Option Nat := none
  holdSince : Nat := 0
  holdLost : Bool := false
  unitsUsed : List Nat := []
  pins : List Pin := List.replicate 32 {}
  tables : List Table := []
  loading : Option (CmdRef × Table × Bool) := none
  ttLoading : Option (CmdRef × Timetable) := none
  hitches : List Hitch := []
  epoch : W32 := 0
  epochPend : Bool := false
  epochWait : Option CoachRef := none
  tracks : List EpochTrack := []
  gtokIss : W32 := 0
  gtokRet : W32 := 0
  mtokIss : W32 := 0
  mtokRet : W32 := 0
  tickTaken : W32 := 0
  tickRet : W32 := 0
  ab : AbortLedger := {}
  led0 : TenLed := {}
  faults : List PendFault := []
  nextFid : W16 := 0
  ckpt : Option Checkpoint := none
  ckWait : List (CmdRef × List CkRegion) := []
  tt : Option Timetable := none
  td : W64 := 0
  brkt : W64 := 0
  hinted : Bool := false
  usedPorts : W16 := 0
  err : BitVec 6 := 0
  chainQ : List (Nat × Nat) := []
deriving DecidableEq, Repr, Inhabited

/-- R76, R224, R354: what keeps a ring from its next command. -/
inductive Hold where
  | none
  | fence (cmd : CmdRef) (tasks : List Nat)
  | command (cmd : CmdRef)
deriving DecidableEq, Repr, Inhabited

/-- R351, R499: a command ring. `tail` is the tail word as the front end last read it where it cannot be read now. -/
structure Ring where
  en : Bool := false
  log2n : BitVec 5 := 4
  base : BitVec 36 := 0
  ten : BitVec 3 := 0
  ctx : BitVec 8 := 0
  tailAddr : BitVec 45 := 0
  head : W32 := 0
  tail : W32 := 0
  stopped : Bool := false
  reason : BitVec 8 := 0
  hold : Hold := .none
deriving DecidableEq, Repr, Inhabited

/-- R224: an OVERLAP fence: the earlier tasks it still waits for. -/
structure Overlap where
  cmd : CmdRef
  tasks : List Nat
deriving DecidableEq, Repr, Inhabited

/-- R236: bytes that a stream has been sent to write: of its context's share of a cluster's scratchpad, or of the own pool. -/
structure Dest where
  clu : Option Nat
  addr : Nat
  len : Nat
deriving DecidableEq, Repr, Inhabited

/-- R46, R355: a task: its dispatch and what of it is unplaced. `held` is the earlier tasks that hold its orders (R224). -/
structure Task where
  id : Nat
  ten : Nat
  ctx : Nat
  cmd : CmdRef
  cmask : BitVec 8
  k : Nat
  nreg : Nat
  llm : Nat
  nthread : Nat
  spext : Nat
  swlim : Nat
  seed : W64
  entry : Nat
  args : Nat
  binds : List (Nat × Nat)
  rank : Nat
  fsize : Nat
  next : Nat := 0
  held : List Nat := []
  dests : List Dest := []
deriving DecidableEq, Repr, Inhabited

/-- R308: entries of the reconvergence stack. -/
inductive StackEntry where
  | path (pc : Nat) (mask : W32)
  | join (pc : Nat) (mask : W32)
deriving DecidableEq, Repr, Inhabited

/-- R309: what a path waits for. -/
inductive Wait where
  | none
  | barrier (b : Nat)
  | counter (ac : Nat) (targets : List (Nat × W32)) (since : Nat)
  | hitchGet (h : Nat) (d : Nat)
  | hitchTake (h : Nat) (d : Nat)
deriving DecidableEq, Repr, Inhabited

/-- R309: a path set aside: its threads, where it waits, what for, and the JOIN depth of its divergence. One that waits within
divergences of its own takes their entries with it: `inner`, and the paths set aside in them are `under` its number `id`. -/
structure Aside where
  mask : W32
  pc : Nat
  wait : Wait
  depth : Nat
  inner : List StackEntry := []
  id : Nat := 0
  under : List Nat := []
deriving DecidableEq, Repr, Inhabited

/-- R318: one thread's part of a pinned access: its physical address and its B and C operands. -/
structure PinnedReq where
  thread : Nat
  pa : Nat
  b : W64
  c : W64
deriving DecidableEq, Repr, Inhabited

/-- R317, R318: a pinned load or atomic in progress: its OP of class 0x04, SUB, destination, the threads' requests, and the
bytes that have come back. -/
structure PinnedAccess where
  op : Nat
  sub : Nat
  ud : Bool
  d : Nat
  reqs : List PinnedReq
  got : List (Nat × List Byte) := []
deriving DecidableEq, Repr, Inhabited

/-- R326: an order word read at issue: its OP, CLASS, registers' values and XMOD fields. -/
structure OrderWord where
  cls : Nat
  op : Nat
  a : W64
  b : W32
  c : W32
  amount : W32
  ac : Nat
  dspace : Nat
  queue : Nat
  unit : Nat
  sub : Nat
  acting : W32
deriving DecidableEq, Repr, Inhabited

/-- R301–R311: a coach. `g` is keyed 64 × thread + register, `p` by predicate (bit j is thread j), `latch` by thread. -/
structure Coach where
  pc : Nat
  x : W32 := 0
  m : W32 := 0xFFFFFFFF
  stack : List StackEntry := []
  calls : List (Nat × Nat) := []
  aside : List Aside := []
  wait : Wait := .none
  access : Option PinnedAccess := none
  order : Option OrderWord := none
  epochWait : Option (Bool × Nat × W32) := none
  g : SMap W32 := []
  u : SMap W32 := []
  p : SMap W32 := []
  latch : SMap W32 := []
  stopped : Bool := false
deriving DecidableEq, Repr, Inhabited

/-- R48, R59, R70: a placed cohort. `arrived` is keyed 4 × coach + barrier; `acCarts` bit n set: acN is in carts mode. -/
structure Cohort where
  task : Nat
  num : Nat
  cluster : Nat
  lane : Nat
  coaches : List Coach
  llm : List Host.Cell := []
  ac : SMap W32 := []
  acCarts : W16 := 0
  arrived : SMap W32 := []
deriving DecidableEq, Repr, Inhabited

/-- An address in one of the spaces (R210). -/
structure Place where
  space : Space
  clu : Nat
  addr : Nat
deriving DecidableEq, Repr, Inhabited

/-- Whom a memory request serves (R397). -/
inductive MemClient where
  | pinned (c : CoachRef) (thread : Nat)
  | gather (order pos : Nat)
  | miss (slice n : Nat)
  | xfer (order n : Nat)
  | copy (id : Nat)
  | margin
  | add (order slot elem : Nat)
  | request (rtag : W32)
deriving DecidableEq, Repr, Inhabited

/-- R98, R111, R219: the memory bytes a read waits for: its pieces in order (physical address, length), the line pieces not
yet requested, the miss registers it waits for with the line piece each brings, and the bytes that have come back by
physical address (a row-cache hit or fill, a window or pod response); `va` is the device address of the first piece; `lat`:
its requests are latency-critical (R101, R221); `merged`: a part of it comes with another read (R99, R218), and `shares`: whose
requests bring it. -/
structure Fetch where
  va : Option Nat := none
  pieces : List (Nat × Nat) := []
  todo : List (Nat × Nat) := []
  misses : List ((Nat × Nat) × (Nat × Nat)) := []
  lat : Bool := false
  got : List (Nat × List Byte) := []
  shares : List MemClient := []
  merged : Bool := false
deriving DecidableEq, Repr, Inhabited

/-- R212, R219: a transfer or fill issued and not landed: its places, what it fetches where its source is memory, the
physical pieces of its destination where that is memory; `writing`: its source is whole and its window writes wait for
their responses; `group`: no merge joins transfers of different groups (R218); `free`: it is merged with another that holds the token of
both (R219). -/
structure Xfer where
  n : Nat
  src : Option Place
  dst : Place
  fill : Byte
  len : Nat
  ready : Nat
  fetch : Fetch := {}
  dsts : List (Nat × Nat) := []
  writing : Bool := false
  group : Nat := 0
  free : Bool := false
deriving DecidableEq, Repr, Inhabited

/-- R209, R319, R320: an asynchronous copy; `amount` is its contribution, `xfer` its one transfer once issued; `after`: the orders
of a lower number stand before it in MQ0; `since`: since when it has waited for a token (R221). -/
structure Copy where
  id : Nat
  ten : Nat
  ctx : Nat
  task : Nat
  cohort : Nat
  cluster : Nat
  mover : Nat
  src : Place
  dst : Place
  len : Nat
  ac : Nat
  amount : W32
  after : Nat := 0
  since : Option Nat := none
  promoted : Bool := false
  xfer : Option Xfer := none
deriving DecidableEq, Repr, Inhabited

/-- R98, R99, R108: one gather read in flight: its position, row id and owner; its address; what it fetches, `dir` while
that is the row's directory entry read through a window; `master`: the position whose read serves it too; `ready`: the tick of its
issue. -/
structure GRead where
  pos : Nat
  row : Nat
  own : Nat
  va : Nat
  fetch : Fetch := {}
  dir : Bool := false
  master : Option Nat := none
  ready : Nat := 0
deriving DecidableEq, Repr, Inhabited

/-- R332; `inForm`: its tenancy was in a formation at acceptance (R509); `since`: since when its next read has waited for a token,
and `hot`: that read is latency-critical from then on (R221). -/
structure GathQ where
  table : Nat
  desc : TableDesc
  prio : Bool
  req : Bool
  lmap : Nat
  mclr : Bool
  count : Nat
  list : W64
  land : Nat
  firstpos : Nat
  inForm : Bool := false
  next : Nat := 0
  done : Nat := 0
  flight : List GRead := []
  since : Option Nat := none
  hot : Bool := false
deriving DecidableEq, Repr, Inhabited

/-- R333. -/
structure Bucket where
  table : Nat
  desc : TableDesc
  bmax : Nat
  count : Nat
  list : W64
  cntOut : W64
  batchOut : W64
  ovfOut : W64
  invOut : W64
  novfOut : W64
deriving DecidableEq, Repr, Inhabited

/-- R338. -/
structure OpenEntry where
  list : W64
  map : W64
  count : Nat
  inbox : Bool
deriving DecidableEq, Repr, Inhabited

/-- R336: the bank an arena order names. -/
structure BankRef where
  table : Nat
  send : Bool
  step : W32
deriving DecidableEq, Repr, Inhabited

/-- R210: a stream descriptor as the mover reads it. -/
structure StreamDesc where
  sspace : Space
  scl : Nat
  dspace : Space
  dcl : Nat
  shitch : Nat
  dhitch : Nat
  prio : Bool
  pro : Bool
  deadline : Nat
  drain : Nat
  cnt : Nat
  fcnt : Nat
  fwait : Bool
  fbase : W32
  fstep : W32
  params : List W64
  words : List W32
  addr : Nat
deriving DecidableEq, Repr, Inhabited

/-- R212: a cursor of a stream. -/
structure Cursor where
  base : Int := 0
  gofs : Int := 0
  st : List Int := [0, 0, 0, 0]
  miss : Bool := false
deriving DecidableEq, Repr, Inhabited

/-- R212–R216, R223: where a stream stands. `loops` is innermost first: index, count, first word; `group` counts what no merge spans
(R218); `since`: since when its next transfer has waited for a token, and `hot`: it is latency-critical from then on (R221). -/
structure StreamRun where
  pc : Nat := 0
  loops : List (Nat × Nat × Nat) := []
  src : Cursor := {}
  dst : Cursor := {}
  srcCart : Option (Nat × Int) := none
  dstCart : Option (Nat × Int) := none
  dstHigh : Nat := 0
  nfence : Nat := 0
  fencing : Bool := false
  after : Option (Bool × Bool) := none
  nissued : Nat := 0
  flight : List Xfer := []
  bytes : Nat := 0
  carts : Nat := 0
  landed : Nat := 0
  ended : Bool := false
  group : Nat := 0
  since : Option Nat := none
  hot : Bool := false
deriving DecidableEq, Repr, Inhabited

/-- R119, R120: where the pooling of a bag stands: its next position, its count n, and whether its last pass has run. -/
structure BagRun where
  bag : Nat
  pos : Nat := 0
  n : Nat := 0
  last : Bool := false
deriving DecidableEq, Repr, Inhabited

/-- R335, R119: a pool order: the lowest bag whose last pass has not run, and where those stand of which a pass has run. -/
structure PlBag where
  table : Nat
  desc : TableDesc
  mode : Nat
  viaInv : Bool
  outHitch : Bool
  lmap : Nat
  hitch : Nat
  nbags : Nat
  offs : W64
  wgt : W64
  inv : W64
  ret : Nat
  part : Nat
  out : Nat
  bagBase : W32
  bag : Nat := 0
  runs : List BagRun := []
deriving DecidableEq, Repr, Inhabited

/-- R185: a code cart: its number in its order, its first code, the cluster where it stands, and its codes' bytes. -/
structure CodeCart where
  num : Nat
  first : Nat
  clu : Nat
  bytes : List Byte
deriving DecidableEq, Repr, Inhabited

/-- R185: the codes of the next cart being read: the cart's number, how many, and what is fetched. -/
structure CodeRead where
  num : Nat
  count : Nat
  fetch : Fetch
deriving DecidableEq, Repr, Inhabited

/-- R185, R341: a scan order; `next` is the first code that is in no cart yet, `made` the number of the next cart. -/
structure ScanB1 where
  codes : Nat
  count : Nat
  posbase : Nat
  weighted : Bool
  prio : Bool
  k : Nat
  minscore : Nat
  cmask : BitVec 8
  next : Nat := 0
  made : Nat := 0
  read : Option CodeRead := none
  carts : List CodeCart := []
deriving DecidableEq, Repr, Inhabited

/-- R343. -/
structure IaMma where
  fmt : Nat
  m : Nat
  n : Nat
  comp : Bool
  insrc : Nat
  xe5 : Bool
  we5 : Bool
  inhitch : Nat
  iscale : W32
  inTile : Nat
  istride : Nat
  koff : Nat
  whitch : Nat
deriving DecidableEq, Repr, Inhabited

/-- R345; `row` is the next row to be written. -/
structure EpCvt where
  src : Nat
  ofmt : Nat
  act : Nat
  smode : Nat
  bias : Bool
  rnd : Bool
  comp : Bool
  dhit : Bool
  m : Nat
  n : Nat
  stream : Nat
  rowbase : Nat
  colbase : Nat
  shitch : Nat
  dhitch : Nat
  alpha : W32
  hi : W32
  svec : Nat
  bvec : Nat
  srct : Nat
  dst : Nat
  dstride : Nat
  row : Nat := 0
deriving DecidableEq, Repr, Inhabited

/-- R346. -/
structure LnPut where
  hitch : Nat
  send : Bool
  table : Nat
  tag : W32
  src : W64
  len : Nat
  count : Nat
deriving DecidableEq, Repr, Inhabited

/-- R348. -/
structure LnTake where
  hitch : Nat
  dst : W64
  max : Nat
  result : W64
deriving DecidableEq, Repr, Inhabited

/-- R349: an overflow order and, once it has started, the records and seal words not yet answered: request tag, owner and
slot (none for a seal word). -/
structure LnOvf where
  table : Nat
  bk : Bucket
  inbox : Nat
  istride : Nat
  started : Bool := false
  flight : List (W32 × Nat × Option Nat) := []
  seals : List (Nat × Nat) := []
deriving DecidableEq, Repr, Inhabited

/-- R80, R148, R350: a fold order: its descriptor, its source, and the tables it names as they stood at its acceptance. -/
structure Fold where
  op : Nat
  table : Nat
  comp1 : Nat
  comp2 : Nat
  rnd : Bool
  migout : Bool
  lr : W32
  b1 : W32
  b2 : W32
  eps : W32
  c1 : W32
  c2 : W32
  step : W32
  residue : W64
  fromResidue : Bool
  first : Nat
  count : Nat
  desc : TableDesc := {}
  comps : List TableDesc := []
  row : Nat := 0
  written : Nat := 0
deriving DecidableEq, Repr, Inhabited

/-- R331, R346, R350: what an accepted order does; `sent`: its effect is done but for the responses to what it wrote beyond the own
pool (R277, R283). -/
inductive OrderBody where
  | gathQ (o : GathQ)
  | gathBk (o : Bucket)
  | gathOvf (o : Bucket) (ret : Nat) (ents : Option (List (Nat × Nat))) (done : Nat) (flight : List GRead)
  | saddOpen (b : BankRef) (nslot : Nat) (lists : List OpenEntry)
  | saddX64 (b : BankRef) (left : Nat)
  | saddQ64 (b : BankRef) (src map : W64) (nrows stride : Nat)
  | saddSeal (b : BankRef)
  | saddClose (b : BankRef)
  | stRun (d : StreamDesc) (r : StreamRun)
  | plBag (o : PlBag)
  | scanLd (off : Nat) (mask : W32) (clen : Nat)
  | scanB1 (o : ScanB1)
  | tkRd (off : Nat)
  | tkMerge (off slot : Nat)
  | tkClr (mask : W32)
  | iaMma (o : IaMma)
  | iaSt (off : Nat) (comp : Bool)
  | iaLd (off : Nat) (comp : Bool)
  | iaZero
  | epCvt (o : EpCvt)
  | lnPut (o : LnPut)
  | lnTake (o : LnTake)
  | lnOvf (o : LnOvf)
  | fold (o : Fold)
  | sent (amount : W32)
deriving DecidableEq, Repr, Inhabited

/-- R328, R329: an accepted order: the modes, ranks and ticket it took at acceptance (R97, R156, R179, R509). -/
structure Order where
  id : Nat
  unit : UnitRef
  queue : Nat
  ten : Nat
  ctx : Nat
  task : Nat
  cohort : Nat
  cluster : Nat
  op : Nat
  addr : Nat
  ac : Nat
  amount : W32
  ticket : Option W32
  mode : BitVec 2
  nan : BitVec 5
  self : Nat
  fsize : Nat
  accepted : Nat
  body : OrderBody
deriving DecidableEq, Repr, Inhabited

/-- R131, R132, R393, R394: an add request sent to the shared cache and not yet applied; `ctx` and `task` name its issuer, `ways`
is the arena's reserved ways, in which the line is locked. -/
structure ArenaAdd where
  order : Nat
  ten : Nat
  ctx : Nat
  task : Nat
  bank : BankRef
  slot : Nat
  elem : Nat
  value : W64
  ways : W64 := 0
deriving DecidableEq, Repr, Inhabited

/-- R188, R190. -/
structure TkEntry where
  score : Nat
  pos : Nat
deriving DecidableEq, Repr, Inhabited

/-- R180, R189: a query slot of a scan slice and its top-k list. -/
structure QuerySlot where
  loaded : Bool := false
  query : BitVec 1024 := 0
  weights : BitVec 256 := 0
  k : Nat := 64
  list : List TkEntry := []
deriving DecidableEq, Repr, Inhabited

/-- R180, R195, R196, R203, R413: the stateful units of one cluster. `acc` and `err` are keyed 256 × row + column; `mode` is
the interaction mode of the last pass: 0 PLAIN, 1 COMP, 2 integer; `wbufs` is the weight buffers: the order a block was
loaded for and its bytes. -/
structure Stateful where
  clen : Nat := 0
  slots : List QuerySlot := List.replicate 32 {}
  acc : SMap W32 := []
  err : SMap W32 := []
  mode : Nat := 0
  wbufs : List (Nat × List Byte) := []
deriving DecidableEq, Repr, Inhabited

/-- R100, R332: a landing map of a context in a cluster: position ↦ 1 landed, 2 dropped. -/
structure LandMap where
  ten : Nat
  ctx : Nat
  num : Nat
  marks : SMap Nat
deriving DecidableEq, Repr, Inhabited

/-- R364, R380: a translation held in a TLB: `va` and `pa` in bytes of the leaf's start; `stale`: a locked leaf that a broadcast
removed, which lanes alone use until it has been walked again; `pin`: the pinned range a locked entry belongs to. -/
structure TlbEntry where
  ten : Nat
  big : Bool
  va : Nat
  pa : Nat
  w : Bool
  locked : Bool := false
  stale : Bool := false
  pin : Nat := 0
deriving DecidableEq, Repr, Inhabited

/-- R299: a word that a cluster's instruction cache holds: its tenancy, its device address, and its bits. -/
structure KeptWord where
  ten : Nat
  va : Nat
  word : W64
deriving DecidableEq, Repr, Inhabited

/-- One cluster: its scratchpad, its stateful units, its landing maps, its mover group's first-level TLB (R364) and its instruction cache,
the last word fetched first (R299). -/
structure Cluster where
  sp : List Host.Cell := []
  units : Stateful := {}
  maps : List LandMap := []
  tlb : List TlbEntry := []
  icache : List KeptWord := []
deriving DecidableEq, Repr, Inhabited

/-- R366: why a unit is stalled. -/
inductive Stall where
  | walk (ten va : Nat)
  | fault (ten : Nat) (fid : W16)
deriving DecidableEq, Repr, Inhabited

/-- R365: a walk running or waiting for one of the 16 walkers: its 2 MiB region, whether it has met a 1 GiB leaf, and its parties. -/
structure Walk where
  ten : Nat
  va : Nat
  big : Bool := false
  units : List Party
deriving DecidableEq, Repr, Inhabited

/-- R378–R381: a broadcast taken and not yet acknowledged: the accesses in flight under the old translations, and the locked
leaves to be walked again (tenancy, start); `clear`: at the end of an earlier tick none of the accesses was in flight (R41). -/
structure Inval where
  num : Nat
  taken : Nat
  waits : List MemClient
  repin : List (Nat × Nat) := []
  clear : Bool := false
deriving DecidableEq, Repr, Inhabited

/-- R279: a window send entry. -/
structure SendEntry where
  en : Bool := false
  ten : Nat := 0
  haddr : Nat := 0
  rwin : Nat := 0
  jobTag : W32 := 0
  size : Nat := 0
deriving DecidableEq, Repr, Inhabited

/-- R279: a window receive entry. -/
structure RecvEntry where
  en : Bool := false
  wr : Bool := false
  at_ : Bool := false
  ten : Nat := 0
  src : BitVec 14 := 0
  smask : BitVec 14 := 0
  jobTag : W32 := 0
  lbase : Nat := 0
  size : Nat := 0
deriving DecidableEq, Repr, Inhabited

/-- R278: a pod-export entry. -/
structure PodEntry where
  en : Bool := false
  wr : Bool := false
  at_ : Bool := false
  jobTag : W32 := 0
  pbase : Nat := 0
  size : Nat := 0
deriving DecidableEq, Repr, Inhabited

/-- R282: a window-protocol message. -/
structure Msg where
  op : Nat := 0
  status : Nat := 0
  len : Nat := 0
  rtag : W32 := 0
  src : Nat := 0
  win : Nat := 0
  kind : Nat := 0
  jobTag : W32 := 0
  addr : Nat := 0
  cmp : W64 := 0
  data : List Byte := []
deriving DecidableEq, Repr, Inhabited

/-- Who makes an access: an order, the coach at which one is being accepted, or a tenancy's checkpoint. -/
inductive FarWho where
  | order (id : Nat)
  | coach (c : CoachRef)
  | ckpt (ten : Nat)
deriving DecidableEq, Repr, Inhabited

/-- R98, R219: a token of an aborted read or transfer, held until the last of its requests is home. -/
structure Orphan where
  unit : UnitRef
  queue : Nat
  ten : Nat
  who : MemClient
deriving DecidableEq, Repr, Inhabited

/-- R277: bytes beyond the own pool that have been asked for, and for which task: the physical address, the length and what has come
back. -/
structure FarRead where
  who : FarWho
  task : Option Nat
  pa : Nat
  len : Nat
  data : Option (List Byte) := none
deriving DecidableEq, Repr, Inhabited

/-- Whom a window response serves. -/
inductive WClient where
  | gather (order pos pa : Nat)
  | lnOvf (order : Nat)
  | xfer (order n pa : Nat)
  | copy (id pa : Nat)
  | checkpoint (ten pa : Nat)
  | far (who : FarWho) (task : Option Nat) (pa : Nat)
deriving DecidableEq, Repr, Inhabited

/-- R283, R284: a window or pod request that awaits its RESP; `dest` is the target's hall address, `va` the device address of its first
byte. -/
structure WReq where
  rtag : W32
  ten : Nat
  client : WClient
  dest : Nat
  msg : Msg
  tick : Nat
  sent : Bool := false
  va : Option Nat := none
deriving DecidableEq, Repr, Inhabited

/-- R283: a response ready to leave: the hall address it goes to. -/
structure Resp where
  dest : Nat
  msg : Msg
deriving DecidableEq, Repr, Inhabited

/-- R281, R285: a request taken under a receive entry whose access by a mover waits for a walk or on a translation fault. -/
structure Served where
  port : Nat
  win : Nat
  ten : Nat
  va : Nat
  mover : Nat
  msg : Msg
deriving DecidableEq, Repr, Inhabited

/-- The translation unit and the window tables (R364–R381, R278–R285). -/
structure Xlt where
  btlb : List (Nat × Nat × TlbEntry) := []
  brr : SMap Nat := []
  stalls : List (UnitRef × Stall) := []
  walks : List Walk := []
  walkQ : List Walk := []
  invals : List Inval := []
  invNum : Nat := 0
  invd : Bool := false
  podEn : Bool := false
  podBase : BitVec 41 := 0
  sendBase : BitVec 40 := 0
  recvBase : BitVec 39 := 0
  send : SMap SendEntry := []
  recv : SMap RecvEntry := []
  pod : SMap PodEntry := []
  wreqs : List WReq := []
  nextRtag : W32 := 0
  late : List (W32 × Nat) := []
  served : List Served := []
  resps : List Resp := []
  withdrawn : List Nat := []
deriving DecidableEq, Repr, Inhabited

/-- R110: a line of the row cache; `sectors` holds the bytes of each 128 B sector present. -/
structure RcLine where
  slice : Nat
  set : Nat
  way : Nat
  line : Nat
  sectors : SMap (List Byte)
deriving DecidableEq, Repr, Inhabited

/-- R111, R115, R116: a busy miss register; `waits` is the reads it serves, `sectors` what it fetches, `marked`
that its fill is not installed, `second` its secondary misses. -/
structure MissReg where
  slice : Nat
  n : Nat
  ten : Nat
  line : Nat
  sectors : List Nat
  waits : List MemClient
  second : Nat := 0
  marked : Bool := false
deriving DecidableEq, Repr, Inhabited

/-- R109–R116: the row cache; `ptr` is keyed 384 × slice + set. -/
structure RowCache where
  lines : List RcLine := []
  ptr : SMap Nat := []
  miss : List MissReg := []
  alloc : SMap W32 := []
  freed : SMap W32 := []
deriving DecidableEq, Repr, Inhabited

/-- R391–R393, R473: an outstanding request of a memory link; `ways` is its way mask, none where nothing is allocated; `data` is what
it brings where a later access to its bytes has been ordered behind it; `sent`: it has left the block (R218, R220). -/
structure MemReq where
  link : Nat
  tag : Nat
  op : Access
  pa : Nat
  len : Nat
  latency : Bool
  ten : Nat
  va : Option Nat
  unit : Nat
  who : MemClient
  ways : W64 := 0
  data : Option (List Byte) := none
  sent : Bool := false
deriving DecidableEq, Repr, Inhabited

/-- `MEM_ERRLOG` (R397). -/
structure ErrLog where
  pa : BitVec 52 := 0
  ten : BitVec 3 := 0
  valid : Bool := false
deriving DecidableEq, Repr, Inhabited

/-- The memory port, with the own package's pool behind it (R277, R383–R404). `poison` lists poisoned 64 B granules; `bad` those
that the memory will report uncorrectable and no read has met (R397, log 45); `marginNext` is the next 512 B region of the traffic generator. -/
structure MemPort where
  pool : List Host.Cell := []
  poison : List Nat := []
  bad : List Nat := []
  reqs : List MemReq := []
  grant : W32 := 0
  svc : W32 := 0
  wayGrant : W64 := 0
  errlog : List ErrLog := List.replicate 16 {}
  lost : Bool := false
  margin : W64 := 0
  marginBase : W64 := 0
  marginNext : Nat := 0
deriving DecidableEq, Repr, Inhabited

/-- R442: an event record. -/
structure EvRec where
  code : BitVec 8
  detail : BitVec 8
  ten : BitVec 3
  tv : Bool
  ctx : BitVec 8
  resp : BitVec 3
  seq : W32
  tick : W64
  info0 : W64
  info1 : W64
deriving DecidableEq, Repr, Inhabited

/-- R445–R447, R478: the event ring, its on-die queue and the interrupt message. -/
structure Events where
  log2n : BitVec 5 := 8
  en : Bool := false
  ien : Bool := false
  invrec : Bool := false
  base : BitVec 40 := 0
  holdoff : BitVec 12 := 0
  prod : W32 := 0
  cons : W32 := 0
  lost : W32 := 0
  seq : W32 := 0
  queue : List EvRec := []
  msgAddr : BitVec 50 := 0
  msgData : W32 := 0
  msgDue : Bool := false
  lastMsg : Option Nat := none
  msgOut : Option (W64 × W32) := none
deriving DecidableEq, Repr, Inhabited

/-- R273, R506: a port's fault injector; `since` is the tick in which it was armed. -/
structure Injector where
  en : Bool := false
  action : BitVec 3 := 0
  random : Bool := false
  log2r : BitVec 6 := 4
  cls : BitVec 6 := 0
  count : W32 := 0
  carno : W64 := 0
  seed : W64 := 0
  done : W32 := 0
  since : Nat := 0
deriving DecidableEq, Repr, Inhabited

/-- R268, R505: the books of one direction of a port. -/
structure Books where
  data : W32 := 0
  vacant : W32 := 0
  roll : W32 := 0
  control : W32 := 0
  free0 : W32 := 0
  free1 : W32 := 0
  audit : W32 := 0
  bytes : W32 := 0
  vlate : W32 := 0
  cret0 : W32 := 0
  cret1 : W32 := 0
deriving DecidableEq, Repr, Inhabited

/-- R39: a port's ledger counters as the current tick began. -/
structure PortLed where
  sent : Books := {}
  taken : Books := {}
  uncorr : W32 := 0
  fenceDrop : W32 := 0
  lateStages : W32 := 0
  discarded : W32 := 0
deriving DecidableEq, Repr, Inhabited

/-- R255, R256: a control message waiting to be sent: CTYPE, payload, and the tick it was taken in: it goes on a later one. -/
structure Ctl where
  ctype : Nat
  payload : List Byte
  tick : Nat := 0
deriving DecidableEq, Repr, Inhabited

/-- R269–R272: the spare of one direction: its position, which way it sweeps, whether it is held, an announced step or jump
(switch carriage, new position), whether that is a jump, the position a retirement moves it to, and the tick of its last
step. -/
structure Spare where
  pos : Nat := 16
  up : Bool := false
  held : Bool := false
  next : Option (Nat × Nat) := none
  jump : Bool := false
  target : Option Nat := none
  stepped : Nat := 0
deriving DecidableEq, Repr, Inhabited

/-- R240–R274, R502–R505: a line port. `txDue`, `rxDue`: the books of a direction are still to be zeroed at carriage M; `linked`:
the peer's proposal for M, heard in this training or after it; `seen`: numbers of carriages that have arrived; `out`: what the
last departure sent, with the injected action `hit`; `swapped`: a carriage that REORDER sends after its successor; `contAt`:
the tick in which block containment took the port down (R40). -/
structure Port where
  st : PortSt := .down
  reason : BitVec 8 := 0
  lat : BitVec 8 := 0
  inverted : BitVec 17 := 0
  retireReg : BitVec 17 := 0
  retired : BitVec 17 := 0
  rotating : Bool := false
  tx : Spare := {}
  rx : Spare := {}
  jreq : Option Nat := none
  memb : Option Nat := none
  rollMiss : BitVec 512 := 0
  sent : Books := {}
  taken : Books := {}
  credit0 : Nat := 0
  credit1 : Nat := 0
  give0 : Nat := 0
  give1 : Nat := 0
  uncorr : W32 := 0
  fecNow : Nat := 0
  fenceDrop : W32 := 0
  lateStages : W32 := 0
  discarded : W32 := 0
  led0 : PortLed := {}
  m : W64 := 0
  txDue : Bool := false
  rxDue : Bool := false
  linked : Option Nat := none
  contAt : Option Nat := none
  lastCarno : Option Nat := none
  seen : List Nat := []
  lastSent : Option Nat := none
  ctl : List Ctl := []
  vc0 : List (List Msg) := []
  vc1 : List (List Msg) := []
  out : List Carriage := []
  hit : Option Nat := none
  swapped : Option Carriage := none
  inj : Injector := {}
  calFail : BitVec 17 := 0
  calOk : BitVec 17 := 0
  fechi : Bool := false
  trainStart : Nat := 0
deriving DecidableEq, Repr, Inhabited

/-- R457: a firmware image header. -/
structure FwImage where
  version : W32 := 0
  ifprov : W16 := 0
  accmin : W16 := 0
  accmax : W16 := 0
deriving DecidableEq, Repr, Inhabited

/-- R467, R468: a live update in progress. -/
structure FwUpdate where
  kind : Nat
  image : FwImage
  start : Nat
  utmo : Nat
deriving DecidableEq, Repr, Inhabited

/-- R454–R469: personality copies, firmware registers and the update. -/
structure Firmware where
  perAddr : BitVec 40 := 0
  perFormat : W16 := 0
  perClusters : BitVec 8 := 0
  perPorts : W16 := 0
  perPortsw : W16 := 0
  perIdent : W32 := 0
  perSerial : W64 := 0
  perRetired : List (BitVec 17) := List.replicate 16 0
  locked : Bool := false
  addrFe : BitVec 40 := 0
  addrLn : BitVec 40 := 0
  boot : BitVec 2 := 0
  detail : BitVec 8 := 0
  upd : BitVec 3 := 0
  update : Option FwUpdate := none
  fe : FwImage := {}
  ln : FwImage := {}
  stBase : BitVec 29 := 0
  pass : BitVec 8 := 0
  shared : Bool := false
  testCl : BitVec 3 := 0
  busy : Bool := false
  refused : Bool := false
deriving DecidableEq, Repr, Inhabited

/-- R8–R11, R29–R30, R402, R483–R485: the power governor. -/
structure Power where
  vid : Nat := 32
  vidBusy : Bool := false
  limit : BitVec 14 := 0x1C20
  ptel : W16 := 0
  ptelTick : Option Nat := none
  stale : Bool := false
  staleRecorded : Bool := false
  temps : SMap (BitVec 9) := []
  hot : List Nat := []
  floor : Bool := false
  held : Bool := false
  rate : W16 := 0
  loadedTick : Nat := 0
  lastEval : Nat := 0
  lastRate : Nat := 0
deriving DecidableEq, Repr, Inhabited

/-- R424, R425: `CTL_QSTAT` and the quiesce that runs. -/
structure Quiesce where
  st : BitVec 2 := 0
  forced : Bool := false
  ign : Bool := false
  target : BitVec 24 := 0
  aborted : W32 := 0
deriving DecidableEq, Repr, Inhabited

/-- R413, R417: a context's on-chip state as a save area holds it (its layout is the firmware's own, R417), and the tick of
its header. -/
structure SaveImage where
  ten : Nat
  area : Nat
  jobTag : W32
  ctx : Nat
  clusters : BitVec 8
  lane : W32
  sp : W32
  scratch : List (Nat × List Host.Cell)
  tick : Nat
  tasks : List Task
  cohorts : List Cohort
  maps : List (Nat × LandMap)
  xc : SMap W32
deriving DecidableEq, Repr, Inhabited

/-- R38: a W1C bit the hardware has set: its register's offset, the bit, the tick, and whether that setting wrote a record. -/
structure SetBit where
  offset : Nat
  bit : Nat
  tick : Nat
  logged : Bool
deriving DecidableEq, Repr, Inhabited

/-- R67, R68: what the last access of the tensor cores was answered: done, with what it read, or reported as failed. -/
inductive TcResp where
  | none
  | done (data : List Byte)
  | failed
deriving DecidableEq, Repr, Inhabited

/-- The state of the block. `pending` is the commands that wait, first in first out; `free` the model's own counter behind
`Config.freeWord`; `nextTask`, `nextOrder`, `nextCopy` the model's own numbering; `cntNow` what each statistics counter has
gained in tick `cntTick` (R39), `setNow` the W1C bits the
hardware has set (R38), `tcResp` the answer to the tensor cores' last access. -/
structure State where
  pending : List Instr
  tick : Nat
  free : Nat
  st : BlockSt
  cause : BitVec 4
  lockvio : Bool
  fenceErr : Bool
  evrlost : Bool
  resetLow : Bool
  powered : Bool
  testMode : Bool
  tap : TapOp
  wrap : WrapOp
  linkRst : Bool
  haddr : BitVec 14
  enCluster : BitVec 8
  enGather : W32
  enMover : W64
  enPort : W16
  quiesce : Quiesce
  ledClear : BitVec 8
  fw : Firmware
  tens : List Tenancy
  rings : List Ring
  overlaps : List Overlap
  tasks : List Task
  cohorts : List Cohort
  copies : List Copy
  orders : List Order
  adds : List ArenaAdd
  far : List FarRead
  orphans : List Orphan
  nextTask : Nat
  nextOrder : Nat
  nextCopy : Nat
  clusters : List Cluster
  gtlb : List (Nat × TlbEntry)
  saves : List SaveImage
  xlt : Xlt
  rc : RowCache
  mem : MemPort
  ev : Events
  ports : List Port
  fence : W16
  routeIdx : BitVec 9
  route : SMap W16
  pwr : Power
  cnt : SMap Nat
  cntOvf : List Nat
  cntNow : SMap Nat
  cntTick : Nat
  setNow : List SetBit
  tcResp : TcResp
deriving DecidableEq, Repr

/-- R448, R452, R453, R491: the machine right after power-good: SAFE, every register at its reset value, every array zero, the
record of the move to SAFE waiting in the on-die queue, and no command waiting. -/
def State.reset : State where
  pending := []
  tick := 0
  free := 0
  st := .safe
  cause := 0
  lockvio := false
  fenceErr := false
  evrlost := false
  resetLow := false
  powered := true
  testMode := false
  tap := .bypass
  wrap := .wsBypass
  linkRst := true
  haddr := 0
  enCluster := 0
  enGather := 0
  enMover := 0
  enPort := 0
  quiesce := {}
  ledClear := 0
  fw := {}
  tens := List.replicate 8 {}
  rings := List.replicate 32 {}
  overlaps := []
  tasks := []
  cohorts := []
  copies := []
  orders := []
  adds := []
  far := []
  orphans := []
  nextTask := 0
  nextOrder := 0
  nextCopy := 0
  clusters := List.replicate 8 {}
  gtlb := []
  saves := []
  xlt := {}
  rc := {}
  mem := {}
  ev := { queue := [⟨0xAF, 0, 0, false, 0, 0, 0, 0, 1, 0x80⟩], seq := 1 }
  ports := List.replicate 16 {}
  fence := 0
  routeIdx := 0
  route := []
  pwr := {}
  cnt := []
  cntOvf := []
  cntNow := []
  cntTick := 0
  setNow := []
  tcResp := .none

end Sys2Proof.Machine
end

