-- ==== Sys2Proof/Machine/Bits.lean ====
section
/-! DEFINITION. Bit fields, sparse maps in canonical form, bytes and words in memory (little-endian throughout), and list
updates. -/

namespace Sys2Proof.Machine

/-- Bits [lo + len − 1 : lo] of a number. -/
def bitsOf (w lo len : Nat) : Nat := w / 2 ^ lo % 2 ^ len

/-- Bit n of a number. -/
def bitOf (w n : Nat) : Bool := bitsOf w n 1 == 1

/-- 0 or 1. -/
def b2n (b : Bool) : Nat := if b then 1 else 0

/-- A two's-complement field of `len` bits as an integer. -/
def signedOf (w len : Nat) : Int :=
  if w % 2 ^ len < 2 ^ (len - 1) then (w % 2 ^ len : Nat) else (w % 2 ^ len : Nat) - (2 ^ len : Int)

/-- An integer modulo 2^64 as a word. -/
def wrap64 (i : Int) : W64 := BitVec.ofInt 64 i

/-- An integer modulo 2^32 as a word. -/
def wrap32 (i : Int) : W32 := BitVec.ofInt 32 i

/-- Number of set bits below bit n. -/
def popcount : Nat → Nat → Nat
  | 0, _ => 0
  | n + 1, w => b2n (bitOf w n) + popcount n w

/-- The set bits below bit n, lowest first. -/
def setBits (n w : Nat) : List Nat := (List.range n).filter (bitOf w)

/-- A mask with the listed bits set. -/
def maskOf (l : List Nat) : Nat := l.foldl (fun a b => a ||| 2 ^ b) 0

/-- ⌈a / b⌉. -/
def ceilDiv (a b : Nat) : Nat := (a + b - 1) / b

/-- a rounded up to a multiple of b. -/
def roundUp (a b : Nat) : Nat := ceilDiv a b * b

/-- The smaller of n and the largest value of a w-bit register: a ledger register stops at its maximum (R433). -/
def stopAt (w n : Nat) : Nat := min n (2 ^ w - 1)

/-- A 32-bit counter that stops at its maximum. -/
def bump32 (x : W32) (n : Nat) : W32 := BitVec.ofNat 32 (stopAt 32 (x.toNat + n))

/-! ### Sparse maps -/

/-- What a sparse map gives at k; `d` where nothing is listed. -/
def smGet {α : Type} (d : α) : SMap α → Nat → α
  | [], _ => d
  | (k', v) :: m, k => if k' = k then v else if k < k' then d else smGet d m k

/-- A sparse map with k set to v, kept rising and without default entries. -/
def smSet {α : Type} [DecidableEq α] (d : α) : SMap α → Nat → α → SMap α
  | [], k, v => if v = d then [] else [(k, v)]
  | (k', v') :: m, k, v =>
    if k' = k then (if v = d then m else (k, v) :: m)
    else if k < k' then (if v = d then (k', v') :: m else (k, v) :: (k', v') :: m)
    else (k', v') :: smSet d m k v

/-- Keys strictly rise from `lo` on, and no entry equals the default. -/
def smOk {α : Type} [DecidableEq α] (d : α) : Nat → SMap α → Bool
  | _, [] => true
  | lo, (k, v) :: m => decide (lo ≤ k) && decide (v ≠ d) && smOk d (k + 1) m

/-! ### Bytes -/

/-- An unlisted byte reads as 0 (log 9). -/
def memGet (m : List Host.Cell) (a : Nat) : Byte := smGet 0 m a

/-- One byte written. -/
def memSet (m : List Host.Cell) (a : Nat) (b : Byte) : List Host.Cell := smSet 0 m a b

/-- The canonical form of a memory: addresses strictly rising, and no entry equal to what an unlisted address reads as. -/
def Memory.wf (m : List Host.Cell) : Bool := smOk 0 0 m

/-- n bytes from a on. -/
def memBytes (m : List Host.Cell) (a : Nat) : Nat → List Byte
  | 0 => []
  | n + 1 => memGet m a :: memBytes m (a + 1) n

/-- Bytes written from a on, in rising order of address. -/
def memPut (m : List Host.Cell) (a : Nat) : List Byte → List Host.Cell
  | [] => m
  | b :: bs => memPut (memSet m a b) (a + 1) bs

/-- Host-written cells applied in order. -/
def memPatch (m : List Host.Cell) : List Host.Cell → List Host.Cell
  | [] => m
  | c :: cs => memPatch (memSet m c.1 c.2) cs

/-- A little-endian number from bytes. -/
def leNat : List Byte → Nat
  | [] => 0
  | b :: bs => b.toNat + 256 * leNat bs

/-- n little-endian bytes of a number. -/
def toLe : Nat → Nat → List Byte
  | 0, _ => []
  | n + 1, v => BitVec.ofNat 8 v :: toLe n (v / 256)

/-- The little-endian word of n bytes at a. -/
def memWord (m : List Host.Cell) (a n : Nat) : Nat := leNat (memBytes m a n)

/-- A little-endian word of n bytes stored at a. -/
def memPutWord (m : List Host.Cell) (a n v : Nat) : List Host.Cell := memPut m a (toLe n v)

/-- A range of bytes set to 0. -/
def memZero (m : List Host.Cell) (a n : Nat) : List Host.Cell := m.filter fun c => c.1 < a || a + n ≤ c.1

/-- Cut a list into pieces of n (the last may be shorter), at most `fuel` of them. -/
def chunksOf {α : Type} (n : Nat) : Nat → List α → List (List α)
  | 0, _ => []
  | _, [] => []
  | f + 1, l => l.take n :: chunksOf n f (l.drop n)

/-! ### Lists -/

/-- The n-th element changed. -/
def modAt {α : Type} (l : List α) (n : Nat) (f : α → α) : List α :=
  match l[n]? with
  | some a => l.set n (f a)
  | none => l

/-- Every element that satisfies p changed. -/
def modWhere {α : Type} (p : α → Bool) (f : α → α) (l : List α) : List α := l.map fun a => if p a then f a else a

/-- The least natural number below n that satisfies p. -/
def leastFrom (p : Nat → Bool) (n : Nat) : Option Nat := (List.range n).find? p

/-- A number added to a list without repeats. -/
def insertNew (l : List Nat) (n : Nat) : List Nat := if l.contains n then l else l ++ [n]

/-- A number put into an ascending list without repeats. -/
def insertAsc (n : Nat) : List Nat → List Nat
  | [] => [n]
  | m :: l => if n < m then n :: m :: l else if n = m then m :: l else m :: insertAsc n l

/-- The distinct numbers of a list, ascending. -/
def sortDistinct (l : List Nat) : List Nat := l.foldr insertAsc []

/-- The position of a number in a list. -/
def posOf (l : List Nat) (n : Nat) : Nat := (l.findIdx? (· == n)).getD l.length

/-- The largest number of a list, 0 where it is empty. -/
def maxOf (l : List Nat) : Nat := l.foldl max 0

/-- An element put into a list that rises by a key, after those of the same key. -/
def insertOn {α : Type} (f : α → Nat) (x : α) : List α → List α
  | [] => [x]
  | y :: l => if f x < f y then x :: y :: l else y :: insertOn f x l

/-- A list in the order of a key, those of the same key as they stood. -/
def sortOn {α : Type} (f : α → Nat) (l : List α) : List α := l.foldl (fun m x => insertOn f x m) []

end Sys2Proof.Machine
end

