-- ==== Sys2Proof/Machine/Flags.lean ====
section
/-! DEFINITION. What the block counts and reports: event records and their ring (R442–R447), statistics counters (R433,
R434, R507), and the W1C error bits (R38, R444 ERRBIT). -/

namespace Sys2Proof.Machine

/-! ### The own package's memory (R277, R396–R399) -/

/-- R277: bits [45:0] address the own package's pool. -/
def poolAddr (pa : Nat) : Nat := pa % 2 ^ 46

/-- Bytes of the pool. -/
def State.poolBytes (s : State) (pa n : Nat) : List Byte := memBytes s.mem.pool (poolAddr pa) n

/-- A little-endian word of the pool. -/
def State.poolWord (s : State) (pa n : Nat) : Nat := leNat (s.poolBytes pa n)

/-- R399: a write of n bytes at pa covers the whole of granule g. -/
def covers (pa n g : Nat) : Bool := decide (pa ≤ 64 * g ∧ 64 * g + 64 ≤ pa + n)

/-- A write to the pool; a granule wholly written loses its poison (R399). -/
def State.poolWrite (s : State) (pa : Nat) (bs : List Byte) : State :=
  { s with mem := { s.mem with
      pool := memPut s.mem.pool (poolAddr pa) bs,
      poison := s.mem.poison.filter fun g => !covers (poolAddr pa) bs.length g
      bad := s.mem.bad.filter fun g => !covers (poolAddr pa) bs.length g } }

/-- Granule g holds one of the n bytes at pa. -/
def meets (pa n g : Nat) : Bool := decide (64 * g < poolAddr pa + n ∧ poolAddr pa < 64 * g + 64)

/-- R397: some 64 B granule of the n bytes at pa is poisoned. -/
def State.poisoned (s : State) (pa n : Nat) : Bool := s.mem.poison.any (meets pa n)

/-- R397: what a read of the n bytes at pa raises in place of data, with the first granule's address: MEM_UNCORRECTABLE where it
is the one that finds a granule bad, else MEM_POISON. -/
def State.lost (s : State) (pa n : Nat) : Option (Nat × Nat) :=
  match sortDistinct (s.mem.bad.filter (meets pa n)), sortDistinct (s.mem.poison.filter (meets pa n)) with
  | g :: _, _ => some (0x30, 64 * g)
  | [], g :: _ => some (0x31, 64 * g)
  | [], [] => none

/-! ### Bits set in a tick (R38) -/

/-- The entry is of this register bit. -/
def SetBit.isBit (x : SetBit) (offset bit : Nat) : Bool := x.offset == offset && x.bit == bit

/-- R38: the hardware sets a W1C bit in this tick; `logged`: a record is written for this setting. -/
def State.markSet (s : State) (offset bit : Nat) (logged : Bool := true) : State :=
  let now := s.setNow.filter fun x => x.tick == s.tick
  let was := now.any fun x => x.isBit offset bit && x.logged
  { s with setNow := now.filter (fun x => !x.isBit offset bit) ++ [⟨offset, bit, s.tick, was || logged⟩] }

/-- R38: bits of a register that the hardware has set in this tick: a host write does not clear them. -/
def State.heldBits (s : State) (offset : Nat) : Nat :=
  maskOf ((s.setNow.filter fun x => x.offset == offset && x.tick == s.tick).map (·.bit))

/-! ### Event records -/

/-- R442: the 32 bytes of a record. -/
def evBytes (r : EvRec) : List Byte :=
  toLe 4 (r.code.toNat + r.detail.toNat * 2 ^ 8 + r.ten.toNat * 2 ^ 16 + b2n r.tv * 2 ^ 19 + r.ctx.toNat * 2 ^ 20
    + r.resp.toNat * 2 ^ 28) ++ toLe 4 r.seq.toNat ++ toLe 8 r.tick.toNat ++ toLe 8 r.info0.toNat ++ toLe 8 r.info1.toNat

/-- R447, R478: the interrupt message of this tick, or owed once the hold-off ends. -/
def State.evSignal (s : State) : State :=
  if !s.ev.ien then s
  else
    let due := match s.ev.lastMsg with
      | none => true
      | some t => decide (t + s.ev.holdoff.toNat ≤ s.tick)
    if due then
      { s with ev := { s.ev with
          msgDue := false, lastMsg := some s.tick,
          msgOut := some (BitVec.ofNat 64 (s.ev.msgAddr.toNat * 4), s.ev.msgData) } }
    else { s with ev := { s.ev with msgDue := true } }

/-- R445: one record moved from the on-die queue to the ring, where there is room; PROD follows the ring in memory. -/
def State.evPut (s : State) : State :=
  match s.ev.queue with
  | [] => s
  | r :: q =>
    let n := 2 ^ s.ev.log2n.toNat
    let base := s.ev.base.toNat * 2 ^ 12
    if s.ev.en ∧ (s.ev.prod - s.ev.cons).toNat < n then
      let s1 := s.poolWrite (base + 32 * (s.ev.prod.toNat % n)) (evBytes r)
      let s2 := s1.poolWrite (base + 32 * n) (toLe 8 (s.ev.prod + 1).toNat)
      { s2 with ev := { s2.ev with prod := s2.ev.prod + 1, queue := q } }
    else s

/-- Records moved to the ring while there is room. -/
def evDrain : Nat → State → State
  | 0, s => s
  | n + 1, s => evDrain n s.evPut

/-- R446: the on-die queue drained as far as the ring has room, with the message of R447 where a record reached it. -/
def State.evFlush (s : State) : State :=
  let s' := evDrain s.ev.queue.length s
  if s'.ev.prod = s.ev.prod then s' else s'.evSignal

/-- R442–R446: a record is written, or dropped with its SEQ used where ring and queue are full. -/
def State.evWrite (s : State) (r : EvRec) : State :=
  let r := { r with seq := s.ev.seq, tick := BitVec.ofNat 64 s.tick }
  let s := { s with ev := { s.ev with seq := s.ev.seq + 1 } }
  if s.ev.queue.length < Config.evrQueue then
    State.evFlush { s with ev := { s.ev with queue := s.ev.queue ++ [r] } }
  else State.markSet { s with evrlost := true, ev := { s.ev with lost := s.ev.lost + 1 } } 0xE000 2

/-- Whom a record names: tenancy and context (TV = 1), or nobody. -/
structure EvWho where
  ten : Nat := 0
  ctx : Nat := 0
  tv : Bool := false

/-- A record's scope: a tenancy and context. -/
def tenCtx (ten ctx : Nat) : EvWho := ⟨ten, ctx, true⟩

/-- R442: a record by its fields; `info1` is the whole word INFO1 with the unit word in bits [15:0]. -/
def State.event (s : State) (code detail : Nat) (who : EvWho) (resp info0 info1 : Nat) : State :=
  s.evWrite
    { code := BitVec.ofNat 8 code, detail := BitVec.ofNat 8 detail, ten := BitVec.ofNat 3 who.ten, tv := who.tv,
      ctx := BitVec.ofNat 8 who.ctx, resp := BitVec.ofNat 3 resp, seq := 0, tick := 0,
      info0 := BitVec.ofNat 64 info0, info1 := BitVec.ofNat 64 info1 }

/-- R442: the unit word of a unit that translates or takes orders. -/
def unitWord : UnitRef → Nat
  | .gather e => e + e / 4 * 2 ^ 8
  | .mover m => 0x20 + m + m / 8 * 2 ^ 8
  | .arena c => 0x60 + c * 2 ^ 8
  | .pool c => 0x61 + c * 2 ^ 8
  | .scan c => 0x62 + c * 2 ^ 8
  | .ia c => 0x63 + c * 2 ^ 8
  | .topk c => 0x64 + c * 2 ^ 8

/-- R442: unit words of the other units. -/
def laneWordOf (cluster : Nat) : Nat := 0x65 + cluster * 2 ^ 8
def portWord (p : Nat) : Nat := 0x70 + p
def feWord : Nat := 0x80
def xltWord : Nat := 0x81
def memWordU : Nat := 0x82
def rcWord (slice : Nat) : Nat := 0x90 + slice

/-! ### W1C error bits -/

/-- R444 ERRBIT: the register's control-window offset divided by 8, and the bit. -/
def State.errRecord (s : State) (offset bit : Nat) : State :=
  s.event 0xAD 0 {} 0 (offset / 8 + 2 ^ bit * 2 ^ 32) 0

/-- R38: a bit that is still set is set again: no record is written unless a host write clears it in the same tick (log 10). -/
def State.markAgain (s : State) (offset bit : Nat) : State := s.markSet offset bit false

/-- R38: a bit of `ERR_TEN_ERR` set; the record is written for the setting of a clear bit (log 10). -/
def State.tenErr (s : State) (t bit : Nat) : State :=
  match s.tens[t]? with
  | none => s
  | some x =>
    if bitOf x.err.toNat bit then s.markAgain (0xE040 + 8 * t) bit
    else
      let s := s.markSet (0xE040 + 8 * t) bit
      State.errRecord { s with tens := s.tens.set t { x with err := x.err ||| BitVec.ofNat 6 (2 ^ bit) } }
        (0xE040 + 8 * t) bit

/-- Bits of `ERR_TEN_ERR`. -/
def errShare : Nat := 0
def errMask : Nat := 1
def errEpoch : Nat := 2
def errFresp : Nat := 3
def errState : Nat := 4
def errValue : Nat := 5

/-- LOCKVIO of `ERR_BLK_STAT` set. -/
def State.setLockvio (s : State) : State :=
  if s.lockvio then s.markAgain 0xE000 0
  else
    let s := s.markSet 0xE000 0
    State.errRecord { s with lockvio := true } 0xE000 0

/-- FENCE of `ERR_BLK_STAT` set (R288). -/
def State.setFenceErr (s : State) : State :=
  if s.fenceErr then s.markAgain 0xE000 1
  else
    let s := s.markSet 0xE000 1
    State.errRecord { s with fenceErr := true } 0xE000 1

/-- LOST of `MEM_ERRSTAT` set. -/
def State.setLost (s : State) : State :=
  if s.mem.lost then s.markAgain 0x6020 0
  else
    let s := s.markSet 0x6020 0
    State.errRecord { s with mem := { s.mem with lost := true } } 0x6020 0

/-- IGN of `CTL_QSTAT` set (R425). -/
def State.setIgn (s : State) : State :=
  if s.quiesce.ign then s.markAgain 0x0060 3
  else
    let s := s.markSet 0x0060 3
    State.errRecord { s with quiesce := { s.quiesce with ign := true } } 0x0060 3

/-! ### Statistics counters -/

/-- The value of counter k. -/
def State.cntOf (s : State) (k : Nat) : Nat := smGet 0 s.cnt k

/-- R433, R434: counter k advanced by n: it saturates, and the first increment past its maximum since the overflow bit
was clear sets the bit and writes one STAT_OVF record. -/
def State.count (s : State) (k n : Nat) : State :=
  if n = 0 then s
  else
    let now := if s.cntTick = s.tick then s.cntNow else []
    let s := { s with cntTick := s.tick, cntNow := smSet 0 now k (smGet 0 now k + n) }
    let v := s.cntOf k + n
    if v ≤ Config.cntMax then { s with cnt := smSet 0 s.cnt k v }
    else
      let s := { s with cnt := smSet 0 s.cnt k Config.cntMax }
      if s.cntOvf.contains k then s.markAgain (0x1F000 + 8 * (k / 64)) (k % 64)
      else
        let s := s.markSet (0x1F000 + 8 * (k / 64)) (k % 64)
        State.event { s with cntOvf := insertNew s.cntOvf k } 0xAA 0 {} 0 k 0

/-- R38: the record of a W1C bit: STAT_OVF for a counter's overflow bit (R434), else ERRBIT. -/
def State.bitRecord (s : State) (offset bit : Nat) : State :=
  if 0x1F000 ≤ offset then s.event 0xAA 0 {} 0 ((offset - 0x1F000) / 8 * 64 + bit) 0 else s.errRecord offset bit

/-- R38: a host write of 1 to bits that the hardware has set in this tick: each stays set, and a setting that wrote no record,
its bit being set already, gets its one record now. -/
def State.ackBits (s : State) (offset bits : Nat) : State :=
  (s.setNow.filter fun x => x.offset == offset && x.tick == s.tick && !x.logged && bitOf bits x.bit).foldl
    (fun (s : State) x => (s.markSet offset x.bit).bitRecord offset x.bit) s

/-- R39: a host write to counter k: the written value and what the counter has gained in this tick. -/
def State.writeCnt (s : State) (k v : Nat) : State :=
  let now := if s.cntTick = s.tick then smGet 0 s.cntNow k else 0
  { s with cnt := smSet 0 s.cnt k (min Config.cntMax (v % 2 ^ 48 + now)) }

/-- R507: counter numbers of cluster c. -/
def cntCvtNan (c : Nat) : Nat := 32 * c
def cntCvtSat (c : Nat) : Nat := 32 * c + 1
def cntAccSat (c : Nat) : Nat := 32 * c + 2
def cntPadMiss (c : Nat) : Nat := 32 * c + 3
def cntLate (c : Nat) : Nat := 32 * c + 4
def cntAtomSat (c : Nat) : Nat := 32 * c + 5
def cntPoolEmpty (c : Nat) : Nat := 32 * c + 6
def cntGathReads (c : Nat) : Nat := 32 * c + 7
def cntGathMerged (c : Nat) : Nat := 32 * c + 8
def cntLaneIssue (c : Nat) : Nat := 32 * c + 9
def cntScanCompl (c : Nat) : Nat := 32 * c + 10
def cntIaCompl (c : Nat) : Nat := 32 * c + 11
def cntPoolLong (c : Nat) : Nat := 32 * c + 12
/-- R507: counter numbers of port p and of the block. -/
def cntFecCor (p : Nat) : Nat := 256 + 16 * p
def cntLineRot (p : Nat) : Nat := 256 + 16 * p + 1
def cntMemCe : Nat := 512
def cntMargin : Nat := 513
def cntStray : Nat := 514
def cntArrayCe : Nat := 515
def cntRcHit : Nat := 516
def cntRcMiss : Nat := 517
def cntRcSec : Nat := 518
def cntWalk : Nat := 519

/-- R507: the counters that exist. -/
def cntNamed (k : Nat) : Bool :=
  if k < 256 then decide (k % 32 ≤ 12) else if k < 512 then decide ((k - 256) % 16 ≤ 1) else decide (k ≤ 519)

end Sys2Proof.Machine
end

