-- ==== Sys2Proof/Machine/Float.lean ====
section
/-! DEFINITION. The number rules every unit obeys (spec 05, R167–R176; spec 09, R313, R315): formats, exact values, the one
rounding, conversions, stochastic rounding. -/

namespace Sys2Proof.Machine

/-- R167: a floating-point format: mantissa bits, exponent bias, the code of the largest finite magnitude, the code of
infinity (none: the format has none), the canonical NaN, and the number of bits. -/
structure Fmt where
  mb : Nat
  bias : Nat
  maxc : Nat
  inf : Option Nat
  nan : Nat
  bits : Nat
deriving DecidableEq, Repr

def f32Fmt : Fmt := ⟨23, 127, 0x7F7FFFFF, some 0x7F800000, 0x7FC00000, 32⟩
def bf16Fmt : Fmt := ⟨7, 127, 0x7F7F, some 0x7F80, 0x7FC0, 16⟩
def f16Fmt : Fmt := ⟨10, 15, 0x7BFF, some 0x7C00, 0x7E00, 16⟩
def e4m3Fmt : Fmt := ⟨3, 7, 0x7E, none, 0x7F, 8⟩
def e5m2Fmt : Fmt := ⟨2, 15, 0x7B, some 0x7C, 0x7E, 8⟩
def e2m1Fmt : Fmt := ⟨1, 1, 7, none, 0, 4⟩

/-- A value: NaN, an infinity, or (−1)^neg × m × 2^e exactly. -/
inductive FVal where
  | nan
  | inf (neg : Bool)
  | fin (neg : Bool) (m : Nat) (e : Int)
deriving DecidableEq, Repr

/-- The value a code stands for. -/
def fDecode (f : Fmt) (w : Nat) : FVal :=
  let c := w % 2 ^ (f.bits - 1)
  let neg := bitOf w (f.bits - 1)
  if f.inf = some c then .inf neg
  else if c > f.maxc then .nan
  else if c < 2 ^ f.mb then .fin neg c (1 - (f.bias : Int) - f.mb)
  else .fin neg (2 ^ f.mb + c % 2 ^ f.mb) ((c / 2 ^ f.mb : Nat) - (f.bias : Int) - f.mb)

/-- m × 2^(−r) cut to an integer, with the bits cut off and whether a further non-zero part lies below them. -/
structure Cut where
  n : Nat
  rem : Nat
  r : Nat
  q : Int

/-- m × 2^e cut to the precision of a format: n × 2^q, with q no smaller than the format's least exponent. -/
def cutTo (f : Fmt) (m : Nat) (e : Int) : Cut :=
  let qmin : Int := 1 - (f.bias : Int) - f.mb
  let q : Int := max qmin (e + Nat.log2 m - f.mb)
  if q ≤ e then ⟨m * 2 ^ (e - q).toNat, 0, 0, q⟩
  else let r := (q - e).toNat; ⟨m / 2 ^ r, m % 2 ^ r, r, q⟩

/-- Round half to even; `sticky` says that a non-zero part lies below all of m. -/
def halfEven (n rem r : Nat) (sticky : Bool) : Nat :=
  let half := 2 ^ r
  if 2 * rem > half ∨ (2 * rem = half ∧ (sticky ∨ n % 2 = 1)) then n + 1 else n

/-- The magnitude code of n × 2^q in a format, unbounded above. -/
def magCode (f : Fmt) (n : Nat) (q : Int) : Nat :=
  if n = 0 then 0 else (q - (1 - (f.bias : Int) - f.mb)).toNat * 2 ^ f.mb + n

/-- The magnitude code of m × 2^e rounded half to even. -/
def roundCode (f : Fmt) (m : Nat) (e : Int) (sticky : Bool) : Nat :=
  let c := cutTo f m e
  magCode f (halfEven c.n c.rem c.r sticky) c.q

/-- A magnitude code with its sign bit. -/
def withSign (f : Fmt) (neg : Bool) (c : Nat) : Nat := c + b2n neg * 2 ^ (f.bits - 1)

/-- R313: an FP32 arithmetic result: one rounding; overflow gives infinity; every NaN is canonical (R168). -/
def rn32Sticky (v : FVal) (sticky : Bool) : W32 :=
  match v with
  | .nan => BitVec.ofNat 32 f32Fmt.nan
  | .inf neg => BitVec.ofNat 32 (withSign f32Fmt neg 0x7F800000)
  | .fin neg m e => BitVec.ofNat 32 (withSign f32Fmt neg (min (roundCode f32Fmt m e sticky) 0x7F800000))

/-- RN: round half to even to FP32. -/
def rn32 (v : FVal) : W32 := rn32Sticky v false

/-- The value of an FP32 word. -/
def f32 (w : W32) : FVal := fDecode f32Fmt w.toNat

def FVal.isNan : FVal → Bool
  | .nan => true
  | _ => false

def FVal.neg? : FVal → Bool
  | .nan => false
  | .inf n => n
  | .fin n _ _ => n

def FVal.negate : FVal → FVal
  | .nan => .nan
  | .inf n => .inf (!n)
  | .fin n m e => .fin (!n) m e

def FVal.abs : FVal → FVal
  | .nan => .nan
  | .inf _ => .inf false
  | .fin _ m e => .fin false m e

/-- (−1)^neg × m as an integer. -/
def sInt (neg : Bool) (m : Nat) : Int := if neg then -(m : Int) else m

/-- An exact integer multiple of 2^e as a value; an exact zero takes the sign `zneg`. -/
def ofInt (i : Int) (e : Int) (zneg : Bool) : FVal :=
  if i = 0 then .fin zneg 0 e else .fin (decide (i < 0)) i.natAbs e

/-- The exact sum (a zero sum is +0 unless both terms are negative, IEEE 754 round-half-even). -/
def fAdd : FVal → FVal → FVal
  | .nan, _ => .nan
  | _, .nan => .nan
  | .inf a, .inf b => if a = b then .inf a else .nan
  | .inf a, _ => .inf a
  | _, .inf b => .inf b
  | .fin s m e, .fin t n d =>
    let k := min e d
    ofInt (sInt s m * 2 ^ (e - k).toNat + sInt t n * 2 ^ (d - k).toNat) k (s && t)

/-- The exact product. -/
def fMul : FVal → FVal → FVal
  | .nan, _ => .nan
  | _, .nan => .nan
  | .inf a, .inf b => .inf (a != b)
  | .inf a, .fin s m _ => if m = 0 then .nan else .inf (a != s)
  | .fin s m _, .inf b => if m = 0 then .nan else .inf (b != s)
  | .fin s m e, .fin t n d => .fin (s != t) (m * n) (e + d)

/-- R313: the quotient, rounded once. -/
def fDiv32 : FVal → FVal → W32
  | .nan, _ => rn32 .nan
  | _, .nan => rn32 .nan
  | .inf _, .inf _ => rn32 .nan
  | .inf a, .fin s _ _ => rn32 (.inf (a != s))
  | .fin s _ _, .inf b => rn32 (.fin (s != b) 0 0)
  | .fin s m e, .fin t n d =>
    if n = 0 then (if m = 0 then rn32 .nan else rn32 (.inf (s != t)))
    else rn32Sticky (.fin (s != t) (m * 2 ^ 64 / n) (e - d - 64)) (decide (m * 2 ^ 64 % n ≠ 0))

/-- Bits of an integer square root, from bit n − 1 down. -/
def isqrtGo : Nat → Nat → Nat → Nat
  | 0, _, r => r
  | n + 1, m, r => let r' := r + 2 ^ n; if r' * r' ≤ m then isqrtGo n m r' else isqrtGo n m r

/-- ⌊√m⌋ for m < 2^128. -/
def isqrt (m : Nat) : Nat := isqrtGo 64 m 0

/-- R313: the square root, rounded once; −0 gives −0, a negative value NaN. -/
def fSqrt32 : FVal → W32
  | .nan => rn32 .nan
  | .inf neg => if neg then rn32 .nan else rn32 (.inf false)
  | .fin neg m e =>
    if m = 0 then rn32 (.fin neg 0 0)
    else if neg then rn32 .nan
    else
      let odd := (e % 2).toNat
      let m' := m * 2 ^ (64 + odd)
      let r := isqrt m'
      rn32Sticky (.fin false r ((e - odd - 64) / 2)) (decide (r * r ≠ m'))

/-- Order of two values that are not NaN; −0 = +0. -/
def fLt : FVal → FVal → Bool
  | .inf a, .inf b => a && !b
  | .inf a, .fin _ _ _ => a
  | .fin _ _ _, .inf b => !b
  | .fin s m e, .fin t n d =>
    let k := min e d
    decide (sInt s m * 2 ^ (e - k).toNat < sInt t n * 2 ^ (d - k).toNat)
  | _, _ => false

/-- Equality of two values that are not NaN; −0 = +0. -/
def fEq (a b : FVal) : Bool := !a.isNan && !b.isNan && !fLt a b && !fLt b a

/-- IEEE 754-2019 minimum of two values that are not NaN: −0 lies below +0. -/
def fMin2 (a b : FVal) : FVal :=
  if fLt a b then a else if fLt b a then b else if a.neg? then a else b

/-- IEEE 754-2019 maximum of two values that are not NaN. -/
def fMax2 (a b : FVal) : FVal :=
  if fLt a b then b else if fLt b a then a else if a.neg? then b else a

def fMin (a b : FVal) : FVal := if a.isNan || b.isNan then .nan else fMin2 a b
def fMax (a b : FVal) : FVal := if a.isNan || b.isNan then .nan else fMax2 a b
def fMinNum (a b : FVal) : FVal := if a.isNan then b else if b.isNan then a else fMin2 a b
def fMaxNum (a b : FVal) : FVal := if a.isNan then b else if b.isNan then a else fMax2 a b

/-! ### Conversions -/

/-- The result of a conversion: its code, whether it saturated (R171), and whether a NaN became an integer (R170). -/
structure Conv where
  code : Nat
  sat : Bool := false
  nan : Bool := false
deriving DecidableEq, Repr

/-- R169: saturation of a rounded magnitude code. -/
def satCode (f : Fmt) (neg : Bool) (c : Nat) : Conv :=
  if c > f.maxc then ⟨withSign f neg f.maxc, true, false⟩ else ⟨withSign f neg c, false, false⟩

/-- R169, R170, R176: conversion to a floating-point format, the finite case rounded by `rnd`. -/
def fConvWith (f : Fmt) (rnd : Nat → Int → Nat) : FVal → Conv
  | .nan => ⟨f.nan, false, false⟩
  | .inf neg =>
    match f.inf with
    | some c => ⟨withSign f neg c, false, false⟩
    | none => ⟨withSign f neg f.maxc, true, false⟩
  | .fin neg m e => satCode f neg (rnd m e)

/-- R169: round half to even. -/
def fConv (f : Fmt) (v : FVal) : Conv := fConvWith f (fun m e => roundCode f m e false) v

/-- R176: F + bits ≥ 2^24 rounds away from zero. -/
def srUp (rem r : Nat) (bits : W32) : Bool :=
  decide (rem * 2 ^ 24 / 2 ^ r + bits.toNat % 2 ^ 24 ≥ 2 ^ 24)

/-- R176: the magnitude code of m × 2^e, stochastically rounded. -/
def srCode (f : Fmt) (bits : W32) (m : Nat) (e : Int) : Nat :=
  let c := cutTo f m e
  magCode f (if srUp c.rem c.r bits then c.n + 1 else c.n) c.q

/-- R176: stochastic conversion to a floating-point format. -/
def fConvSr (f : Fmt) (bits : W32) (v : FVal) : Conv := fConvWith f (srCode f bits) v

/-- How an integer conversion rounds: SUB[1:0] of R315, or stochastically (R176). -/
inductive IntRnd where
  | halfEven | zero | down | up
  | stoch (bits : W32)
deriving DecidableEq, Repr

/-- m × 2^e rounded to an integer. -/
def roundInt (rnd : IntRnd) (neg : Bool) (m : Nat) (e : Int) : Int :=
  if 0 ≤ e then sInt neg (m * 2 ^ e.toNat)
  else
    let r := (-e).toNat
    let n := m / 2 ^ r
    let rem := m % 2 ^ r
    let away := match rnd with
      | .halfEven => decide (halfEven n rem r false = n + 1)
      | .zero => false
      | .down => neg && decide (rem ≠ 0)
      | .up => !neg && decide (rem ≠ 0)
      | .stoch bits => srUp rem r bits
    sInt neg (if away then n + 1 else n)

/-- An integer conversion: its value, whether it saturated, whether it was a NaN. -/
structure IConv where
  val : Int
  sat : Bool := false
  nan : Bool := false
deriving DecidableEq, Repr

/-- R170, R173: conversion to an integer range. -/
def toInt (rnd : IntRnd) (lo hi : Int) : FVal → IConv
  | .nan => ⟨0, false, true⟩
  | .inf neg => ⟨if neg then lo else hi, true, false⟩
  | .fin neg m e =>
    let i := roundInt rnd neg m e
    if i > hi then ⟨hi, true, false⟩ else if i < lo then ⟨lo, true, false⟩ else ⟨i, false, false⟩

/-- R172: the E8M0 scale of an MXFP4 block of finite or infinite values: none for an all-zero block. -/
def mxScale (vs : List FVal) : Option Nat :=
  let logs := vs.filterMap fun v => match v with
    | .fin _ m e => if m = 0 then none else some (e + Nat.log2 m)
    | .inf _ => some 127
    | .nan => none
  match logs with
  | [] => none
  | l :: ls => some (max 0 (min 254 (ls.foldl max l - 2 + 127))).toNat

/-- R170, R172: one MXFP4 block: scale, element codes, saturations. `bits i`: the generator's bits of element i where the
rounding is stochastic. -/
def mxBlock (bits : Option (Nat → W32)) (vs : List FVal) : Nat × List Nat × Nat :=
  if vs.any FVal.isNan then (0xFF, vs.map fun _ => 0, 0)
  else
    match mxScale vs with
    | none => (0, vs.map fun _ => 0, 0)
    | some sc =>
      let down : FVal → FVal := fun v => match v with
        | .fin neg m e => .fin neg m (e - sc + 127)
        | v => v
      let cs := vs.mapIdx fun i v => match bits with
        | none => fConv e2m1Fmt (down v)
        | some b => fConvSr e2m1Fmt (b i) (down v)
      (sc, cs.map (·.code), (cs.filter (·.sat)).length)

/-- R167: the value of an MXFP4 element under its block's scale. -/
def mxVal (scale elem : Nat) : FVal :=
  if scale = 0xFF then .nan
  else match fDecode e2m1Fmt elem with
    | .fin neg m e => .fin neg m (e + scale - 127)
    | v => v

/-- R174: the counter-based generator. -/
def srBits (seed a b : W64) : W32 :=
  let x := seed ^^^ (a * 0xD6E8FEB86659FD93#64)
  let x := x ^^^ (b * 0x9E3779B97F4A7C15#64)
  let rnd := fun (x : W64) =>
    let x := x ^^^ (x >>> 32)
    let x := x * 0xD6E8FEB86659FD93#64
    x ^^^ (x >>> 29)
  ((rnd (rnd (rnd (rnd x)))) >>> 32).setWidth 32

/-- R130: FP32 to the 64-bit fixed point of exponent `e`: round half to even, clamped to 64 bits; NaN gives 0. -/
def toFixed (e : Int) (v : FVal) : IConv :=
  match v with
  | .fin neg m x => toInt .halfEven (-(2 ^ 63)) (2 ^ 63 - 1) (.fin neg m (x - e))
  | v => toInt .halfEven (-(2 ^ 63)) (2 ^ 63 - 1) v

/-- R147's G: RN(i × 2^e). -/
def ofFixed (i : Int) (e : Int) : W32 := rn32 (ofInt i e false)

/-- R131: the saturating 64-bit sum, and whether it saturated. -/
def satAdd64 (a b : W64) : W64 × Bool :=
  let s := a.toInt + b.toInt
  if s > 2 ^ 63 - 1 then (wrap64 (2 ^ 63 - 1), true)
  else if s < -(2 ^ 63) then (wrap64 (-(2 ^ 63)), true)
  else (wrap64 s, false)

end Sys2Proof.Machine
end

