-- ==== Sys2Proof/Machine/Ops.lean ====
section
/-! DEFINITION. The shared operations: outcomes, reading and changing one tenancy, port, cluster, ring, hitch, cart or order,
pinned memory, command completion, arrival counters, epochs and tickets, carts. -/

namespace Sys2Proof.Machine

/-- The outcome of a command. -/
abbrev Out := Host.Outcome State Fault Refusal

/-- The event of the row cannot take place in this state. -/
def no (why : String) : Out := .refused (.notEnabled why)

/-- The command takes effect where its condition holds. -/
def when (b : Bool) (why : String) (t : State) : Out := if b then .next t else no why

/-- R448: the block takes writes of the whole control window: not OFF, SAFE or CONTAINED, and not held in reset. -/
def State.opened (s : State) : Bool :=
  !s.resetLow && match s.st with
    | .loaded | .ready | .serving | .draining => true
    | .off | .safe | .contained => false

/-- R448: a host write outside `CTL_`, `PER_`, `FW_` and `ERR_`: `t` where the block takes it, else nothing changes. -/
def State.hostWrite (s t : State) : Out := .next (if s.opened then t else s)

/-- A fresh free value, and the counter moved on. -/
def State.fresh (s : State) : W32 × State := (Config.freeWord s.free, { s with free := s.free + 1 })

/-! ### One element of a table of the state -/

def State.ten (s : State) (t : Nat) : Tenancy := s.tens.getD t {}
def State.modTen (s : State) (t : Nat) (f : Tenancy → Tenancy) : State := { s with tens := modAt s.tens t f }
def State.port (s : State) (p : Nat) : Port := s.ports.getD p {}
def State.modPort (s : State) (p : Nat) (f : Port → Port) : State := { s with ports := modAt s.ports p f }
def State.cluster (s : State) (c : Nat) : Cluster := s.clusters.getD c {}
def State.modCluster (s : State) (c : Nat) (f : Cluster → Cluster) : State := { s with clusters := modAt s.clusters c f }
def State.ring (s : State) (r : Nat) : Ring := s.rings.getD r {}
def State.modRing (s : State) (r : Nat) (f : Ring → Ring) : State := { s with rings := modAt s.rings r f }
def State.task? (s : State) (id : Nat) : Option Task := s.tasks.find? (·.id == id)
def State.order? (s : State) (id : Nat) : Option Order := s.orders.find? (·.id == id)
def State.modOrder (s : State) (id : Nat) (f : Order → Order) : State :=
  { s with orders := modWhere (·.id == id) f s.orders }
def State.setBody (s : State) (id : Nat) (b : OrderBody) : State := s.modOrder id fun o => { o with body := b }
def State.dropOrder (s : State) (id : Nat) : State := { s with orders := s.orders.filter (·.id != id) }
def State.cohort? (s : State) (task num : Nat) : Option Cohort := s.cohorts.find? fun c => c.task == task && c.num == num
def State.modCohort (s : State) (task num : Nat) (f : Cohort → Cohort) : State :=
  { s with cohorts := modWhere (fun c => c.task == task && c.num == num) f s.cohorts }
def State.coach? (s : State) (c : CoachRef) : Option Coach := (s.cohort? c.task c.cohort).bind (·.coaches[c.coach]?)
def State.modCoach (s : State) (c : CoachRef) (f : Coach → Coach) : State :=
  s.modCohort c.task c.cohort fun h => { h with coaches := modAt h.coaches c.coach f }
def State.setCoach (s : State) (c : CoachRef) (k : Coach) : State := s.modCoach c fun _ => k

def Tenancy.hitch? (t : Tenancy) (h : Nat) : Option Hitch := t.hitches.find? (·.num == h)
def State.hitch? (s : State) (t h : Nat) : Option Hitch := (s.ten t).hitch? h
def State.modHitch (s : State) (t h : Nat) (f : Hitch → Hitch) : State :=
  s.modTen t fun x => { x with hitches := modWhere (·.num == h) f x.hitches }
def Tenancy.table? (t : Tenancy) (n : Nat) : Option Table := t.tables.find? (·.num == n)
def State.modTable (s : State) (t n : Nat) (f : Table → Table) : State :=
  s.modTen t fun x => { x with tables := modWhere (·.num == n) f x.tables }

/-- R408, R410: the slot a context occupies. -/
def Tenancy.slotOf (t : Tenancy) (ctx : Nat) : Option Nat :=
  leastFrom (fun n => match t.slots[n]? with
    | some x => x.st != .empty && x.ctx == ctx
    | none => false) 4

def Tenancy.slot (t : Tenancy) (n : Nat) : Slot := t.slots.getD n {}
def Tenancy.modSlot (t : Tenancy) (n : Nat) (f : Slot → Slot) : Tenancy := { t with slots := modAt t.slots n f }
def State.modSlot (s : State) (t n : Nat) (f : Slot → Slot) : State := s.modTen t fun x => x.modSlot n f

/-- R409: fields of `TEN_CTXn_LANE` and `TEN_CTXn_SP`. -/
def Slot.cohortSlots (x : Slot) : Nat := bitsOf x.lane.toNat 0 5
def Slot.coachSlots (x : Slot) : Nat := bitsOf x.lane.toNat 5 7
def Slot.regs (x : Slot) : Nat := bitsOf x.lane.toNat 12 9 * 256
def Slot.llmBytes (x : Slot) : Nat := bitsOf x.lane.toNat 21 9 * 1024
def Slot.spBase (x : Slot) : Nat := bitsOf x.sp.toNat 0 11 * 4096
def Slot.spSize (x : Slot) : Nat := bitsOf x.sp.toNat 11 12 * 4096
def Slot.hasUnits (x : Slot) : Bool := bitOf x.sp.toNat 23
/-- R410: scratchpad offsets of tasks, pools and windows lie below this. -/
def Slot.spLimit (x : Slot) : Nat := if x.hasUnits then x.spSize - Config.unitArea else x.spSize

/-- R498: fields of `TEN_CTXn_XWIN`. -/
def Slot.xwBase (x : Slot) : Nat := bitsOf x.xwin.toNat 0 7 * 65536
/-- R65: whole units of 64 KiB in [12:8], so 31 at most (DEDUCED, log 161). -/
def Slot.xwSize (x : Slot) : Nat := bitsOf x.xwin.toNat 8 5 * 65536
def Slot.xwClusters (x : Slot) : Nat := bitsOf x.xwin.toNat 16 8

/-- R370: timetabled while a port of its membership is armed, running or braking. -/
def Tenancy.timetabled (t : Tenancy) : Bool :=
  match t.tt with
  | some x => x.st != .loaded
  | none => false

/-- R407, R461: a cluster's units serve tenancy t. -/
def State.granted (s : State) (t c : Nat) : Bool :=
  (s.ten t).st != .free && bitOf (s.ten t).clusters.toNat c && bitOf s.enCluster.toNat c

/-- R424: the quiesce that runs is of this function; TARGET holds bits [23:0] of the write (log 49). -/
def State.quiescing (s : State) (kind index : Nat) : Bool :=
  s.quiesce.st == 1 && bitsOf s.quiesce.target.toNat 0 3 == kind && bitsOf s.quiesce.target.toNat 8 8 == index

/-- R424: a cluster that takes a tenancy's new cohorts and orders. -/
def State.admits (s : State) (t c : Nat) : Bool := s.granted t c && !s.quiescing 0 c

/-- R421: the slot of a context is being parked. -/
def Tenancy.parking (t : Tenancy) (ctx : Nat) : Bool := (t.slotOf ctx).any fun n => (t.slots[n]?).any (·.st == .parking)

/-- R21: the coupling chain of a tenancy. -/
def State.chain (s : State) (t : Nat) : List Nat := (List.range 8).filter (s.granted t)

/-! ### The scratchpad of a context (R18, R53) -/

/-- Bytes of the scratchpad of cluster c. -/
def State.spBytes (s : State) (c a n : Nat) : List Byte := memBytes (s.cluster c).sp a n
def State.spWrite (s : State) (c a : Nat) (bs : List Byte) : State :=
  s.modCluster c fun x => { x with sp := memPut x.sp a bs }

/-- n bytes at a whose values the spec leaves open (log 157); `k` is the model's counter of free values. -/
def memFree (k : Nat) (m : List Host.Cell) (a n : Nat) : List Host.Cell :=
  memPatch (memZero m a n) ((Config.freeCells k).filter fun c => decide (a ≤ c.1 ∧ c.1 < a + n))

/-- The start of the context's share of the cluster's scratchpad (R53). -/
def State.spShare (s : State) (t : Task) : Nat :=
  match (s.ten t.ten).slotOf t.ctx with
  | some n => ((s.ten t.ten).slot n).spBase
  | none => 0

/-- The start of a context's share in every cluster. -/
def State.ctxShare (s : State) (ten ctx : Nat) : Nat :=
  match (s.ten ten).slotOf ctx with
  | some n => ((s.ten ten).slot n).spBase
  | none => 0

/-! ### Channel groups (R383–R386) -/

/-- R383: the channel group of a pool address. -/
def channelGroup (pa : Nat) : Nat := 16 * bitsOf pa 30 1 + bitsOf pa 21 4

/-- R386: the mask holds the whole half that a 1 GiB leaf spans. -/
def wholeHalf (mask pa : Nat) : Bool := bitsOf mask (16 * bitsOf pa 30 1) 16 == 0xFFFF

/-- R385: an access exempt from the group check uses the groups of `MEM_SVC_GRP` as well. -/
def State.groupOk (s : State) (t : Tenancy) (pa : Nat) (svc : Bool) : Bool :=
  bitOf t.chgrp.toNat (channelGroup pa) || (svc && bitOf s.mem.svc.toNat (channelGroup pa))

/-- R385, R386: the group check of an access through a leaf. -/
def State.leafOk (s : State) (t : Tenancy) (big : Bool) (pa : Nat) (svc : Bool) : Bool :=
  s.groupOk t pa svc && (!big || wholeHalf t.chgrp.toNat pa)

/-- R277: the place a physical address names. -/
inductive PaSpace where
  | pool
  | ownPod
  | pod (pkg : Nat)
  | window
  | reserved
deriving DecidableEq, Repr

/-- R277: bits [51:46] of a physical address; the own package's number in the pod reaches the own pool. -/
def State.paSpace (s : State) (pa : Nat) : PaSpace :=
  let v := bitsOf pa 46 6
  if v = 0 then .pool
  else if v ≤ 0x20 then (if v - 1 = bitsOf s.haddr.toNat 1 5 then .ownPod else .pod (v - 1))
  else if v < 0x3C then .reserved
  else .window

/-- R277: the physical address lies in the own package's pool. -/
def State.ownPool (s : State) (pa : Nat) : Bool := s.paSpace pa == .pool || s.paSpace pa == .ownPod

/-! ### Memory errors (R397, R404) -/

/-- R397: the next free entry of `MEM_ERRLOG` takes an address; with none free, LOST is set. -/
def State.logError (s : State) (pa ten : Nat) : State :=
  match leastFrom (fun n => (s.mem.errlog[n]?).any fun e => !e.valid) 16 with
  | some n =>
    State.markSet { s with mem := { s.mem with
        errlog := s.mem.errlog.set n ⟨BitVec.ofNat 52 pa, BitVec.ofNat 3 ten, true⟩ } } (0x6100 + 8 * n) 63
  | none => s.setLost

/-- R397: granules become poisoned. -/
def State.addPoison (s : State) (gs : List Nat) : State :=
  { s with mem := { s.mem with poison := gs.foldl insertNew s.mem.poison } }

/-- `MEM_MARGIN`: EN, GRP, PAT, TEN. -/
def marginEn (v : W64) : Bool := bitOf v.toNat 0
def marginGrp (v : W64) : Nat := bitsOf v.toNat 1 5
def marginPat (v : W64) : Nat := bitsOf v.toNat 6 2
def marginTen (v : W64) : Nat := bitsOf v.toNat 16 3

/-- R404: an uncorrectable error in live traffic of the generator's group stops it. -/
def State.marginStop (s : State) (grp : Nat) : State :=
  if marginEn s.mem.margin ∧ marginGrp s.mem.margin = grp then
    { s with mem := { s.mem with margin := s.mem.margin &&& 0x7FFFE } }
  else s

/-- R397: granules found bad are held poisoned from then on. -/
def State.poisonBad (s : State) (gs : List Nat) : State :=
  { s.addPoison gs with mem := { (s.addPoison gs).mem with bad := s.mem.bad.filter fun g => !gs.contains g } }

/-- R397: granules found bad by one read: the first is logged, and the generator of its group stops. -/
def State.foundBad (s : State) (ten : Nat) (gs : List Nat) : State :=
  let s := s.poisonBad gs
  match gs with
  | [] => s
  | g :: _ => (s.logError (64 * g) ten).marginStop (channelGroup (64 * g))

/-- R397: a read of the n bytes at pa for a tenancy has met what it meets. -/
def State.meetBad (s : State) (ten pa n : Nat) : State := s.foundBad ten (sortDistinct (s.mem.bad.filter (meets pa n)))

/-! ### Pinned memory (R55, R56) -/

/-- A locked leaf that covers a device address. -/
def State.lockedAt (s : State) (t va : Nat) : Option TlbEntry :=
  (s.xlt.btlb.find? fun x =>
    x.2.2.locked && x.2.2.ten == t && decide (x.2.2.va ≤ va)
      && decide (va < x.2.2.va + (if x.2.2.big then 2 ^ 30 else 2 ^ 21))).map (·.2.2)

/-- R55: a pinned range of the tenancy holds the address. -/
def Tenancy.inPin (t : Tenancy) (va : Nat) : Bool :=
  t.pins.any fun p => p.st == 2 && decide (p.base.toNat * 2 ^ 21 ≤ va)
    && decide (va < p.base.toNat * 2 ^ 21 + p.size.toNat * 2 ^ 21)

/-- R56: the physical address of a pinned byte and whether its leaf allows writes; none: outside every pinned range. -/
def State.pinned (s : State) (t va : Nat) : Option (Nat × Bool) :=
  if (s.ten t).inPin va then (s.lockedAt t va).map fun e => (e.pa + (va - e.va), e.w) else none

/-- R277, R385, R386: the front end or the arena unit may reach a pinned byte: it lies in the own pool and passes the group
check; `svc`: the access is to one of the structures exempt under R385. -/
def State.pinGroup (s : State) (t va : Nat) (svc : Bool) : Bool :=
  match s.lockedAt t va with
  | some e => s.ownPool (e.pa + (va - e.va)) && s.leafOk (s.ten t) e.big (e.pa + (va - e.va)) svc
  | none => false

/-- R55: n bytes from va on are pinned (a naturally aligned access never leaves its leaf; a longer one is checked at both
ends and every 2 MiB boundary between). -/
def State.pinnedRange (s : State) (t va n : Nat) : Bool :=
  decide (va + n ≤ 2 ^ 48) && (s.pinned t va).isSome
    && (List.range (n / 2 ^ 21 + 2)).all fun k =>
      let a := (va / 2 ^ 21 + k) * 2 ^ 21
      decide (va + n ≤ a) || decide (a < va) || (s.pinned t a).isSome

/-- Bytes read through pinned translations, cut at 2 MiB boundaries. -/
def pinReadGo (s : State) (t : Nat) : Nat → Nat → Nat → List Byte
  | 0, _, _ => []
  | f + 1, va, n =>
    if n = 0 then []
    else
      let k := min n (2 ^ 21 - va % 2 ^ 21)
      match s.pinned t va with
      | some (pa, _) => s.poolBytes pa k ++ pinReadGo s t f (va + k) (n - k)
      | none => []

/-- The physical pieces of n pinned bytes, cut at 2 MiB boundaries. -/
def State.pinPieces (s : State) (t va n : Nat) : List (Nat × Nat) :=
  (List.range (n / 2 ^ 21 + 2)).filterMap fun k =>
    let lo := max va ((va / 2 ^ 21 + k) * 2 ^ 21)
    let hi := min (va + n) ((va / 2 ^ 21 + k + 1) * 2 ^ 21)
    if hi ≤ lo then none else (s.pinned t lo).map fun x => (x.1, hi - lo)

/-- R397: a read of n pinned bytes has met what it meets. -/
def State.meetPinned (s : State) (t va n : Nat) : State :=
  (s.pinPieces t va n).foldl (fun (s : State) p => s.meetBad t p.1 p.2) s

/-- What a front-end or status-record read of pinned memory gives (R367). -/
inductive PinRead where
  | outside
  | lost (code pa : Nat)
  | bytes (l : List Byte)

/-- R385: the group check at the first byte and at every 2 MiB boundary of a pinned range. -/
def State.pinGroups (s : State) (t va n : Nat) (svc : Bool) : Bool :=
  s.pinGroup t va svc && (List.range (n / 2 ^ 21 + 2)).all fun k =>
    let a := (va / 2 ^ 21 + k) * 2 ^ 21
    decide (va + n ≤ a) || decide (a < va) || s.pinGroup t a svc

/-- R367: n bytes of pinned memory read by the front end; bytes outside the own pool or the allowed groups read as outside (log 41). -/
def State.pinRead (s : State) (t va n : Nat) (svc : Bool := false) : PinRead :=
  if !s.pinnedRange t va n || !s.pinGroups t va n svc then .outside
  else
    match (s.pinPieces t va n).findSome? fun p => s.lost p.1 p.2 with
    | some l => .lost l.1 l.2
    | none => .bytes (pinReadGo s t (n / 2 ^ 21 + 2) va n)

/-- Bytes written through a pinned translation (a structure that does not cross a leaf and that R385 exempts). -/
def State.pinWrite (s : State) (t va : Nat) (bs : List Byte) : State :=
  match s.pinned t va with
  | some (pa, w) => if w && s.pinGroup t va true then s.poolWrite pa bs else s
  | none => s

/-! ### Command completion (R353, R354) -/

/-- Completion status codes (R353). -/
def stDone : Nat := 0
def stRefused : Nat := 1
def stFailed : Nat := 2
def stDiscarded : Nat := 3

/-- R353, R444: the completion record, and the COMPLETE event where the command asked for one or is INVALIDATE_ALL. A
record whose place is not pinned is not written (R367); a refused command writes no COMPLETE event (log 50); the REASON of
a discarded command is a free value (log 71). -/
def State.complete (s : State) (c : CmdRef) (status reason : Nat) (res0 res1 : Nat) : State :=
  let (reason, s) := if status = stDiscarded then (s.fresh.1.toNat % 256, s.fresh.2) else (reason, s)
  let rec0 := toLe 1 c.opcode ++ toLe 1 status ++ toLe 2 reason ++ toLe 4 c.entry.usertag.toNat ++ toLe 8 s.tick
    ++ toLe 8 res0 ++ toLe 8 res1
  let va := c.entry.result.toNat
  let s := if va = 0 ∨ va % 32 ≠ 0 then s else s.pinWrite c.ten va rec0
  if status ≠ stRefused ∧ (bitOf c.entry.flags.toNat 0 ∨ c.opcode = 6) then
    s.event 0xA0 0 (tenCtx c.ten c.ctx) 0 (c.ring + c.idx.toNat * 2 ^ 32) (feWord + status * 2 ^ 16)
  else s

/-- R354: the ring goes on where the command held it. -/
def State.releaseRing (s : State) (c : CmdRef) : State :=
  s.modRing c.ring fun r =>
    match r.hold with
    | .command d => if d == c then { r with hold := .none } else r
    | .fence d _ => if d == c then { r with hold := .none } else r
    | .none => r

/-- A command completed and its ring released. -/
def State.finish (s : State) (c : CmdRef) (status reason res0 res1 : Nat) : State :=
  (s.complete c status reason res0 res1).releaseRing c

/-- R76: the ring is stopped at its head. -/
def State.stopRing (s : State) (r reason : Nat) : State :=
  s.modRing r fun x => { x with stopped := true, reason := BitVec.ofNat 8 reason }

/-! ### Epochs and tickets (R156–R158) -/

/-- R156: the current epoch taken as a ticket. -/
def Tenancy.takeTicket (t : Tenancy) : Tenancy :=
  { t with
    tickTaken := t.tickTaken + 1
    tracks := if t.tracks.any (·.epoch == t.epoch) then
        modWhere (·.epoch == t.epoch) (fun x => { x with outstanding := x.outstanding + 1 }) t.tracks
      else t.tracks ++ [⟨t.epoch, 1⟩] }

/-- R156: a ticket returned. -/
def Tenancy.returnTicket (t : Tenancy) (e : W32) : Tenancy :=
  { t with
    tickRet := t.tickRet + 1
    tracks := (modWhere (·.epoch == e) (fun x => { x with outstanding := x.outstanding - 1 }) t.tracks).filter
      (·.outstanding != 0) }

/-- R157: `LED_EPOCH_DONE`: one before the oldest epoch with an outstanding ticket, by difference. -/
def Tenancy.epochDone (t : Tenancy) : W32 :=
  match t.tracks.map fun x => (t.epoch - x.epoch).toNat with
  | [] => t.epoch - 1
  | l => t.epoch - BitVec.ofNat 32 (maxOf l) - 1

/-- R158: an advance would reuse the tracking of an epoch with outstanding tickets. -/
def Tenancy.epochBlocked (t : Tenancy) : Bool := t.tracks.any fun x => x.epoch == t.epoch - 7

/-- A ticket of an order returned to its tenancy. -/
def State.returnTicket (s : State) (t : Nat) (e : Option W32) : State :=
  match e with
  | some e => s.modTen t (·.returnTicket e)
  | none => s

/-! ### Arrival counters (R59–R61, R66) -/

/-- R66: the shared counter a cohort's acN is bound to. -/
def Task.bound (t : Task) (ac : Nat) : Option Nat := (t.binds.find? (·.1 == ac)).map (·.2)

/-- R60: value − target ≥ 0 as a signed difference. -/
def reached (v target : W32) : Bool := decide (0 ≤ (v - target).toInt)

/-- R60: threads whose target is reached no longer wait. -/
def Wait.release (ac : Nat) (v : W32) : Wait → Wait
  | .counter a ts since => if a = ac then .counter a (ts.filter fun x => !reached v x.2) since else .counter a ts since
  | w => w

/-- A coach's waits on acN compared against its new value. -/
def Coach.onCounter (k : Coach) (ac : Nat) (v : W32) : Coach :=
  { k with wait := k.wait.release ac v, aside := k.aside.map fun a => { a with wait := a.wait.release ac v } }

/-- A cohort's unbound counter advanced. -/
def Cohort.addAc (c : Cohort) (ac : Nat) (n : W32) : Cohort :=
  let v := smGet 0 c.ac ac + n
  { c with ac := smSet 0 c.ac ac v, coaches := c.coaches.map (·.onCounter ac v) }

/-- R65: the key of shared counter xcM of cluster c in its slot. -/
def xcKey (cluster m : Nat) : Nat := 16 * cluster + m

/-- Waiting cohorts bound to xcM of a context's cluster compared against its new value. -/
def State.onShared (s : State) (t ctx cluster m : Nat) (v : W32) : State :=
  { s with cohorts := s.cohorts.map fun c =>
      match s.task? c.task with
      | some k =>
        if k.ten = t ∧ k.ctx = ctx ∧ c.cluster = cluster then
          { c with coaches := k.binds.foldl (fun l b => if b.2 = m then l.map (·.onCounter b.1 v) else l) c.coaches }
        else c
      | none => c }

/-- R65, R67: a shared counter advanced. -/
def State.addShared (s : State) (t ctx cluster m : Nat) (n : W32) : State :=
  match (s.ten t).slotOf ctx with
  | none => s
  | some sl =>
    let v := smGet 0 ((s.ten t).slot sl).xc (xcKey cluster m) + n
    State.onShared (s.modSlot t sl fun x => { x with xc := smSet 0 x.xc (xcKey cluster m) v }) t ctx cluster m v

/-- R59, R61, R66: one contribution to acN of a cohort. -/
def State.contribute (s : State) (task cohort ac : Nat) (n : W32) : State :=
  match s.task? task, s.cohort? task cohort with
  | some k, some c =>
    match k.bound ac with
    | some m => s.addShared k.ten k.ctx c.cluster m n
    | none => s.modCohort task cohort (·.addAc ac n)
  | _, _ => s

/-- The value acN shows the cohort. -/
def State.acValue (s : State) (k : Task) (c : Cohort) (ac : Nat) : W32 :=
  match k.bound ac with
  | some m =>
    match (s.ten k.ten).slotOf k.ctx with
    | some sl => smGet 0 ((s.ten k.ten).slot sl).xc (xcKey c.cluster m)
    | none => 0
  | none => smGet 0 c.ac ac

/-! ### Carts (R229–R231) -/

/-- The lowest-numbered FREE cart: which of them R44 leaves open (DESIGN CHOICE, log 176). -/
def Hitch.freeCart (h : Hitch) : Option Nat :=
  leastFrom (fun i => (h.carts[i]?).any (·.st == .free)) h.carts.length

def Hitch.cart (h : Hitch) (i : Nat) : Cart := h.carts.getD i {}
def Hitch.modCart (h : Hitch) (i : Nat) (f : Cart → Cart) : Hitch := { h with carts := modAt h.carts i f }

/-- R226: a hitch's carts at their scratchpad place: offset of cart i from the start of the context's share. -/
def Hitch.cartAt (h : Hitch) (i : Nat) : Nat := h.base + i * h.size

/-- R231: FREE → FILLING. -/
def Hitch.fill (h : Hitch) (i : Nat) (who : CartHolder) : Hitch :=
  h.modCart i fun c => { c with st := .filling, len := 0, tag := 0, holder := who, rows := none }

/-- R229: FILLING → QUEUED, or onto the chain where the consumer is CHAIN (R234). -/
def Hitch.put (h : Hitch) (i len : Nat) (tag : W32) (first : Nat) : Hitch :=
  if h.cons = 6 then
    { h.modCart i fun c => { c with st := .chain, len := len, tag := tag, holder := .none, clu := first }
      with queue := h.queue ++ [i], produced := h.produced + 1, consumed := h.consumed + 1 }
  else
    { h.modCart i fun c => { c with st := .queued, len := len, tag := tag, holder := .none }
      with queue := h.queue ++ [i], produced := h.produced + 1 }

/-- R230: the oldest QUEUED cart → HELD. -/
def Hitch.take (h : Hitch) (who : CartHolder) : Option (Nat × Hitch) :=
  match h.queue with
  | [] => none
  | i :: q =>
    some (i, { h.modCart i fun c => { c with st := .held, holder := who } with queue := q, consumed := h.consumed + 1 })

/-- HELD, FILLING or CHAIN → FREE. -/
def Hitch.free (h : Hitch) (i : Nat) : Hitch :=
  h.modCart i fun c => { c with st := .free, holder := .none, len := 0, tag := 0, rows := none }

/-- R229: every cart of the pool is FREE. -/
def Hitch.allFree (h : Hitch) : Bool := h.carts.all (·.st == .free)

/-- A cart returned to FREE; a dismantle that waits for it completes by its own event (DISMANTLE_COMPLETE, R239). -/
def State.freeCart (s : State) (t h i : Nat) : State := s.modHitch t h (·.free i)

/-- R236: a task used a hitch. -/
def State.useHitch (s : State) (t h task : Nat) : State := s.modHitch t h fun x => { x with users := insertNew x.users task }

end Sys2Proof.Machine
end

