-- ==== Sys2Proof/Machine/Xlate.lean ====
section
/-! DEFINITION. Translation without its faults' consequences: the walk of the host's tables, the TLBs, and the checks of an
access (R359–R369, R277, R383–R386). -/

namespace Sys2Proof.Machine

/-- R359: a leaf of the host's tables as a tenancy sees it: device and physical start, 1 GiB or 2 MiB, and whether every
entry on the path allows writes. -/
structure Leaf where
  va : Nat
  pa : Nat
  big : Bool
  w : Bool
deriving DecidableEq, Repr

/-- How a walk ends. -/
inductive WalkRes where
  | leaf (l : Leaf)
  | fail (code level : Nat) (malformed : Bool)
  | lost (code pa : Nat)
deriving DecidableEq, Repr

/-- R360: the fields of an entry the walker reads. -/
def pteKind (e : Nat) : Nat := bitsOf e 0 2
def pteDev (e : Nat) : Bool := bitOf e 2
def pteWp (e : Nat) : Bool := bitOf e 3
def pteAddr (e : Nat) : Nat := bitsOf e 12 40 * 4096

/-- R361, R362: why an entry of a level stops the walk. -/
def pteFail (e level : Nat) (write : Bool) : Option WalkRes :=
  let bad :=
    pteKind e = 3 ∨ (pteKind e = 2 ∧ level = 3) ∨ (pteKind e = 1 ∧ bitsOf (pteAddr e) 46 6 ≠ 0)
      ∨ (pteKind e = 2 ∧ level = 2 ∧ bitsOf (pteAddr e) 12 18 ≠ 0) ∨ (pteKind e = 2 ∧ level = 1 ∧ bitsOf (pteAddr e) 12 9 ≠ 0)
  if pteKind e = 0 then some (.fail 0x20 level false)
  else if bad then some (.fail 0x20 level true)
  else if !pteDev e then some (.fail 0x21 level false)
  else if write ∧ pteWp e then some (.fail 0x21 level false)
  else none

/-- Why the entry e at address a stops the walk: its data is lost (R397), or as `pteFail` says. -/
def entryStop (s : State) (a e level : Nat) (write : Bool) : Option WalkRes :=
  match s.lost a 8 with
  | some l => some (.lost l.1 l.2)
  | none => pteFail e level write

/-- R359–R362: the walk of host address `hva` from the root. -/
def walkTables (s : State) (t : Tenancy) (va : Nat) (write : Bool) : WalkRes :=
  let hva := t.apbase.toNat * 2 ^ 30 + va
  let a3 := bitsOf t.xltRoot.toNat 0 32 * 2 ^ 20 + 8 * (hva / 2 ^ 39 % 2 ^ 17)
  let e3 := s.poolWord a3 8
  match entryStop s a3 e3 3 write with
  | some r => r
  | none =>
    let a2 := pteAddr e3 + 8 * (hva / 2 ^ 30 % 512)
    let e2 := s.poolWord a2 8
    match entryStop s a2 e2 2 write with
    | some r => r
    | none =>
      if pteKind e2 = 2 then .leaf ⟨va / 2 ^ 30 * 2 ^ 30, pteAddr e2, true, !pteWp e3 && !pteWp e2⟩
      else
        let a1 := pteAddr e2 + 8 * (hva / 2 ^ 21 % 512)
        let e1 := s.poolWord a1 8
        match entryStop s a1 e1 1 write with
        | some r => r
        | none =>
          if pteKind e1 = 1 then .fail 0x22 1 false
          else .leaf ⟨va / 2 ^ 21 * 2 ^ 21, pteAddr e1, false, !pteWp e3 && !pteWp e2 && !pteWp e1⟩

/-! ### TLBs (R364) -/

def TlbEntry.size (e : TlbEntry) : Nat := if e.big then 2 ^ 30 else 2 ^ 21
def TlbEntry.covers (e : TlbEntry) (t va : Nat) : Bool := e.ten == t && !e.stale && decide (e.va ≤ va) && decide (va < e.va + e.size)
def TlbEntry.leaf (e : TlbEntry) : Leaf := ⟨e.va, e.pa, e.big, e.w⟩

/-- The first-level TLB of a unit: its engine's, or its cluster's mover group's. -/
def State.l1 (s : State) : UnitRef → List TlbEntry
  | .gather e => (s.gtlb.filter (·.1 == e)).map (·.2)
  | .mover m => (s.cluster (m / 8)).tlb
  | .arena c => (s.cluster c).tlb
  | _ => []

/-- Round-robin: a 65th entry displaces the oldest. -/
def pushTlb (l : List TlbEntry) (e : TlbEntry) : List TlbEntry := if l.length < 64 then l ++ [e] else l.drop 1 ++ [e]

/-- An entry installed in a unit's first-level TLB. -/
def State.l1Install (s : State) (u : UnitRef) (e : TlbEntry) : State :=
  match u with
  | .gather g =>
    { s with gtlb := s.gtlb.filter (·.1 != g) ++ (pushTlb (s.l1 u) e).map fun x => (g, x) }
  | .mover m => s.modCluster (m / 8) fun c => { c with tlb := pushTlb c.tlb e }
  | .arena c => s.modCluster c fun x => { x with tlb := pushTlb x.tlb e }
  | _ => s

/-- R364: the set of a leaf in the block TLB. -/
def btlbSet (e : TlbEntry) : Nat := if e.big then e.va / 2 ^ 30 % 512 else e.va / 2 ^ 21 % 512

/-- The way a set gives next: a free one, else the round-robin pointer's first unlocked way. -/
def btlbWay (x : Xlt) (set : Nat) : Option Nat :=
  let at' := fun w => x.btlb.find? fun y => y.1 == set && y.2.1 == w
  match leastFrom (fun w => (at' w).isNone) 8 with
  | some w => some w
  | none =>
    let p := smGet 0 x.brr set
    (leastFrom (fun k => match at' ((p + k) % 8) with
      | some y => !y.2.2.locked
      | none => true) 8).map fun k => (p + k) % 8

/-- An entry installed in the block TLB; with every way of the set locked it is not kept. -/
def Xlt.install (x : Xlt) (e : TlbEntry) : Xlt :=
  let set := btlbSet e
  match btlbWay x set with
  | none => x
  | some w =>
    { x with
      btlb := x.btlb.filter (fun y => !(y.1 == set && y.2.1 == w)) ++ [(set, w, e)]
      brr := smSet 0 x.brr set ((w + 1) % 8) }

def Xlt.lookup (x : Xlt) (t va : Nat) : Option TlbEntry := (x.btlb.find? fun y => y.2.2.covers t va).map (·.2.2)

/-- `XLT_LOCKED`. -/
def Xlt.locked (x : Xlt) : Nat := (x.btlb.filter (·.2.2.locked)).length

/-! ### The checks of one access -/

/-- How an access is translated: its physical address; not held in any TLB; a fault with its code, DETAIL and whether it is
replayable (R369); or a walk whose data is lost (R397). -/
inductive XRes where
  | ok (pa : Nat)
  | miss
  | fault (code detail : Nat) (replay : Bool)
  | lost (code pa : Nat)
deriving DecidableEq, Repr

/-- R277, R362, R385, R386: an access through a leaf. -/
def State.useLeaf (s : State) (t : Tenancy) (l : Leaf) (va : Nat) (write : Bool) (svc : Bool) : XRes :=
  let pa := l.pa + (va - l.va)
  if s.paSpace pa = .reserved then .fault 0x20 0 false
  else if write ∧ !l.w then
    match walkTables s t va true with
    | .fail code level mal => .fault code (level + 4 * b2n mal) true
    | _ => .fault 0x21 (if l.big then 2 else 1) true
  else if s.ownPool pa ∧ !s.leafOk t l.big pa svc then .fault 0x21 8 false
  else .ok pa

/-- R379: write or atomic accesses need write permission. -/
def Access.writes : Access → Bool
  | .write => true
  | .atomic => true
  | _ => false

/-- R364, R382: an access by a unit through what its TLBs hold; the entry that a block-TLB hit brings up is returned for
the first level. -/
def State.xlHit (s : State) (u : UnitRef) (tn va : Nat) (k : Access) : XRes × Option TlbEntry :=
  let t := s.ten tn
  if !t.xltEn then (.fault 0x20 0 false, none)
  else
    match (s.l1 u).find? (·.covers tn va) with
    | some e => (s.useLeaf t e.leaf va k.writes false, none)
    | none =>
      match s.xlt.lookup tn va with
      | some e => (s.useLeaf t e.leaf va k.writes false, some { e with locked := false })
      | none => (.miss, none)

/-- The TLB entry of a walked leaf. -/
def leafEntry (tn : Nat) (l : Leaf) : TlbEntry := ⟨tn, l.big, l.va, l.pa, l.w, false, false, 0⟩

/-- R364: an access translated by what the TLBs hold. -/
def State.xlate (s : State) (u : UnitRef) (tn va : Nat) (k : Access) : XRes × State :=
  match s.xlHit u tn va k with
  | (r, some e) => (r, s.l1Install u e)
  | (r, none) => (r, s)

/-- R365: as `xlate`, with the walk of a miss made at once: traffic of a command that no unit's queue holds (log 13). -/
def State.xlateNow (s : State) (u : UnitRef) (tn va : Nat) (k : Access) : XRes × State :=
  match s.xlate u tn va k with
  | (.miss, s) =>
    let s := s.count cntWalk 1
    match walkTables s (s.ten tn) va k.writes with
    | .fail code level mal => (.fault code (level + 4 * b2n mal) true, s)
    | .lost code pa => (.lost code pa, s.meetBad tn pa 1)
    | .leaf l =>
      let e := leafEntry tn l
      let s := { s with xlt := s.xlt.install e }
      (s.useLeaf (s.ten tn) l va k.writes false, s.l1Install u e)
  | r => r

/-- Where an access would go, by what the TLBs and the tables hold. -/
def State.xlatePeek (s : State) (u : UnitRef) (tn va : Nat) (k : Access) : XRes :=
  match (s.xlHit u tn va k).1 with
  | .miss =>
    match walkTables s (s.ten tn) va k.writes with
    | .leaf l => s.useLeaf (s.ten tn) l va k.writes false
    | _ => .miss
  | r => r

/-- The parts of n bytes at va, cut at 2 MiB boundaries. -/
def leafPieces : Nat → Nat → Nat → List (Nat × Nat)
  | 0, _, _ => []
  | f + 1, va, n =>
    if n = 0 then [] else let k := min n (2 ^ 21 - va % 2 ^ 21); (va, k) :: leafPieces f (va + k) (n - k)

/-- R369, R371: the access an engine could not make. -/
structure AccFault where
  va : Nat
  kind : Access
  code : Nat
  detail : Nat
  replay : Bool
  /-- the granule's address where the fault is MEM_UNCORRECTABLE or MEM_POISON -/
  pa : Nat := 0
deriving DecidableEq, Repr

/-- What a translated read or write of many bytes gives. -/
inductive VRes (α : Type) where
  | ok (a : α) (s : State)
  | bad (f : AccFault) (s : State)
  | miss (va : Nat) (s : State)

/-- One piece of an access by a mover for the block itself, not crossing a 2 MiB boundary: its physical address. Such an access
does not go on to another block (log 12). An address past the device space wraps (log 23). `now`: a miss is walked at once. -/
def State.piece (s : State) (u : UnitRef) (tn va n : Nat) (k : Access) (now : Bool := false) : VRes Nat :=
  let va := va % 2 ^ 48
  match if now then s.xlateNow u tn va k else s.xlate u tn va k with
  | (.ok pa, s') =>
    if s'.ownPool pa then
      match if k = .read then s'.lost pa n else none with
      | some l => .bad ⟨va, k, l.1, 0, false, l.2⟩ (s'.meetBad tn pa n)
      | none => .ok pa s'
    else .bad ⟨va, k, 0x21, 0, false, 0⟩ s'
  | (.fault code detail r, s') => .bad ⟨va, k, code, detail, r, 0⟩ s'
  | (.lost code pa, s') => .bad ⟨va, k, code, 0, false, pa⟩ s'
  | (.miss, s') => .miss va s'

/-- Bytes read through translation, cut at 2 MiB boundaries. -/
def vReadGo (u : UnitRef) (tn : Nat) (now : Bool) : Nat → State → Nat → Nat → List Byte → VRes (List Byte)
  | 0, s, _, _, acc => .ok acc s
  | f + 1, s, va, n, acc =>
    if n = 0 then .ok acc s
    else
      let k := min n (2 ^ 21 - va % 2 ^ 21)
      match s.piece u tn va k .read now with
      | .ok pa s' => vReadGo u tn now f s' (va + k) (n - k) (acc ++ s'.poolBytes pa k)
      | .bad e s' => .bad e s'
      | .miss v s' => .miss v s'

/-! ### Pinned accesses at the shared cache (R318, R391, R394) -/

/-- Bytes of a memory width code (R316). -/
def widthBytes (sub : Nat) : Nat :=
  match sub % 8 with
  | 0 => 1
  | 1 => 1
  | 2 => 2
  | 3 => 2
  | 4 => 4
  | 5 => 8
  | _ => 16

/-- Bytes of one thread's pinned access. -/
def pmWidth (op sub : Nat) : Nat := if op ≤ 5 then widthBytes sub else if op = 6 then 4 else 8

/-- R318, R394: what the shared cache does for one request: the old bytes, and the state after it. -/
def State.pinnedApply (s : State) (a : PinnedAccess) (q : PinnedReq) (cluster : Nat) : List Byte × State :=
  let old := s.poolBytes q.pa (pmWidth a.op a.sub)
  let v := BitVec.ofNat 64 (leNat old)
  match a.op with
  | 6 => (old, s.poolWrite q.pa (toLe 4 ((leNat old + q.b.toNat) % 2 ^ 32)))
  | 7 =>
    let r := satAdd64 v q.b
    (old, (s.count (cntAtomSat cluster) (b2n r.2)).poolWrite q.pa (toLe 8 r.1.toNat))
  | 8 => (old, if v = q.b then s.poolWrite q.pa (toLe 8 q.c.toNat) else s)
  | _ => (old, s)

/-- R391: a later access to the bytes of an outstanding pinned access is served after it: the earlier one is served now, unless the
memory will report its data bad, and its response brings what it met. -/
def State.settleReq (s : State) (r : MemReq) : State :=
  match r.who with
  | .pinned c j =>
    match (s.coach? c).bind (·.access), (s.lost r.pa r.len).isSome with
    | some a, false =>
      match a.reqs.find? (·.thread == j) with
      | some q =>
        let x := s.pinnedApply a q (((s.cohort? c.task c.cohort).map (·.cluster)).getD 0)
        { x.2 with mem := { x.2.mem with
            reqs := modWhere (fun y => y.link == r.link && y.tag == r.tag) (fun y => { y with data := some x.1 }) x.2.mem.reqs } }
      | none => s
    | _, _ => s
  | _ => s

/-- Two ranges of the pool share a byte of the same 8 B. -/
def sameWord (pa n qa m : Nat) : Bool := decide (pa / 8 * 8 < qa + m ∧ qa < (pa + n + 7) / 8 * 8)

/-- R391: the outstanding pinned accesses to the 8 B words of n bytes at pa, in the order sent. -/
def State.serveBefore (s : State) (pa n : Nat) : State :=
  (s.mem.reqs.filter fun r => r.data.isNone && sameWord (poolAddr pa) n r.pa r.len).foldl State.settleReq s

/-! ### A checkpoint's image (R291, R292) -/

/-- R292: the bytes of a piece that software lets change: their image is undefined. -/
def CkPiece.soil (k pa n : Nat) (p : CkPiece) : CkPiece :=
  match p.pa with
  | none => p
  | some q =>
    if sameWord pa n (poolAddr q) p.len then
      { p with bytes := p.bytes.mapIdx fun i b =>
          let a := poolAddr q + i
          if pa ≤ a ∧ a < pa + n then BitVec.ofNat 8 (Config.freeWord (k + (a - pa))).toNat else b }
    else p

/-- R292: n bytes of the pool at pa are written by the host, a lane, a peer or the other block: what the images of running
checkpoints hold of them is undefined. -/
def State.soil (s : State) (pa n : Nat) : State :=
  if s.tens.all (·.ckpt.isNone) then s
  else
    { s with
      free := s.free + n
      tens := s.tens.map fun t => { t with ckpt := t.ckpt.map fun c => { c with image := c.image.map (CkPiece.soil s.free (poolAddr pa) n) } } }

/-- R291: an engine's write to n bytes at a device address waits while a piece of a running checkpoint there has no image yet. -/
def State.ckHolds (s : State) (t va n : Nat) : Bool :=
  (s.ten t).ckpt.any fun c => c.image.any fun p => p.pa.isNone && decide (p.src < va + n ∧ va < p.src + p.len)

/-! ### Writes pass through the row cache (R114, R115) -/

/-- The bytes of a sector at `start` with those of a write at pa laid over it. -/
def overlay (start : Nat) (old : List Byte) (pa : Nat) (bs : List Byte) : List Byte :=
  old.mapIdx fun i b => if pa ≤ start + i ∧ start + i < pa + bs.length then bs.getD (start + i - pa) b else b

/-- R114: every present copy of the written bytes is updated; R115: the miss registers of the written lines are marked. -/
def RowCache.write (c : RowCache) (pa : Nat) (bs : List Byte) : RowCache :=
  let hits := fun (line : Nat) => decide (line * 512 < pa + bs.length ∧ pa < line * 512 + 512)
  { c with
    lines := modWhere (fun l => hits l.line) (fun l =>
      { l with sectors := l.sectors.map fun x => (x.1, overlay (l.line * 512 + x.1 * 128) x.2 pa bs) }) c.lines
    miss := modWhere (fun m => hits m.line) (fun m => { m with marked := true }) c.miss }

/-- R114, R391: a write by an engine to the own pool. -/
def State.engineWrite (s : State) (pa : Nat) (bs : List Byte) : State :=
  let s := (s.serveBefore pa bs.length).poolWrite pa bs
  { s with rc := s.rc.write (poolAddr pa) bs }

/-- R292, R391: a write by a lane to the own pool, past the row cache (R109). -/
def State.laneWrite (s : State) (pa : Nat) (bs : List Byte) : State :=
  ((s.serveBefore pa bs.length).soil pa bs.length).poolWrite pa bs

/-- n bytes at device address va, read by a unit. -/
def State.vRead (s : State) (u : UnitRef) (tn va n : Nat) (now : Bool := false) : VRes (List Byte) :=
  vReadGo u tn now (n / 2 ^ 21 + 2) s va n []

/-- Bytes written through translation, cut at 2 MiB boundaries. -/
def vWriteGo (u : UnitRef) (tn : Nat) (now : Bool) : Nat → State → Nat → List Byte → VRes Unit
  | 0, s, _, _ => .ok () s
  | f + 1, s, va, bs =>
    if bs.isEmpty then .ok () s
    else
      let k := min bs.length (2 ^ 21 - va % 2 ^ 21)
      match s.piece u tn va k .write now with
      | .ok pa s' => vWriteGo u tn now f (s'.engineWrite pa (bs.take k)) (va + k) (bs.drop k)
      | .bad e s' => .bad e s'
      | .miss v s' => .miss v s'

/-- Bytes written at device address va by a unit. -/
def State.vWrite (s : State) (u : UnitRef) (tn va : Nat) (bs : List Byte) (now : Bool := false) : VRes Unit :=
  vWriteGo u tn now (bs.length / 2 ^ 21 + 2) s va bs

end Sys2Proof.Machine
end

