-- ==== Sys2Proof/Machine/Contain.lean ====
section
/-! DEFINITION. What ends work (R236–R239, R432, R438–R443): port and tenancy states, brake orders, checkpoints begun and
failed, the abort of a task, and the four levels of containment. -/

namespace Sys2Proof.Machine

/-! ### States that are reported when they change -/

/-- `LINE_STATE` codes. -/
def portCode : PortSt → Nat
  | .down => 0
  | .training => 1
  | .idle => 2
  | .armed => 3
  | .running => 4
  | .braking => 5

/-- R242: a port moved to a state, with its record. -/
def State.movePort (s : State) (p : Nat) (st : PortSt) : State :=
  if (s.port p).st = st then s
  else (s.modPort p fun x => { x with st := st }).event 0xA2 0 {} 0 (portCode st) (portWord p)

/-- `TEN_STATE` codes. -/
def tenCode : TenSt → Nat
  | .free => 0
  | .loading => 1
  | .running => 2
  | .quiescing => 3
  | .halted => 4

/-- R406: a tenancy moved to a state, with its record. -/
def State.moveTen (s : State) (t : Nat) (st : TenSt) : State :=
  if (s.ten t).st = st then s
  else
    (s.modTen t fun x => { x with st := st }).event 0xAE 0 (tenCtx t 0) 0 (tenCode st + tenCode (s.ten t).st * 8) feWord

/-- `CTL_STATE` codes. -/
def blockCode : BlockSt → Nat
  | .off => 0
  | .safe => 1
  | .loaded => 2
  | .ready => 3
  | .serving => 4
  | .draining => 5
  | .contained => 6

/-- R448: the block moved to a state, with its record; CAUSE on a move to CONTAINED. -/
def State.moveBlock (s : State) (st : BlockSt) : State :=
  if s.st = st then s
  else
    State.event { s with st := st } 0xAF 0 {} 0
      (blockCode st + blockCode s.st * 8 + (if st = .contained then s.cause.toNat * 2 ^ 6 else 0)) feWord

/-! ### The line -/

/-- Ports of a mask. -/
def portsOf (m : W16) : List Nat := setBits 16 m.toNat

/-- A CONTROL message of this tick waiting on each of some ports (R255). -/
def State.sendCtl (s : State) (ps : List Nat) (ctype : Nat) (payload : List Byte) : State :=
  ps.foldl (fun (s : State) p => s.modPort p fun x => { x with ctl := x.ctl ++ [⟨ctype, payload, s.tick⟩] }) s

/-- CTYPE of DISARM (R247, *CONTROL carriages*). -/
def ctDisarm : Nat := 5

/-- A membership's timetable changed. -/
def State.modTt (s : State) (t : Nat) (f : Timetable → Timetable) : State := s.modTen t fun x => { x with tt := x.tt.map f }

/-- The ports of a membership moved together. -/
def State.movePorts (s : State) (ps : List Nat) (st : PortSt) : State := ps.foldl (fun (s : State) p => s.movePort p st) s

/-- BRAKE commands of a membership are done once its ports are IDLE (R354). -/
def State.finishBrakes (s : State) (t : Nat) : State :=
  match (s.ten t).tt with
  | none => s
  | some x =>
    (x.brakeCmds.foldl (fun (s : State) c => s.finish c stDone 0 (s.ten t).brkt.toNat 0) s).modTt t fun y =>
      { y with brakeCmds := [] }

/-- R258, R261: the departure is off: ARMED ports return to IDLE, and a waiting ARM is FAILED. -/
def State.abandonStart (s : State) (t reason rank : Nat) : State :=
  match (s.ten t).tt with
  | none => s
  | some x =>
    let s := s.movePorts ((portsOf x.ports).filter fun p => (s.port p).st == .armed) .idle
    let s := match x.armCmd with
      | some c => s.finish c stFailed reason rank 0
      | none => s
    s.modTt t fun y => { y with st := .loaded, confirmed := false, acks := [], ackCount := 0, nak := none, armCmd := none }

/-- R261: a departure cancelled while ARMED: DISARM goes to the start-tree ports but `except`. -/
def State.cancelDeparture (s : State) (t : Nat) (except : Option Nat) : State :=
  match (s.ten t).tt with
  | none => s
  | some x =>
    let tree := (portsOf x.children ++ (if x.root then [] else [x.parent])).filter fun p => some p != except
    State.finishBrakes ((s.sendCtl tree ctDisarm (toLe 8 x.stamp.toNat ++ toLe 8 (s.ten t).td.toNat ++ toLe 8 0)).abandonStart t 0 0) t

/-- The earlier of two brake ticks, 0 meaning none (R262). -/
def earlier (a b : W64) : W64 := if a = 0 then b else if b = 0 then a else if b < a then b else a

/-- R266: a port that enters DOWN discards its FREE buffers and counts them. -/
def State.portDown (s : State) (p reason : Nat) : State :=
  let x := s.port p
  let n := x.vc0.length + x.vc1.length
  (s.modPort p fun y => { y with
      vc0 := [], vc1 := [], give0 := 0, give1 := 0, discarded := y.discarded + BitVec.ofNat 32 n,
      reason := BitVec.ofNat 8 reason, txDue := false, rxDue := false, rotating := false, ctl := [],
      out := [], swapped := none, jreq := none }).movePort p .down

/-! ### Window requests answered (R281–R283, R373) -/

/-- R282: operation codes. -/
def opRead : Nat := 1
def opWrite : Nat := 2
def opAdd64 : Nat := 3
def opAdd32 : Nat := 4
def opCas64 : Nat := 5
def opResp : Nat := 8

/-- R282: RESP status codes. -/
def rsOk : Nat := 0
def rsRefused : Nat := 1
def rsFault : Nat := 2
def rsPoison : Nat := 3
def rsRange : Nat := 4

/-- R283: a response to a request, ready to leave. -/
def State.respond (s : State) (m : Msg) (status : Nat) (data : List Byte) : State :=
  let r : Msg := { op := opResp, status := status, len := data.length, rtag := m.rtag, src := s.haddr.toNat, win := m.win,
                   kind := m.kind, jobTag := m.jobTag, addr := m.addr, data := data }
  { s with xlt := { s.xlt with resps := s.xlt.resps ++ [⟨m.src, r⟩] } }

/-- The window requests of a tenancy that wait and pass p, and the state without them. -/
def State.takeServed (s : State) (ten : Nat) (p : Served → Bool) : List Served × State :=
  let hit := fun (x : Served) => x.ten == ten && p x
  (s.xlt.served.filter hit, { s with xlt := { s.xlt with served := s.xlt.served.filter fun x => !hit x } })

/-- R281, R373: window requests that waited end with a status. -/
def State.unserve (s : State) (ten : Nat) (p : Served → Bool) : State :=
  let r := s.takeServed ten p
  r.1.foldl (fun (s : State) x => s.respond x.msg rsFault []) r.2

/-- The request that a unit carries. -/
def Served.by (u : UnitRef) (x : Served) : Bool := u == .mover x.mover

/-! ### Pending faults withdrawn (R377) -/

/-- Units no longer stalled on a fault id. -/
def State.unstallFault (s : State) (t : Nat) (fid : W16) : State :=
  { s with xlt := { s.xlt with stalls := s.xlt.stalls.filter fun x => x.2 != .fault t fid } }

/-- Units no longer stalled on a walk of a page. -/
def State.unstallWalk (s : State) (t va : Nat) : State :=
  { s with xlt := { s.xlt with stalls := s.xlt.stalls.filter fun x => x.2 != .walk t va } }

/-- R377: what a party had stalled on pending faults and walks is released; faults nobody waits on are withdrawn. -/
def State.withdraw (s : State) (t : Nat) (who : Serving) : State :=
  let gone := fun (f : PendFault) => f.units.filter fun u => u.serv == who
  let s := (s.ten t).faults.foldl (fun (s : State) f =>
    { s with xlt := { s.xlt with stalls := s.xlt.stalls.filter fun x =>
        !(x.2 == .fault t f.fid && (gone f).any (·.unit == x.1)) } }) s
  let s : State := { s with xlt := { s.xlt with
    stalls := s.xlt.stalls.filter fun x => !(s.xlt.walks ++ s.xlt.walkQ).any fun w =>
      x.2 == .walk t w.va && w.ten == t && w.units.any fun u => u.unit == x.1 && u.serv == who
    walks := s.xlt.walks.map fun w => if w.ten = t then { w with units := w.units.filter (·.serv != who) } else w
    walkQ := s.xlt.walkQ.map fun w => if w.ten = t then { w with units := w.units.filter (·.serv != who) } else w } }
  s.modTen t fun x => { x with
    faults := (x.faults.map fun f => { f with units := f.units.filter (·.serv != who) }).filter fun f => !f.units.isEmpty }

/-- R377, R438: the window requests of a tenancy that wait are answered. -/
def State.unserveAll (s : State) (t : Nat) : State := (s.unserve t fun _ => true).withdraw t .window

/-! ### Checkpoints (R291–R293) -/

/-- The mover that carries a tenancy's checkpoint, park and save traffic: the first of its lowest-numbered cluster (log 13). -/
def State.anyMover (s : State) (t : Nat) : Nat :=
  let c := (s.chain t).headD 0
  8 * c + (leastFrom (fun m => bitOf s.enMover.toNat (8 * c + m)) 8).getD 0

/-- R356: the regions of a checkpoint descriptor. -/
def ckRegions (n : Nat) (bs : List Byte) : List CkRegion :=
  (List.range n).map fun e =>
    let w := fun k => leNat ((bs.drop (64 + 32 * e + k)).take 8)
    ⟨w 0, w 8, w 16⟩

/-- R291: a piece of a region that lies in the own pool as it stands. -/
def State.ckSnap (s : State) (t : Nat) (p : CkPiece) : CkPiece :=
  match s.xlatePeek (.mover (s.anyMover t)) t p.src .read with
  | .ok pa => if s.ownPool pa ∧ (s.lost pa p.len).isNone then { p with pa := some pa, bytes := s.poolBytes pa p.len } else p
  | _ => p

/-- R291: the pieces of the regions, each with its bytes where its source is known; the tenancy's engine writes to the others
wait (log 13). -/
def State.ckImage (s : State) (t : Nat) (rs : List CkRegion) : List CkPiece :=
  rs.flatMap fun r => (leafPieces (r.len / 2 ^ 21 + 2) r.src r.len).map fun p => s.ckSnap t ⟨p.1, p.2, r.dst + (p.1 - r.src), none, []⟩

/-- R293: a CHECKPOINT begins, with the image of this tick. -/
def State.ckBegin (s : State) (c : CmdRef) (regions : List CkRegion) : State :=
  s.modTen c.ten fun x =>
    { x with ckpt := some { cmd := c, taken := s.tick, image := s.ckImage c.ten regions } }

/-- R293: one checkpoint at a time: the next waiting CHECKPOINT begins. -/
def State.ckNext (s : State) (t : Nat) : State :=
  match (s.ten t).ckWait with
  | [] => s
  | (c, rs) :: cs => (s.modTen t fun x => { x with ckWait := cs }).ckBegin c rs

/-- R293: with no checkpoint running, the next one begins. -/
def State.ckRest (t : Nat) (s : State) : State := if (s.ten t).ckpt.isNone then s.ckNext t else s

/-- R293: the running checkpoint ends as failed; its requests and faults are withdrawn. -/
def State.ckEnd (s : State) (t reason : Nat) : State :=
  match (s.ten t).ckpt with
  | none => s
  | some k =>
    let s : State := { s with
      far := s.far.filter (·.who != .ckpt t)
      xlt := { s.xlt with wreqs := s.xlt.wreqs.filter fun w => match w.client with
        | .checkpoint n _ => n != t
        | .far who _ _ => who != .ckpt t
        | _ => true } }
    ((s.withdraw t .checkpoint).modTen t fun x => { x with ckpt := none }).finish k.cmd stFailed reason k.taken 0

/-- R293: as `ckEnd`, and a waiting checkpoint begins. -/
def State.ckFail (s : State) (t reason : Nat) : State :=
  if (s.ten t).ckpt.isNone then s else (s.ckEnd t reason).ckNext t

/-- R293: a brake of the tenancy ends its checkpoint; its REASON is a free value (log 55). -/
def State.ckBrake (s : State) (t : Nat) : State :=
  if (s.ten t).ckpt.isNone then s else s.fresh.2.ckFail t (s.fresh.1.toNat % 256)

/-- R262, R375: a brake ordered at tick B for a membership that runs or brakes; one that is armed is cancelled. -/
def State.orderBrake (s : State) (t : Nat) (b : W64) : State :=
  match (s.ten t).tt with
  | none => s
  | some x =>
    match x.st with
    | .loaded => s
    | .armed => (s.ckBrake t).cancelDeparture t none
    | st =>
      let s := if st = .running then s.ckBrake t else s
      let s := s.movePorts ((portsOf x.ports).filter fun p => (s.port p).st == .running) .braking
      (s.modTt t fun y => { y with st := .braking }).modTen t fun y => { y with brkt := earlier y.brkt b }

/-! ### Abort of a task (R236, R237) -/

/-- R98, R219: something outside the order still holds a read or transfer in flight: a memory request, a miss register, a
window request. -/
def State.busyRead (s : State) (order pos : Nat) : Bool :=
  s.mem.reqs.any (fun r => r.who == .gather order pos || r.who == .xfer order pos)
    || s.rc.miss.any (fun m => m.waits.contains (.gather order pos) || m.waits.contains (.xfer order pos))
    || s.xlt.wreqs.any fun w => match w.client with
      | .gather o p _ => o == order && p == pos
      | .xfer o p _ => o == order && p == pos
      | _ => false

/-- R237: what an aborted order leaves: gather and mover tokens whose requests are already home, positions not finished,
and transfers and completions discarded. -/
structure Leaves where
  gtok : Nat := 0
  mtok : Nat := 0
  pos : Nat := 0
  xfer : Nat := 0

/-- R95, R236, R237: what the abort of one order leaves. -/
def State.leavesOf (s : State) (o : Order) : Leaves :=
  match o.body with
  | .gathQ q =>
    { gtok := (q.flight.filter fun r => r.master.isNone && !s.busyRead o.id r.pos).length, pos := q.count - q.done
      xfer := (q.flight.filter (·.master.isNone)).length + b2n (q.done == q.count) }
  | .gathBk q => { pos := q.count }
  | .gathOvf _ _ _ _ fl => { gtok := (fl.filter fun r => !s.busyRead o.id r.pos).length, xfer := fl.length }
  | .stRun _ r => { mtok := (r.flight.filter fun x => !x.free && !s.busyRead o.id x.n).length, xfer := r.flight.length + b2n (r.ended && r.flight.isEmpty) }
  | _ => {}

/-- R98, R219: the tokens of an aborted order that requests still hold. -/
def State.orphansOf (s : State) (o : Order) : List Orphan :=
  let keep := fun (who : MemClient) (n : Nat) => if s.busyRead o.id n then [(⟨o.unit, o.queue, o.ten, who⟩ : Orphan)] else []
  match o.body with
  | .gathQ q => (q.flight.filter (·.master.isNone)).flatMap fun r => keep (.gather o.id r.pos) r.pos
  | .gathOvf _ _ _ _ fl => fl.flatMap fun r => keep (.gather o.id r.pos) r.pos
  | .stRun _ r => (r.flight.filter (!·.free)).flatMap fun x => keep (.xfer o.id x.n) x.n
  | _ => []

/-- R146: an aborted seal leaves its bank as it stands. -/
def State.unseal (s : State) (o : Order) : State :=
  match o.body with
  | .saddSeal r => s.modTable o.ten r.table fun t =>
      if r.send then { t with send := { t.send with sealing := t.send.sealing.filter (· != o.id) } }
      else { t with recv := { t.recv with sealing := t.recv.sealing.filter (· != o.id) } }
  | _ => s

/-- R236: one order of an aborted task ends. -/
def State.endOrder (s : State) (o : Order) : State :=
  let l := s.leavesOf o
  let s : State := { s with orphans := s.orphans ++ s.orphansOf o, far := s.far.filter (·.who != .order o.id) }
  let s := s.unseal o
  let s := s.returnTicket o.ten o.ticket
  let s := s.modTen o.ten fun x => { x with
    gtokRet := x.gtokRet + BitVec.ofNat 32 l.gtok, mtokRet := x.mtokRet + BitVec.ofNat 32 l.mtok,
    ab := { x.ab with pos := x.ab.pos + BitVec.ofNat 32 l.pos, xfer := x.ab.xfer + BitVec.ofNat 32 l.xfer } }
  { s with
    orders := s.orders.filter (·.id != o.id)
    clusters := s.clusters.map fun c => { c with units := { c.units with wbufs := c.units.wbufs.filter (·.1 != o.id) } }
    xlt := { s.xlt with stalls := s.xlt.stalls.filter fun x =>
      !(x.1 == o.unit && match x.2 with
        | .walk _ _ => !(s.orders.any fun p => p.unit == o.unit && p.id != o.id)
        | .fault _ _ => false) } }

/-- R236: an asynchronous copy of an aborted task ends. -/
def State.endCopy (s : State) (c : Copy) : State :=
  let busy := s.mem.reqs.any (fun r => r.who == .copy c.id) || s.rc.miss.any (·.waits.contains (.copy c.id)) || s.xlt.wreqs.any fun w => match w.client with
    | .copy i _ => i == c.id
    | _ => false
  let s := s.modTen c.ten fun x => { x with
    mtokRet := if busy || c.xfer.isNone then x.mtokRet else x.mtokRet + 1, ab := { x.ab with xfer := x.ab.xfer + 1 } }
  { s with
    copies := s.copies.filter (·.id != c.id)
    orphans := if busy && c.xfer.isSome then s.orphans ++ [⟨.mover c.mover, 0, c.ten, .copy c.id⟩] else s.orphans }

/-- R236, steps 4 and 5, for one hitch of the tenancy: carts that orders or coaches of the task hold return to FREE, and a
hitch the task used is purged; PRODUCED and CONSUMED end equal (R237). -/
def purgeHitch (task : Nat) (h : Hitch) : Hitch × Nat × Nat :=
  let mine := fun (c : Cart) => match c.holder with
    | .order _ t _ => t == task
    | .coach k => k.task == task
    | _ => false
  let used := h.users.contains task
  let ret := (h.carts.filter fun c => (c.st == .filling || c.st == .held) && mine c).length
  let pur := if used then (h.carts.filter fun c => c.st == .queued || c.st == .chain).length else 0
  let carts := h.carts.map fun c =>
    if ((c.st == .filling || c.st == .held) && mine c) || (used && (c.st == .queued || c.st == .chain)) then
      { c with st := .free, len := 0, tag := 0, holder := .none, rows := none }
    else c
  ({ h with carts := carts, queue := if used then [] else h.queue,
            consumed := if used then h.produced else h.consumed, users := h.users.filter (· != task) }, ret, pur)

/-- R236, R237: every hitch of the tenancy, and its counts into the aborted-work ledger. -/
def State.purge (s : State) (t task : Nat) : State :=
  let rs := (s.ten t).hitches.map (purgeHitch task)
  s.modTen t fun x => { x with
    hitches := rs.map (·.1)
    ab := { x.ab with
      cartRet := x.ab.cartRet + BitVec.ofNat 32 ((rs.map (·.2.1)).sum),
      cartPurge := x.ab.cartPurge + BitVec.ofNat 32 ((rs.map (·.2.2)).sum) } }

/-- R224: a task that has ended no longer holds a fence, nor the orders of tasks behind one. -/
def State.releaseFences (s : State) (task : Nat) : State :=
  let s : State := { s with
    tasks := s.tasks.map fun k => { k with held := k.held.filter (· != task) }
    overlaps := s.overlaps.map fun o => { o with tasks := o.tasks.filter (· != task) }
    rings := s.rings.map fun r => match r.hold with
      | .fence c ts => { r with hold := .fence c (ts.filter (· != task)) }
      | _ => r }
  let full := s.rings.filterMap fun r => match r.hold with
    | .fence c [] => some c
    | _ => none
  let laps := (s.overlaps.filter (·.tasks.isEmpty)).map (·.cmd)
  let s : State := { s with overlaps := s.overlaps.filter fun o => !o.tasks.isEmpty }
  (full ++ laps).foldl (fun (s : State) c => s.finish c stDone 0 0 0) s

/-- R114, R115: the row cache where n bytes of the pool at pa have become others. -/
def RowCache.refresh (c : RowCache) (pool : List Host.Cell) (pa n : Nat) : RowCache :=
  let hits := fun (line : Nat) => decide (line * 512 < pa + n ∧ pa < line * 512 + 512)
  { c with
    lines := modWhere (fun l => hits l.line) (fun l =>
      { l with sectors := l.sectors.map fun x => (x.1, x.2.mapIdx fun i b =>
          let a := l.line * 512 + x.1 * 128 + i
          if pa ≤ a ∧ a < pa + n then memGet pool a else b) }) c.lines
    miss := modWhere (fun m => hits m.line) (fun m => { m with marked := true }) c.miss }

/-- R236: bytes become undefined. -/
def State.undefine (t ctx : Nat) (s : State) (d : Dest) : State :=
  let k := s.free
  let s : State := { s with free := s.free + 1 }
  match d.clu with
  | some c => s.modCluster c fun x => { x with sp := memFree k x.sp (s.ctxShare t ctx + d.addr) d.len }
  | none =>
    let pool := memFree k s.mem.pool d.addr d.len
    { s with mem := { s.mem with pool := pool }, rc := s.rc.refresh pool d.addr d.len }

/-- R236: the carts of a hitch that an abort of a task purges, or takes back from an order that was filling them. -/
def Hitch.spoilt (task : Nat) (h : Hitch) : List Nat :=
  (List.range h.carts.length).filter fun i =>
    let c := h.carts.getD i {}
    (h.users.contains task && (c.st == .queued || c.st == .chain)) || (c.st == .filling && match c.holder with
      | .order _ t _ => t == task
      | _ => false)

/-- R236: the destinations of the task's streams and its purged carts (log 157). -/
def State.spoil (s : State) (k : Task) : State :=
  let s := k.dests.foldl (State.undefine k.ten k.ctx) s
  (s.ten k.ten).hitches.foldl (fun (s : State) h =>
    ((h.spoilt k.id).flatMap fun i =>
      (if h.cons = 6 then s.chain k.ten else [h.cluster]).map fun c => (⟨some c, h.cartAt i, h.size⟩ : Dest)).foldl
      (State.undefine k.ten h.ctx) s) s

/-- R438 level 2: the scratchpad contents of a context become undefined. -/
def State.spoilShare (s : State) (t ctx : Nat) : State :=
  match (s.ten t).slotOf ctx with
  | none => s
  | some n => (s.chain t).foldl (fun (s : State) c => State.undefine t ctx s ⟨some c, 0, ((s.ten t).slot n).spSize⟩) s

/-- A task's cohorts, orders, copies and hitch uses are gone from the block (R236). -/
def State.clearTask (s : State) (k : Task) : State :=
  let os := s.orders.filter (·.task == k.id)
  let s := os.foldl State.endOrder s
  let s := (s.copies.filter (·.task == k.id)).foldl State.endCopy s
  let s := s.purge k.ten k.id
  let s := s.withdraw k.ten (.task k.id)
  { s with
    far := s.far.filter (·.task != some k.id)
    cohorts := s.cohorts.filter (·.task != k.id), tasks := s.tasks.filter (·.id != k.id) }

/-- R236, R443: a task aborts under a containment level; `cause` is the SEQ of the record that ordered it. Levels 3 and 4 keep the
scratchpad and memory as they stand (R438). -/
def State.abortTask (s : State) (k : Task) (level : Nat) (cause : W32) (code : Nat) : State :=
  let s := s.event 0xA1 level (tenCtx k.ten k.ctx) level (k.cmd.ring + k.cmd.idx.toNat * 2 ^ 32) (feWord + cause.toNat * 2 ^ 16)
  let s := if level ≤ 2 then s.spoil k else s
  let s := (s.clearTask k).modTen k.ten fun x => { x with ab := { x.ab with tasks := x.ab.tasks + 1 } }
  let s := s.complete k.cmd (if level ≤ 1 then stFailed else stDiscarded) code 0 0
  (s.releaseFences k.id).orderBrake k.ten (BitVec.ofNat 64 s.tick)

/-- A fault as its record shows it (R442, R437). -/
structure FaultRec where
  code : Nat
  detail : Nat := 0
  info0 : Nat := 0
  info1 : Nat := 0

/-- R437, R440, R443: a fault of a task: its record, then the abort; a task that is gone leaves only a record of RESP 0. -/
def State.failTask (s : State) (t ctx task : Nat) (f : FaultRec) : State :=
  match s.task? task with
  | none => s.event f.code f.detail (tenCtx t ctx) 0 f.info0 f.info1
  | some k =>
    let cause := s.ev.seq
    (s.event f.code f.detail (tenCtx k.ten k.ctx) 1 f.info0 f.info1).abortTask k 1 cause f.code

/-! ### Levels 2 to 4 (R438) -/

/-- R418, R419: the coaches of a context stop at their next instruction boundary, or go on. -/
def State.stopCoaches (s : State) (t ctx : Nat) (b : Bool) : State :=
  let mine := fun (h : Cohort) => (s.task? h.task).any fun k => k.ten == t && k.ctx == ctx
  { s with cohorts := modWhere mine (fun h => { h with coaches := h.coaches.map fun c => { c with stopped := b } }) s.cohorts }

/-- R438: a PARK or UNPARK that is discarded: a context being parked stays, one being unparked does not come. -/
def Slot.dropMove (x : Slot) : Slot :=
  { x with move := none, st := match x.st with
      | .parking => .resident
      | .unparking => .empty
      | st => st }

/-- The commands a tenancy has taken and not completed that pass `p`. -/
def State.openCmds (s : State) (t : Nat) (p : CmdRef → Bool) : List CmdRef :=
  let x := s.ten t
  let cs :=
    (s.rings.filterMap fun r => match r.hold with
      | .fence c _ => some c
      | .command c => some c
      | .none => none)
    ++ s.overlaps.map (·.cmd) ++ x.hitches.flatMap (·.dismantle)
    ++ (match x.ckpt with
      | some k => [k.cmd]
      | none => []) ++ x.ckWait.map (·.1)
    ++ (match x.tt with
      | some y => y.brakeCmds ++ y.armCmd.toList
      | none => [])
  (cs.filter fun c => c.ten == t && p c).eraseDups

/-- A ring that waited for a command that passes `p` waits no more. -/
def Ring.dropHold (p : CmdRef → Bool) (r : Ring) : Ring :=
  match r.hold with
  | .fence c _ => if p c then { r with hold := .none } else r
  | .command c => if p c then { r with hold := .none } else r
  | .none => r

/-- Nothing waits any more for the commands of a tenancy that pass `p`. -/
def State.dropCmds (s : State) (t : Nat) (p : CmdRef → Bool) : State :=
  let mine := fun (c : CmdRef) => c.ten == t && p c
  let s : State := { s with overlaps := s.overlaps.filter fun o => !mine o.cmd, rings := s.rings.map (Ring.dropHold mine) }
  let s := ((s.ten t).slots.filter fun y => y.move.any fun m => mine m.cmd).foldl (fun (s : State) y => s.stopCoaches t y.ctx false) s
  State.ckRest t <| s.modTen t fun x => { x with
    hitches := x.hitches.map fun h => { h with dismantle := h.dismantle.filter fun c => !mine c }
    ckpt := x.ckpt.filter fun k => !mine k.cmd
    ckWait := x.ckWait.filter fun c => !mine c.1
    loading := x.loading.filter fun l => !mine l.1
    ttLoading := x.ttLoading.filter fun l => !mine l.1
    invCmd := x.invCmd.filter fun c => !mine c
    slots := x.slots.map fun y => match y.move with
      | some m => if mine m.cmd then y.dropMove else y
      | none => y
    tt := x.tt.map fun y =>
      { y with brakeCmds := y.brakeCmds.filter (fun c => !mine c), armCmd := y.armCmd.filter fun c => !mine c } }

/-- R438: commands that complete DISCARDED. -/
def State.discardAll (s : State) (cs : List CmdRef) : State :=
  cs.foldl (fun (s : State) c => s.complete c stDiscarded 0 0 0) s

/-- R438: the rings of a tenancy's contexts stop as under R76. -/
def State.stopRings (s : State) (t : Nat) (p : Ring → Bool) : State :=
  { s with rings := s.rings.map fun r =>
      if r.en ∧ r.ten.toNat = t ∧ p r then { r with stopped := true, hold := .none } else r }

/-- R438 level 2: a context abort; `cause` is the SEQ of the record that raised it. Its commands are withdrawn before its
tasks end, so that no task's end completes one (log 153). -/
def State.abortCtx (s : State) (t ctx : Nat) (cause : W32) (code : Nat) : State :=
  let cs := s.openCmds t (·.ctx == ctx)
  let s := s.dropCmds t (·.ctx == ctx)
  let s := (s.tasks.filter fun k => k.ten == t && k.ctx == ctx).foldl (fun (s : State) k => s.abortTask k 2 cause code) s
  ((s.discardAll cs).stopRings t (·.ctx.toNat == ctx)).spoilShare t ctx

/-- R438 level 3: a tenancy halt. -/
def State.haltTen (s : State) (t : Nat) (level : Nat) (cause : W32) (code : Nat) : State :=
  let s := s.ckEnd t code
  let cs := s.openCmds t fun _ => true
  let s := s.dropCmds t fun _ => true
  let s := (s.tasks.filter (·.ten == t)).foldl (fun (s : State) k => s.abortTask k level cause code) s
  let s := (s.discardAll cs).stopRings t fun _ => true
  let s := s.orderBrake t (BitVec.ofNat 64 s.tick)
  let s : State := { s with xlt := { s.xlt with stalls := s.xlt.stalls.filter fun x => match x.2 with
    | .walk tn _ => tn != t
    | .fault tn _ => tn != t } }
  ((s.unserveAll t).modTen t fun x => { x with faults := [] }).moveTen t .halted

/-- R406: the tenancy holds the block. -/
def Tenancy.live (t : Tenancy) : Bool := t.st != .free

/-- R438 level 4: block containment with a cause of `ERR_BLK_STAT`; `seq` is the SEQ of the record that ordered it, or none
where the BLOCK_STATE record itself is the cause (R443). -/
def State.contain (s : State) (why : Nat) (cause : Option W32) (code : Nat) : State :=
  if s.st = .contained then s
  else
    let seq := cause.getD s.ev.seq
    let s := State.moveBlock { s with cause := BitVec.ofNat 4 why } .contained
    let s := ((List.range 8).filter fun t => (s.ten t).live).foldl (fun (s : State) t => s.haltTen t 4 seq code) s
    ((List.range 16).filter fun p => (s.port p).st != .down).foldl (fun (s : State) p =>
      (s.portDown p 7).modPort p fun x => { x with contAt := some s.tick }) s

/-! ### Faults of an access (R369–R375, R397, R398) -/

/-- R442: access kinds in a record. -/
def accCode : Access → Nat
  | .read => 0
  | .write => 1
  | .atomic => 2
  | .fetch => 3

/-- What an access serves, as a record shows it. -/
def servCode : Serving → Nat
  | .task _ => 0
  | .checkpoint => 1
  | .window => 2
  | .pinWalk => 3

/-- R397: the channel of a pool address: group and bits [10:8]. -/
def channelOf (pa : Nat) : Nat := channelGroup pa * 8 + bitsOf pa 8 3

/-- R397: INFO0 of a memory error. -/
def memInfo0 (pa : Nat) : Nat := pa + channelOf pa * 2 ^ 52

/-- R397: INFO1 of a memory error, with its device address where it had one. -/
def memInfo1 (unit : Nat) (va : Option Nat) : Nat :=
  match va with
  | some v => unit + bitsOf v 21 27 * 2 ^ 16 + 2 ^ 43
  | none => unit

/-- R397, R398: MEM_UNCORRECTABLE or MEM_POISON of a read, as its record shows it. -/
def memFaultRec (code pa : Nat) (va : Option Nat) (unit : Nat) : FaultRec := ⟨code, 0, memInfo0 pa, memInfo1 unit va⟩

/-- The same of the n bytes at pa. -/
def State.badDataRec (s : State) (pa n : Nat) (va : Option Nat) (unit : Nat) : FaultRec :=
  let l := (s.lost pa n).getD (0x31, pa)
  memFaultRec l.1 l.2 va unit

/-- The record of a failed translation. -/
def xltRec (f : AccFault) (unit : Nat) (fid : Nat) (serv : Serving) : FaultRec :=
  if f.code = 0x31 ∨ f.code = 0x30 then ⟨f.code, f.detail, memInfo0 f.pa, memInfo1 unit (some f.va)⟩
  else
    ⟨f.code, f.detail, f.va % 2 ^ 48 + accCode f.kind * 2 ^ 48, unit + fid * 2 ^ 16 + servCode serv * 2 ^ 32⟩

/-- R371, R372: a replayable fault of a free-running tenancy: it joins the pending fault of its 2 MiB region, or gets an
id and a record of its own; the unit is stalled on it. -/
def State.pendFault (s : State) (t ctx : Nat) (u : UnitRef) (serv : Serving) (f : AccFault) : State :=
  let x := s.ten t
  match x.faults.find? fun p => p.va == f.va / 2 ^ 21 with
  | some p =>
    let s := s.modTen t fun y => { y with
      faults := modWhere (·.fid == p.fid) (fun q =>
        if q.units.any fun w => w.unit == u && w.serv == serv then q else { q with units := q.units ++ [⟨u, serv, f.va, f.kind⟩] }) y.faults }
    { s with xlt := { s.xlt with stalls := if s.xlt.stalls.contains (u, .fault t p.fid) then s.xlt.stalls
        else s.xlt.stalls ++ [(u, .fault t p.fid)] } }
  | none =>
    let r := xltRec f (unitWord u) x.nextFid.toNat serv
    let seq := s.ev.seq
    let s := s.event r.code r.detail (tenCtx t ctx) 5 r.info0 r.info1
    let s := s.modTen t fun y => { y with
      nextFid := y.nextFid + 1
      faults := y.faults ++ [⟨y.nextFid, seq, BitVec.ofNat 8 f.code, f.va / 2 ^ 21, [⟨u, serv, f.va, f.kind⟩], serv, s.tick⟩] }
    { s with xlt := { s.xlt with stalls := s.xlt.stalls ++ [(u, .fault t x.nextFid)] } }

/-- R369, R371, R375: a faulting access of an order or copy: stalled and replayed where the fault is replayable and the
tenancy is free-running, else the task aborts. -/
def State.accFault (s : State) (t ctx task : Nat) (u : UnitRef) (f : AccFault) : State :=
  if f.replay ∧ !(s.ten t).timetabled then s.pendFault t ctx u (.task task) f
  else s.failTask t ctx task (xltRec f (unitWord u) 0 (.task task))

/-- R366: the unit is stalled. -/
def State.stalled (s : State) (u : UnitRef) : Bool := s.xlt.stalls.any (·.1 == u)

/-! ### Books found broken (R432) -/

/-- R431, R432: LED_IMBALANCE of a tenancy's book: the record, and the tenancy halts. -/
def State.imbalanceTen (s : State) (t bit index short unit : Nat) : State :=
  let cause := s.ev.seq
  (s.event 0x70 0 (tenCtx t 0) 3 (bit + index * 2 ^ 8) (unit + short % 2 ^ 32 * 2 ^ 16)).haltTen t 3 cause 0x70

/-- R432: LED_IMBALANCE of a hitch's carts: the context aborts. -/
def State.imbalanceCtx (s : State) (t ctx bit index short unit : Nat) : State :=
  let cause := s.ev.seq
  (s.event 0x70 0 (tenCtx t ctx) 2 (bit + index * 2 ^ 8) (unit + short % 2 ^ 32 * 2 ^ 16)).abortCtx t ctx cause 0x70

end Sys2Proof.Machine
end

