-- ==== Sys2Proof/Machine/Operands.lean ====
section
/-! DEFINITION. The operand forms of lane instructions and orders (R297–R306, R326), the checks of an encoding (R300–R302), a
coach's registers, its acting threads, and the path it runs next (R308, R309). -/

namespace Sys2Proof.Machine

/-! ### Fields of the word (R297, R298) -/

def fB (w : LaneWord) : Nat := bitsOf w.lo.toNat 26 6
def fC (w : LaneWord) : Nat := bitsOf w.lo.toNat 20 6
def fImm (w : LaneWord) : Nat := bitsOf w.lo.toNat 8 24
def fUD (w : LaneWord) : Bool := bitOf w.lo.toNat 7
def fUB (w : LaneWord) : Bool := bitOf w.lo.toNat 6
def fUC (w : LaneWord) : Bool := bitOf w.lo.toNat 5
def fSub (w : LaneWord) : Nat := bitsOf w.lo.toNat 0 5
/-- XMOD by word bits: `fX w lo n` is bits [lo + n − 1 : lo] of the word. -/
def fX (w : LaneWord) (lo n : Nat) : Nat := bitsOf w.lo.toNat lo n
def fD (w : LaneWord) : Nat := w.d.toNat
def fA (w : LaneWord) : Nat := w.a.toNat
/-- IMM24 sign-extended to 32 bits. -/
def immS (w : LaneWord) : W32 := BitVec.ofInt 32 (signedOf (fImm w) 24)
/-- IMM24 sign-extended to 64 bits. -/
def immS64 (w : LaneWord) : W64 := BitVec.ofInt 64 (signedOf (fImm w) 24)
/-- IMM24 zero-extended. -/
def immZ (w : LaneWord) : W32 := BitVec.ofNat 32 (fImm w)

/-! ### What an operation uses -/

/-- How an operation uses a register field: not at all, as 1, 2 or 4 registers, as a number of its low n bits (a predicate,
counter or barrier), or whole as plain bits. -/
inductive Use where
  | no
  | reg (n : Nat)
  | num (n : Nat)
  | raw
deriving DecidableEq, Repr

/-- Whether an operation has the immediate form: never, optionally, or only. -/
inductive ImmUse where
  | never | may | must
deriving DecidableEq, Repr

/-- Whether UD may be set. -/
inductive UdUse where
  | never | may | must
deriving DecidableEq, Repr

/-- R298, R300: the fields an operation uses; `sub` and `xmod` are the bits of SUB and of XMOD (word bits [19:8]) it uses; `bad`
is a reserved value of a field it does use. -/
structure OpSpec where
  imm : ImmUse := .never
  a : Use := .no
  b : Use := .no
  c : Use := .no
  d : Use := .no
  ud : UdUse := .never
  sub : Nat := 0
  xmod : Nat := 0
  uniform : Bool := false
  bad : Bool := false
deriving DecidableEq, Repr

/-- Registers of a memory width code (R316): b64 a pair, b128 a quad. -/
def widthRegs (sub : Nat) : Nat := if sub % 8 = 5 then 2 else if sub % 8 = 6 then 4 else 1

/-- R319: registers of a copy address in a space: a pair for memory. -/
def spaceRegs (sp : Nat) : Nat := if sp = 0 then 2 else 1

/-- R303: the special-register numbers. -/
def srNumbers : Nat := 0x15

/-- R312: class 0x01. -/
def spec01 (op : Nat) (w : LaneWord) : Option OpSpec :=
  let abd : OpSpec := { imm := .may, a := .reg 1, b := .reg 1, d := .reg 1, ud := .may }
  if op ≤ 0x04 then some abd
  else if op = 0x05 then some { abd with imm := .never, c := .reg 1 }
  else if op ≤ 0x0C then some abd
  else if op = 0x0D then some { a := .reg 1, d := .reg 1, ud := .may }
  else if op ≤ 0x14 then some abd
  else if op ≤ 0x16 then some { a := .reg 1, d := .reg 1, ud := .may }
  else if op = 0x17 then some { abd with sub := 1 }
  else if op = 0x18 then some { abd with imm := .never, c := .reg 1 }
  else if op = 0x19 then some { abd with sub := 7 }
  else if op = 0x1A then some { imm := .may, b := .reg 1, d := .reg 1, ud := .may }
  else if op = 0x1B then some { imm := .must, d := .reg 1, ud := .may, bad := decide (256 ≤ fImm w) }
  else if op = 0x1C then some { imm := .may, a := .reg 1, b := .reg 1, d := .num 3, sub := 15, bad := decide (6 ≤ fSub w % 8) }
  else if op = 0x1D then some { a := .num 3, b := .num 3, d := .num 3, sub := 7, bad := decide (fSub w % 8 = 7) }
  else if op ≤ 0x1F then some { imm := .may, a := .reg 2, b := .reg 2, d := .reg 2, ud := .may }
  else if op ≤ 0x21 then some { abd with d := .reg 2 }
  else if op = 0x22 then some { abd with ud := .never, sub := 3 }
  else if op ≤ 0x24 then some { a := .num 3, d := .num 3 }
  else if op = 0x25 then some { a := .num 3, d := .reg 1, ud := .may }
  else if op = 0x26 then some { imm := .must, d := .reg 1, ud := .may, bad := decide (srNumbers ≤ fImm w) }
  else if op = 0x27 then some { d := .reg 1, ud := .may }
  else if op = 0x28 then some { a := .reg 1 }
  else if op = 0x29 then some { a := .num 3, d := .reg 1, ud := .may }
  else none

/-- R313: class 0x02. -/
def spec02 (op : Nat) : Option OpSpec :=
  let abd : OpSpec := { imm := .may, a := .reg 1, b := .reg 1, d := .reg 1, ud := .may }
  let ad : OpSpec := { a := .reg 1, d := .reg 1, ud := .may }
  if op ≤ 0x02 then some abd
  else if op = 0x03 then some { abd with imm := .never, c := .reg 1 }
  else if op = 0x04 then some abd
  else if op = 0x05 then some ad
  else if op ≤ 0x09 then some abd
  else if op ≤ 0x0D then some ad
  else if op = 0x0E then some { imm := .may, a := .reg 1, b := .reg 1, d := .num 3, sub := 7 }
  else none

/-- R315: class 0x03. -/
def spec03 (op : Nat) (w : LaneWord) : Option OpSpec :=
  let ad : OpSpec := { a := .reg 1, d := .reg 1, ud := .may }
  if op ≤ 0x01 then some ad
  else if op ≤ 0x03 then some { ad with sub := 3 }
  else if op ≤ 0x07 then some { ad with b := if bitOf (fSub w) 1 then .reg 1 else .no, sub := 2 }
  else if op ≤ 0x09 then some { ad with sub := 1 }
  else if op ≤ 0x0B then some { ad with sub := 3 }
  else if op = 0x0C then some { a := .reg 1, d := .reg 2, xmod := 0xFF }
  else if op = 0x0D then some { a := .reg 2, d := .reg 1, ud := .may, xmod := 0xFF }
  else none

/-- R316–R318: class 0x04. -/
def spec04 (op : Nat) (w : LaneWord) : Option OpSpec :=
  let d : Use := .reg (widthRegs (fSub w))
  let bad := decide (fSub w % 8 = 7)
  if op ≤ 0x03 then some { imm := .may, a := .reg 1, b := .reg 1, d := d, ud := .may, sub := 7, bad := bad }
  else if op ≤ 0x05 then some { imm := .may, a := .reg 2, d := d, ud := .may, sub := 7, bad := bad }
  else if op = 0x06 then some { a := .reg 2, b := .reg 1, d := .reg 1, ud := .may }
  else if op = 0x07 then some { a := .reg 2, b := .reg 2, d := .reg 2, ud := .may }
  else if op = 0x08 then some { a := .reg 2, b := .reg 2, c := .reg 2, d := .reg 2, ud := .may }
  else none

/-- R319: class 0x05. -/
def spec05 (op : Nat) (w : LaneWord) : Option OpSpec :=
  if op ≤ 1 then
    some { a := .reg (spaceRegs (fX w 14 2)), b := .reg 1, c := .reg 1, d := .reg (spaceRegs (fX w 12 2)), ud := .may,
           xmod := 0xFF0, uniform := decide (op = 0), bad := decide (fX w 14 2 = 3 ∨ fX w 12 2 = 3) }
  else none

/-- *Synchronisation instructions*: class 0x06. -/
def spec06 (op : Nat) (w : LaneWord) : Option OpSpec :=
  if op = 0x00 then some { d := .num 2 }
  else if op = 0x01 then some { imm := .may, a := if w.i then .no else .reg 1, d := .num 4 }
  else if op = 0x02 then some { imm := .may, b := .reg 1, d := .num 4, uniform := true }
  else if op = 0x03 then some { d := .num 4, sub := 1, uniform := true }
  else if op ≤ 0x05 then some {}
  else if op = 0x06 then some { d := .reg 1, ud := .may, uniform := true }
  else if op = 0x07 then some { d := .reg 1, ud := .must, xmod := 0xFF, uniform := true }
  else if op = 0x08 then some { a := .reg 1, b := .reg 1, xmod := 0xFF, uniform := true }
  else if op = 0x09 then some { d := .reg 1, ud := .must, xmod := 0xFF, uniform := true, bad := decide (29 < fD w) }
  else if op = 0x0A then some { xmod := 0xFF, uniform := true }
  else none

/-- *Control instructions*: class 0x07. -/
def spec07 (op : Nat) : Option OpSpec :=
  if op = 0x00 then some {}
  else if op = 0x01 then some { imm := .must, a := .raw, d := .raw }
  else if op = 0x02 then some { imm := .must, uniform := true }
  else if op = 0x03 then some { uniform := true }
  else if op = 0x04 then some { a := .reg 2, uniform := true }
  else if op = 0x05 then some {}
  else none

/-- R326, R331: class 0x08; XMOD bits by word position: acN [19:16] = 0xF00, descriptor space [15:14] = 0x0C0, queue [13:12] =
0x030, unit [11:8] = 0x00F. A is a pair in every order that uses it (log 24); `sp` forms must name space 1. -/
def spec08 (op : Nat) (w : LaneWord) : Option OpSpec :=
  let base : OpSpec := { d := .reg 1, ud := .may, xmod := 0xF00, uniform := true }
  let desc : OpSpec := { base with a := .reg 2, xmod := 0xFC0, bad := decide (2 ≤ fX w 14 2) }
  let unit : OpSpec := { desc with xmod := 0xFFF }
  let sp : OpSpec := { base with a := .reg 2, xmod := 0xFC0, bad := decide (fX w 14 2 ≠ 1) }
  match op with
  | 0x00 => some unit
  | 0x01 => some unit
  | 0x02 => some { unit with b := .reg 1 }
  | 0x08 => some { desc with b := .reg 1, c := .reg 1 }
  | 0x09 => some { base with a := .reg 2, b := .reg 1, c := .reg 1 }
  | 0x0A => some { desc with b := .reg 1, c := .reg 1 }
  | 0x0B => some { base with b := .reg 1, c := .reg 1 }
  | 0x0C => some { base with b := .reg 1, c := .reg 1 }
  | 0x10 => some { unit with d := .no, ud := .never, xmod := 0x0FF }
  | 0x14 => some desc
  | 0x18 => some { sp with b := .reg 1, c := .reg 1 }
  | 0x19 => some desc
  | 0x1C => some sp
  | 0x1D => some { sp with b := .reg 1 }
  | 0x1E => some { base with b := .reg 1, xmod := 0xFC0, bad := decide (fX w 14 2 ≠ 1) }
  | 0x20 => some { desc with sub := 7, bad := decide (2 ≤ fX w 14 2 ∨ fSub w % 8 = 7) }
  | 0x21 => some { sp with sub := 1 }
  | 0x22 => some { sp with sub := 1 }
  | 0x23 => some base
  | 0x24 => some desc
  | _ => none

/-- R346: class 0x09. -/
def spec09 (op : Nat) (w : LaneWord) : Option OpSpec :=
  if op ≤ 2 then
    some { a := .reg 2, d := .reg 1, ud := .may, xmod := 0xFFF, uniform := true, bad := decide (2 ≤ fX w 14 2) }
  else none

/-- R350: class 0x0A. -/
def spec0A (op : Nat) (w : LaneWord) : Option OpSpec :=
  if op ≤ 3 then
    some { a := .reg 2, b := .reg 1, c := .reg 1, d := .reg 1, ud := .may, sub := if op = 3 then 0 else 1, xmod := 0xFC0,
           uniform := true, bad := decide (2 ≤ fX w 14 2) }
  else none

/-- The spec of an operation; a reserved CLASS or OP has none (R300). -/
def opSpec (cls op : Nat) (w : LaneWord) : Option OpSpec :=
  if w.other.isSome then none
  else match cls with
  | 1 => spec01 op w
  | 2 => spec02 op
  | 3 => spec03 op w
  | 4 => spec04 op w
  | 5 => spec05 op w
  | 6 => spec06 op w
  | 7 => spec07 op
  | 8 => spec08 op w
  | 9 => spec09 op w
  | 10 => spec0A op w
  | _ => none

/-! ### Checks of an encoding (R300–R302) -/

/-- A field that is unused, or whose unused upper bits are set, or whose u register leaves the file, is undefined. -/
def fieldUndef (use : Use) (u : Bool) (n : Nat) : Bool :=
  match use with
  | .no => u || decide (n ≠ 0)
  | .reg _ => u && decide (32 ≤ n)
  | .num k => u || decide (2 ^ k ≤ n)
  | .raw => u

/-- R301: a general register at or above r. -/
def fieldHigh (use : Use) (u : Bool) (n r : Nat) : Bool :=
  match use with
  | .reg k => !u && decide (r < n + k)
  | _ => false

/-- R302: a misaligned pair or quad. -/
def fieldOdd (use : Use) (n : Nat) : Bool :=
  match use with
  | .reg k => decide (n % k ≠ 0)
  | _ => false

/-- R300: the encoding is undefined. -/
def encUndef (o : OpSpec) (w : LaneWord) : Bool :=
  o.bad || fieldUndef o.a w.ua (fA w) || fieldUndef o.d (fUD w) (fD w)
    || decide (fSub w &&& (31 - o.sub) ≠ 0)
    || (o.imm == .never && w.i) || (o.imm == .must && !w.i)
    || (o.ud == .must && !fUD w) || (o.ud == .never && fUD w)
    || (if w.i then fUB w || fUC w
        else fieldUndef o.b (fUB w) (fB w) || fieldUndef o.c (fUC w) (fC w) || decide (fX w 8 12 &&& (0xFFF - o.xmod) ≠ 0))

/-- R301: some register field reaches past r. -/
def encHigh (o : OpSpec) (w : LaneWord) (r : Nat) : Bool :=
  fieldHigh o.a w.ua (fA w) r || fieldHigh o.d (fUD w) (fD w) r
    || (!w.i && (fieldHigh o.b (fUB w) (fB w) r || fieldHigh o.c (fUC w) (fC w) r))

/-- R302: some pair or quad is misaligned. -/
def encOdd (o : OpSpec) (w : LaneWord) : Bool :=
  fieldOdd o.a (fA w) || fieldOdd o.d (fD w) || (!w.i && (fieldOdd o.b (fB w) || fieldOdd o.c (fC w)))

/-- R324: the fault of an encoding, found before the guard is read (R304); where several hold, the lowest sub-code (log 14). -/
def encFault (o : Option OpSpec) (w : LaneWord) (r : Nat) : Option Nat :=
  match o with
  | none => some 1
  | some o => if encUndef o w then some 1 else if encHigh o w r then some 2 else if encOdd o w then some 3 else none

/-! ### A coach's registers -/

/-- Threads in a mask, lowest first. -/
def threadsOf (m : W32) : List Nat := setBits 32 m.toNat

/-- R308: the running path: M less the threads that have exited. -/
def Coach.running (k : Coach) : W32 := k.m &&& ~~~k.x

/-- Predicate p of every thread, bit j for thread j. -/
def Coach.pred (k : Coach) (p : Nat) : W32 := smGet 0 k.p p

/-- R304: the acting threads. -/
def Coach.acting (k : Coach) (w : LaneWord) : W32 :=
  if w.g then k.running &&& (if w.gn then ~~~k.pred w.gp.toNat else k.pred w.gp.toNat) else k.running

/-- A register of thread j: gN, or uN. -/
def Coach.reg (k : Coach) (u : Bool) (n j : Nat) : W32 := if u then smGet 0 k.u n else smGet 0 k.g (64 * j + n)

/-- R302: a pair. -/
def Coach.pair (k : Coach) (u : Bool) (n j : Nat) : W64 := (k.reg u (n + 1) j) ++ (k.reg u n j)

/-- A g register of thread j written. -/
def Coach.setG (k : Coach) (n j : Nat) (v : W32) : Coach := { k with g := smSet 0 k.g (64 * j + n) v }

/-- A u register written. -/
def Coach.setU (k : Coach) (n : Nat) (v : W32) : Coach := { k with u := smSet 0 k.u n v }

/-- A predicate of some threads written: bit j of `v` for each thread j of `m`. -/
def Coach.setPred (k : Coach) (p : Nat) (m v : W32) : Coach :=
  { k with p := smSet 0 k.p p ((k.pred p &&& ~~~m) ||| (v &&& m)) }

/-- Consecutive registers from n on, of thread j or of the u file, written with 32-bit words. -/
def Coach.setRegs (k : Coach) (u : Bool) (n j : Nat) : List W32 → Coach
  | [] => k
  | v :: vs => (if u then k.setU n v else k.setG n j v).setRegs u (n + 1) j vs

/-- R304–R306: results per acting thread into D: each thread's own, or with UD that of the lowest-numbered acting thread. -/
def Coach.writeD (k : Coach) (w : LaneWord) (acting : List Nat) (f : Nat → List W32) : Coach :=
  if fUD w then
    match acting with
    | [] => k
    | j :: _ => k.setRegs true (fD w) j (f j)
  else acting.foldl (fun k j => k.setRegs false (fD w) j (f j)) k

/-- The two words of a pair, low first. -/
def words64 (v : W64) : List W32 := [v.setWidth 32, (v >>> 32).setWidth 32]

/-- Operands A, B and C of thread j; B is IMM24 sign-extended where I = 1. -/
def opA (k : Coach) (w : LaneWord) (j : Nat) : W32 := k.reg w.ua (fA w) j
def opB (k : Coach) (w : LaneWord) (j : Nat) : W32 := if w.i then immS w else k.reg (fUB w) (fB w) j
def opC (k : Coach) (w : LaneWord) (j : Nat) : W32 := k.reg (fUC w) (fC w) j
def opD (k : Coach) (w : LaneWord) (j : Nat) : W32 := k.reg (fUD w) (fD w) j
def opA64 (k : Coach) (w : LaneWord) (j : Nat) : W64 := k.pair w.ua (fA w) j
def opB64 (k : Coach) (w : LaneWord) (j : Nat) : W64 := if w.i then immS64 w else k.pair (fUB w) (fB w) j
def opC64 (k : Coach) (w : LaneWord) (j : Nat) : W64 := k.pair (fUC w) (fC w) j

/-- The next instruction's address. -/
def nextPc (pc : Nat) : Nat := (pc + 8) % 2 ^ 48

/-- a + n instructions. -/
def pcPlus (pc : Nat) (n : Int) : Nat := (((pc : Int) + 8 * n) % 2 ^ 48).toNat

/-- Past this instruction. -/
def Coach.step (k : Coach) : Coach := { k with pc := nextPc k.pc }

/-! ### The path a coach runs next (R308, R309) -/

def StackEntry.isJoin : StackEntry → Bool
  | .join _ _ => true
  | .path _ _ => false

/-- The innermost JOIN: the nearest to the top (the stack's head is its top). -/
def Coach.joinPc (k : Coach) : Option Nat :=
  (k.stack.find? (·.isJoin)).map fun e => match e with
    | .join pc _ => pc
    | .path pc _ => pc

/-- JOIN entries on the stack. -/
def Coach.joins (k : Coach) : Nat := (k.stack.filter (·.isJoin)).length

/-- Every thread has exited. -/
def Coach.done (k : Coach) : Bool := k.x == 0xFFFFFFFF

/-- R309: a wait that is over, or a hitch wait that a cart can end now. -/
def State.ready (s : State) (t : Nat) : Wait → Bool
  | .none => true
  | .barrier _ => false
  | .counter _ ts _ => ts.isEmpty
  | .hitchGet h _ => match s.hitch? t h with
    | some x => x.freeCart.isSome
    | none => false
  | .hitchTake h _ => match s.hitch? t h with
    | some x => !x.queue.isEmpty
    | none => false

/-- The cart of a hitch the coach holds in a state. -/
def Hitch.heldBy (h : Hitch) (st : CartSt) (c : CoachRef) : Option Nat :=
  leastFrom (fun i => (h.carts[i]?).any fun y => y.st == st && y.holder == .coach c) h.carts.length

/-- R320, R321: the cart a waiting coach gets now; a wait that needs none just ends. Where the coach holds such a cart by now, the path goes
on at its instruction, which faults (DEDUCED, log 180). -/
def State.endWait (s : State) (t : Nat) (c : CoachRef) (k : Coach) : State × Coach :=
  let k' := { k with wait := .none, pc := nextPc k.pc }
  match k.wait with
  | .hitchGet h d =>
    match s.hitch? t h with
    | some x =>
      if (x.heldBy .filling c).isSome then (s, { k with wait := .none })
      else match x.freeCart with
      | some i => (s.modHitch t h (·.fill i (.coach c)), k'.setU d (BitVec.ofNat 32 (x.cartAt i)))
      | none => (s, k)
    | none => (s, k')
  | .hitchTake h d =>
    match s.hitch? t h with
    | some x =>
      if (x.heldBy .held c).isSome then (s, { k with wait := .none })
      else match x.take (.coach c) with
      | some (i, y) =>
        (s.modHitch t h fun _ => y,
          k'.setRegs true d 0 [BitVec.ofNat 32 (x.cartAt i), BitVec.ofNat 32 (x.cart i).len, (x.cart i).tag])
      | none => (s, k)
    | none => (s, k')
  | _ => (s, k')

/-- A set-aside path that is not within one that is itself set aside, or the paths within it, can run again. -/
def Coach.asideReady (k : Coach) (ok : Wait → Bool) (a : Aside) : Bool :=
  a.under.isEmpty && (ok a.wait || k.aside.any fun y => y.under.contains a.id && ok y.wait)

/-- The set-aside path of the divergence that can run again, or, with `any`, some set-aside path of it. -/
def Coach.pickAside (k : Coach) (ok : Wait → Bool) (any : Bool) : Option Nat :=
  match leastFrom (fun n => (k.aside[n]?).any fun a => a.depth == k.joins && k.asideReady ok a) k.aside.length with
  | some n => some n
  | none =>
    if any then leastFrom (fun n => (k.aside[n]?).any fun a => a.depth == k.joins && a.under.isEmpty) k.aside.length else none

/-- R309: the set-aside path of this or an outer divergence that can run again. -/
def Coach.pickOuter (k : Coach) (ok : Wait → Bool) : Option Nat :=
  match k.pickAside ok false with
  | some n => some n
  | none => leastFrom (fun n => (k.aside[n]?).any fun a => decide (a.depth < k.joins) && k.asideReady ok a) k.aside.length

/-- A set-aside path becomes the running path, with the divergences within it. -/
def Coach.resume (k : Coach) (n : Nat) : Coach :=
  match k.aside[n]? with
  | some a => { k with
      m := a.mask, pc := a.pc, wait := a.wait, stack := a.inner ++ k.stack
      aside := (k.aside.eraseIdx n).map fun y => { y with under := y.under.filter (· != a.id) } }
  | none => k

/-- The entries down to and with the n-th JOIN from the top, and those below. -/
def splitJoins : Nat → List StackEntry → List StackEntry × List StackEntry
  | 0, l => ([], l)
  | _, [] => ([], [])
  | n + 1, e :: l =>
    let r := splitJoins (if e.isJoin then n else n + 1) l
    (e :: r.1, r.2)

/-- R309: the waiting path set aside, with the divergences within which it waits, as a path of the divergence of depth d. The entries it
takes with it stand in none of the 32 of the stack meanwhile (DESIGN CHOICE, log 179). -/
def Coach.putOut (k : Coach) (d : Nat) : Coach :=
  let r := splitJoins (k.joins - d) k.stack
  let id := (k.aside.map (·.id)).foldl max 0 + 1
  let mine := k.aside.filter fun y => y.under.isEmpty && decide (d < y.depth)
  let within := fun (y : Aside) => mine.contains y || mine.any fun z => y.under.contains z.id
  { k with
    stack := r.2, wait := .none
    aside := (k.aside.map fun y => if within y then { y with under := id :: y.under } else y)
      ++ [⟨k.running, k.pc, k.wait, d, r.1, id, []⟩] }

/-- R309: the waiting path changes places with a set-aside one. -/
def Coach.swap (k : Coach) (n : Nat) : Coach := (k.putOut ((k.aside[n]?.map (·.depth)).getD k.joins)).resume n

/-- The top entry popped: the next pending group, or reconvergence. -/
def Coach.popStack (k : Coach) : Coach :=
  match k.stack with
  | [] => k
  | .path pc m :: r => { k with stack := r, m := m &&& ~~~k.x, pc := pc }
  | .join pc m :: r => { k with stack := r, m := m &&& ~~~k.x, pc := pc }

/-- One move of the rule before each instruction (R308) with the set-aside paths of R309; false: nothing is left to do. -/
def State.settleStep (s : State) (t : Nat) (c : CoachRef) (k : Coach) : State × Coach × Bool :=
  if k.wait != .none then
    if s.ready t k.wait then
      let r := s.endWait t c k
      (r.1, r.2, true)
    else
      match k.stack with
      | .path _ _ :: _ => (s, (k.putOut k.joins).popStack, true)
      | _ =>
        match k.pickOuter (s.ready t) with
        | some n => (s, k.swap n, true)
        | none => (s, k, false)
  else if k.running = 0 ∨ k.joinPc = some k.pc then
    match k.stack with
    | [] => (s, k, false)
    | .path _ _ :: _ => (s, k.popStack, true)
    | .join _ _ :: _ =>
      match k.pickAside (s.ready t) true with
      | some n => (s, k.resume n, true)
      | none => (s, k.popStack, true)
  else (s, k, false)

/-- The rule applied until nothing is left to do. -/
def settleGo (t : Nat) (c : CoachRef) : Nat → State → Coach → State × Coach
  | 0, s, k => (s, k)
  | f + 1, s, k =>
    match s.settleStep t c k with
    | (s', k', true) => settleGo t c f s' k'
    | (s', k', false) => (s', k')

/-- The coach brought to its next instruction, or left in its wait. -/
def State.settle (s : State) (t : Nat) (c : CoachRef) : State :=
  match s.coach? c with
  | some k => let r := settleGo t c 200 s k; r.1.setCoach c r.2
  | none => s

end Sys2Proof.Machine
end

