-- ==== Sys2Proof/Machine/Lane.lean ====
section
/-! DEFINITION. How a lane issues one coach instruction (R15, R297, R304–R307, R324), and the shared shapes of the per-thread
instructions. -/

namespace Sys2Proof.Machine

/-- What an instruction's effect sees: its coach's place, task and cohort, the coach brought to the instruction, the word,
the acting threads. -/
structure LaneCtx where
  ref : CoachRef
  task : Task
  cohort : Cohort
  k : Coach
  w : LaneWord
  act : W32

/-- The acting threads, lowest first (R325). -/
def LaneCtx.threads (x : LaneCtx) : List Nat := threadsOf x.act

/-- R305: the lowest-numbered acting thread. -/
def LaneCtx.low (x : LaneCtx) : Nat := x.threads.headD 0

/-! ### The instruction cache (R299) -/

/-- R297: the word of a row: its CLASS and OP, or the reserved ones it stands for, and the fields. -/
def wordBits (w : LaneWord) (cls op : Nat) : W64 :=
  let o : BitVec 6 × BitVec 7 := w.other.getD (BitVec.ofNat 6 cls, BitVec.ofNat 7 op)
  w.toWord o.1 o.2

/-- R299: the word a cluster's instruction cache holds of a tenancy's address. -/
def State.keptWord (s : State) (clu t pc : Nat) : Option W64 :=
  ((s.cluster clu).icache.find? fun e => e.ten == t && e.va == pc).map (·.word)

/-- R299, R397: the word of an instruction that memory delivers at a pinned pc. -/
def State.storedWord (s : State) (t pc : Nat) : Option W64 :=
  match s.pinned t pc with
  | some x => if (s.lost x.1 8).isSome then none else some (BitVec.ofNat 64 (s.poolWord x.1 8))
  | none => none

/-- R277, R369, R385, R386: the translation fault, with its detail, of a fetch through a pinned leaf outside what the tenancy may reach. -/
def State.fetchBarred (s : State) (t pc : Nat) : Option (Nat × Nat) :=
  match s.pinned t pc with
  | some (pa, _) =>
    if s.paSpace pa = .reserved then some (0x20, 0)
    else if !s.ownPool pa then some (0x21, 0)
    else if !s.pinGroup t pc false then some (0x21, 8)
    else none
  | none => none

/-- R297, R397: the data of the instruction at a pinned pc is lost, and the cache holds none of it. -/
def State.fetchLost (s : State) (clu t pc : Nat) : Bool :=
  (s.keptWord clu t pc).isNone && ((s.pinned t pc).bind fun x => s.lost x.1 8).isSome

/-- R297, R299: the word that a lane fetches at a pc is this one: the one kept from an earlier fetch, or the one that stands in memory. A
pc whose fetch faults delivers no word. -/
def State.fetchGives (s : State) (clu t pc : Nat) (word : W64) : Bool :=
  !s.pinnedRange t pc 8 || (s.fetchBarred t pc).isSome || s.fetchLost clu t pc || s.keptWord clu t pc == some word || s.storedWord t pc == some word

/-- R299: 32 KiB hold 4,096 words; the word fetched is the last to leave (log 175). -/
def keepWord (l : List KeptWord) (e : KeptWord) : List KeptWord :=
  (e :: l.filter fun y => !(y.ten == e.ten && y.va == e.va)).take 4096

/-- R299: the word fetched stays in the cluster's cache. -/
def State.keepFetched (s : State) (clu t pc : Nat) (word : W64) : State :=
  if s.pinnedRange t pc 8 && (s.fetchBarred t pc).isNone && !s.fetchLost clu t pc then
    s.modCluster clu fun c => { c with icache := keepWord c.icache ⟨t, pc, word⟩ }
  else s

/-- R15: a coach that is ready to issue: placed, not waiting and not stopped for a PARK (R418). -/
def State.laneReady (s : State) (c : CoachRef) : Bool :=
  match s.task? c.task, s.cohort? c.task c.cohort, s.coach? c with
  | some k, some _, some _ =>
    match (s.settle k.ten c).coach? c with
    | some y =>
      decide (y.running ≠ 0) && y.wait == .none && y.access.isNone && y.order.isNone && y.epochWait.isNone && !y.stopped
        && !s.resetLow
    | none => false
  | _, _, _ => false

/-- R297: the word is what the coach's lane fetches now. -/
def State.laneGets (s : State) (c : CoachRef) (word : W64) : Bool :=
  match s.task? c.task, s.cohort? c.task c.cohort with
  | some k, some h =>
    match (s.settle k.ten c).coach? c with
    | some y => s.fetchGives h.cluster k.ten y.pc word
    | none => true
  | _, _ => true

/-- R324: an instruction fault of a coach. -/
def State.instrFault (s : State) (x : LaneCtx) (sub thread : Nat) : State :=
  s.failTask x.task.ten x.task.ctx x.task.id
    ⟨0x10, sub, x.k.pc, laneWordOf x.cohort.cluster + thread * 2 ^ 16 + x.ref.coach * 2 ^ 21⟩

/-- R54, R56, R297: a lane access outside what it may touch. -/
def State.laneXlt (s : State) (x : LaneCtx) (code va : Nat) (k : Access) : State :=
  s.failTask x.task.ten x.task.ctx x.task.id
    ⟨code, 0, va % 2 ^ 48 + accCode k * 2 ^ 48, laneWordOf x.cohort.cluster⟩

/-- R369: a lane access that its leaf or its groups bar, with a detail. -/
def State.laneBarred (s : State) (x : LaneCtx) (code d va : Nat) (k : Access) : State :=
  s.failTask x.task.ten x.task.ctx x.task.id
    ⟨code, d, va % 2 ^ 48 + accCode k * 2 ^ 48, laneWordOf x.cohort.cluster⟩

/-- R442: the fields of a SYNC_ fault: barrier or counter, hitch, and whether a thread is held at a join. -/
def State.syncFault (s : State) (t : Task) (cohort cluster code barrier hitch : Nat) (join : Bool) : State :=
  s.failTask t.ten t.ctx t.id
    ⟨code, 0, cohort, laneWordOf cluster + barrier * 2 ^ 16 + hitch % 256 * 2 ^ 20 + b2n join * 2 ^ 28⟩

/-- R397, R398: such a fetch raises MEM_UNCORRECTABLE or MEM_POISON for the lane and aborts the task. -/
def State.laneLost (s : State) (x : LaneCtx) : State :=
  let pa := ((s.pinned x.task.ten x.k.pc).map (·.1)).getD 0
  (s.meetBad x.task.ten pa 8).failTask x.task.ten x.task.ctx x.task.id
    (s.badDataRec pa 8 (some x.k.pc) (laneWordOf x.cohort.cluster))

/-- SYNC_COUNTER of an instruction (R62). -/
def State.counterFault (s : State) (x : LaneCtx) (ac : Nat) : State :=
  s.syncFault x.task x.cohort.num x.cohort.cluster 0x61 ac 0 false

/-- The state in which a coach's next instruction issues: the coach at it, the issue counted (R507), the word in the cache (R299). -/
def State.laneStart (s : State) (t : Task) (c : CoachRef) (cluster : Nat) (word : W64) : State :=
  let s := (s.settle t.ten c).count (cntLaneIssue cluster) 1
  match s.coach? c with
  | some k => s.keepFetched cluster t.ten k.pc word
  | none => s

/-- R297, R304: fetch, decode, guard; `undef` is what an undefined encoding raises, `body` the effect on at least one acting
thread. -/
def State.laneRun (s : State) (c : CoachRef) (cls op : Nat) (w : LaneWord)
    (undef : State → LaneCtx → State) (body : State → LaneCtx → State) : State :=
  match s.task? c.task, s.cohort? c.task c.cohort with
  | some t, some h =>
    let s := s.laneStart t c h.cluster (wordBits w cls op)
    match s.cohort? c.task c.cohort, s.coach? c with
    | some h, some k =>
      let x : LaneCtx := ⟨c, t, h, k, w, k.acting w⟩
      if !s.pinnedRange t.ten k.pc 8 then s.laneXlt x 0x24 k.pc .fetch
      else
        match s.fetchBarred t.ten k.pc with
        | some (code, d) => s.laneBarred x code d k.pc .fetch
        | none =>
          if s.fetchLost h.cluster t.ten k.pc then s.laneLost x
          else
            match encFault (opSpec cls op w) w t.nreg with
            | some 1 => undef s x
            | some n => s.instrFault x n x.low
            | none => if x.act = 0 then s.setCoach c k.step else body s x
    | _, _ => s
  | _, _ => s

/-- A lane instruction of classes 0x01–0x07. -/
def State.lane (s : State) (c : CoachRef) (cls op : Nat) (w : LaneWord) (body : State → LaneCtx → State) : Out :=
  when (s.laneReady c && s.laneGets c (wordBits w cls op)) "the coach is not ready to issue, or its lane fetches another word"
    (s.laneRun c cls op w (fun s x => s.instrFault x 1 x.low) body)

/-- The coach with its new registers, past the instruction. -/
def State.advance (s : State) (x : LaneCtx) (k : Coach) : State := s.setCoach x.ref k.step

/-- An instruction that only writes D, one register per thread. -/
def aluBody (f : Coach → LaneWord → Nat → W32) (s : State) (x : LaneCtx) : State :=
  s.advance x (x.k.writeD x.w x.threads fun j => [f x.k x.w j])

/-- An instruction that only writes a D pair. -/
def aluBody64 (f : Coach → LaneWord → Nat → W64) (s : State) (x : LaneCtx) : State :=
  s.advance x (x.k.writeD x.w x.threads fun j => words64 (f x.k x.w j))

/-- Bit j of a mask for each acting thread j that passes. -/
def predMask (threads : List Nat) (f : Nat → Bool) : W32 := BitVec.ofNat 32 (maskOf (threads.filter f))

/-- An instruction that only writes predicate D[2:0]. -/
def predBody (f : Coach → LaneWord → Nat → Bool) (s : State) (x : LaneCtx) : State :=
  s.advance x (x.k.setPred (fD x.w % 8) x.act (predMask x.threads (f x.k x.w)))

end Sys2Proof.Machine
end

