-- ==== Sys2Proof/Machine/Boundary.lean ====
section
/-! DEFINITION. What the block evaluates at a tick boundary (R411, R421, R422), and the tick of a time-driven command (R35). -/

namespace Sys2Proof.Machine

/-! ### Units of an order word -/

/-- R331, R346, R350: the unit of an order from a cluster; `unit` is XMOD[11:8]. -/
def orderUnit (cls op cluster unit : Nat) : UnitRef :=
  if cls = 9 then .mover (8 * cluster + unit % 8)
  else if cls = 10 then .arena cluster
  else if op ≤ 2 then .gather (4 * cluster + unit % 4)
  else if op ≤ 0x0C then .arena cluster
  else if op = 0x10 then .mover (8 * cluster + unit % 8)
  else if op = 0x14 then .pool cluster
  else if op ≤ 0x19 then .scan cluster
  else if op ≤ 0x1E then .topk cluster
  else .ia cluster

/-- The order's unit as its word names it. -/
def OrderWord.unitRef (w : OrderWord) (cluster : Nat) : UnitRef := orderUnit w.cls w.op cluster w.unit

/-- R412: a unit that the holder alone uses. -/
def UnitRef.stateful : UnitRef → Bool
  | .scan _ => true
  | .topk _ => true
  | .ia _ => true
  | _ => false

/-! ### What can go on -/

/-- R47: the number of cohorts. -/
def Task.cohortCount (k : Task) : Nat := (k.nthread + 32 * k.k - 1) / (32 * k.k)

/-- R351, R499: `WATCHED`: the ring is in use and its context resident. -/
def State.watched (s : State) (r : Ring) : Bool :=
  let t := s.ten r.ten.toNat
  r.en && (t.slotOf r.ctx.toNat).any fun n => (t.slot n).st == .resident

/-- R351: the address of the tail word. -/
def Ring.tailVa (r : Ring) : Nat := r.tailAddr.toNat * 8

/-- R25, R351: the tail word of a watched ring as the front end knows it: whoever wrote it last, the write has woken the front
end (log 162). A word that cannot be read stays as it was last seen. -/
def State.tailOf (s : State) (r : Nat) : W32 :=
  let x := s.ring r
  match s.pinRead x.ten.toNat x.tailVa 4 true with
  | .bytes bs => BitVec.ofNat 32 (leNat bs)
  | _ => x.tail

/-- R76, R351, R406, R448: the front end may take the ring's next command. -/
def State.ringReady (s : State) (r : Nat) : Bool :=
  let x := s.ring r
  let st := (s.ten x.ten.toNat).st
  s.watched x && !x.stopped && x.hold == .none && decide (0 < (s.tailOf r - x.head).toInt) && !s.resetLow
    && (s.st == .serving || s.st == .draining) && (st == .loading || st == .running)

/-! ### RESIDENT-RUNNABLE (R411, R422) -/

/-- R411: a copy or order in progress will add to acN of a cohort. -/
def State.acComing (s : State) (k : Task) (h : Cohort) (ac : Nat) : Bool :=
  let hits := fun (task cohort cluster n : Nat) =>
    (task == h.task && cohort == h.num && n == ac)
      || match k.bound ac, s.task? task with
        | some m, some y => y.ten == k.ten && y.ctx == k.ctx && cluster == h.cluster && y.bound n == some m
        | _, _ => false
  s.copies.any (fun c => hits c.task c.cohort c.cluster c.ac) || s.orders.any fun o => hits o.task o.cohort o.cluster o.ac

/-- R411: coach i of a cohort is ready, or waits on a pinned load, a copy or an order in progress. `behind`: an order that waits
behind the holder counts (R422). -/
def State.coachRuns (s : State) (k : Task) (h : Cohort) (behind : Bool) (i : Nat) : Bool :=
  s.laneReady ⟨h.task, h.num, i⟩ || (h.coaches[i]?).any fun c =>
    c.access.isSome || (c.order.any fun w => behind || !(w.unitRef h.cluster).stateful)
      || (c.wait :: c.aside.map (·.wait)).any fun w => match w with
        | .counter ac ts _ => !ts.isEmpty && s.acComing k h ac
        | _ => false

/-- R411: the context in a resident slot has work it can do. -/
def State.ctxRuns (s : State) (ten ctx : Nat) (behind : Bool) : Bool :=
  (s.cohorts.any fun h => (s.task? h.task).any fun k =>
      k.ten == ten && k.ctx == ctx && (List.range h.coaches.length).any (s.coachRuns k h behind))
    || s.tasks.any (fun k => k.ten == ten && k.ctx == ctx && decide (k.next < k.cohortCount))
    || (List.range s.rings.length).any fun r =>
      (s.ring r).ten.toNat == ten && (s.ring r).ctx.toNat == ctx && s.ringReady r

/-- R411, R422: RESIDENT-RUNNABLE: waiting behind the holder counts as blocked only while the holder is blocked. -/
def State.runnable (s : State) (ten n : Nat) : Bool :=
  let x := s.ten ten
  let ctx := (x.slot n).ctx
  match x.holder with
  | some m => if m = n then s.ctxRuns ten ctx true else s.ctxRuns ten ctx (s.ctxRuns ten (x.slot m).ctx true)
  | none => s.ctxRuns ten ctx true

/-! ### What a tick leaves behind (R39, R41, R411, R421) -/

/-- Some request of a client is outstanding. -/
def State.memBusy (s : State) (who : MemClient) : Bool := s.mem.reqs.any (·.who == who)

/-- Something outside a copy still holds its transfer. -/
def State.copyBusy (s : State) (id : Nat) : Bool :=
  s.mem.reqs.any (fun r => r.who == .copy id) || s.rc.miss.any (·.waits.contains (.copy id))
    || s.xlt.wreqs.any fun w => match w.client with
      | .copy i _ => i == id
      | _ => false

/-- R379: an access counted by a broadcast is still in flight. -/
def State.stillInFlight (s : State) : MemClient → Bool
  | .gather o p =>
    s.busyRead o p || (s.order? o).any fun x => match x.body with
      | .gathQ g => g.flight.any (·.pos == p)
      | .gathOvf _ _ _ _ fl => fl.any (·.pos == p)
      | _ => false
  | .xfer o n =>
    s.busyRead o n || (s.order? o).any fun x => match x.body with
      | .stRun _ r => r.flight.any (·.n == n)
      | .scanB1 b => b.read.any (·.num == n)
      | _ => false
  | .copy id => s.copyBusy id || s.copies.any fun c => c.id == id && c.xfer.isSome
  | .miss slice n => s.rc.miss.any fun m => m.slice == slice && m.n == n
  | .add o slot elem => s.adds.any fun a => a.order == o && a.slot == slot && a.elem == elem
  | .request rtag => s.xlt.wreqs.any (·.rtag == rtag)
  | w => s.memBusy w

/-! ### Requests sent (R220, R222) -/

/-- R220: the dry tick of a stream, none where it has no deadline. -/
def StreamDesc.dry (d : StreamDesc) (accepted landed : Nat) : Option Nat :=
  if d.deadline = 0xFFFFFF then none else some (accepted + d.deadline + landed / 1024 * d.drain / 256)

/-- R220: where a request comes from: its source, queue and dry tick, a read of a gather engine having the tick of its issue. -/
structure Origin where
  source : Nat := 96
  queue : Nat := 0
  dry : Option Nat := none
  cluster : Nat := 0

/-- R220: the origin of an order's request. -/
def State.orderOrigin (s : State) (id : Nat) : Origin :=
  match s.order? id with
  | none => {}
  | some o =>
    match o.unit, o.body with
    | .gather e, _ => ⟨e, o.queue, some s.tick, o.cluster⟩
    | .mover m, .stRun d r => ⟨32 + m, o.queue, d.dry o.accepted r.landed, o.cluster⟩
    | .mover m, _ => ⟨32 + m, o.queue, none, o.cluster⟩
    | _, _ => {}

/-- R220: whom a request serves: a row-cache read the first that waits for it; those that R220 does not rank go last (log 166). -/
def State.originOf (s : State) : MemClient → Origin
  | .gather o _ => s.orderOrigin o
  | .xfer o _ => s.orderOrigin o
  | .copy id => match s.copies.find? (·.id == id) with
    | some c => ⟨32 + c.mover, 0, none, c.cluster⟩
    | none => {}
  | .miss slice n => match (s.rc.miss.find? fun m => m.slice == slice && m.n == n).bind (·.waits.head?) with
    | some (.gather o _) => s.orderOrigin o
    | some (.xfer o _) => s.orderOrigin o
    | some (.copy id) => match s.copies.find? (·.id == id) with
      | some c => ⟨32 + c.mover, 0, none, c.cluster⟩
      | none => {}
    | _ => {}
  | _ => {}

/-- R220: the rank of a waiting request: class, dry tick, source, queue; program order is the order of the list. -/
def State.rankOf (s : State) (r : MemReq) : Nat :=
  let o := s.originOf r.who
  ((b2n (!r.latency) * 2 ^ 70 + o.dry.getD (2 ^ 69)) * 128 + o.source) * 4 + o.queue

/-- R222: a stream's request that is sent after its dry tick. -/
def State.lateReq (s : State) (r : MemReq) : Bool :=
  let o := s.originOf r.who
  decide (32 ≤ o.source ∧ o.source < 96) && o.dry.any fun t => decide (t < s.tick)

/-- R220, R222: the requests issued in a tick leave at its end in the order of their rank, and the late ones are counted. -/
def State.sendAll (s : State) : State :=
  let new := s.mem.reqs.filter fun r => !r.sent
  (new.filter s.lateReq).foldl (fun (t : State) r => t.count (cntLate (s.originOf r.who).cluster) 1)
    { s with mem := { s.mem with
        reqs := s.mem.reqs.filter (·.sent) ++ (sortOn s.rankOf new).map fun r => { r with sent := true } } }

/-- R39: the ledger counters of a tenancy and of a port. -/
def Tenancy.led (x : Tenancy) : TenLed := ⟨x.gtokIss, x.gtokRet, x.mtokIss, x.mtokRet, x.tickTaken, x.tickRet, x.ab⟩
def Port.led (x : Port) : PortLed := ⟨x.sent, x.taken, x.uncorr, x.fenceDrop, x.lateStages, x.discarded⟩

/-- R411, R421: what a slot shows at the boundary that ends a tick. -/
def State.observeSlot (s : State) (ten n : Nat) (x : Slot) : Slot :=
  if x.st = .resident ∧ !s.runnable ten n then { x with blockedSince := some (x.blockedSince.getD s.tick) }
  else { x with blockedSince := none }

/-- R421: a tenancy at the boundary: a runnable context lets the next SWAP_HINT be raised. -/
def State.observeTen (s : State) (ten : Nat) (t : Tenancy) : Tenancy :=
  if t.st = .free then t
  else
    let slots := t.slots.mapIdx (s.observeSlot ten)
    { t with slots := slots, hinted := t.hinted && slots.all fun x => x.st != .resident || x.blockedSince.isSome }

/-- R41: a broadcast whose accesses have all ended by the end of the tick. -/
def Inval.observe (s : State) (i : Inval) : Inval := { i with clear := !i.waits.any s.stillInFlight }

/-- What is evaluated at the boundary that ends the current tick: the slots' states (R411), the broadcasts (R41), the requests that leave (R220), and the
ledger counters from which the next tick's increments count (R39). -/
def State.observe (s0 : State) : State :=
  let s := s0.sendAll
  { s with
    tens := s.tens.mapIdx fun i t => { s.observeTen i t with led0 := t.led }
    ports := s.ports.map fun x => { x with led0 := x.led }
    xlt := { s.xlt with invals := s.xlt.invals.map (Inval.observe s) } }

/-- A row is taken in tick t; the boundary passed is evaluated (R35). -/
def State.atTick (s : State) (t : Nat) : State := if s.tick < t then { s.observe with tick := t } else s

end Sys2Proof.Machine
end

