-- ==== Sys2Proof/Machine/Deadline.lean ====
section
/-! DEFINITION. When what time alone drives is due (R30, R33, R35, R240): the ticks that the block does not pass before an item
that is due by then is handled. What a port carries of its timetable stands here too, as it fixes most of them. -/

namespace Sys2Proof.Machine

/-! ### Memberships and their timetables (R249–R251, R264, R267) -/

/-- The membership whose timetable a port carries. -/
def State.membOf (s : State) (p : Nat) : Option (Nat × Timetable) := do
  let t ← (s.port p).memb
  let x ← (s.ten t).tt
  return (t, x)

/-- Entries of one port of a section. -/
def entriesOf (l : List (Nat × List W64)) (p : Nat) : List W64 := ((l.find? (·.1 == p)).map (·.2)).getD []

/-- R250: fields of an entry. -/
def teSclass (e : W64) : Nat := bitsOf e.toNat 0 3
def teSoc (e : W64) : Bool := bitOf e.toNat 3
def teShitch (e : W64) : Nat := bitsOf e.toNat 4 8
def teDrank (e : W64) : Nat := bitsOf e.toNat 12 9
def teDhitch (e : W64) : Nat := bitsOf e.toNat 21 8
def teRclass (e : W64) : Nat := bitsOf e.toNat 32 3
def teThitch (e : W64) : Nat := bitsOf e.toNat 36 8
def teSrank (e : W64) : Nat := bitsOf e.toNat 44 9
/-- R250, R259: FIRST of a ROLL entry. -/
def teFirst (e : W64) : Nat := teShitch e + 256 * (teDhitch e / 128)

/-- R245: classes. -/
def clVacant : Nat := 0
def clData : Nat := 1
def clRoll : Nat := 2
def clAudit : Nat := 3
def clControl : Nat := 4
def clFree : Nat := 5

/-- R251, R264: what a carriage number is for a membership that has departed. -/
inductive Plan where
  | before
  | roll (j : Nat) (e : W64)
  | cycle (j : Nat) (e : W64)
  | audit
  | after
deriving DecidableEq, Repr

/-- R264: the stop carriage of a membership with a brake tick. -/
def Tenancy.stopAt (t : Tenancy) : Option Nat := if t.brkt = 0 then none else some (t.brkt.toNat + Config.brakeDistance)

/-- R251: the cycle entry of carriage N: the non-AUDIT carriages since T_d + 256, modulo CYCLE. -/
def cycleIndex (td cycle n : Nat) : Nat :=
  let s := td + 256
  ((n - s) - ((n - 1) / 65536 - (s - 1) / 65536)) % cycle

/-- R251, R264, R267: the use of carriage number n on port p. -/
def Tenancy.plan (t : Tenancy) (x : Timetable) (p n : Nat) : Plan :=
  let td := t.td.toNat
  let timetable :=
    if n < td then .before
    else if n < td + 256 then .roll (n - td) ((entriesOf x.roll p).getD (n - td) 0)
    else if n % 65536 = 0 then .audit
    else
      let j := cycleIndex td x.cycle n
      .cycle j ((entriesOf x.cyc p).getD j 0)
  match t.stopAt with
  | some stop => if n = stop ∨ (stop < n ∧ n % 65536 = 0) then .audit else if stop < n then .after else timetable
  | none => timetable

/-- The index a carriage's ENTRY field and a fault record carry. -/
def Plan.index : Plan → Nat
  | .roll j _ => j
  | .cycle j _ => j
  | _ => 0

/-- R248, R264: the membership runs or brakes. -/
def Timetable.departed (x : Timetable) : Bool := x.st == .running || x.st == .braking

/-- R240, R248: the membership whose run a port takes part in: the port itself is RUNNING or BRAKING. -/
def State.runOf (s : State) (p : Nat) : Option (Nat × Timetable) :=
  match (s.port p).st with
  | .running | .braking => (s.membOf p).filter fun m => m.2.departed
  | _ => none

/-- R248: classes that an entry expects to arrive. -/
def expected (e : W64) : Bool := [clData, clRoll, clControl].contains (teRclass e)

/-- R248: an entry of a run that expects carriage n on a port. -/
def Plan.expects : Plan → Bool
  | .roll _ e => expected e
  | .cycle _ e => expected e
  | _ => false

/-! ### Ports (R240, R269–R272, R463) -/

/-- R240: a port that sends. -/
def PortSt.sends : PortSt → Bool
  | .down => false
  | .training => false
  | _ => true

/-- R463: ticks a port in training waits for its peer's signal. -/
def signalWait : Nat := 31250000
/-- R269: ticks between two rotation steps. -/
def rotationPeriod : Nat := 7812500

/-- R270: an announced single step whose carriage P has come. -/
def Spare.stepDue (x : Spare) (t : Nat) : Bool := !x.jump && x.next.any fun a => decide (a.1 ≤ t)
/-- R272: an announced jump whose carriage P has come. -/
def Spare.jumpDue (x : Spare) (t : Nat) : Bool := x.jump && x.next.any fun a => decide (a.1 ≤ t)

/-- R269: the sweep of a port goes on. -/
def Port.sweeps (x : Port) : Bool := x.st.sends && x.rotating && !x.tx.held && x.tx.next.isNone && x.tx.target.isNone

/-- R271: a retirement of a port has a step to take. -/
def Port.retires (x : Port) : Bool := x.st.sends && x.tx.next.isNone && x.tx.target.any (· != x.tx.pos)

/-- A tick that is due where a condition holds. -/
def dueIf (b : Bool) (t : Nat) : List Nat := if b then [t] else []

/-- R240, R269–R272, R463: what is due at a port; carriage P of the peer arrives the link's latency after it departs. -/
def Port.due (x : Port) : List Nat :=
  let sends := x.st.sends
  let lat := x.lat.toNat
  dueIf sends (x.lastSent.getD 0 + 1) ++ dueIf (x.st == .training) (x.trainStart + signalWait + 1)
    ++ dueIf x.sweeps (x.tx.stepped + rotationPeriod) ++ dueIf x.retires 0
    ++ dueIf (sends && x.tx.next.isSome) ((x.tx.next.map (·.1)).getD 0)
    ++ dueIf (sends && x.rx.next.isSome) ((x.rx.next.map (·.1)).getD 0 + lat)

/-- R248: carriage n of a port, which its run expects, has not been taken; n is 48 ticks old. -/
def State.overdue (s : State) (p n : Nat) : Bool :=
  (s.runOf p).any fun m => ((s.ten m.1).plan m.2 p n).expects && !(s.port p).seen.contains n

/-- R248: an expected carriage is missing by tick N + 48. -/
def State.missing (s : State) : List Nat :=
  (List.range 16).flatMap fun p => dueIf (decide (Config.linkMax ≤ s.tick) && s.overdue p (s.tick - Config.linkMax)) s.tick

/-! ### Power (R29, R30, R483, R484) -/

/-- R30, R483: the governor runs from LOADED onward. -/
def State.governed (s : State) : Bool := !s.resetLow && match s.st with
  | .loaded | .ready | .serving | .draining | .contained => true
  | .off | .safe => false

/-- What is due of the governor, the rate report and a power report that is missing. -/
def State.powerDue (s : State) : List Nat :=
  let p := s.pwr
  if !s.governed then []
  else [p.lastEval + 1024, p.lastRate + 1024] ++ dueIf (!p.stale) (p.ptelTick.getD p.loadedTick + 4096 + 1)

/-! ### Contexts and holders (R412, R415, R418, R419, R421) -/

/-- A task of a context. -/
def Task.of (ten ctx : Nat) (k : Task) : Bool := k.ten == ten && k.ctx == ctx

/-- The cohorts of a context. -/
def State.ctxCohorts (s : State) (ten ctx : Nat) : List Cohort := s.cohorts.filter fun h => (s.task? h.task).any (·.of ten ctx)

/-- R418, step 3: nothing accepted of the context is left, and every pending fault of its tasks is answered. -/
def State.drained (s : State) (ten ctx : Nat) : Bool :=
  !(s.orders.any fun o => o.ten == ten && o.ctx == ctx) && !(s.copies.any fun c => c.ten == ten && c.ctx == ctx)
    && (s.ctxCohorts ten ctx).all (fun h => h.coaches.all fun c => c.access.isNone && c.epochWait.isNone)
    && (s.ten ten).faults.all fun f => f.units.all fun u => match u.2 with
      | .task id => !((s.task? id).any (·.of ten ctx))
      | _ => true

/-- The PARK of a slot in execution. -/
def State.parkOf (s : State) (ten n : Nat) : Option Move :=
  let x := (s.ten ten).slot n
  if x.st = .parking then x.move else none

/-- R412: a resident slot with a coach parked at an order to a stateful unit. -/
def State.slotWaits (s : State) (ten n : Nat) : Bool :=
  let x := (s.ten ten).slot n
  x.st == .resident && s.cohorts.any fun h =>
    ((s.task? h.task).any fun k => k.ten == ten && k.ctx == x.ctx)
      && h.coaches.any fun c => c.order.any fun w => (w.unitRef h.cluster).stateful

/-- R415: a context other than the holder waits for the units. -/
def State.othersWait (s : State) (ten n : Nat) : Bool := (List.range 4).any fun m => m != n && s.slotWaits ten m

/-- Occupied slots of a tenancy that are resident. -/
def Tenancy.residents (t : Tenancy) : List Nat := (List.range 4).filter fun n => (t.slot n).st == .resident

/-- R421: ticks a context is blocked before a hint is due. -/
def hintAfter : Nat := 1250

/-- R421: every resident context has been blocked for 1,250 ticks. -/
def Tenancy.allBlocked (t : Tenancy) (tick : Nat) : Bool :=
  t.slots.all fun x => x.st != .resident || x.blockedSince.any fun b => decide (b + hintAfter ≤ tick)

/-- R421: a hint of the tenancy may come: it is asked for, none has been given, and every resident context is blocked. -/
def Tenancy.hintable (t : Tenancy) : Bool :=
  t.live && t.evrun != 0 && !t.hinted && !t.residents.isEmpty && t.slots.all fun x => x.st != .resident || x.blockedSince.isSome

/-- R284: the timeout of a tenancy. -/
def Tenancy.winLimit (t : Tenancy) : Nat := max 1024 t.winTmo.toNat

/-- What is due of a tenancy: its departure, roll call and the end of its brake (R258, R260, R264), its faults (R374), its
parks (R419), its holder (R415) and its hint (R421). -/
def State.tenDue (s : State) (t : Nat) : List Nat :=
  let x := s.ten t
  (match x.tt with
    | none => []
    | some y =>
      dueIf (y.st == .armed) x.td.toNat ++ dueIf (y.departed && !y.rolled) (x.td.toNat + 303)
        ++ dueIf (y.st == .braking && x.stopAt.isSome) (x.stopAt.getD 0 + Config.linkMax))
    ++ (if x.faultTmo = 0 then [] else x.faults.map fun f => f.tick + x.faultTmo.toNat + 1)
    ++ ((List.range 4).flatMap fun n => match s.parkOf t n with
      | some m => dueIf (!s.drained t (x.slot n).ctx) (m.start + x.ptmo.toNat + 1)
      | none => [])
    ++ (match x.holder with
      | some n => dueIf (decide (x.hold.toNat ≠ 0) && !x.holdLost && s.othersWait t n) (x.holdSince + x.hold.toNat + 1)
      | none => [])
    ++ dueIf x.hintable (maxOf (x.slots.filterMap (·.blockedSince)) + hintAfter + 1)

/-! ### Lanes and the rest (R62, R284, R447, R468) -/

/-- The waits of a coach's paths, after it has been brought as far as it goes. -/
def Coach.waits (k : Coach) : List Wait := k.wait :: k.aside.map (·.wait)

/-- R62, R66: a wait on a bound counter, with the tick it began. -/
def Coach.sharedSince (c : Coach) (k : Task) : Option (Nat × Nat) :=
  c.waits.findSome? fun w => match w with
    | .counter ac ts t => if (k.bound ac).isSome ∧ !ts.isEmpty then some (ac, t) else none
    | _ => none

/-- R62: waits on bound counters that outlast their dispatch's limit. -/
def State.waitsDue (s : State) : List Nat :=
  s.cohorts.flatMap fun h => match s.task? h.task with
    | none => []
    | some k =>
      if k.swlim = 0 then []
      else h.coaches.filterMap fun c => (c.sharedSince k).map fun w => w.2 + k.swlim + 2

/-- R468: ticks a new image has to report ready, and UTMO where the write gives 0. -/
def readyLimit : Nat := 125000
def utmoDefault : Nat := 1250000

/-- R468: the end of an update in progress. -/
def Firmware.due (f : Firmware) : List Nat :=
  match f.update with
  | none => []
  | some u => [u.start + (if f.upd = 2 then min readyLimit u.utmo else u.utmo) + 1]

/-- R447: the end of a hold-off in which records have earned a message. -/
def Events.due (e : Events) : List Nat := dueIf (e.ien && e.msgDue) ((e.lastMsg.map (· + e.holdoff.toNat)).getD 0 + 1)

/-- R221: ticks after which a bulk request is latency-critical. -/
def promoteAfter : Nat := 1024

/-- R221: since when a bulk read waits to be requested. -/
def Fetch.waitFrom (f : Fetch) (ready : Nat) : List Nat := dueIf (!f.lat && !f.todo.isEmpty) ready

/-- R221: since when the bulk requests of an order wait: for a token, or for a free miss register (R111). -/
def OrderBody.promoteFrom : OrderBody → List Nat
  | .stRun d r => (if d.prio || r.hot then [] else r.since.toList) ++ r.flight.flatMap fun x => x.fetch.waitFrom x.ready
  | .gathQ g => (if g.prio || g.hot then [] else g.since.toList) ++ g.flight.flatMap fun x => x.fetch.waitFrom x.ready
  | _ => []

/-- R221: as `OrderBody.promoteFrom`, of a copy. -/
def Copy.promoteFrom (c : Copy) : List Nat :=
  if c.promoted then [] else match c.xfer with
    | none => c.since.toList
    | some x => x.fetch.waitFrom x.ready

/-- R221: the promotions due. -/
def State.promotions (s : State) : List Nat :=
  (s.orders.flatMap (·.body.promoteFrom) ++ s.copies.flatMap (·.promoteFrom)).map fun t => t + promoteAfter + 1

/-- What is due. An item of the line or the governor is due in its own tick, any other in the tick it reaches the boundary or the
next (R33, log 146). -/
def State.deadlines (s : State) : List Nat :=
  s.powerDue ++ s.promotions ++ s.ports.flatMap Port.due ++ s.missing ++ (List.range 8).flatMap s.tenDue ++ s.waitsDue
    ++ (s.xlt.wreqs.map fun w => w.tick + (s.ten w.ten).winLimit + 1) ++ s.fw.due ++ s.ev.due

/-- R33, R35: tick t may be handled: it is not before the latest handled one, and nothing is due before it. -/
def State.mayPass (s : State) (t : Nat) : Bool :=
  decide (s.tick ≤ t) && s.deadlines.all fun d => decide (t ≤ max d s.tick)

end Sys2Proof.Machine
end

