-- ==== Sys2Proof/Machine/Memory.lean ====
section
/-! DEFINITION. The memory port's requests (R383, R397, R473, R474). -/

namespace Sys2Proof.Machine

/-- R474: the lowest tag of a link that is not outstanding. -/
def MemPort.freeTag (m : MemPort) (link : Nat) : Nat :=
  (leastFrom (fun t => !m.reqs.any fun r => r.link == link && r.tag == t) 65536).getD 0

/-- R392, R393: the ways in which a tenancy's data other than its arenas' is placed; with none nothing is allocated. -/
def Tenancy.openWays (t : Tenancy) : W64 := t.scway &&& ~~~t.scwayRsv

/-- R383, R392, R473: a request on the link of its channel group, with its way mask. -/
def State.memRequest (s : State) (op : Access) (pa len ten : Nat) (va : Option Nat) (unit : Nat) (latency : Bool)
    (who : MemClient) : State :=
  let link := channelGroup (poolAddr pa)
  { s with mem := { s.mem with
      reqs := s.mem.reqs ++ [⟨link, s.mem.freeTag link, op, poolAddr pa, len, latency, ten, va, unit, who, (s.ten ten).openWays, none, false⟩] } }

/-- R389, R473: the pieces of n bytes at pa, each within an aligned 512 B region. -/
def regionPieces : Nat → Nat → Nat → List (Nat × Nat)
  | 0, _, _ => []
  | f + 1, pa, n =>
    if n = 0 then []
    else let k := min n (512 - pa % 512); (pa, k) :: regionPieces f (pa + k) (n - k)

/-- Requests for n bytes at pa. -/
def State.memRequests (s : State) (op : Access) (pa n ten : Nat) (va : Option Nat) (unit : Nat) (latency : Bool)
    (who : MemClient) : State :=
  (regionPieces (n / 512 + 2) pa n).foldl (fun (s : State) p =>
    s.memRequest op p.1 p.2 ten (va.map (· + (p.1 - pa))) unit latency who) s

/-- R99, R218: whether an outstanding read that has not been sent may bring n more bytes at an address. -/
abbrev Merge := MemReq → Nat → Nat → Bool

/-- Nothing merges. -/
def noMerge : Merge := fun _ _ _ => false

/-- A read widened to cover n bytes at pa as well. -/
def MemReq.cover (r : MemReq) (pa n : Nat) : MemReq :=
  let lo := min r.pa pa
  { r with pa := lo, len := max (r.pa + r.len) (pa + n) - lo, va := r.va.map (· - (r.pa - lo)) }

/-- R99, R218: a read of n bytes joined to one that has not been sent, within one 512 B region: whose request it is. -/
def State.joinReq (s : State) (m : Merge) (pa n : Nat) : Option (MemClient × State) :=
  (s.mem.reqs.find? fun r => !r.sent && r.op == .read && r.pa / 512 == poolAddr pa / 512 && m r (poolAddr pa) n).map fun r =>
    (r.who, { s with mem := { s.mem with
      reqs := modWhere (fun y => y.link == r.link && y.tag == r.tag) (·.cover (poolAddr pa) n) s.mem.reqs } })

/-- R397: granules of a mask over the aligned 512 B region of pa. -/
def maskGranules (pa : Nat) (m : BitVec 8) : List Nat := (setBits 8 m.toNat).map fun b => pa / 512 * 8 + b

end Sys2Proof.Machine
end

