-- ==== Sys2Proof/Machine/Remote.lean ====
section
/-! DEFINITION. Reaching memory beyond the own package's pool (R277–R284): routes, window and pod requests; and what one read
fetches through the row cache (R109–R113). -/

namespace Sys2Proof.Machine

/-! ### Routes (R277, R503) -/

/-- `LINE_ROUTE`'s entry for a hall address: 256 + package in the own pod, else the pod number. -/
def State.routeOf (s : State) (haddr : Nat) : Nat :=
  if bitsOf haddr 6 8 = bitsOf s.haddr.toNat 6 8 then 256 + bitsOf haddr 1 5 else bitsOf haddr 6 8

/-- R503: the port of a message to a hall address on a VC: the lowest of the entry's mask that is neither DOWN nor fenced and
holds a credit; its credits stand from carriage M on (R266). -/
def State.portFor (s : State) (haddr : Nat) (vc : Bool) : Option Nat :=
  leastFrom (fun p => bitOf (smGet 0 s.route (s.routeOf haddr)).toNat p && (s.port p).st != .down
    && (s.port p).st != .training && !(s.port p).txDue && !bitOf s.fence.toNat p
    && decide (0 < if vc then (s.port p).credit1 else (s.port p).credit0)) 16

/-! ### Requests (R278, R280, R282) -/

/-- R108: the physical address of a window offset. -/
def windowPa (win off : Nat) : Nat := 0xF * 2 ^ 48 + win * 2 ^ 40 + off

/-- R277: fields of a window address. -/
def paWin (pa : Nat) : Nat := bitsOf pa 40 8
def paOff (pa : Nat) : Nat := bitsOf pa 0 40

/-- R282: the pieces of a request: at most 1,824 data bytes each. -/
def msgPieces (pa n : Nat) : List (Nat × Nat) :=
  (List.range (ceilDiv n 1824)).map fun k => (pa + 1824 * k, min 1824 (n - 1824 * k))

/-- R280: why the requests for n bytes at an offset of a window are not issued: the code of their fault. A window has 2^40 offsets
(R277). -/
def State.windowFault (s : State) (t win off n : Nat) : Option Nat :=
  let e := smGet {} s.xlt.send win
  if !e.en then some 0x20
  else if e.ten ≠ t ∨ (msgPieces off n).any (fun p => decide (e.size ≤ p.1 ∨ 2 ^ 40 ≤ p.1)) then some 0x23 else none

/-- R277, R280: whether the requests for n bytes at a physical address beyond the own pool can be issued. -/
def State.remoteFault (s : State) (t pa n : Nat) : Option Nat :=
  match s.paSpace pa with
  | .window => s.windowFault t (paWin pa) (paOff pa) n
  | .reserved => some 0x20
  | _ => none

/-- R278, R279, R282: the target and the message of a request. -/
def State.requestFor (s : State) (t pa op len : Nat) (cmp : W64) (data : List Byte) : Nat × Msg :=
  let base : Msg := { op := op, len := len, rtag := s.xlt.nextRtag, src := s.haddr.toNat, cmp := cmp, data := data }
  match s.paSpace pa with
  | .window =>
    let e := smGet {} s.xlt.send (paWin pa)
    (e.haddr, { base with win := e.rwin, kind := 0, jobTag := e.jobTag, addr := paOff pa })
  | _ =>
    let pkg := bitsOf pa 46 6 - 1
    (bitsOf s.haddr.toNat 6 8 * 64 + pkg * 2 + bitsOf s.haddr.toNat 0 1,
      { base with kind := 1, jobTag := (s.ten t).jobTag, addr := poolAddr pa })

/-- A request issued: it waits for a port and then for its RESP (R284). -/
def State.request (s : State) (t pa op len : Nat) (cmp : W64) (data : List Byte) (who : WClient) (va : Option Nat := none) : State :=
  let r := s.requestFor t pa op len cmp data
  { s with xlt := { s.xlt with
      nextRtag := s.xlt.nextRtag + 1
      wreqs := s.xlt.wreqs ++ [⟨s.xlt.nextRtag, t, who, r.1, r.2, s.tick, false, va⟩] } }

/-- READ requests for n bytes at pa; `who` names the client by the address of each piece. -/
def State.readRequests (s : State) (t pa n : Nat) (who : Nat → WClient) (va : Option Nat := none) : State :=
  (msgPieces pa n).foldl (fun (s : State) p => s.request t p.1 1 p.2 0 [] (who p.1) (va.map (· + (p.1 - pa)))) s

/-- WRITE requests for bytes at pa. -/
def State.writeRequests (s : State) (t pa : Nat) (bs : List Byte) (who : Nat → WClient) (va : Option Nat := none) : State :=
  (msgPieces pa bs.length).foldl (fun (s : State) p =>
    s.request t p.1 2 p.2 0 ((bs.drop (p.1 - pa)).take p.2) (who p.1) (va.map (· + (p.1 - pa)))) s

/-! ### Misses (R365, R366) -/

/-- R365: the access of a party lies in the region that a walk is for. -/
def Walk.serves (w : Walk) (ten va : Nat) : Bool :=
  w.ten == ten && if w.big then w.va / 2 ^ 30 == va / 2 ^ 30 else w.va == va / 2 ^ 21 * 2 ^ 21

def Walk.join (w : Walk) (p : Party) : Walk := if w.units.contains p then w else { w with units := w.units ++ [p] }

/-- R365: a walk of a device address, and whether it is for a 1 GiB region. -/
def State.newWalk (s : State) (ten : Nat) (p : Party) : Walk :=
  let big := match walkTables s (s.ten ten) p.va false with
    | .leaf l => l.big
    | _ => false
  ⟨ten, p.va / 2 ^ 21 * 2 ^ 21, big, [p]⟩

/-- R365: a walk begun for a unit, or joined; with 16 running it waits. -/
def State.startWalk (s : State) (ten va : Nat) (k : Access) (u : UnitRef) (serv : Serving) : State :=
  let p : Party := ⟨u, serv, va, k⟩
  match (s.xlt.walks ++ s.xlt.walkQ).find? (·.serves ten va) with
  | some w =>
    let join := modWhere (· == w) (·.join p)
    { s with xlt := { s.xlt with
        walks := join s.xlt.walks, walkQ := join s.xlt.walkQ, stalls := s.xlt.stalls ++ [(u, .walk ten w.va)] } }
  | none =>
    let w := s.newWalk ten p
    let st := s.xlt.stalls ++ [(u, .walk ten w.va)]
    if s.xlt.walks.length < 16 then
      State.count { s with xlt := { s.xlt with walks := s.xlt.walks ++ [w], stalls := st } } cntWalk 1
    else { s with xlt := { s.xlt with walkQ := s.xlt.walkQ ++ [w], stalls := st } }

/-- How a range is translated through the TLBs: its pieces, a miss, or a fault. -/
inductive Pieces where
  | ok (l : List (Nat × Nat))
  | miss (va : Nat)
  | fault (f : AccFault)

/-- R280: a piece beyond the own pool must be reachable. -/
def State.pieceFault (s : State) (ten va pa n : Nat) (k : Access) : Option AccFault :=
  (s.remoteFault ten pa n).map fun c => ⟨va, k, c, 0, false, 0⟩

/-- Pieces of n bytes at va, cut at 2 MiB boundaries. -/
def piecesGo (u : UnitRef) (ten : Nat) (k : Access) : Nat → State → Nat → Nat → List (Nat × Nat) → Pieces × State
  | 0, s, _, _, acc => (.ok acc, s)
  | f + 1, s, va, n, acc =>
    if n = 0 then (.ok acc, s)
    else
      let va := va % 2 ^ 48
      let m := min n (2 ^ 21 - va % 2 ^ 21)
      match s.xlHit u ten va k with
      | (.ok pa, e) =>
        let s := match e with
          | some e => s.l1Install u e
          | none => s
        match s.pieceFault ten va pa m k with
        | some g => (.fault g, s)
        | none => piecesGo u ten k f s (va + m) (n - m) (acc ++ [(pa, m)])
      | (.fault c d r, _) => (.fault ⟨va, k, c, d, r, 0⟩, s)
      | (.lost c pa, _) => (.fault ⟨va, k, c, 0, false, pa⟩, s)
      | (.miss, _) => (.miss va, s)

/-- A range translated without a walk. -/
def State.tryPieces (s : State) (u : UnitRef) (ten va n : Nat) (k : Access) : Pieces × State :=
  piecesGo u ten k (n / 2 ^ 21 + 2) s va n []

/-! ### Bytes beyond the own pool (R277) -/

/-- What an order or a coach has asked for. -/
def State.farOf (s : State) (who : FarWho) (pa n : Nat) : Option FarRead :=
  s.far.find? fun f => f.who == who && f.pa == pa && f.len == n

/-- R277, R282: the bytes of pieces, each with its device address, asked for: one READ request per 1,824 bytes. -/
def State.farAsk (s : State) (ten : Nat) (task : Option Nat) (who : FarWho) (ps : List ((Nat × Nat) × Nat)) : State :=
  ps.foldl (fun (s : State) x =>
    State.readRequests { s with far := s.far ++ (msgPieces x.1.1 x.1.2).map fun p => ⟨who, task, p.1, p.2, none⟩ } ten x.1.1 x.1.2
      (.far who task) (some x.2)) s

/-- What has come back is used up. -/
def State.farDrop (s : State) (who : FarWho) : State := { s with far := s.far.filter (·.who != who) }

/-- Writes of an order beyond the own pool still await their responses. -/
def State.farBusy (s : State) (who : FarWho) : Bool := s.xlt.wreqs.any fun w => match w.client with
  | .far x _ _ => x == who
  | _ => false

/-- The bytes of a piece beyond the own pool, where all of them have come back. -/
def State.farBytes (s : State) (who : FarWho) (p : Nat × Nat) : Option (List Byte) :=
  ((msgPieces p.1 p.2).mapM fun q => (s.farOf who q.1 q.2).bind (·.data)).map List.flatten

/-! ### The row cache (R109–R113) -/

/-- R110: a line's slice and set. -/
def rcSlice (line : Nat) : Nat := bitsOf line 0 4 ^^^ bitsOf line 4 4 ^^^ bitsOf line 8 4
def rcSet (line : Nat) : Nat := line / 16 % 384

/-- Sectors of a line piece. -/
def sectorsOf (pa n : Nat) : List Nat := (List.range 4).filter fun k => decide (k * 128 < pa % 512 + n ∧ pa % 512 < k * 128 + 128)

/-- R112, R113: a present line that a tenancy hits: in one of its own ways. -/
def RowCache.find (c : RowCache) (ways : W16) (line : Nat) : Option RcLine :=
  c.lines.find? fun l => l.line == line && l.slice == rcSlice line && bitOf ways.toNat l.way

/-- The bytes of a piece that a line holds whole. -/
def RcLine.bytes (l : RcLine) (pa n : Nat) : Option (List Byte) :=
  if (sectorsOf pa n).all fun k => l.sectors.any (·.1 == k) then
    some ((List.range n).map fun i =>
      let a := pa % 512 + i
      (smGet [] l.sectors (a / 128)).getD (a % 128) 0)
  else none

/-- A free miss register of a slice. -/
def RowCache.freeMiss (c : RowCache) (slice : Nat) : Option Nat :=
  leastFrom (fun n => !c.miss.any fun m => m.slice == slice && m.n == n) 192

/-- R111: what a read of sectors of a line does at its slice: joins a register (with the sectors still to fetch), allocates one,
or waits. -/
inductive MissStep where
  | join (n : Nat) (more : List Nat)
  | alloc (n : Nat)
  | wait
deriving DecidableEq, Repr

/-- R111. -/
def RowCache.missStep (c : RowCache) (ten line : Nat) (sectors : List Nat) : MissStep :=
  match c.miss.find? fun m => m.ten == ten && m.line == line with
  | some m => if 16 ≤ m.second then .wait else .join m.n (sectors.filter fun k => !m.sectors.contains k)
  | none =>
    match c.freeMiss (rcSlice line) with
    | some n => .alloc n
    | none => .wait

/-- R111: one read covering the requested sectors of a line, for a miss register. -/
def State.fetchSectors (s : State) (ten line slice n : Nat) (va : Option Nat) (unit : Nat) (lat : Bool)
    (sectors : List Nat) : State :=
  match sectors with
  | [] => s
  | k :: _ =>
    let last := maxOf sectors
    s.memRequest .read (line * 512 + k * 128) ((last + 1 - k) * 128) ten va unit lat (.miss slice n)

/-- R99, R218: the sectors of a piece brought by a register's read that has not been sent. -/
def State.joinMiss (s : State) (merge : Merge) (slice n line : Nat) (secs : List Nat) : Option State :=
  match secs with
  | [] => none
  | k :: _ => (s.joinReq (fun r pa m => r.who == .miss slice n && merge r pa m) (line * 512 + k * 128)
      ((maxOf secs + 1 - k) * 128)).map (·.2)

/-- One line piece requested through the row cache: a hit, a miss, or nothing yet (false). A read that has not been sent brings the
piece as well where it may (`merge`); else a further miss of its line is a secondary one. -/
def State.rcRead (s : State) (who : MemClient) (ten : Nat) (va : Option Nat) (unit : Nat) (merge : Merge) (f : Fetch)
    (p : Nat × Nat) : State × Fetch × Bool :=
  let line := p.1 / 512
  let slice := rcSlice line
  match (s.rc.find (s.ten ten).rcway line).bind (·.bytes p.1 p.2) with
  | some bs => (s.count cntRcHit 1, { f with got := f.got ++ [(p.1, bs)] }, true)
  | none =>
    let secs := sectorsOf p.1 p.2
    match s.rc.missStep ten line secs with
    | .wait => (s, f, false)
    | .join n more =>
      let mine := fun (m : MissReg) => m.slice == slice && m.n == n
      match s.joinMiss merge slice n line secs with
      | some s =>
        let miss := modWhere mine (fun m => { m with sectors := m.sectors ++ more, waits := m.waits ++ [who] }) s.rc.miss
        ({ s with rc := { s.rc with miss := miss } },
          { f with misses := f.misses ++ [((slice, n), p)], merged := true }, true)
      | none =>
        let s := (s.count cntRcSec 1).fetchSectors ten line slice n va unit f.lat more
        let miss := modWhere mine (fun m =>
          { m with second := m.second + 1, sectors := m.sectors ++ more, waits := m.waits ++ [who] }) s.rc.miss
        ({ s with rc := { s.rc with miss := miss } }, { f with misses := f.misses ++ [((slice, n), p)] }, true)
    | .alloc n =>
      let s := (s.count cntRcMiss 1).fetchSectors ten line slice n va unit f.lat secs
      let m : MissReg := { slice := slice, n := n, ten := ten, line := line, sectors := secs, waits := [who] }
      ({ s with rc := { s.rc with
          miss := s.rc.miss ++ [m]
          alloc := smSet 0 s.rc.alloc slice (smGet 0 s.rc.alloc slice + 1) } },
        { f with misses := f.misses ++ [((slice, n), p)] }, true)

/-- R109: a physical address the row cache may hold. -/
def rcHolds (pa : Nat) : Bool := bitsOf pa 46 6 == 0

/-- Where the device address of a physical byte lies along the pieces of a fetch. -/
def vaAlong (va : Nat) : List (Nat × Nat) → Nat → Option Nat
  | [], _ => none
  | (p, n) :: ps, pa => if p ≤ pa ∧ pa < p + n then some (va + (pa - p)) else vaAlong (va + n) ps pa

/-- The device address of a fetched byte. -/
def Fetch.vaOf (f : Fetch) (pa : Nat) : Option Nat := f.va.bind fun v => vaAlong v f.pieces pa

/-- The line pieces of a fetch requested in order, as far as miss registers are free. -/
def fetchGo (who : MemClient) (ten : Nat) (unit : Nat) (merge : Merge) : List (Nat × Nat) → State → Fetch → State × Fetch
  | [], s, f => (s, { f with todo := [] })
  | p :: ps, s, f =>
    match s.rcRead who ten (f.vaOf p.1) unit merge f p with
    | (s, f, true) => fetchGo who ten unit merge ps s f
    | (s, f, false) => (s, { f with todo := p :: ps })

/-- R109, R111: a fetch carried on. -/
def State.fetchMore (s : State) (who : MemClient) (ten unit : Nat) (f : Fetch) (merge : Merge := noMerge) : State × Fetch :=
  fetchGo who ten unit merge f.todo s f

/-- Pieces that bypass the row cache requested of memory, with a read that has not been sent where they may (R99, R218). -/
def State.fetchPast (s : State) (who : MemClient) (ten unit : Nat) (merge : Merge) (f : Fetch) (p : Nat × Nat) : State × Fetch :=
  (regionPieces (p.2 / 512 + 2) p.1 p.2).foldl (fun (x : State × Fetch) q =>
    match x.1.joinReq merge q.1 q.2 with
    | some (w, s) => (s, { x.2 with merged := true, shares := if w = who ∨ x.2.shares.contains w then x.2.shares else x.2.shares ++ [w] })
    | none => (x.1.memRequest .read q.1 q.2 ten (x.2.vaOf q.1) unit f.lat who, x.2)) (s, f)

/-- Pieces added to a fetch: those of the own pool go through the row cache or, where they bypass it (R109, R113), straight to memory;
pieces elsewhere go as READ requests. -/
def State.fetchAdd (s : State) (who : MemClient) (wwho : Nat → WClient) (ten unit : Nat) (bypass : Bool) (f : Fetch)
    (pieces : List (Nat × Nat)) (merge : Merge := noMerge) : State × Fetch :=
  pieces.foldl (fun (x : State × Fetch) p =>
    match x.1.paSpace p.1 with
    | .pool =>
      if bypass ∨ (x.1.ten ten).rcway = 0 then x.1.fetchPast who ten unit merge x.2 p
      else x.1.fetchMore who ten unit { x.2 with todo := x.2.todo ++ regionPieces (p.2 / 512 + 2) p.1 p.2 } merge
    | .ownPod => x.1.fetchPast who ten unit merge x.2 p
    | _ => (x.1.readRequests ten p.1 p.2 wwho (x.2.vaOf p.1), x.2)) (s, { f with pieces := f.pieces ++ pieces })

/-- A fetch begun. -/
def State.fetchStart (s : State) (who : MemClient) (wwho : Nat → WClient) (ten unit : Nat) (va : Option Nat) (latency bypass : Bool)
    (pieces : List (Nat × Nat)) (merge : Merge := noMerge) : State × Fetch :=
  s.fetchAdd who wwho ten unit bypass { va := va, lat := latency } pieces merge

/-- The bytes of a piece from what has come back, the rest from the pool as it stands at the landing: R103 leaves open which of two
overlapping accesses of a sector comes first (log 18). -/
def fetchBytes (s : State) (got : List (Nat × List Byte)) : Nat → Nat → Nat → List Byte
  | 0, _, _ => []
  | fuel + 1, pa, n =>
    if n = 0 then []
    else
      match got.find? fun g => g.1 == pa && g.2.length != 0 with
      | some g => (g.2.take n) ++ fetchBytes s got fuel (pa + g.2.length) (n - g.2.length)
      | none =>
        let k := min n (512 - pa % 512)
        s.poolBytes pa k ++ fetchBytes s got fuel (pa + k) (n - k)

/-- The bytes a fetch brought. -/
def State.fetched (s : State) (f : Fetch) : List Byte :=
  f.pieces.flatMap fun p => fetchBytes s f.got (p.2 + 1) p.1 p.2

/-- Bytes that a response brought added to a fetch. -/
def Fetch.add (f : Fetch) (pa : Nat) (bs : List Byte) : Fetch := { f with got := f.got ++ [(pa, bs)] }

/-- R111: the fill of a register gives a waiting fetch the bytes of its line piece. -/
def Fetch.fill (f : Fetch) (s : State) (slice n : Nat) : Fetch :=
  let mine := f.misses.filter (·.1 == (slice, n))
  { f with
    misses := f.misses.filter (·.1 != (slice, n))
    got := f.got ++ mine.map fun m => (m.2.1, s.poolBytes m.2.1 m.2.2) }

/-- Every line piece has been requested, every register has filled, and the merged reads are back. -/
def State.fetchHome (s : State) (f : Fetch) : Bool := f.todo.isEmpty && f.misses.isEmpty && !f.shares.any s.memBusy

/-! ### Lines installed (R109, R112) -/

/-- R112: the way a fill for a tenancy takes: the one that holds the line, else the next of its mask after the pointer. -/
def RowCache.fillWay (c : RowCache) (ways : W16) (slice set line : Nat) : Option Nat :=
  match c.find ways line with
  | some l => some l.way
  | none =>
    let p := smGet 0 c.ptr (384 * slice + set)
    (leastFrom (fun k => bitOf ways.toNat ((p + 1 + k) % 16)) 16).map fun k => (p + 1 + k) % 16

/-- R112: sectors of a line installed in a way; the sectors the way already holds of that line stay. -/
def RowCache.install (c : RowCache) (ways : W16) (line : Nat) (secs : SMap (List Byte)) : RowCache :=
  let slice := rcSlice line
  let set := rcSet line
  match c.fillWay ways slice set line with
  | none => c
  | some w =>
    let old := ((c.find ways line).map (·.sectors)).getD []
    let here := fun (l : RcLine) => l.slice == slice && l.set == set && l.way == w
    { c with
      ptr := if (c.find ways line).isSome then c.ptr else smSet 0 c.ptr (384 * slice + set) w
      lines := c.lines.filter (fun l => !here l) ++
        [⟨slice, set, w, line, secs.foldl (fun m x => smSet [] m x.1 x.2) old⟩] }

/-- R109: one line piece read at once through the row cache: what a present copy holds, else what memory holds, installed. -/
def State.rcNow (s : State) (ten : Nat) (p : Nat × Nat) : List Byte × State :=
  let line := p.1 / 512
  let ways := (s.ten ten).rcway
  match (s.rc.find ways line).bind (·.bytes p.1 p.2) with
  | some bs => (bs, s.count cntRcHit 1)
  | none =>
    let secs := ((sectorsOf p.1 p.2).filter fun k => (s.lost (line * 512 + k * 128) 128).isNone).map fun k =>
      (k, s.poolBytes (line * 512 + k * 128) 128)
    let slice := rcSlice line
    let up := fun (m : SMap W32) => smSet 0 m slice (smGet 0 m slice + 1)
    (s.poolBytes p.1 p.2, State.count { s with rc := { s.rc.install ways line secs with
      alloc := up s.rc.alloc, freed := up s.rc.freed } } cntRcMiss 1)

/-- R109: n bytes of the own pool that a gather engine or mover reads within a command. -/
def State.readNow (s : State) (ten pa n : Nat) (bypass : Bool) : List Byte × State :=
  if bypass ∨ !rcHolds pa ∨ (s.ten ten).rcway = 0 then (s.poolBytes pa n, s)
  else (regionPieces (n / 512 + 2) pa n).foldl (fun (x : List Byte × State) p =>
    let r := x.2.rcNow ten p
    (x.1 ++ r.1, r.2)) ([], s)


end Sys2Proof.Machine
end

