-- ==== Sys2Proof/Machine/Engine.lean ====
section
/-! DEFINITION. What the engine orders share (R326–R330): an effect that may fault or wait, memory and scratchpad through a
unit, order faults, the table status records, and the formats of rows. -/

namespace Sys2Proof.Machine

/-! ### Effects that may fault -/

/-- Why an order stops: an access that translation or a bound refused, a fault with its record, a wait, a translation that is not
in the TLBs (R366), or bytes beyond the own pool that are to be asked for (R277). -/
inductive OFault where
  | acc (f : AccFault)
  | bad (f : FaultRec)
  | wait
  | miss (va : Nat) (k : Access)
  | far (ps : List ((Nat × Nat) × Nat))

/-- An effect of an order on the state; what it did before a fault is kept unless the fault is replayed. -/
abbrev OM (α : Type) := ExceptT OFault (StateM State) α

/-- The effect run. -/
def OM.go {α : Type} (m : OM α) (s : State) : Except OFault α × State := ExceptT.run m s

def oBad (f : FaultRec) : OM Unit := throw (.bad f)
def oWait : OM Unit := throw .wait
def oCheck (b : Bool) (f : FaultRec) : OM Unit := if b then pure () else throw (.bad f)

/-- A translated access as an effect. -/
def oV {α : Type} (k : Access) (f : State → VRes α) : OM α := do
  match f (← get) with
  | .ok a s' => do set s'; pure a
  | .bad e s' => do set s'; throw (.acc e)
  | .miss va s' => do set s'; throw (.miss va k)

/-- Whose access it is: the order or coach, the unit that carries its memory traffic (R367), tenancy, task, cluster, the task's
scratchpad (where the context's share starts and the task's extent in it, R53, R54), and the order's own unit. -/
structure Eng where
  who : FarWho
  task : Option Nat
  unit : UnitRef
  ten : Nat
  ctx : Nat
  cluster : Nat
  base : Nat
  spext : Nat
  own : UnitRef

/-- R367: the unit that carries a unit's memory traffic: the units that never translate go through the lowest-numbered enabled
gather engine of their cluster (log 27). -/
def State.carrier (s : State) : UnitRef → UnitRef
  | .gather e => .gather e
  | .mover m => .mover m
  | .arena c => .arena c
  | .pool c | .scan c | .topk c | .ia c =>
    .gather (4 * c + (leastFrom (fun e => bitOf s.enGather.toNat (4 * c + e)) 4).getD 0)

/-- The accesses of a task's orders at a unit of a cluster. -/
def State.engOf (s : State) (k : Task) (cluster : Nat) (u : UnitRef) (who : FarWho) : Eng :=
  ⟨who, some k.id, s.carrier u, k.ten, k.ctx, cluster, s.spShare k, k.spext, u⟩

/-- R54: an access to the scratchpad outside the task's extent. -/
def apertureFault (k : Access) (off : Nat) : AccFault := ⟨off, k, 0x23, 0, false, 0⟩

/-- R54, R442: n bytes at a scratchpad offset lie within the task's extent, or the order's own unit raises XLT_APERTURE: no other carries its
scratchpad accesses. -/
def spBound (x : Eng) (k : Access) (off n : Nat) : OM Unit :=
  if off + n ≤ x.spext then pure ()
  else throw (.bad (xltRec (apertureFault k off) (unitWord x.own) 0 (.task (x.task.getD 0))))

def oSpRead (x : Eng) (off n : Nat) : OM (List Byte) := do
  spBound x .read off n
  return (← get).spBytes x.cluster (x.base + off) n

def oSpWrite (x : Eng) (off : Nat) (bs : List Byte) : OM Unit := do
  spBound x .write off bs.length
  modify fun s => s.spWrite x.cluster (x.base + off) bs

/-- R327: bit 63 of an address word selects the scratchpad. -/
def awSp (w : Nat) : Bool := bitOf w 63
/-- R327: the address. -/
def awAddr (w : Nat) : Nat := if awSp w then bitsOf w 0 23 else bitsOf w 0 48
/-- R327: an address word whose reserved bits are 0. -/
def awOk (w : Nat) : Bool := if awSp w then bitsOf w 23 40 == 0 else bitsOf w 48 15 == 0

/-- R277, R366: the physical pieces of n bytes at a device address. -/
def oPieces (x : Eng) (va n : Nat) (k : Access) : OM (List (Nat × Nat)) := do
  let r := (← get).tryPieces x.unit x.ten va n k
  set r.2
  match r.1 with
  | .ok ps => return ps
  | .miss v => throw (.miss v k)
  | .fault f => throw (.acc f)

/-- R109: a unit whose reads the row cache holds. -/
def UnitRef.caches : UnitRef → Bool
  | .gather _ => true
  | .mover _ => true
  | _ => false

/-- R397: bytes of the own pool, or what their loss raises; directory reads bypass the row cache (R109). -/
def oPool (x : Eng) (va pa n : Nat) (bypass : Bool) : OM (List Byte) := do
  let s ← get
  match s.lost pa n with
  | none => do
    let r := s.readNow x.ten pa n (bypass || !x.unit.caches)
    set r.2
    return r.1
  | some l => do
    set (s.meetBad x.ten pa n)
    throw (.acc ⟨va, .read, l.1, 0, false, l.2⟩)

/-- n bytes at a device address; what lies beyond the own pool is asked for and waited for (R277). -/
def eRead (x : Eng) (va n : Nat) (bypass : Bool := false) : OM (List Byte) := do
  let ps ← oPieces x va n .read
  let s ← get
  let far := ps.filter fun p => !s.ownPool p.1
  let lacking := far.filter fun p => (s.farBytes x.who p).isNone
  let new := lacking.filter fun p => (msgPieces p.1 p.2).all fun q => (s.farOf x.who q.1 q.2).isNone
  if !new.isEmpty then throw (.far (new.map fun p => (p, (vaAlong va ps p.1).getD va)))
  else if !lacking.isEmpty then throw .wait
  else
    let l ← ps.mapM fun p => if s.ownPool p.1 then oPool x va p.1 p.2 bypass else pure ((s.farBytes x.who p).getD [])
    return l.flatten

/-- Bytes written to the physical pieces of a range; those beyond the own pool go as WRITE requests. -/
def State.putPieces (s : State) (ten : Nat) (who : Nat → WClient) : List (Nat × Nat) → Nat → List Byte → State
  | [], _, _ => s
  | (pa, n) :: ps, va, bs =>
    State.putPieces (if s.ownPool pa then s.engineWrite pa (bs.take n) else s.writeRequests ten pa (bs.take n) who (some va)) ten who ps
      (va + n) (bs.drop n)

/-- Bytes written at a device address; what lies beyond the own pool goes as WRITE requests, and a write into a checkpoint region that has
no image yet waits (R291). -/
def eWrite (x : Eng) (va : Nat) (bs : List Byte) : OM Unit := do
  if (← get).ckHolds x.ten va bs.length then throw .wait
  let ps ← oPieces x va bs.length .write
  modify fun s => s.putPieces x.ten (.far x.who x.task) ps va bs

/-- n bytes at an address word plus an offset. -/
def oRead (x : Eng) (w off n : Nat) : OM (List Byte) :=
  if n = 0 then pure []
  else if awSp w then oSpRead x (awAddr w + off) n else eRead x (awAddr w + off) n

/-- Bytes written at an address word plus an offset. -/
def oWrite (x : Eng) (w off : Nat) (bs : List Byte) : OM Unit :=
  if bs.isEmpty then pure ()
  else if awSp w then oSpWrite x (awAddr w + off) bs else eWrite x (awAddr w + off) bs

/-- A little-endian word read. -/
def oWord (x : Eng) (w off n : Nat) : OM Nat := do return leNat (← oRead x w off n)

/-- n little-endian words of k bytes read. -/
def oWords (x : Eng) (w off k n : Nat) : OM (List Nat) := do
  return (chunksOf k n (← oRead x w off (k * n))).map leNat

/-! ### Order faults (R330, R442) -/

/-- An order as its faults name it. -/
structure OrderName where
  pc : Nat
  op : Nat
  unit : UnitRef

/-- R330: an order fault with its sub-code. -/
def orderFault (n : OrderName) (sub : Nat) : FaultRec := ⟨0x10, sub, n.pc + n.op * 2 ^ 48, unitWord n.unit⟩

/-- R129: an arena fault: table, bank, the state found and the step. -/
def arenaFault (n : OrderName) (table : Nat) (send : Bool) (st : Nat) (step : Nat) : FaultRec :=
  ⟨0x10, 0x20, table + b2n send * 2 ^ 12 + st * 2 ^ 13, unitWord n.unit + step * 2 ^ 16⟩

/-- R213: a stream fault: the descriptor's address and the stream word. -/
def streamFault (n : OrderName) (desc word : Nat) : FaultRec :=
  ⟨0x10, 0x21, desc % 2 ^ 48, unitWord n.unit + word * 2 ^ 16⟩

/-- R233: SYNC_HITCH with the unit and the hitch. -/
def hitchBad (u : UnitRef) (h : Nat) : FaultRec := ⟨0x62, 0, 0, unitWord u + h % 256 * 2 ^ 20⟩

/-- R178, R442, R510: ARITH_NAN at a check point. -/
def nanFault (u : UnitRef) (point row table elem : Nat) : FaultRec :=
  ⟨0x51, point, row % 2 ^ 40 + table * 2 ^ 40, unitWord u + elem % 4096 * 2 ^ 16⟩

/-- R92, R442: an index fault: row id, table, list position, owner. -/
def indexFault (u : UnitRef) (code row table pos owner : Nat) : FaultRec :=
  ⟨code, 0, row % 2 ^ 40 + table * 2 ^ 40, unitWord u + pos % 2 ^ 32 * 2 ^ 16 + owner % 512 * 2 ^ 48⟩

/-- What a stopped order does to the state: a miss or a replayable access stalls its unit, and bytes beyond the own pool are asked for,
with what was done undone (log 11); a fault aborts the task. `u` is the unit that made the access, for `who`. -/
def State.orderStop (s s' : State) (ten ctx task : Nat) (u : UnitRef) (who : FarWho) : OFault → State
  | .acc f =>
    if f.replay ∧ !(s.ten ten).timetabled then s.pendFault ten ctx u (.task task) f
    else s'.failTask ten ctx task (xltRec f (unitWord u) 0 (.task task))
  | .bad f => s'.failTask ten ctx task f
  | .wait => s
  | .miss va k => s.startWalk ten va k u (.task task)
  | .far ps => s.farAsk ten (some task) who ps

/-! ### Table status records (R94, R144, R496) -/

/-- Offsets in a status record. -/
def srReq : Nat := 0x00
def srDeliv : Nat := 0x04
def srDropRange : Nat := 0x08
def srDropMiss : Nat := 0x0C
def srDropOwn : Nat := 0x10
def srConv : Nat := 0x20
def srComb : Nat := 0x24
def srAdded : Nat := 0x28
def srNan : Nat := 0x2C
def srSentRow : Nat := 0x30
def srRecvRow : Nat := 0x34
def srUnder : Nat := 0x38
def srSat : Nat := 0x3C

/-- R385, R395, R496: where an access of the block to a bank or status record goes: nowhere outside the pinned ranges, denied where it
may not write or leaves the own pool or the allowed groups, or a physical address. -/
inductive AddPlace where
  | outside
  | denied
  | at (pa : Nat)
deriving DecidableEq, Repr

def State.addPlace (s : State) (t va : Nat) (svc : Bool) : AddPlace :=
  match s.pinned t va with
  | none => .outside
  | some (pa, w) => if w && s.pinGroup t va svc then .at pa else .denied

/-- R362, R385, R395: XLT_PERMISSION of an access that is denied: with the GROUP detail where it may write and stays in the own pool. -/
def State.addDenied (s : State) (t va : Nat) (k : Access) (unit : Nat) : FaultRec :=
  let group := (s.pinned t va).any fun p => p.2 && s.ownPool p.1
  ⟨0x21, 8 * b2n group, va % 2 ^ 48 + accCode k * 2 ^ 48, unit⟩

/-- The device address of a counter of a table's status record. -/
def State.statusVa (s : State) (t table off : Nat) : Nat := (s.ten t).statusBase.toNat * 64 + 64 * table + off

/-- R94, R398: one atomic add to a table's status record; none where it is refused or its data is lost. -/
def State.statusAdd (s : State) (t table off n : Nat) : Option State :=
  match s.addPlace t (s.statusVa t table off) true with
  | .outside => some s
  | .denied => none
  | .at pa =>
    if (s.lost pa 4).isSome then none
    else some (s.engineWrite pa (toLe 4 ((s.poolWord pa 4 + n) % 2 ^ 32)))

/-- R94, R385, R397: the record of an add that is not made, raised by the memory port for the task that caused it, and the state in
which its data is found lost. -/
def State.statusFault (s : State) (t table off : Nat) : FaultRec × State :=
  let va := s.statusVa t table off
  match s.addPlace t va true with
  | .at pa => (s.badDataRec pa 4 (some va) memWordU, s.meetBad t pa 4)
  | _ => (s.addDenied t va .atomic memWordU, s)

/-- The add as an effect of an order. -/
def oStatus (t table off n : Nat) : OM Unit := do
  if n = 0 then return ()
  let s ← get
  match s.statusAdd t table off n with
  | some s' => set s'
  | none =>
    set (s.statusFault t table off).2
    throw (.bad (s.statusFault t table off).1)

/-! ### Rows (R83, R118, R126) -/

/-- R83: bytes of a row. -/
def rowBytes (format w : Nat) : Nat :=
  match format with
  | 0 => 4 * w
  | 1 => 2 * w
  | 2 => 2 * w
  | 3 => 8 + w
  | 4 => 8 + w
  | 5 => w / 2 + w / 32
  | 6 => 8 + w
  | 7 => 8 + w / 2
  | _ => w / 8

def TableDesc.bytes (d : TableDesc) : Nat := rowBytes d.format d.width
/-- R83: the stride S_t. -/
def TableDesc.stride (d : TableDesc) : Nat := roundUp d.bytes 128
/-- R126: A_t. -/
def TableDesc.abytes (d : TableDesc) : Nat := roundUp (8 * d.width) 128
/-- R126: offsets in a bank. -/
def TableDesc.elems (d : TableDesc) : Nat := 128 + roundUp (8 * d.acap) 128
def TableDesc.bankBytes (d : TableDesc) : Nat := d.elems + d.acap * d.abytes

/-- The little-endian word of k bytes at an offset of a byte list. -/
def leAt (bs : List Byte) (off k : Nat) : Nat := leNat ((bs.drop off).take k)

/-- A nibble, low nibble first. -/
def nibAt (bs : List Byte) (off e : Nat) : Nat := bitsOf (leAt bs (off + e / 2) 1) (4 * (e % 2)) 4

/-- R118: element e of a row as FP32. -/
def rowElem (d : TableDesc) (row : List Byte) (e : Nat) : W32 :=
  let scale := f32 (BitVec.ofNat 32 (leAt row 0 4))
  let bias := f32 (BitVec.ofNat 32 (leAt row 4 4))
  match d.format with
  | 0 => rn32 (fDecode f32Fmt (leAt row (4 * e) 4))
  | 1 => rn32 (fDecode bf16Fmt (leAt row (2 * e) 2))
  | 2 => rn32 (fDecode f16Fmt (leAt row (2 * e) 2))
  | 3 => rn32 (fMul scale (fDecode e4m3Fmt (leAt row (8 + e) 1)))
  | 4 => rn32 (fMul scale (fDecode e5m2Fmt (leAt row (8 + e) 1)))
  | 5 => rn32 (mxVal (leAt row (d.width / 2 + e / 32) 1) (nibAt row 0 e))
  | 6 => rn32 (fAdd (fMul scale (ofInt (signedOf (leAt row (8 + e) 1) 8) 0 false)) bias)
  | 7 => rn32 (fAdd (fMul scale (ofInt (signedOf (nibAt row 8 e) 4) 0 false)) bias)
  | _ => rn32 (ofInt (bitsOf (leAt row (e / 8) 1) (e % 8) 1 : Nat) 0 false)

/-- R118: a whole row as FP32. -/
def rowVals (d : TableDesc) (row : List Byte) : List W32 := (List.range d.width).map (rowElem d row)

/-- FP32 words as bytes. -/
def wordsLe (l : List W32) : List Byte := l.flatMap fun w => toLe 4 w.toNat

/-- R156, R509: the rank and formation size of a tenancy. -/
def Tenancy.self (t : Tenancy) : Nat := (t.tt.map (·.rank)).getD 0
def Tenancy.fsize (t : Tenancy) : Nat := (t.tt.map (·.fsize)).getD 1

/-! ### Acceptance (R328) -/

/-- An order at acceptance: its task, cohort and word, its accesses and its name in faults. -/
structure Acc where
  k : Task
  h : Cohort
  coach : Nat
  x : Eng
  name : OrderName
  w : OrderWord

/-- The tenancy of an order at acceptance. -/
def oTen (a : Acc) : OM Tenancy := do return (← get).ten a.k.ten

/-- R330: an order fault unless the condition holds. -/
def Acc.need (a : Acc) (b : Bool) (sub : Nat) : OM Unit := oCheck b (orderFault a.name sub)

/-- A field of n bits at bit lo, as a mask. -/
def fm (lo n : Nat) : Nat := (2 ^ n - 1) * 2 ^ lo

/-- R508: the bits of a structure that its layout does not name are 0: one mask per 64-bit word. -/
def layoutOk (bs : List Byte) (masks : List Nat) : Bool :=
  (masks.zipIdx).all fun x => leAt bs (8 * x.2) 8 &&& (2 ^ 64 - 1 - x.1) == 0

/-- R302, R326, R330, R331: the descriptor named by A: n bytes, aligned; bits [63:48] of the pair are ignored (log 151); `pinned`: it
must lie in pinned memory (R148, R209). -/
def Acc.desc (a : Acc) (n align : Nat) (pinned : Bool) : OM (List Byte) :=
  if a.w.dspace = 1 then do
    let off := a.w.a.toNat % 2 ^ 23
    a.need (off % align == 0) 0x11
    oSpRead a.x off n
  else do
    let va := a.w.a.toNat % 2 ^ 48
    a.need (va % align == 0) 0x11
    if pinned && !(← get).pinnedRange a.k.ten va n then throw (.acc ⟨va, .read, 0x24, 0, false, 0⟩)
    eRead a.x va n

/-- A descriptor whose reserved bits are checked. -/
def Acc.descOk (a : Acc) (n align : Nat) (pinned : Bool) (masks : List Nat) : OM (List Byte) := do
  let bs ← a.desc n align pinned
  a.need (layoutOk bs masks) 0x10
  return bs

/-- R327, R330: an address word of a descriptor: its reserved bits and its alignment. -/
def Acc.aw (a : Acc) (w align : Nat) : OM Unit := do
  a.need (awOk w) 0x10
  a.need (awAddr w % align == 0) 0x11

/-- R330: the table an order names. -/
def Acc.table (a : Acc) (n : Nat) : OM Table := do
  match (← oTen a).table? n with
  | some t => return t
  | none => throw (.bad (orderFault a.name 0x12))

/-- R156: an order on a table with a row directory or an exception directory takes a ticket. -/
def TableDesc.ticketed (d : TableDesc) : Bool := d.dir || d.ownfn == 3

/-- What acceptance gives: what the order will do, and whether it takes a ticket (R156). -/
structure Accepted where
  body : OrderBody
  ticket : Bool := false

end Sys2Proof.Machine
end

