-- ==== Sys2Proof/Machine/Gather.lean ====
section
/-! DEFINITION. The gather engines (R85–R108, R332–R334): owners, index checks, `gath.q`, `gath.bk`, `gath.ovf`, and the landing
of rows. -/

namespace Sys2Proof.Machine

/-! ### Owners (R85, R86) -/

/-- R86: an exception-directory entry. -/
structure ExcEntry where
  row : Nat
  st : Nat
  owner : Nat
  next : Nat
deriving DecidableEq, Repr

def excEntry (w : Nat) : ExcEntry := ⟨bitsOf w 0 40, bitsOf w 40 2, bitsOf w 42 9, bitsOf w 51 9⟩

/-- R86: an entry that names a row; state 3 reads as EMPTY. -/
def ExcEntry.live (e : ExcEntry) : Bool := e.st == 1 || e.st == 2

/-- R85: the bucket of a row id. -/
def excBucket (exclog row : Nat) : Nat :=
  if exclog = 0 then 0 else (BitVec.ofNat 64 row * 0x9E3779B97F4A7C15#64).toNat / 2 ^ (64 - exclog)

/-- R85, R86: the exception entry of a row, where one names it. -/
def excFind (x : Eng) (d : TableDesc) (row : Nat) : OM (Option ExcEntry) := do
  let bs ← eRead x (d.ownparm + 64 * excBucket d.exclog row) 64 true
  return ((chunksOf 8 8 bs).map fun w => excEntry (leNat w)).find? fun e => e.live && e.row == row

/-- R85: the owner of a row id. -/
def ownerOf (x : Eng) (d : TableDesc) (self row : Nat) : OM Nat :=
  match d.ownfn with
  | 0 => pure self
  | 1 => pure (d.obase + row % d.nown)
  | 2 => pure (d.obase + row / d.ownparm)
  | _ => do
    match ← excFind x d row with
    | some e => return e.owner
    | none => return d.obase + row % d.nown

/-! ### Index checks (R88, R91–R93, R106) -/

/-- R91: why an index is not looked up. -/
inductive Drop where
  | range | missing | owner
deriving DecidableEq, Repr

def Drop.code : Drop → Nat
  | .range => 0x10
  | .missing => 0x11
  | .owner => 0x12

def Drop.counter : Drop → Nat
  | .range => srDropRange
  | .missing => srDropMiss
  | .owner => srDropOwn

/-- R89: the missing-index sentinel. -/
def sentinel48 : Nat := 2 ^ 48 - 1

/-- What an index names: its row and owner, or why it is dropped. -/
structure Look where
  row : Nat
  owner : Nat := 0
  drop : Option Drop := none

/-- R91, R106: an index or request entry checked. `inForm`: the tenancy is in a formation. -/
def lookIndex (x : Eng) (d : TableDesc) (table self fsize : Nat) (inForm req : Bool) (entry : Nat) : OM Look :=
  if req then
    let row := bitsOf entry 0 40
    if bitsOf entry 40 12 ≠ table then pure ⟨row, 0, some .owner⟩
    else if d.rows ≤ row then pure ⟨row, 0, some .range⟩
    else do
      let o ← ownerOf x d self row
      return ⟨row, o, if o = self then none else some .owner⟩
  else
    let row := bitsOf entry 0 48
    if row = sentinel48 then pure ⟨row, 0, some .missing⟩
    else if d.rows ≤ row then pure ⟨row, 0, some .range⟩
    else do
      let o ← ownerOf x d self row
      let s ← get
      let far := decide (o ≠ self) &&
        ((inForm && decide (fsize ≤ o)) || decide (255 < d.wbase + o) || !(smGet {} s.xlt.send (d.wbase + o)).en)
      return ⟨row, o, if far then some .owner else none⟩

/-- R87, R88: a directory entry: the slot it names, or why the look-up is dropped. -/
def dirSlot (d : TableDesc) (e : Nat) : Nat ⊕ Drop :=
  if !bitOf e 63 then .inr .missing else if d.slots ≤ bitsOf e 0 40 then .inr .range else .inl (bitsOf e 0 40)

/-! ### Landing maps (R100, R332) -/

def LandMap.is (m : LandMap) (ten ctx num : Nat) : Bool := m.ten == ten && m.ctx == ctx && m.num == num

/-- A position's mark in a landing map: 0 none, 1 landed, 2 dropped. -/
def State.markOf (s : State) (cluster ten ctx num pos : Nat) : Nat :=
  match (s.cluster cluster).maps.find? (·.is ten ctx num) with
  | some m => smGet 0 m.marks pos
  | none => 0

def State.setMark (s : State) (cluster ten ctx num pos v : Nat) : State :=
  s.modCluster cluster fun c =>
    { c with maps :=
        if c.maps.any (·.is ten ctx num) then
          modWhere (·.is ten ctx num) (fun m => { m with marks := smSet 0 m.marks pos v }) c.maps
        else c.maps ++ [⟨ten, ctx, num, smSet 0 [] pos v⟩] }

def State.clearMap (s : State) (cluster ten ctx num : Nat) : State :=
  s.modCluster cluster fun c => { c with maps := c.maps.filter fun m => !m.is ten ctx num }

/-! ### Acceptance (R332, R333) -/

/-- R332. -/
def acceptGathQ (a : Acc) : OM Accepted := do
  let bs ← a.descOk 64 64 false [fm 0 19 + fm 32 25, fm 0 64, fm 0 23, fm 0 24, 0, 0, 0, 0]
  let w0 := leAt bs 0 8
  let list := leAt bs 8 8
  let land := leAt bs 16 8
  let first := leAt bs 24 8
  let count := bitsOf w0 32 25
  a.aw list 8
  a.need (land % 128 == 0) 0x11
  let t ← a.table (bitsOf w0 0 12)
  a.need (decide (1 ≤ count ∧ count ≤ 2 ^ 24 ∧ first + count ≤ 2 ^ 24)) 0x13
  spBound a.x .write (land + first * t.desc.stride) ((count - 1) * t.desc.stride + t.desc.bytes)
  oStatus a.k.ten t.num srReq count
  let inForm := (← oTen a).tt.isSome
  return { body := .gathQ { table := t.num, inForm := inForm, desc := t.desc, prio := bitOf w0 12, req := bitOf w0 13, lmap := bitsOf w0 14 4,
                            mclr := bitOf w0 18, count := count, list := BitVec.ofNat 64 list, land := land,
                            firstpos := first }
           ticket := t.desc.ticketed }

/-- R333: the bucketing descriptor from its bytes. -/
def bucketOf (a : Acc) (bs : List Byte) : OM Bucket := do
  a.need (layoutOk bs [fm 0 28 + fm 32 25, fm 0 64, fm 0 64, fm 0 64, fm 0 64, fm 0 64, fm 0 64, 0]) 0x10
  let w := fun i => leAt bs (8 * i) 8
  a.aw (w 1) 1
  a.aw (w 2) 4
  a.aw (w 3) 8
  a.aw (w 4) 16
  a.aw (w 5) 4
  a.aw (w 6) 4
  let t ← a.table (bitsOf (w 0) 0 12)
  let count := bitsOf (w 0) 32 25
  a.need (decide (1 ≤ count ∧ count ≤ 2 ^ 24)) 0x13
  let b : Bucket :=
    { table := t.num, desc := t.desc, bmax := bitsOf (w 0) 12 16 + 1, count := count, list := BitVec.ofNat 64 (w 1),
      cntOut := BitVec.ofNat 64 (w 2), batchOut := BitVec.ofNat 64 (w 3), ovfOut := BitVec.ofNat 64 (w 4),
      invOut := BitVec.ofNat 64 (w 5), novfOut := BitVec.ofNat 64 (w 6) }
  return b

/-- R333: the bucketing descriptor that A names. -/
def readBucket (a : Acc) : OM Bucket := do bucketOf a (← a.desc 64 64 false)

/-- R333, R96, R104: `gath.bk`. -/
def acceptGathBk (a : Acc) : OM Accepted := do
  let b ← readBucket a
  oCheck (decide ((← oTen a).fsize * b.bmax + b.count < 2 ^ 32 - 1)) (orderFault a.name 0x13)
  oStatus a.k.ten b.table srReq b.count
  return { body := .gathBk b, ticket := b.desc.ticketed }

/-- R334: `gath.ovf`. -/
def acceptGathOvf (a : Acc) : OM Accepted := do
  let b ← readBucket a
  return { body := .gathOvf b a.w.b.toNat none 0 [], ticket := b.desc.ticketed }

/-! ### `gath.bk` (R104, R105) -/

/-- The accesses of an accepted order. -/
def State.engOfOrder (s : State) (o : Order) : Eng :=
  match s.task? o.task with
  | some k => s.engOf k o.cluster o.unit (.order o.id)
  | none => ⟨.order o.id, o.task, s.carrier o.unit, o.ten, o.ctx, o.cluster, 0, 0, o.unit⟩

/-- An accepted order's name in faults. -/
def Order.name (o : Order) : OrderName := ⟨o.addr, o.op, o.unit⟩

/-- R104: the key of each list entry, or why it is rejected; in SERVICE mode the first rejection faults (R92). -/
def bucketKeys (o : Order) (x : Eng) (b : Bucket) : List (Nat × Nat) → OM (List (Nat × Nat ⊕ Drop))
  | [] => pure []
  | (i, e) :: l => do
    let row := bitsOf e 0 48
    let k : ((Nat × Nat) ⊕ Drop) × Nat ←
      (if row = sentinel48 then pure (.inr .missing, 0)
       else if b.desc.rows ≤ row then pure (.inr .range, 0)
       else do
        let w ← ownerOf x b.desc o.self row
        return (if o.fsize ≤ w then .inr .owner else .inl (w, row), w))
    match k.1 with
    | .inr d =>
      if o.mode = 0 then throw (.bad (indexFault o.unit d.code row b.table i k.2))
      return .inr d :: (← bucketKeys o x b l)
    | .inl p => return .inl (p.1, p.2) :: (← bucketKeys o x b l)

/-- R104: the outputs of a bucketing order: per owner the distinct rows ascending. -/
def ownerLists (fsize : Nat) (ks : List ((Nat × Nat) ⊕ Drop)) : List (List Nat) :=
  (List.range fsize).map fun w => sortDistinct (ks.filterMap fun k => match k with
    | .inl p => if p.1 = w then some p.2 else none
    | .inr _ => none)

/-- R104: overflow entries: owner and row, owners ascending. -/
def overflowOf (bmax : Nat) (lists : List (List Nat)) : List (Nat × Nat) :=
  (lists.zipIdx).flatMap fun x => (x.1.drop bmax).map fun r => (x.2, r)

/-- R104: the position of a key. -/
def keyPos (fsize bmax : Nat) (lists : List (List Nat)) (ovf : List (Nat × Nat)) (k : Nat × Nat) : Nat :=
  let p := posOf (lists.getD k.1 []) k.2
  if p < bmax then k.1 * bmax + p else fsize * bmax + (ovf.findIdx? (· == k)).getD 0

/-- How many entries were rejected for a reason. -/
def dropCount (ks : List ((Nat × Nat) ⊕ Drop)) (d : Drop) : Nat := (ks.filter fun k => match k with
  | .inr e => e == d
  | .inl _ => false).length

/-- R104, R105, R333, R96: the whole effect of `gath.bk`. -/
def runGathBk (o : Order) (b : Bucket) : OM Unit := do
  let x := (← get).engOfOrder o
  let es ← oWords x b.list.toNat 0 8 b.count
  let ks ← bucketKeys o x b (es.zipIdx.map fun e => (e.2, e.1))
  let lists := ownerLists o.fsize ks
  let ovf := overflowOf b.bmax lists
  oWrite x b.cntOut.toNat 0 (lists.flatMap fun l => toLe 4 (min l.length b.bmax))
  lists.zipIdx.forM fun l =>
    oWrite x b.batchOut.toNat (8 * l.2 * b.bmax) ((l.1.take b.bmax).flatMap fun r => toLe 8 (r + b.table * 2 ^ 40))
  oWrite x b.ovfOut.toNat 0 (ovf.flatMap fun e => toLe 8 e.1 ++ toLe 8 e.2)
  oWrite x b.invOut.toNat 0 (ks.flatMap fun k => match k with
    | .inl p => toLe 4 (keyPos o.fsize b.bmax lists ovf p)
    | .inr _ => toLe 4 0xFFFFFFFF)
  oWrite x b.novfOut.toNat 0 (toLe 4 ovf.length)
  oStatus o.ten b.table srDeliv (b.count - dropCount ks .range - dropCount ks .missing - dropCount ks .owner)
  oStatus o.ten b.table srDropRange (dropCount ks .range)
  oStatus o.ten b.table srDropMiss (dropCount ks .missing)
  oStatus o.ten b.table srDropOwn (dropCount ks .owner)

/-! ### Issuing reads (R98, R99, R108) -/

/-- Orders that a queue of a unit holds, in the order accepted; `scan.b1` stands in every slice of its mask (R331). -/
def Order.at (o : Order) (u : UnitRef) (q : Nat) : Bool :=
  (o.unit == u && o.queue == q) || match u, o.body with
    | .scan c, .scanB1 b => bitOf b.cmask.toNat c
    | _, _ => false

def State.queueOf (s : State) (u : UnitRef) (q : Nat) : List Order := s.orders.filter (·.at u q)

/-- R209, R217: a copy that stands in MQ0 before an order of that number. -/
def State.copyBefore (s : State) (u : UnitRef) (q id : Nat) : Bool :=
  q == 0 && s.copies.any fun c => u == .mover c.mover && decide (c.after ≤ id)

/-- The order at the head of a queue. -/
def State.headOf (s : State) (u : UnitRef) (q : Nat) : Option Order :=
  (s.queueOf u q).head?.filter fun o => !s.copyBefore u q o.id

/-- Reads of an order that hold a token. -/
def Order.tokens (o : Order) : Nat :=
  match o.body with
  | .gathQ g => (g.flight.filter (·.master.isNone)).length
  | .gathOvf _ _ _ _ fl => fl.length
  | _ => 0

/-- R98, R219: the tokens of aborted work of a queue that requests still hold. -/
def State.strays (s : State) (u : UnitRef) (q : Nat) : Nat := (s.orphans.filter fun x => x.unit == u && x.queue == q).length

/-- R98: the reads of a queue that hold tokens. -/
def State.gatherTokens (s : State) (e q : Nat) : Nat :=
  ((s.orders.filter fun o => o.unit == .gather e && o.queue == q).map Order.tokens).sum + s.strays (.gather e) q

/-- R98: the queue, and the engine, may hold one more read. -/
def State.gatherRoom (s : State) (e q : Nat) (ten : Nat) : Bool :=
  decide (s.gatherTokens e q < bitsOf (s.ten ten).glimit.toNat (16 * q) 10 + 1)
    && decide (((List.range 4).map (s.gatherTokens e)).sum < 1024)

/-- R98, R101: a read issued: its token and its count. -/
def State.gatherIssued (s : State) (ten cluster : Nat) : State :=
  (s.modTen ten fun t => { t with gtokIss := t.gtokIss + 1 }).count (cntGathReads cluster) 1

/-- R108: the pieces of a look-up through a window, or its fault. -/
def State.windowPieces (s : State) (ten win off n : Nat) : Except AccFault (List (Nat × Nat)) :=
  match s.windowFault ten win off n with
  | some c => .error ⟨0, .read, c, 0, false, 0⟩
  | none => .ok [(windowPa win off, n)]

/-- R108: the offset of a row's directory entry in its owner's window. -/
def dirOffset (d : TableDesc) (row : Nat) : Nat := (d.dirptr + 8 * row + 2 ^ 48 - d.base) % 2 ^ 48

/-- A window read of a row: of its directory entry first where the table has one. -/
def remoteRead (o : Order) (d : TableDesc) (pos row own : Nat) : OM GRead := do
  let s ← get
  let r : Nat × Nat := if d.dir then (dirOffset d row, 8) else (row * d.stride, d.bytes)
  match s.windowPieces o.ten (d.wbase + own) r.1 r.2 with
  | .error f => throw (.acc f)
  | .ok ps => do
    let f := s.fetchStart (.gather o.id pos) (.gather o.id pos) o.ten (unitWord o.unit) none false true ps
    set (f.1.gatherIssued o.ten o.cluster)
    return { pos := pos, row := row, own := own, va := 0, fetch := f.2, dir := d.dir, ready := s.tick }

/-- One entry dropped (R91–R93, R106): in SERVICE mode a fault, else counted, marked, and for a request entry a row of zero
bytes. -/
def dropEntry (o : Order) (g : GathQ) (x : Eng) (pos : Nat) (l : Look) (d : Drop) : OM GathQ := do
  if o.mode = 0 then throw (.bad (indexFault o.unit d.code l.row g.table pos l.owner))
  oStatus o.ten g.table d.counter 1
  if g.req then oSpWrite x (g.land + pos * g.desc.stride) (List.replicate g.desc.bytes 0)
  modify fun s => s.setMark o.cluster o.ten o.ctx g.lmap pos 2
  return { g with done := g.done + 1 }

/-- R99: an earlier entry of the look-ahead whose read serves this row too. -/
def GathQ.twin (g : GathQ) (pos row own : Nat) : Option GRead :=
  g.flight.find? fun r => r.master.isNone && r.row == row && r.own == own && decide (pos < r.pos + 16)

/-- R99: an unsent read of an earlier entry of the look-ahead that a row's bytes may join: in its 512 B line, or with NOCACHE next to it. -/
def gatherMerge (s : State) (o : Order) (nocache : Bool) (pos : Nat) : Merge := fun r pa n =>
  let near := fun (w : MemClient) => match w with
    | .gather i p => i == o.id && decide (p < pos ∧ pos < p + 16)
    | _ => false
  match r.who with
  | .miss slice k => (s.rc.miss.find? fun m => m.slice == slice && m.n == k).any fun m => (m.waits.head?).any near
  | w => near w && (!nocache || decide (r.pa + r.len = pa ∨ pa + n = r.pa))

/-- R87, R98–R100, R108: the next entry of a `gath.q`. -/
def issueEntry (o : Order) (g : GathQ) : OM GathQ := do
  let x := (← get).engOfOrder o
  let pos := g.firstpos + g.next
  let e ← oWord x g.list.toNat (8 * g.next) 8
  let l ← lookIndex x g.desc g.table o.self o.fsize g.inForm g.req e
  let lat := g.prio || g.hot
  let g := { g with next := g.next + 1, since := none, hot := false }
  match l.drop with
  | some d => dropEntry o g x pos l d
  | none =>
    match g.twin pos l.row l.owner with
    | some r => do
      modify fun s => s.count (cntGathMerged o.cluster) 1
      return { g with flight := g.flight ++ [{ r with pos := pos, master := some r.pos, fetch := {} }] }
    | none =>
      if l.owner ≠ o.self then do
        let r ← remoteRead o g.desc pos l.row l.owner
        return { g with flight := g.flight ++ [r] }
      else do
        let slot : Nat ⊕ Drop ←
          (if g.desc.dir then do
            let w ← eRead x (g.desc.dirptr + 8 * l.row) 8 true
            return dirSlot g.desc (leNat w)
           else pure (.inl l.row))
        match slot with
        | .inr d => dropEntry o g x pos l d
        | .inl sl => do
          let va := (g.desc.base + sl * g.desc.stride) % 2 ^ 48
          let ps ← oPieces x va g.desc.bytes .read
          let s ← get
          let f := s.fetchStart (.gather o.id pos) (.gather o.id pos) o.ten (unitWord o.unit) (some va) lat g.desc.nocache ps
            (gatherMerge s o g.desc.nocache pos)
          set ((f.1.gatherIssued o.ten o.cluster).count (cntGathMerged o.cluster) (b2n f.2.merged))
          return { g with flight := g.flight ++ [{ pos := pos, row := l.row, own := l.owner, va := va, fetch := f.2, ready := s.tick }] }

/-- R332: MCLR acts before the first landing. -/
def startGather (o : Order) (g : GathQ) (s : State) : State × GathQ :=
  if g.mclr then
    let g := { g with mclr := false }
    ((s.clearMap o.cluster o.ten o.ctx g.lmap).setBody o.id (.gathQ g), g)
  else (s, g)

/-- Line pieces of reads in flight requested as miss registers become free (R111). -/
def moreFetches (o : Order) (fl : List GRead) (s : State) : State × List GRead :=
  fl.foldl (fun (x : State × List GRead) r =>
    if r.fetch.todo.isEmpty then (x.1, x.2 ++ [r])
    else
      let f := x.1.fetchMore (.gather o.id r.pos) o.ten (unitWord o.unit) r.fetch
      (f.1, x.2 ++ [{ r with fetch := f.2 }])) (s, [])

/-- R98, R366: reads issued while the engine is not stalled, the limits leave room and entries remain. -/
def pumpGather (e q id : Nat) : Nat → State → State
  | 0, s => s
  | n + 1, s =>
    match s.order? id with
    | none => s
    | some o =>
      match o.body with
      | .gathQ g =>
        if s.stalled o.unit ∨ g.count ≤ g.next then s
        else if !s.gatherRoom e q o.ten then s.setBody id (.gathQ { g with since := some (g.since.getD s.tick) })
        else
          match (issueEntry o g).go s with
          | (.ok g', s') => pumpGather e q id n ((s'.farDrop (.order id)).setBody id (.gathQ g'))
          | (.error f, s') => s.orderStop s' o.ten o.ctx o.task o.unit (.order id) f
      | _ => s

/-! ### `gath.ovf` (R334) -/

/-- The overflow entries of a bucketing order: rank and row id. -/
def readOverflow (x : Eng) (b : Bucket) : OM (List (Nat × Nat)) := do
  let n ← oWord x b.novfOut.toNat 0 4
  let bs ← oRead x b.ovfOut.toNat 0 (16 * n)
  return (chunksOf 16 n bs).map fun e => (leAt e 0 4, leAt e 8 8)

/-- R334: the next overflow row. -/
def issueOverflow (o : Order) : OM OrderBody :=
  match o.body with
  | .gathOvf b ret none done fl => do
    let es ← readOverflow ((← get).engOfOrder o) b
    return .gathOvf b ret (some es) done fl
  | .gathOvf b ret (some es) done fl => do
    let q := done + fl.length
    match es[q]? with
    | none => return o.body
    | some (rank, row) => do
      let r ← remoteRead o b.desc q row rank
      return .gathOvf b ret (some es) done (fl ++ [r])
  | b => pure b

/-- Overflow entries still to be read, or the list not yet read. -/
def Order.moreOverflow (o : Order) : Bool :=
  match o.body with
  | .gathOvf _ _ none _ _ => true
  | .gathOvf _ _ (some es) done fl => decide (done + fl.length < es.length)
  | _ => false

/-- Overflow reads issued as far as the limits allow. -/
def pumpOverflow (e q id : Nat) : Nat → State → State
  | 0, s => s
  | n + 1, s =>
    match s.order? id with
    | none => s
    | some o =>
      if s.stalled o.unit ∨ !o.moreOverflow ∨ !s.gatherRoom e q o.ten then s
      else
        match (issueOverflow o).go s with
        | (.ok b, s') => pumpOverflow e q id n ((s'.farDrop (.order id)).setBody id b)
        | (.error f, s') => s.orderStop s' o.ten o.ctx o.task o.unit (.order id) f

/-- What the head order of a gather queue issues now. -/
def State.pumpQueue (s : State) (e q : Nat) : State :=
  match s.headOf (.gather e) q with
  | none => s
  | some o =>
    match o.body with
    | .gathQ g =>
      let r := startGather o g s
      let m := moreFetches o r.2.flight r.1
      pumpGather e q o.id (r.2.count + 1) (m.1.setBody o.id (.gathQ { r.2 with flight := m.2 }))
    | .gathOvf _ _ es _ _ => pumpOverflow e q o.id (2 + (es.getD []).length) s
    | _ => s

/-! ### Landing (R100, R96) -/

/-- A read whose bytes are all here. -/
def State.landable (s : State) (o : Order) (r : GRead) : Bool :=
  r.master.isNone && s.fetchHome r.fetch && !s.busyRead o.id r.pos

/-- A token returned (R98). -/
def State.gtokBack (s : State) (ten : Nat) : State := s.modTen ten fun t => { t with gtokRet := t.gtokRet + 1 }

/-- R108: the directory entry of a remote row has arrived: the row's own read goes out. -/
def secondRead (o : Order) (d : TableDesc) (r : GRead) (slot : Nat) : OM GRead := do
  let s ← get
  match s.windowPieces o.ten (d.wbase + r.own) (slot * d.stride) d.bytes with
  | .error f => throw (.acc f)
  | .ok ps => do
    let f := s.fetchStart (.gather o.id r.pos) (.gather o.id r.pos) o.ten (unitWord o.unit) none false true ps
    set f.1
    return { r with fetch := f.2, dir := false }

/-- R100: a row lands at its position and at every position its read serves. -/
def landGather (o : Order) (g : GathQ) (r : GRead) : OM GathQ := do
  let x := (← get).engOfOrder o
  let bs := (← get).fetched r.fetch
  if r.dir then
    match dirSlot g.desc (leNat bs) with
    | .inl slot => do
      let r' ← secondRead o g.desc r slot
      return { g with flight := g.flight.map fun y => if y.pos = r.pos then r' else y }
    | .inr d => do
      let mine := g.flight.filter fun y => y.pos == r.pos || y.master == some r.pos
      let g' ← mine.foldlM (fun (g : GathQ) y => dropEntry o g x y.pos ⟨r.row, r.own, some d⟩ d) g
      modify fun s => s.gtokBack o.ten
      return { g' with flight := g'.flight.filter fun y => !(y.pos == r.pos || y.master == some r.pos) }
  else do
    let mine := g.flight.filter fun y => y.pos == r.pos || y.master == some r.pos
    mine.forM fun y => do
      oSpWrite x (g.land + y.pos * g.desc.stride) bs
      modify fun s => s.setMark o.cluster o.ten o.ctx g.lmap y.pos 1
    modify fun s => s.gtokBack o.ten
    oStatus o.ten g.table srDeliv mine.length
    return { g with
      done := g.done + mine.length
      flight := g.flight.filter fun y => !(y.pos == r.pos || y.master == some r.pos) }

/-- R334: an overflow row lands in the return area; a row its owner's directory lacks is a fault in SERVICE mode and a row of
zero bytes in the others (log 30). -/
def landOverflow (o : Order) (b : Bucket) (ret : Nat) (es : Option (List (Nat × Nat))) (done : Nat) (fl : List GRead)
    (r : GRead) : OM OrderBody := do
  let x := (← get).engOfOrder o
  let bs := (← get).fetched r.fetch
  if r.dir then
    match dirSlot b.desc (leNat bs) with
    | .inl slot => do
      let r' ← secondRead o b.desc r slot
      return .gathOvf b ret es done (fl.map fun y => if y.pos = r.pos then r' else y)
    | .inr d => do
      if o.mode = 0 then throw (.bad (indexFault o.unit d.code r.row b.table r.pos r.own))
      oSpWrite x (ret + (o.fsize * b.bmax + r.pos) * b.desc.stride) (List.replicate b.desc.bytes 0)
      modify fun s => s.gtokBack o.ten
      return .gathOvf b ret es (done + 1) (fl.filter fun y => y.pos != r.pos)
  else do
    oSpWrite x (ret + (o.fsize * b.bmax + r.pos) * b.desc.stride) bs
    modify fun s => s.gtokBack o.ten
    return .gathOvf b ret es (done + 1) (fl.filter fun y => y.pos != r.pos)

/-- The read in flight at a position. -/
def Order.flightAt (o : Order) (pos : Nat) : Option GRead :=
  match o.body with
  | .gathQ g => g.flight.find? (·.pos == pos)
  | .gathOvf _ _ _ _ fl => fl.find? (·.pos == pos)
  | _ => none

/-- The landing of a read as an effect on its order. -/
def landRead (o : Order) (r : GRead) : OM OrderBody :=
  match o.body with
  | .gathQ g => do return .gathQ (← landGather o g r)
  | .gathOvf b ret es done fl => landOverflow o b ret es done fl r
  | b => pure b

/-- One row of the head order of a queue lands, where it can. -/
def State.landAt (s : State) (e q pos : Nat) : Option State :=
  (s.headOf (.gather e) q).bind fun o => (o.flightAt pos).bind fun r =>
    if s.landable o r then
      match (landRead o r).go s with
      | (.ok b, s') => some (s'.setBody o.id b)
      | (.error f, s') => some (s.orderStop s' o.ten o.ctx o.task o.unit (.order o.id) f)
    else none

/-- GATHER_ROW_LANDS (R98–R100): the queue's head order issues what it can, and the row of a position lands. -/
def execGatherRowLands (engine queue pos : Nat) (s : State) : Out :=
  let s1 := s.pumpQueue engine queue
  match s1.landAt engine queue pos with
  | some s2 => .next s2
  | none => when (decide (s1 ≠ s)) "no row of that position can land" s1

end Sys2Proof.Machine
end

