-- ==== Sys2Proof/Machine/Pool.lean ====
section
/-! DEFINITION. The pooling unit (R90, R118–R124, R335). -/

namespace Sys2Proof.Machine

/-! ### Arithmetic on FP32 words -/

def wAdd (a b : W32) : W32 := rn32 (fAdd (f32 a) (f32 b))
def wSub (a b : W32) : W32 := rn32 (fAdd (f32 a) (f32 b).negate)
def wMul (a b : W32) : W32 := rn32 (fMul (f32 a) (f32 b))
def wDiv (a b : W32) : W32 := fDiv32 (f32 a) (f32 b)
def wNan (a : W32) : Bool := (f32 a).isNan
def wFinite (a : W32) : Bool := match f32 a with
  | .fin _ _ _ => true
  | _ => false

/-- |a| ≥ |b|; false where either is NaN. -/
def wAbsGe (a b : W32) : Bool := !wNan a && !wNan b && !fLt (f32 a).abs (f32 b).abs

/-- R120: one step of the compensated sum: s and its error term, rounded at each step as R120 has it; over a long bag the rounding of
the error term itself may exceed R121's bound (log 168). -/
def compStep (p : W32 × W32) (x : W32) : W32 × W32 :=
  let t := wAdd p.1 x
  let e := if wAbsGe p.1 x then wAdd (wSub p.1 t) x else wAdd (wSub x t) p.1
  (t, wAdd p.2 e)

/-- R120, R149: the compensated sum read out. -/
def compResult (p : W32 × W32) : W32 := if wFinite p.1 then wAdd p.1 p.2 else p.1

/-! ### One bag (R119, R120) -/

/-- R120: an element's state before the first pass. -/
def poolStart (mode : Nat) : W32 × W32 :=
  (if mode = 3 then 0xFF800000 else if mode = 4 then 0x7F800000 else 0, 0)

/-- R120: one position folded into an element's state. -/
def poolStep (mode : Nat) (weight : W32) (p : W32 × W32) (x : W32) : W32 × W32 :=
  let x := if mode = 2 then wMul weight x else x
  if mode = 3 then (rn32 (fMax (f32 p.1) (f32 x)), p.2)
  else if mode = 4 then (rn32 (fMin (f32 p.1) (f32 x)), p.2)
  else compStep p x

/-- R120: the result of an element. -/
def poolResult (mode n : Nat) (p : W32 × W32) : W32 :=
  if n = 0 then 0
  else if mode = 3 ∨ mode = 4 then p.1
  else
    let r := compResult p
    if mode = 1 then wDiv r (rn32 (ofInt n 0 false)) else r

/-- R119: the partial state of a bag: 8 B per element. -/
def stateBytes (l : List (W32 × W32)) : List Byte := l.flatMap fun p => toLe 4 p.1.toNat ++ toLe 4 p.2.toNat

def stateOf (bs : List Byte) (w : Nat) : List (W32 × W32) :=
  (List.range w).map fun e => (BitVec.ofNat 32 (leAt bs (8 * e) 4), BitVec.ofNat 32 (leAt bs (8 * e + 4) 4))

/-! ### Acceptance (R335) -/

/-- R226, R232, R233: an order's hitch: built and not being dismantled, with the endpoint kind, in the cluster. -/
def Acc.hitch (a : Acc) (num : Nat) (ok : Hitch → Bool) : OM Hitch := do
  match (← oTen a).hitch? num with
  | some h =>
    if ok h && h.dismantle.isEmpty then
      modify fun s => s.useHitch a.k.ten num a.k.id
      return h
    else throw (.bad (hitchBad a.name.unit num))
  | none => throw (.bad (hitchBad a.name.unit num))

/-- R335. -/
def acceptPlBag (a : Acc) : OM Accepted := do
  let bs ← a.descOk 64 64 false [fm 0 21 + fm 24 40, fm 0 64, fm 0 64, fm 0 64, fm 0 23 + fm 32 23, fm 0 23 + fm 32 32, 0, 0]
  let w := fun i => leAt bs (8 * i) 8
  let mode := bitsOf (w 0) 12 3
  let nbags := bitsOf (w 0) 32 32
  let ret := bitsOf (w 4) 0 23
  let part := bitsOf (w 4) 32 23
  let out := bitsOf (w 5) 0 23
  let outHitch := bitOf (w 0) 16
  a.need (decide (mode ≤ 4)) 0x10
  a.aw (w 1) 4
  a.aw (w 2) 4
  a.aw (w 3) 4
  a.need (ret % 128 == 0 && part % 8 == 0) 0x11
  let t ← a.table (bitsOf (w 0) 0 12)
  a.need (t.desc.format != 8) 0x12
  a.need (decide (1 ≤ nbags ∧ nbags ≤ 2 ^ 24)) 0x13
  spBound a.x .write part (nbags * 8 * t.desc.width)
  if outHitch then
    let h ← a.hitch (bitsOf (w 0) 24 8) fun h => h.prod == 1 && h.cluster == a.h.cluster
    a.need (decide (4 * t.desc.width ≤ h.size)) 0x13
  else spBound a.x .write out (nbags * 4 * t.desc.width)
  return { body := .plBag
             { table := t.num, desc := t.desc, mode := mode, viaInv := bitOf (w 0) 15, outHitch := outHitch,
               lmap := bitsOf (w 0) 17 4, hitch := bitsOf (w 0) 24 8, nbags := nbags, offs := BitVec.ofNat 64 (w 1),
               wgt := BitVec.ofNat 64 (w 2), inv := BitVec.ofNat 64 (w 3), ret := ret, part := part, out := out,
               bagBase := BitVec.ofNat 32 (bitsOf (w 5) 32 32) } }

/-! ### A pass (R119) -/

/-- Where position i's row lies: none while it has not landed; some none where it was dropped. With VIAINV = 1 no landing map is
named (R335): its row counts as landed (log 167). -/
def poolRow (o : Order) (p : PlBag) (x : Eng) (i : Nat) : OM (Option (Option Nat)) := do
  if p.viaInv then
    let v ← oWord x p.inv.toNat (4 * i) 4
    return some (if v = 0xFFFFFFFF then none else some (p.ret + v * p.desc.stride))
  else
    match (← get).markOf o.cluster o.ten o.ctx p.lmap i with
    | 0 => return none
    | 1 => return some (some (p.ret + i * p.desc.stride))
    | _ => return some none

/-- One position folded into the state of a bag. -/
def poolPos (o : Order) (p : PlBag) (x : Eng) (st : List (W32 × W32) × Nat) (i : Nat) : OM (List (W32 × W32) × Nat) := do
  match ← poolRow o p x i with
  | none => throw .wait
  | some none => return st
  | some (some off) => do
    let row ← oSpRead x off p.desc.bytes
    let weight ← if p.mode = 2 then oWord x p.wgt.toNat (4 * i) 4 else pure 0
    return (List.zipWith (poolStep p.mode (BitVec.ofNat 32 weight)) st.1 (rowVals p.desc row), st.2 + 1)

/-- R124, R178: the pooled vector of a bag written, or queued as a cart. -/
def poolOut (o : Order) (p : PlBag) (x : Eng) (bag : Nat) (vals : List W32) : OM Unit := do
  if bitOf o.nan.toNat 1 then
    match vals.findIdx? wNan with
    | some e => throw (.bad (nanFault o.unit 1 bag p.table e))
    | none => pure ()
  if p.outHitch then
    let s ← get
    match s.hitch? o.ten p.hitch with
    | none => throw (.bad (hitchBad o.unit p.hitch))
    | some h =>
      match h.freeCart with
      | none => throw .wait
      | some i => do
        let s := s.spWrite h.cluster (x.base + h.cartAt i) (wordsLe vals)
        set (s.modHitch o.ten p.hitch fun h =>
          (h.fill i (.order o.id o.task o.unit)).put i (4 * p.desc.width) (p.bagBase + BitVec.ofNat 32 bag) h.cluster)
  else oSpWrite x (p.out + bag * 4 * p.desc.width) (wordsLe vals)

/-- R90: a bag's first position and its length, and how many positions beyond 65,535 are left out. -/
def bagSpan (o : Order) (p : PlBag) (x : Eng) (bag : Nat) : OM (Nat × Nat × Nat) := do
  let lo ← oWord x p.offs.toNat (4 * bag) 4
  let hi ← oWord x p.offs.toNat (4 * bag + 4) 4
  if hi < lo then throw (.bad (orderFault o.name 0x13))
  if 65536 < hi - lo ∧ o.mode = 0 then throw (.bad (indexFault o.unit 0x10 0 p.table (lo + 65536) 0))
  return (lo, min (hi - lo) 65536, hi - lo - 65536)

/-- Where a bag's pooling stands. -/
def PlBag.run (p : PlBag) (bag : Nat) : BagRun := (p.runs.find? (·.bag == bag)).getD { bag := bag }

/-- The lowest bag from b on whose last pass has not run. -/
def nextBag (runs : List BagRun) : Nat → Nat → Nat
  | 0, b => b
  | f + 1, b => if runs.any fun r => r.bag == b && r.last then nextBag runs f (b + 1) else b

/-- A pass of a bag has run; runs of bags below the lowest unfinished one are no longer held. -/
def PlBag.ran (p : PlBag) (r : BagRun) : PlBag :=
  let rs := p.runs.filter (·.bag != r.bag) ++ [r]
  let b := nextBag rs rs.length p.bag
  { p with bag := b, runs := rs.filter fun y => decide (b ≤ y.bag) }

/-- R119: the next pass of a bag. A bag of no positions has one pass, which writes its initial state (log 167). -/
def poolPass (o : Order) (p : PlBag) (bag : Nat) : OM PlBag := do
  let x := (← get).engOfOrder o
  let (lo, len, excess) ← bagSpan o p x bag
  let w := p.desc.width
  let b := p.run bag
  let at' := p.part + bag * 8 * w
  let st ← (if b.pos = 0 then pure (List.replicate w (poolStart p.mode))
    else do return stateOf (← oSpRead x at' (8 * w)) w)
  let k := min 64 (len - b.pos)
  let r ← ((List.range k).map (lo + b.pos + ·)).foldlM (poolPos o p x) (st, b.n)
  oSpWrite x at' (stateBytes r.1)
  if b.pos + k < len then return p.ran ⟨bag, b.pos + k, r.2, false⟩
  else do
    poolOut o p x bag (r.1.map (poolResult p.mode r.2))
    modify fun s => (s.count (cntPoolLong o.cluster) excess).count (cntPoolEmpty o.cluster) (b2n (r.2 == 0))
    return p.ran ⟨bag, b.pos + k, r.2, true⟩

/-- R119: the pass of the lowest-numbered bag from b on whose next pass can start; passes of different bags may interleave. -/
def poolTry (o : Order) (p : PlBag) (s : State) : Nat → Nat → Except OFault PlBag × State
  | 0, _ => (.error .wait, s)
  | f + 1, b =>
    if (p.run b).last then poolTry o p s f (b + 1)
    else
      match (poolPass o p b).go s with
      | (.error .wait, _) => poolTry o p s f (b + 1)
      | r => r

/-- POOLING_PASS (R119): a pass of the order at the head of the cluster's pooling unit. -/
def execPoolingPass (cluster : Nat) (s : State) : Out :=
  match s.headOf (.pool cluster) 0 with
  | none => no "the pooling unit has no order"
  | some o =>
    match o.body with
    | .plBag p =>
      if p.nbags ≤ p.bag then no "every bag has been pooled"
      else if s.stalled (s.carrier o.unit) then no "the unit that carries the accesses is stalled"
      else
        match poolTry o p s (p.nbags - p.bag) p.bag with
        | (.ok p', s') => .next ((s'.farDrop (.order o.id)).setBody o.id (.plBag p'))
        | (.error .wait, _) => no "a position has not landed, or no cart is free"
        | (.error f, s') => .next (s.orderStop s' o.ten o.ctx o.task (s.carrier o.unit) (.order o.id) f)
    | _ => no "the pooling unit has no pooling order"

end Sys2Proof.Machine
end

