-- ==== Sys2Proof/Machine/Arena.lean ====
section
/-! DEFINITION. The update arena (R125–R146, R336–R339): banks and their headers, opening, converting and adding, sealing and
closing. -/

namespace Sys2Proof.Machine

/-! ### Banks (R126, R128) -/

/-- R128: STATE codes. -/
def bankCode : BankSt → Nat
  | .clear => 0
  | .opened => 1
  | .sealed => 2

def Table.bank (t : Table) (send : Bool) : Bank := if send then t.send else t.recv
def Table.modBank (t : Table) (send : Bool) (f : Bank → Bank) : Table :=
  if send then { t with send := f t.send } else { t with recv := f t.recv }

/-- R128: the header's words at 0x00–0x33. -/
def bankHeader (send : Bool) (b : Bank) : List Byte :=
  [bankCode b.st + 4 * b2n send, b.step.toNat, b.nslot, 0, b.conv.toNat, b.comb.toNat, b.added.toNat, b.nan.toNat,
    b.recvrow.toNat, b.under.toNat, b.sat.toNat, b.folded.toNat, b.held.toNat].flatMap (toLe 4)

/-- The bank an arena order names. -/
def State.bank? (s : State) (ten : Nat) (r : BankRef) : Option Bank := ((s.ten ten).table? r.table).map (·.bank r.send)

/-- R505: the counters of a bank stand in its header; where the header cannot be read they are those last written (log 154). -/
def State.bankRead (s : State) (ten : Nat) (b : Bank) : Bank :=
  match s.pinRead ten b.addr 52 with
  | .bytes l =>
    let w := fun (o : Nat) => BitVec.ofNat 32 (leAt l o 4)
    { b with
      conv := w 0x10, comb := w 0x14, added := w 0x18, nan := w 0x1C, recvrow := w 0x20, under := w 0x24, sat := w 0x28
      folded := w 0x2C, held := w 0x30 }
  | _ => b

/-- R505, R511: NSLOT as book 9 has it. -/
def State.bankSlots (s : State) (ten : Nat) (b : Bank) : Nat :=
  match s.pinRead ten b.addr 52 with
  | .bytes l => leAt l 8 4
  | _ => b.nslot

/-- R511: by how much FOLDED + HELD exceeds NSLOT. -/
def State.bankExcess (s : State) (ten : Nat) (b : Bank) : Nat :=
  let x := s.bankRead ten b
  x.folded.toNat + x.held.toNat - s.bankSlots ten b

/-- R114, R385: bytes of a bank written, within a leaf; outside the pinned ranges nothing is written (R496), nor where the access is
denied (log 169). -/
def State.bankPut (s : State) (ten va : Nat) (bs : List Byte) : State :=
  match s.addPlace ten va false with
  | .at pa => s.engineWrite pa bs
  | _ => s

/-- A bank changed, and its header in memory with it. -/
def State.modBank (s : State) (ten : Nat) (r : BankRef) (f : Bank → Bank) : State :=
  let s := s.modTable ten r.table (·.modBank r.send fun b => f (s.bankRead ten b))
  match s.bank? ten r with
  | some b => s.bankPut ten b.addr (bankHeader r.send b)
  | none => s

/-- R126: the device address of a slot's element, and of entry k of the row-id list. -/
def slotVa (d : TableDesc) (b : Bank) (slot elem : Nat) : Nat := b.addr + d.elems + slot * d.abytes + 8 * elem
def rowIdVa (b : Bank) (k : Nat) : Nat := b.addr + 128 + 8 * k

/-- R385: the first byte of n, at a leaf's start or the range's, that is pinned and denied. -/
def State.bankDenied (s : State) (ten va n : Nat) : Option Nat :=
  (va :: ((List.range (n / 2 ^ 21 + 2)).map fun k => (va / 2 ^ 21 + k) * 2 ^ 21).filter fun a => decide (va < a ∧ a < va + n)).find? fun a =>
    s.addPlace ten a false == .denied

/-- R385: the bytes of a bank are in the tenancy's groups, where they are pinned. -/
def oBankGroup (u : UnitRef) (ten va n : Nat) (k : Access) : OM Unit := do
  match (← get).bankDenied ten va n with
  | some a => throw (.bad ((← get).addDenied ten a k (unitWord u)))
  | none => pure ()

/-- n bytes of a bank; outside the pinned ranges nothing is read (R496). -/
def oBankRead (u : UnitRef) (ten va n : Nat) : OM (List Byte) := do
  oBankGroup u ten va n .read
  match (← get).pinRead ten va n with
  | .bytes l => return l
  | .outside => return List.replicate n 0
  | .lost code pa => do
    modify (·.meetPinned ten va n)
    throw (.bad (memFaultRec code pa (some va) (unitWord u)))

/-- Bytes written to a bank granule by granule, each within its leaf. -/
def State.bankWrite (s : State) (ten va : Nat) (bs : List Byte) : State :=
  ((chunksOf 64 (bs.length / 64 + 1) bs).zipIdx).foldl (fun (s : State) x => s.bankPut ten (va + 64 * x.2) x.1) s

/-- A slot cleared by a whole-slot write (R145, R147). -/
def State.clearSlot (s : State) (ten : Nat) (d : TableDesc) (b : Bank) (slot : Nat) : State :=
  s.bankWrite ten (slotVa d b slot 0) (List.replicate d.abytes 0)

/-- R131, R398: one saturating add at an element: whether it saturated; none where it is denied or its data is lost. An add outside the
pinned ranges is not performed (R496). -/
def State.elemAdd (s : State) (ten va : Nat) (c : W64) : Option (State × Bool) :=
  match s.addPlace ten va false with
  | .outside => some (s, false)
  | .denied => none
  | .at pa =>
    if (s.lost pa 8).isSome then none
    else
      let r := satAdd64 (BitVec.ofNat 64 (s.poolWord pa 8)) c
      some (s.engineWrite pa (toLe 8 r.1.toNat), r.2)

/-! ### Acceptance (R129, R336) -/

/-- R336: the table and bank that B and C name; a table without arena banks gives sub-code 0x12; the bank's group check is made here
(log 169). -/
def Acc.bankOf (a : Acc) : OM (Table × BankRef) := do
  let b := a.w.b.toNat
  let t ← a.table (bitsOf b 0 12)
  a.need t.desc.train 0x12
  oBankGroup a.name.unit a.k.ten (t.bank (bitOf b 12)).addr t.desc.bankBytes .write
  return (t, ⟨t.num, bitOf b 12, a.w.c⟩)

/-- R129: an arena fault unless the condition on the bank holds. -/
def Acc.bankNeed (a : Acc) (r : BankRef) (bank : Bank) (ok : Bool) : OM Unit :=
  oCheck ok (arenaFault a.name r.table r.send (bankCode bank.st) r.step.toNat)

/-- R129, R143: an add needs an OPEN bank of the same step with no seal accepted. -/
def Acc.bankAdd (a : Acc) (r : BankRef) (bank : Bank) : OM Unit :=
  a.bankNeed r bank (bank.st == .opened && bank.step == r.step && bank.sealing.isNone)

/-! ### Opening (R136, R138, R338) -/

/-- A bank as `sadd.open` leaves it. -/
def openedBank (addr : Nat) (step : W32) (nslot : Nat) : Bank :=
  { addr := addr, st := .opened, step := step, nslot := nslot, unapplied := BitVec.ofNat 32 nslot }

/-- R338: the entries of the open list table. -/
def readOpenEntry (a : Acc) (bs : List Byte) : OM OpenEntry := do
  a.need (layoutOk bs [2 ^ 64 - 1, 2 ^ 64 - 1, fm 0 25, 0]) 0x10
  a.aw (leAt bs 0 8) 1
  a.aw (leAt bs 8 8) 4
  return ⟨BitVec.ofNat 64 (leAt bs 0 8), BitVec.ofNat 64 (leAt bs 8 8), leAt bs 16 3, bitOf (leAt bs 16 4) 24⟩

/-- R138: the row ids of a list, none where an entry takes no slot. -/
def openIds (x : Eng) (d : TableDesc) (e : OpenEntry) : OM (List (Option Nat)) := do
  let step := if e.inbox then 8 + d.abytes else 8
  let bs ← oRead x e.list.toNat 0 (step * e.count)
  return (chunksOf step e.count bs).map fun r =>
    let w := leAt r 0 8
    let id := if e.inbox then bitsOf w 0 48 else bitsOf w 0 40
    if bitsOf w 0 48 = sentinel48 ∨ d.rows ≤ id then none else some id

/-- R138: the map of a list. -/
def openMap (ids : List Nat) (l : List (Option Nat)) : List Byte :=
  l.flatMap fun e => match e with
    | some id => toLe 4 (posOf ids id)
    | none => toLe 4 0xFFFFFFFF

/-- `sadd.open` (R129, R136, R138): its whole effect, at acceptance (log 17). -/
def acceptSaddOpen (a : Acc) : OM Accepted := do
  let (t, r) ← a.bankOf
  let bank := t.bank r.send
  a.bankNeed r bank (bank.st == .clear)
  if r.send then
    a.need (a.w.dspace == 0) 0x10
    let n := a.w.a.toNat % 2 ^ 32
    a.need (decide (n ≤ t.desc.acap)) 0x13
    modify fun s => s.modBank a.k.ten r fun b => openedBank b.addr r.step n
    return { body := .saddOpen r n [] }
  else
    let m := bitsOf a.w.b.toNat 16 10
    let bs ← if m = 0 then pure [] else a.desc (32 * m) 32 false
    let es ← (chunksOf 32 m bs).mapM (readOpenEntry a)
    let ls ← es.mapM (openIds a.x t.desc)
    let ids := sortDistinct (ls.flatten.filterMap id)
    a.bankNeed r bank (decide (ids.length ≤ t.desc.acap))
    (es.zip ls).forM fun p => oWrite a.x p.1.map.toNat 0 (openMap ids p.2)
    modify fun s => s.bankWrite a.k.ten (rowIdVa bank 0) (ids.flatMap (toLe 8))
    modify fun s => s.modBank a.k.ten r fun b => openedBank b.addr r.step ids.length
    return { body := .saddOpen r ids.length es }

/-! ### Converting and adding (R130–R134, R337) -/

/-- R337: the record of one thread. -/
structure AddRec where
  thread : Nat
  slot : Nat
  elem : Nat
  val : W32

/-- R337: the records of the acting threads, read from lane-local memory. -/
def readRecords (a : Acc) : OM (List AddRec) := do
  let off := a.w.a.toNat % 2 ^ 32
  a.need (off % 16 == 0) 0x11
  (threadsOf a.w.acting).mapM fun j => do
    let p := off + 16 * j
    if a.k.llm < p + 16 then throw (.acc (apertureFault .read p))
    let bs := memBytes a.h.llm p 16
    a.need (leAt bs 12 4 == 0) 0x10
    return ⟨j, leAt bs 0 4, leAt bs 4 4, BitVec.ofNat 32 (leAt bs 8 4)⟩

/-- R132, R510: IDX_RANGE of a slot or element out of range. -/
def addFault (u : UnitRef) (table : Nat) (r : AddRec) : FaultRec :=
  ⟨0x10, 0, r.slot + table * 2 ^ 40, unitWord u + r.elem * 2 ^ 16 + r.thread * 2 ^ 57⟩

/-- R132: the distinct (slot, element) pairs, in order of first thread. -/
def addPairs (l : List (AddRec × IConv)) : List (Nat × Nat) := (l.map fun x => (x.1.slot, x.1.elem)).eraseDups

/-- R132: the conversions of one pair. -/
def pairConvs (l : List (AddRec × IConv)) (k : Nat × Nat) : List IConv :=
  (l.filter fun x => x.1.slot == k.1 && x.1.elem == k.2).map (·.2)

/-- R130: a contribution that was not zero and became 0. -/
def AddRec.under (r : AddRec) (q : IConv) : Bool := q.val == 0 && !fEq (f32 r.val) (f32 0)

/-- A header counter and its running total in the status record (R144). -/
def oBump (ten : Nat) (r : BankRef) (off n : Nat) (f : Bank → W32 → Bank) : OM Unit := do
  if n = 0 then return ()
  modify fun s => s.modBank ten r fun b => f b (BitVec.ofNat 32 n)
  oStatus ten r.table off n

/-- `sadd.x64` at acceptance (R132): the checks, the conversions, and one add request per pair; where the policy checks, ARITH_NAN is
raised after the whole order has been counted and its requests sent (R130, log 170). -/
def acceptSaddX64 (a : Acc) : OM Accepted := do
  let (t, r) ← a.bankOf
  let bank := t.bank r.send
  a.bankAdd r bank
  let rs := (← readRecords a).filter (·.slot != 0xFFFFFFFF)
  match rs.find? fun x => decide (bank.nslot ≤ x.slot ∨ t.desc.width ≤ x.elem) with
  | some x => throw (.bad (addFault a.name.unit t.num x))
  | none => pure ()
  let live := (rs.filter fun x => !wNan x.val).map fun x => (x, toFixed t.desc.exp (f32 x.val))
  let ks := addPairs live
  let sums := ks.map fun k => (k, ((pairConvs live k).map (·.val)).sum)
  let clamp := fun (i : Int) => max (-(2 ^ 63)) (min (2 ^ 63 - 1) i)
  oBump a.k.ten r srConv rs.length fun b n => { b with conv := b.conv + n }
  oBump a.k.ten r srNan (rs.length - live.length) fun b n => { b with nan := b.nan + n }
  oBump a.k.ten r srUnder (live.filter fun x => x.1.under x.2).length fun b n => { b with under := b.under + n }
  oBump a.k.ten r srSat ((live.filter (·.2.sat)).length + (sums.filter fun x => clamp x.2 != x.2).length) fun b n =>
    { b with sat := b.sat + n }
  oBump a.k.ten r srComb (live.length - ks.length) fun b n => { b with comb := b.comb + n }
  modify fun s => { s with adds := s.adds ++ sums.map fun x =>
    ⟨s.nextOrder, a.k.ten, a.k.ctx, a.k.id, r, x.1.1, x.1.2, wrap64 (clamp x.2), t.ways⟩ }
  match (if bitOf (← oTen a).nanPolicy.toNat 0 then rs.find? fun x => wNan x.val else none) with
  | some x => do
    modify fun s => { s with nextOrder := s.nextOrder + 1 }
    throw (.bad (nanFault a.name.unit 0 x.slot t.num x.elem))
  | none => pure ()
  return { body := .saddX64 r ks.length }

/-- R385, R397, R398: the record of an add that is denied or whose element's data is lost, and the state in which it is found so. -/
def State.elemFault (s : State) (ten va unit : Nat) : FaultRec × State :=
  match s.addPlace ten va false with
  | .at pa => (s.badDataRec pa 8 (some va) unit, s.meetBad ten pa 8)
  | _ => (s.addDenied ten va .atomic unit, s)

/-- R132: one add request of an `x64` order completed. -/
def OrderBody.addDone : OrderBody → OrderBody
  | .saddX64 b left => .saddX64 b (left - 1)
  | x => x

/-- Running totals of a table's status record outside an order's own effect; poison aborts the task (R398). -/
def State.totals (s : State) (ten ctx task table : Nat) (l : List (Nat × Nat)) : State :=
  let r := (l.forM fun x => oStatus ten table x.1 x.2).go s
  match r.1 with
  | .ok _ => r.2
  | .error (.bad f) => r.2.failTask ten ctx task f
  | .error _ => r.2

/-- ARENA_ADD_COMPLETE (R131, R132): the shared cache applies one request; requests are applied in any order. -/
def execArenaAddComplete (n : Nat) (s : State) : Out :=
  match s.adds[n]? with
  | none => no "no such add request"
  | some ad =>
    let s : State := { s with adds := s.adds.eraseIdx n }
    let s := s.modOrder ad.order fun o => { o with body := o.body.addDone }
    match (s.ten ad.ten).table? ad.bank.table with
    | none => .next s
    | some t =>
      let va := slotVa t.desc (t.bank ad.bank.send) ad.slot ad.elem
      match s.elemAdd ad.ten va ad.value with
      | none =>
        let f := s.elemFault ad.ten va memWordU
        .next (f.2.failTask ad.ten ad.ctx ad.task f.1)
      | some (s, sat) =>
        let s := s.modBank ad.ten ad.bank fun b => { b with added := b.added + 1, sat := b.sat + BitVec.ofNat 32 (b2n sat) }
        .next (s.totals ad.ten ad.ctx ad.task ad.bank.table [(srAdded, 1), (srSat, b2n sat)])

/-! ### Adding rows (R139, R339) -/

/-- R339: `sadd.q64` at acceptance. -/
def acceptSaddQ64 (a : Acc) : OM Accepted := do
  let (t, r) ← a.bankOf
  a.bankAdd r (t.bank r.send)
  let bs ← a.descOk 32 32 false [2 ^ 64 - 1, 2 ^ 64 - 1, 2 ^ 64 - 1, 0]
  a.aw (leAt bs 0 8) 8
  a.aw (leAt bs 8 8) 1
  let n := leAt bs 16 4
  let st := if leAt bs 20 4 = 0 then t.desc.abytes else leAt bs 20 4
  a.need (decide (n ≤ 2 ^ 24 ∧ st % 8 = 0 ∧ t.desc.abytes ≤ st)) 0x13
  return { body := .saddQ64 r (BitVec.ofNat 64 (leAt bs 0 8)) (BitVec.ofNat 64 (leAt bs 8 8)) n st }

/-- R139, R510: IDX_RANGE of a map entry out of range. -/
def mapFault (u : UnitRef) (table entry row : Nat) : FaultRec :=
  ⟨0x10, 0, entry + table * 2 ^ 40, unitWord u + row * 2 ^ 16⟩

/-- R339: the SEND slot at which a source row starts, where the source lies within the SEND bank of the table and step. -/
def sendSlot (t : Table) (r : BankRef) (src n stride row : Nat) : Option Nat :=
  let b := t.send
  if b.st ≠ .clear ∧ b.step = r.step ∧ !awSp src ∧ b.addr ≤ awAddr src
      ∧ awAddr src + (n - 1) * stride + t.desc.abytes ≤ b.addr + t.desc.bankBytes then
    some ((awAddr src + row * stride - (b.addr + t.desc.elems)) / t.desc.abytes)
  else none

/-- R139: one row added element by element. -/
def addRow (o : Order) (t : Table) (r : BankRef) (slot : Nat) (bs : List Byte) : OM Unit := do
  let b := t.bank r.send
  (List.range t.desc.width).forM fun e => do
    let va := slotVa t.desc b slot e
    let s ← get
    match s.elemAdd o.ten va (BitVec.ofNat 64 (leAt bs (8 * e) 8)) with
    | none => do
      let f := s.elemFault o.ten va (unitWord o.unit)
      set f.2
      throw (.bad f.1)
    | some (s', sat) => do
      set s'
      oBump o.ten r srSat (b2n sat) fun b n => { b with sat := b.sat + n }

/-- `sadd.q64` (R139, R339): its whole effect. -/
def runSaddQ64 (o : Order) (r : BankRef) (src map : W64) (nrows stride : Nat) : OM Unit := do
  match ((← get).ten o.ten).table? r.table with
  | none => return ()
  | some t => do
    let b := t.bank r.send
    oCheck (b.st == .opened && b.step == r.step) (arenaFault o.name r.table r.send (bankCode b.st) r.step.toNat)
    let x := (← get).engOfOrder o
    let es ← oWords x map.toNat 0 4 nrows
    es.zipIdx.forM fun e => do
      if e.1 ≠ 0xFFFFFFFF then
        if b.nslot ≤ e.1 then throw (.bad (mapFault o.unit r.table e.1 e.2))
        let bs ← oRead x src.toNat (e.2 * stride) t.desc.abytes
        addRow o t r e.1 bs
        oBump o.ten r srRecvRow 1 fun b n => { b with recvrow := b.recvrow + n }
        match sendSlot t r src.toNat nrows stride e.2 with
        | some k => do
          modify fun s => s.modTable o.ten r.table fun y => { y with send := { y.send with sent := insertNew y.send.sent k } }
          oStatus o.ten r.table srSentRow 1
        | none => pure ()

/-! ### Sealing and closing (R143, R145) -/

/-- R143: `sadd.seal` at acceptance: from now on adds to the bank are shut out. -/
def acceptSaddSeal (a : Acc) : OM Accepted := do
  let (t, r) ← a.bankOf
  let bank := t.bank r.send
  a.bankNeed r bank (bank.st == .opened && bank.step == r.step)
  let id := (← get).nextOrder
  modify fun s => s.modTable a.k.ten r.table fun y => y.modBank r.send fun b => { b with sealing := some (b.sealing.getD id) }
  return { body := .saddSeal r }

/-- R143, R145: add requests of a bank accepted before an order and not complete. -/
def State.addsOf (s : State) (ten table : Nat) (send : Bool) (id : Nat) : Bool :=
  s.adds.any (fun a => a.ten == ten && a.bank.table == table && a.bank.send == send && decide (a.order < id))
    || s.orders.any fun o => o.ten == ten && decide (o.id < id) && match o.body with
      | .saddQ64 b _ _ _ _ => b.table == table && b.send == send
      | _ => false

/-- SEAL_TAKES_EFFECT (R143): with every add complete the bank is SEALED, or its book is found broken. -/
def execSealTakesEffect (ten table : Nat) (send : Bool) (s : State) : Out :=
  match (s.ten ten).table? table with
  | none => no "no such table"
  | some t =>
    let b := t.bank send
    match b.sealing with
    | none => no "no seal of the bank has been accepted"
    | some id =>
      if s.addsOf ten table send id then no "adds of the bank are outstanding"
      else
        let b := s.bankRead ten b
        let short := b.conv - (b.comb + b.added + b.nan)
        let s := s.modBank ten ⟨table, send, 0⟩ fun b => { b with st := .sealed, sealing := none }
        if short = 0 then .next s
        else .next (s.imbalanceTen ten 8 (2 * table + b2n send) short.toNat memWordU)

/-- `sadd.close` at acceptance (R129, R143). -/
def acceptSaddClose (a : Acc) : OM Accepted := do
  let (t, r) ← a.bankOf
  let bank := t.bank r.send
  if bank.sealing.isSome then oWait
  a.bankNeed r bank (bank.st != .clear)
  return { body := .saddClose r }

/-- R145: the slots `sadd.close` writes. -/
def Bank.openSlots (b : Bank) : List Nat := (List.range b.nslot).filter fun k => !b.done.contains k

/-- `sadd.close` (R145, R511): its effect once the adds before it are complete. -/
def State.closeBank (s : State) (ten : Nat) (r : BankRef) : State :=
  match (s.ten ten).table? r.table with
  | none => s
  | some t =>
    let b := t.bank r.send
    let ks := b.openSlots
    let excess := s.bankExcess ten b
    let lost := if r.send then (ks.filter fun k => !b.sent.contains k).length else ks.length
    let s := ks.foldl (fun (s : State) k => s.clearSlot ten t.desc b k) s
    let s := s.modTen ten fun x => { x with ab := { x.ab with contrib := x.ab.contrib + BitVec.ofNat 32 lost } }
    let s := s.modBank ten r fun b =>
      { b with st := .clear, closed := BitVec.ofNat 32 ks.length, unapplied := 0, done := [], sent := [], sealing := none }
    if excess = 0 then s else s.imbalanceTen ten 9 (2 * r.table + b2n r.send) (2 ^ 32 - excess % 2 ^ 32) memWordU

end Sys2Proof.Machine
end

