-- ==== Sys2Proof/Machine/Outside.lean ====
section
/-! DEFINITION. What happens outside the commands: the host's writes to memory, memory errors, and the errors of on-die arrays
(R277, R396, R397, R441). -/

namespace Sys2Proof.Machine

/-! ### On-die arrays (R441) -/

/-- R441, R442: MEM_UNCORRECTABLE of an on-die array: bit [60] of INFO0. -/
def arrayRec (unit : BitVec 11) : FaultRec := ⟨0x30, 0, 2 ^ 60, unit.toNat⟩

/-- Its record, for whom and under which response. -/
def State.arrayEvent (s : State) (who : EvWho) (resp : Nat) (unit : BitVec 11) : State :=
  s.event 0x30 0 who resp (2 ^ 60) unit.toNat

/-- R438, R440, R441: an array error of a tenancy: level 3; in one that is halted or holds nothing, a record alone. -/
def State.arrayTen (s : State) (t : Nat) (unit : BitVec 11) : State :=
  if (s.ten t).st = .halted ∨ (s.ten t).st = .free then s.arrayEvent (tenCtx t 0) 0 unit
  else (s.arrayEvent (tenCtx t 0) 3 unit).haltTen t 3 s.ev.seq 0x30

/-- R441: the tenancy and context whose share holds a word of a cluster's scratchpad, and the word's offset in the share. -/
def State.shareAt (s : State) (c a : Nat) : Option (Nat × Nat × Nat) :=
  (leastFrom (fun t => s.granted t c) 8).bind fun t =>
    ((s.ten t).slots.find? fun x => x.st != .empty && decide (x.spBase ≤ a ∧ a < x.spBase + x.spSize)).map fun x =>
      (t, x.ctx, a - x.spBase)

/-- R226, R441: an offset in a context's share of a cluster lies in a hitch pool. -/
def State.inPool (s : State) (t ctx c off : Nat) : Bool :=
  (s.ten t).hitches.any fun h => h.ctx == ctx && (h.cons == 6 || h.cluster == c)
    && decide (h.base ≤ off ∧ off < h.base + h.size * h.carts.length)

/-- R441: an error in a word of the scratchpad or of a unit-state area. -/
def State.arraySp (s : State) (c a : Nat) (unit : BitVec 11) : State :=
  match s.shareAt c a with
  | none => s.arrayEvent {} 0 unit
  | some (t, ctx, off) =>
    if (s.ten t).st = .halted then s.arrayEvent (tenCtx t ctx) 0 unit
    else if (s.ten t).timetabled ∧ s.inPool t ctx c off then
      (s.arrayEvent (tenCtx t ctx) 3 unit).haltTen t 3 s.ev.seq 0x30
    else (s.arrayEvent (tenCtx t ctx) 2 unit).abortCtx t ctx s.ev.seq 0x30

/-- The n-th entry of a list that passes p taken out. -/
def dropNth {α : Type} (p : α → Bool) : Nat → List α → List α
  | _, [] => []
  | n, x :: l => if p x then (match n with
      | 0 => l
      | m + 1 => x :: dropNth p m l) else x :: dropNth p n l

/-- R441: an error found in an on-die array. A locked entry of the block TLB, walked again, stays. -/
def State.arrayErr (s : State) : ArrayErr → State
  | .corrected => s.count cntArrayCe 1
  | .rowCache slice set way =>
    State.count { s with rc := { s.rc with lines := s.rc.lines.filter fun l => !(l.slice == slice && l.set == set && l.way == way) } }
      cntArrayCe 1
  | .blockTlb set way =>
    { s with xlt := { s.xlt with btlb := s.xlt.btlb.filter fun y => !(y.1 == set && y.2.1 == way && !y.2.2.locked) } }
  | .gatherTlb e n => { s with gtlb := dropNth (fun x => x.1 == e) n s.gtlb }
  | .clusterTlb c n => s.modCluster c fun x => { x with tlb := dropNth (fun _ => true) n x.tlb }
  | .task id unit =>
    match s.task? id with
    | none => s.arrayEvent {} 0 unit
    | some k => s.failTask k.ten k.ctx id (arrayRec unit)
  | .scratchpad c a unit => s.arraySp c a unit
  | .line t unit => s.arrayTen t unit
  | .block unit =>
    if s.st = .contained then s.arrayEvent {} 0 unit else (s.arrayEvent {} 4 unit).contain 3 (some s.ev.seq) 0x30

/-! ### What comes with a command of the host (log 3) -/

/-- The first address of a host's memory that lies past the pool's 64 TiB (R277). -/
def pastPool (hm : HostMem) : Option Nat :=
  (hm.cells.map (fun (c : Host.Cell) => c.1) ++ hm.bad.map (fun (g : Nat) => 64 * g)).find? fun a => decide (2 ^ 46 ≤ a)

/-- R399: the host has written the whole of granule g. -/
def hostCovers (hm : HostMem) (g : Nat) : Bool := (List.range 64).all fun i => hm.cells.any (·.1 == 64 * g + i)

/-- What has happened by the time of a host's command: memory written, granules gone bad, errors corrected, and in a block that is
powered and not held in reset the errors of its arrays. -/
def State.hosted (s : State) (hm : HostMem) : State :=
  let s := hm.cells.foldl (fun (s : State) c => s.soil c.1 1) s
  let kept := s.mem.poison.filter fun g => !hostCovers hm g
  let s : State := { s with mem := { s.mem with
    pool := memPatch s.mem.pool hm.cells, poison := kept, bad := hm.bad.foldl insertNew (s.mem.bad.filter fun g => !hostCovers hm g) } }
  if !s.powered || s.resetLow then s else hm.errs.foldl State.arrayErr (s.count cntMemCe hm.ce)

/-- A command of the host, after what has happened; what lies past the pool has no address. -/
def withHost (s : State) (hm : HostMem) (f : State → Out) : Out :=
  match pastPool hm with
  | some a => .fault (.noSuchAddress a)
  | none => f (s.hosted hm)

end Sys2Proof.Machine
end

