-- ==== Sys2Proof/Machine/Elementary.lean ====
section
/-! DEFINITION. The five functions that the spec fixes to within 2 units in the last place and gives no bits for: `fex2`, `flg2` (R314),
SiLU, GELU and tanh (R206). Each takes the free function of `Config` wherever that lies within the bound. -/

namespace Sys2Proof.Machine

/-! ### Fixed point: integers in units of 2^-96 -/

/-- ln 2, log2 e and √(2 ÷ π), in units of 2^-96. -/
def ln2Fix : Nat := 54916777467707473351141471128
def log2eFix : Nat := 114302077158074026402637675936
def sqrtFix : Nat := 63214927650911841617241039488

/-- An integer held to ±400, where every one of the functions is at its limit. -/
def heldFix (t : Int) : Int := max (-(400 * 2 ^ 96)) (min (400 * 2 ^ 96) t)

/-- (−1)^neg × m × 2^e in units of 2^-96, held to ±400. -/
def fixOf (neg : Bool) (m : Nat) (e : Int) : Int :=
  let k := e + 96
  heldFix (if 0 ≤ k then sInt neg m * 2 ^ k.toNat else sInt neg m / 2 ^ (-k).toNat)

/-- e^x for 0 ≤ x < 1: the sum of x^n ÷ n!. -/
def expFix (x : Nat) : Nat :=
  ((List.range 31).foldl (fun (a : Nat × Nat) n =>
    let t := a.2 * x / ((n + 1) * 2 ^ 96)
    (a.1 + t, t)) (2 ^ 96, 2 ^ 96)).1

/-- 2^t as M × 2^(k − 96): M and k. -/
def exp2Fix (t : Int) : Nat × Int := (expFix ((t % 2 ^ 96).toNat * ln2Fix / 2 ^ 96), t / 2 ^ 96)

/-- log2 of x × 2^-160, 1 ≤ it < 2, in units of 2^-64: a bit of each squaring. -/
def log2Bits : Nat → Nat → Nat → Nat
  | 0, _, l => l
  | n + 1, x, l =>
    let y := x * x / 2 ^ 160
    if 2 ^ 161 ≤ y then log2Bits n (y / 2) (2 * l + 1) else log2Bits n y (2 * l)

/-- The logistic function of z as a fraction: e^z ÷ (1 + e^z). -/
def sigmaFix (z : Int) : Nat × Nat :=
  let (m, k) := exp2Fix (z * log2eFix / 2 ^ 96)
  let n := m * 2 ^ k.toNat
  (n, 2 ^ (96 + (-k).toNat) + n)

/-! ### The exact results, to a relative error below 2^-36 -/

/-- y × σ(z). -/
def timesSigma (neg : Bool) (m : Nat) (e z : Int) : FVal :=
  let r := sigmaFix z
  .fin neg (m * 2 ^ 256 * r.1 / r.2) (e - 256)

/-- R314: 2^A. -/
def exp2Real (neg : Bool) (m : Nat) (e : Int) : FVal :=
  let r := exp2Fix (fixOf neg m e)
  .fin false r.1 (r.2 - 96)

/-- R314: log2 of a positive A. -/
def log2Real (m : Nat) (e : Int) : FVal :=
  let k := Nat.log2 m
  ofInt ((e + k) * 2 ^ 64 + log2Bits 64 (m * 2 ^ 160 / 2 ^ k) 0) (-64) false

/-- R206: y × σ(y). -/
def siluReal (neg : Bool) (m : Nat) (e : Int) : FVal := timesSigma neg m e (fixOf neg m e)

/-- R206: the tanh form of GELU is y × σ(2 × √(2 ÷ π) × (y + 0.044715 × y³)). -/
def geluReal (neg : Bool) (m : Nat) (e : Int) : FVal :=
  let y := fixOf neg m e
  timesSigma neg m e (heldFix (2 * sqrtFix * (y + 44715 * y ^ 3 / (1000000 * 2 ^ 192)) / 2 ^ 96))

/-- R206: (1 − e^−2y) ÷ (1 + e^−2y); below 2^-20 it is y. -/
def tanhReal (neg : Bool) (m : Nat) (e : Int) : FVal :=
  if e + Nat.log2 m < -20 then .fin neg m e
  else
    let (d, k) := exp2Fix (-(2 * fixOf false m e * log2eFix / 2 ^ 96))
    let one := 2 ^ (96 + (-k).toNat)
    .fin neg ((one - d) * 2 ^ 128 / (one + d)) (-128)

/-! ### The bound -/

/-- R206, R314: w lies within 2 units in the last place of v, where v itself may be off by its 2^-36th part. -/
def withinTwo (v : FVal) (w : W32) : Bool :=
  match v, f32 w with
  | .fin s m e, .fin t n d =>
    let unit : Int := max (-149) (e + Nat.log2 (m + m / 2 ^ 36) - 23)
    let k := min (min e d) unit - 36
    let q := sInt s m * 2 ^ (e - k).toNat
    decide ((q - sInt t n * 2 ^ (d - k).toNat).natAbs ≤ 2 * 2 ^ (unit - k).toNat + q.natAbs / 2 ^ 36)
  | _, _ => false

/-- The free function's bits where they lie within the bound, else the result rounded once. -/
def fixedFn (free : W32 → W32) (real : FVal) (y : W32) : W32 := if withinTwo real (free y) then free y else rn32 real

/-- R314: 2^A. -/
def fex2Of (w : W32) : W32 :=
  match f32 w with
  | .nan => rn32 .nan
  | .inf true => 0
  | .inf false => rn32 (.inf false)
  | .fin neg m e => fixedFn Config.fex2 (exp2Real neg m e) w

/-- R314: log2 A. -/
def flg2Of (w : W32) : W32 :=
  match f32 w with
  | .nan => rn32 .nan
  | .inf true => rn32 .nan
  | .inf false => rn32 (.inf false)
  | .fin neg m e =>
    if m = 0 then rn32 (.inf true) else if neg then rn32 .nan else fixedFn Config.flg2 (log2Real m e) w

/-- R206: an activation that is a fixed function, with its results at the infinities. -/
def activation (free : W32 → W32) (real : Bool → Nat → Int → FVal) (low high : W32) (y : W32) : W32 :=
  match f32 y with
  | .nan => rn32 .nan
  | .inf neg => if neg then low else high
  | .fin neg m e => fixedFn free (real neg m e) y

def siluOf : W32 → W32 := activation Config.silu siluReal 0 0x7F800000
def geluOf : W32 → W32 := activation Config.gelu geluReal 0 0x7F800000
def tanhOf : W32 → W32 := activation Config.tanh tanhReal 0xBF800000 0x3F800000

end Sys2Proof.Machine
end

