-- ==== Sys2Proof/Machine/Fold.lean ====
section
/-! DEFINITION. Folding (R147–R152, R164, R165, R350): the optimisers, the conversion back to a row's format, and the fold
orders. -/

namespace Sys2Proof.Machine

/-! ### Back to the row's format (R150, R169–R176) -/

/-- One element's code, whether it saturated, and whether a NaN became an integer. -/
structure ElemCode where
  code : Nat
  sat : Bool := false
  nan : Bool := false

/-- A conversion to a floating-point format, stochastic where bits are given. -/
def convBits (f : Fmt) (bits : Option W32) (v : FVal) : ElemCode :=
  let c := match bits with
    | none => fConv f v
    | some b => fConvSr f b v
  ⟨c.code, c.sat, false⟩

/-- A conversion to an n-bit integer format. -/
def convInt (n : Nat) (bits : Option W32) (v : FVal) : ElemCode :=
  let c := toInt (match bits with
    | none => .halfEven
    | some b => .stoch b) (-(2 ^ (n - 1))) (2 ^ (n - 1) - 1) v
  ⟨(c.val % (2 ^ n : Int)).toNat, c.sat, c.nan⟩

/-- R150, R173: an element of a format without block scales; `row` gives the row's scale and bias. -/
def elemBack (format : Nat) (row : List Byte) (bits : Option W32) (w : W32) : ElemCode :=
  let scale := f32 (BitVec.ofNat 32 (leAt row 0 4))
  let bias := f32 (BitVec.ofNat 32 (leAt row 4 4))
  match format with
  | 0 => convBits f32Fmt bits (f32 w)
  | 1 => convBits bf16Fmt bits (f32 w)
  | 2 => convBits f16Fmt bits (f32 w)
  | 3 => convBits e4m3Fmt bits (f32 (fDiv32 (f32 w) scale))
  | 4 => convBits e5m2Fmt bits (f32 (fDiv32 (f32 w) scale))
  | 6 => convInt 8 bits (f32 (fDiv32 (fAdd (f32 w) bias.negate) scale))
  | _ => convInt 4 bits (f32 (fDiv32 (fAdd (f32 w) bias.negate) scale))

/-- R150: one MXFP4 block under its own scale: the scale written and the codes. -/
def blockBack (scale : Nat) (ws : List (W32 × Option W32)) : Nat × List ElemCode :=
  if ws.any fun w => wNan w.1 then (0xFF, ws.map fun _ => ⟨0, false, false⟩)
  else (scale, ws.map fun w => convBits e2m1Fmt w.2 (match f32 w.1 with
    | .fin neg m e => .fin neg m (e - scale + 127)
    | v => v))

/-- Codes of four bits as bytes, low nibble first. -/
def packNibbles (l : List Nat) : List Byte :=
  (chunksOf 2 l.length l).map fun p => BitVec.ofNat 8 (p.headD 0 + 16 * (p.drop 1).headD 0)

/-- R150: a row's bytes from its new values: its scales and biases kept. -/
def rowBack (d : TableDesc) (row : List Byte) (ws : List (W32 × Option W32)) : List Byte × List ElemCode :=
  if d.format = 5 then
    let bs := ((chunksOf 32 ws.length ws).zipIdx).map fun b => blockBack (leAt row (d.width / 2 + b.2) 1) b.1
    let codes := bs.flatMap (·.2)
    (packNibbles (codes.map (·.code)) ++ bs.flatMap fun b => toLe 1 b.1, codes)
  else
    let codes := ws.map fun w => elemBack d.format row w.2 w.1
    let cs := codes.map (·.code)
    (match d.format with
      | 0 => cs.flatMap (toLe 4)
      | 1 => cs.flatMap (toLe 2)
      | 2 => cs.flatMap (toLe 2)
      | 7 => row.take 8 ++ packNibbles cs
      | _ => row.take 8 ++ cs.flatMap (toLe 1), codes)

/-! ### The optimisers (R149) -/

/-- New row, new first companion, new second companion. -/
structure Folded where
  w : List W32
  c1 : List W32
  c2 : List W32

/-- SGD with momentum. -/
def foldSgd (f : Fold) (g w v : List W32) : Folded :=
  let v := List.zipWith (fun v g => wAdd (wMul f.b1 v) g) v g
  ⟨List.zipWith (fun w v => wSub w (wMul f.lr v)) w v, v, []⟩

/-- Row-wise Adagrad. -/
def foldAdagrad (f : Fold) (width : Nat) (g w c : List W32) : Folded :=
  let s := compResult (g.foldl (fun p x => compStep p (wMul x x)) (0, 0))
  let a := wAdd (c.headD 0) (wDiv s (rn32 (ofInt width 0 false)))
  let d := wAdd (fSqrt32 (f32 a)) f.eps
  ⟨List.zipWith (fun w g => wSub w (wDiv (wMul f.lr g) d)) w g, [a], []⟩

/-- Adam. -/
def foldAdam (f : Fold) (g w m v : List W32) : Folded :=
  let one : W32 := 0x3F800000
  let o1 := wSub one f.b1
  let o2 := wSub one f.b2
  let m := List.zipWith (fun m g => wAdd (wMul f.b1 m) (wMul o1 g)) m g
  let v := List.zipWith (fun v g => wAdd (wMul f.b2 v) (wMul o2 (wMul g g))) v g
  let step := List.zipWith (fun m v =>
    wMul f.lr (wDiv (wMul m f.c1) (wAdd (fSqrt32 (f32 (wMul v f.c2))) f.eps))) m v
  ⟨List.zipWith wSub w step, m, v⟩

/-- R149: the optimiser of an order. -/
def Fold.apply (f : Fold) (width : Nat) (g w c1 c2 : List W32) : Folded :=
  match f.op with
  | 0 => foldSgd f g w c1
  | 1 => foldAdagrad f width g w c1
  | _ => foldAdam f g w c1 c2

/-! ### Acceptance (R148, R350) -/

/-- R148: the descriptor's fields. -/
def foldOf (bs : List Byte) (op : Nat) (residue : Bool) (first count : Nat) : Fold :=
  let w0 := leAt bs 0 8
  let f := fun (off : Nat) => (BitVec.ofNat 32 (leAt bs off 4) : W32)
  { op := op, table := bitsOf w0 0 12, comp1 := bitsOf w0 12 12, comp2 := bitsOf w0 24 12, rnd := bitOf w0 36,
    migout := bitOf w0 38, lr := f 8, b1 := f 12, b2 := f 16, eps := f 20, c1 := f 24, c2 := f 28, step := f 32,
    residue := BitVec.ofNat 64 (leAt bs 0x28 8), fromResidue := residue, first := first, count := count }

/-- R151: a companion of a table. -/
def compOk (d c : TableDesc) (adagrad : Bool) : Bool :=
  c.format == 0 && c.rows == d.rows && c.ownfn == d.ownfn && c.nown == d.nown && c.obase == d.obase && c.exclog == d.exclog
    && c.ownparm == d.ownparm && c.dir == d.dir && (if adagrad then decide (1 ≤ c.width) else c.width == d.width)

/-- R151: the companions an order names; `fold.get` names none. -/
def foldComps (a : Acc) (f : Fold) (d : TableDesc) : OM (List TableDesc) := do
  let ns := if f.op = 3 then [] else if f.op = 2 then [f.comp1, f.comp2] else [f.comp1]
  ns.mapM fun n => do
    let c ← a.table n
    a.need (compOk d c.desc (f.op == 1)) 0x12
    return c.desc

/-- ARITH_SHADOW_OVF (R135). -/
def shadowFault (u : UnitRef) (table : Nat) (send : Bool) (sat : W32) : FaultRec :=
  ⟨0x50, 0, table + b2n send * 2 ^ 12, unitWord u + sat.toNat * 2 ^ 16⟩

/-- R129, R135, R350: a fold's source where it is the RECV bank. -/
def foldBank (a : Acc) (f : Fold) (t : Table) : OM Unit := do
  let r : BankRef := ⟨f.table, false, f.step⟩
  let b := t.recv
  oBankGroup a.name.unit a.k.ten b.addr t.desc.bankBytes .read
  if b.sealing.isSome then oWait
  a.bankNeed r b (b.st == .sealed && b.step == f.step)
  a.need (decide (f.first + f.count ≤ b.nslot)) 0x13
  let sat := ((← get).bankRead a.k.ten b).sat
  oCheck (sat == 0) (shadowFault a.name.unit f.table false sat)

/-- The fold orders at acceptance. -/
def acceptFold (a : Acc) : OM Accepted := do
  let bs ← a.descOk 64 64 true [fm 0 39, 2 ^ 64 - 1, 2 ^ 64 - 1, 2 ^ 64 - 1, fm 0 32, 2 ^ 64 - 1, 0, 0]
  let f := foldOf bs a.w.op (bitOf a.w.sub 0) a.w.b.toNat a.w.c.toNat
  a.need (decide (bitsOf (leAt bs 0 8) 36 2 ≤ 1)) 0x10
  let get := f.op == 3
  if f.migout || f.fromResidue || get then a.aw f.residue.toNat 1
  a.need (!(f.migout && (f.fromResidue || get))) 0x13
  a.need (!get || awSp f.residue.toNat) 0x10
  let t ← a.table f.table
  a.need (t.desc.train && t.desc.format != 8) 0x12
  let cs ← foldComps a f t.desc
  if !f.fromResidue then foldBank a f t
  return { body := .fold { f with desc := t.desc, comps := cs }, ticket := !get && (t.desc.dir || (f.migout && t.desc.ownfn == 3)) }

/-! ### The effect (R147, R150, R152, R164) -/

/-- What an order works with: its accesses, its RECV bank, and the seed of its dispatch (R175). -/
structure FoldCtx where
  o : Order
  f : Fold
  x : Eng
  recv : Bank
  seed : W64

/-- R175: the generator's bits of an element. -/
def FoldCtx.bits (c : FoldCtx) (row e : Nat) : Option W32 :=
  if c.f.rnd then
    some (srBits c.seed (BitVec.ofNat 64 (c.f.table * 2 ^ 48 + row)) (BitVec.ofNat 64 (c.f.step.toNat * 2 ^ 32 + e)))
  else none

/-- R152: the slot of a row, or how it is missing; a row id at or above ROWS is an index out of range (log 171). -/
def FoldCtx.slot (c : FoldCtx) (row : Nat) : OM (Nat ⊕ Drop) := do
  if c.f.desc.rows ≤ row then return .inr .range
  if !c.f.desc.dir then return .inl row
  let bs ← eRead c.x (c.f.desc.dirptr + 8 * row) 8 true
  return dirSlot c.f.desc (leNat bs)

/-- R178, R510: the FOLD check point. -/
def FoldCtx.nanCheck (c : FoldCtx) (row : Nat) (l : List W32) : OM Unit :=
  if bitOf c.o.nan.toNat 4 then
    match l.findIdx? wNan with
    | some e => throw (.bad (nanFault c.o.unit 4 row c.f.table e))
    | none => pure ()
  else pure ()

/-- n elements of a companion's row, none where the order has no such companion. -/
def FoldCtx.comp (c : FoldCtx) (k n slot : Nat) : OM (Option (Nat × List W32)) := do
  match c.f.comps[k]? with
  | none => return none
  | some d => do
    let va := d.base + slot * d.stride
    let bs ← eRead c.x va (4 * n)
    return some (va, (chunksOf 4 n bs).map fun w => BitVec.ofNat 32 (leNat w))

/-- A companion written back. -/
def FoldCtx.putComp (c : FoldCtx) (p : Option (Nat × List W32)) (l : List W32) : OM Unit :=
  match p with
  | some (va, _) => eWrite c.x va (wordsLe l)
  | none => pure ()

/-- R147–R150: one row folded at its slot. -/
def FoldCtx.foldRow (c : FoldCtx) (row slot : Nat) (qs : List Int) : OM Unit := do
  let d := c.f.desc
  let g := qs.map fun q => ofFixed q d.exp
  let va := d.base + slot * d.stride
  let old ← eRead c.x va d.bytes
  let c1 ← c.comp 0 (if c.f.op = 1 then 1 else d.width) slot
  let c2 ← c.comp 1 d.width slot
  let r := c.f.apply d.width g (rowVals d old) ((c1.map (·.2)).getD []) ((c2.map (·.2)).getD [])
  c.nanCheck row r.w
  c.nanCheck row r.c1
  c.nanCheck row r.c2
  let new := rowBack d old (r.w.mapIdx fun e w => (w, c.bits row e))
  modify fun s => (s.count (cntCvtSat c.o.cluster) (new.2.filter (·.sat)).length).count (cntCvtNan c.o.cluster)
    (new.2.filter (·.nan)).length
  eWrite c.x va new.1
  c.putComp c1 r.c1
  c.putComp c2 r.c2

/-- R152: a row without a slot: a fault in SERVICE mode, else counted. -/
def FoldCtx.miss (c : FoldCtx) (row : Nat) (d : Drop) : OM Unit := do
  if c.o.mode = 0 then throw (.bad (indexFault c.o.unit d.code row c.f.table 0 0))
  oStatus c.o.ten c.f.table srReq 1
  oStatus c.o.ten c.f.table d.counter 1

/-- One row's contributions folded, or counted as missing. -/
def FoldCtx.one (c : FoldCtx) (row : Nat) (qs : List Int) : OM Unit := do
  match ← c.slot row with
  | .inl slot => c.foldRow row slot qs
  | .inr d => c.miss row d

/-- The elements of a slot or record. -/
def qsOf (d : TableDesc) (bs : List Byte) : List Int :=
  (List.range d.width).map fun e => (BitVec.ofNat 64 (leAt bs (8 * e) 8)).toInt

/-- R164: the row is on its way out of this block. -/
def FoldCtx.moving (c : FoldCtx) (row : Nat) : OM Bool := do
  if !c.f.migout || c.f.desc.ownfn ≠ 3 then return false
  match ← excFind c.x c.f.desc row with
  | some e => return e.st == 2 && e.owner == c.o.self
  | none => return false

/-- R147: a slot is done: cleared, and FOLDED or HELD counts it. -/
def FoldCtx.slotDone (c : FoldCtx) (slot : Nat) (held : Bool) : OM Unit := do
  let r : BankRef := ⟨c.f.table, false, c.f.step⟩
  modify fun s => s.clearSlot c.o.ten c.f.desc c.recv slot
  modify fun s => s.modBank c.o.ten r fun b =>
    { b with
      folded := if held then b.folded else b.folded + 1
      held := if held then b.held + 1 else b.held
      unapplied := if b.done.contains slot then b.unapplied else b.unapplied - 1
      done := insertNew b.done slot }

/-- The next slot of the RECV bank; `written` counts the residue records the order has written. -/
def FoldCtx.slotStep (c : FoldCtx) : OM Fold := do
  let d := c.f.desc
  let slot := c.f.first + c.f.row
  let row := leNat (← oBankRead c.o.unit c.o.ten (rowIdVa c.recv slot) 8)
  let bs ← oBankRead c.o.unit c.o.ten (slotVa d c.recv slot 0) d.abytes
  let next := { c.f with row := c.f.row + 1 }
  if c.f.op = 3 then
    oWrite c.x c.f.residue.toNat (4 * c.f.row * d.width) (wordsLe ((qsOf d bs).map fun q => ofFixed q d.exp))
    c.slotDone slot false
    return next
  else if ← c.moving row then
    oWrite c.x c.f.residue.toNat (c.f.written * (8 + d.abytes)) (toLe 8 row ++ bs)
    c.slotDone slot true
    return { next with written := c.f.written + 1 }
  else
    c.one row (qsOf d bs)
    c.slotDone slot false
    return next

/-- The next residue record (R165). -/
def FoldCtx.recordStep (c : FoldCtx) : OM Fold := do
  let d := c.f.desc
  let bs ← oRead c.x c.f.residue.toNat (c.f.row * (8 + d.abytes)) (8 + d.abytes)
  c.one (leAt bs 0 8) (qsOf d (bs.drop 8))
  return { c.f with row := c.f.row + 1 }

/-- The next slot or record of a fold order, with what it works with as it stands. -/
def foldNext (o : Order) (f : Fold) : OM Fold := do
  let s ← get
  let recv := (((s.ten o.ten).table? f.table).map (·.recv)).getD {}
  let c : FoldCtx := ⟨o, f, s.engOfOrder o, recv, ((s.task? o.task).map (·.seed)).getD 0⟩
  if f.fromResidue then c.recordStep else c.slotStep

/-- Slots or records folded in turn as far as they go: one that stops leaves those before it done (log 11). -/
def foldGo (o : Order) : Nat → Fold → OM Fold
  | 0, f => return f
  | n + 1, f => do
    match (foldNext o f).go (← get) with
    | (.ok f', s') => do
      set (s'.farDrop (.order o.id))
      foldGo o n f'
    | (.error _, _) => return f

/-- A fold order's effect: what is left of it to do. -/
def runFold (o : Order) (f : Fold) : OM Fold := do
  if f.count ≤ f.row then return f
  match (foldNext o f).go (← get) with
  | (.ok f', s') => do
    set (s'.farDrop (.order o.id))
    foldGo o (f.count - f'.row) f'
  | (.error e, s') => do
    set s'
    throw e

end Sys2Proof.Machine
end

