-- ==== Sys2Proof/Machine/LaneMem.lean ====
section
/-! DEFINITION. Class 0x04: lane-local, scratchpad and pinned memory (R54, R56, R307, R316–R318, R368). -/

namespace Sys2Proof.Machine

/-- R316: the offset of a lane-local or scratchpad access: A + IMM24, or A + B. -/
def spOffset (x : LaneCtx) (j : Nat) : Nat := (opA x.k x.w j + opB x.k x.w j).toNat

/-- R316: the address of a pinned access: the A pair plus IMM24, or the A pair alone. -/
def pmAddr (x : LaneCtx) (j : Nat) : Nat :=
  ((opA64 x.k x.w j) + (if x.w.i then immS64 x.w else 0)).toNat % 2 ^ 48

/-- A fault of one thread of an access. -/
inductive MemFault where
  | odd
  | bound
  | unpinned
  | perm (detail : Nat)
  | absent
deriving DecidableEq, Repr

/-- R316: misalignment is reported before the bound. -/
def spFault (limit width : Nat) (off : Nat) : Option MemFault :=
  if off % width ≠ 0 then some .odd else if limit < off + width then some .bound else none

/-- R316, R56, R277, R368, R385, R395: the fault of a pinned access. -/
def pmFault (s : State) (t : Nat) (width : Nat) (k : Access) (va : Nat) : Option MemFault :=
  if va % width ≠ 0 then some .odd
  else
    match s.pinned t va with
    | none => some .unpinned
    | some (pa, w) =>
      if s.paSpace pa = .reserved then some .absent
      else if k.writes ∧ !w then some (.perm 0)
      else if !s.ownPool pa then some (.perm 0)
      else if !s.pinGroup t va false then some (.perm 8)
      else none

/-- R325: the fault of the lowest-numbered faulting thread, with its address. -/
def firstFault (threads : List Nat) (f : Nat → Option MemFault) : Option (Nat × MemFault) :=
  threads.findSome? fun j => (f j).map fun e => (j, e)

/-- R324, R54, R56: what a faulting access raises. -/
def State.raiseMem (s : State) (x : LaneCtx) (j va : Nat) (k : Access) : MemFault → State
  | .odd => s.instrFault x 7 j
  | .bound => s.laneXlt x 0x23 va k
  | .unpinned => s.laneXlt x 0x24 va k
  | .absent => s.laneXlt x 0x20 va k
  | .perm d => s.laneBarred x 0x21 d va k

/-- R316: the words a load of a width writes: narrow loads zero- or sign-extend. -/
def loadWords (sub : Nat) (bs : List Byte) : List W32 :=
  let v := leNat bs
  match sub % 8 with
  | 1 => [wrap32 (signedOf v 8)]
  | 3 => [wrap32 (signedOf v 16)]
  | 5 => words64 (BitVec.ofNat 64 v)
  | 6 => words64 (BitVec.ofNat 64 v) ++ words64 (BitVec.ofNat 64 (v / 2 ^ 64))
  | _ => [BitVec.ofNat 32 v]

/-- R317: the bytes a store of a width takes from D. -/
def storeBytes (x : LaneCtx) (j : Nat) : List Byte :=
  let n := widthBytes (fSub x.w)
  let v := (List.range (widthRegs (fSub x.w))).foldl (fun a i =>
    a + (x.k.reg (fUD x.w) (fD x.w + i) j).toNat * 2 ^ (32 * i)) 0
  toLe n v

/-- R307: every acting thread's store, in rising order of thread. -/
def storeAll (x : LaneCtx) (addr : Nat → Nat) (m : List Host.Cell) : List Host.Cell :=
  x.threads.foldl (fun m j => memPut m (addr j) (storeBytes x j)) m

/-- An access checked thread by thread, then made. -/
def checked (f : LaneCtx → State → Nat → Option MemFault) (addr : LaneCtx → Nat → Nat) (k : Access)
    (body : State → LaneCtx → State) (s : State) (x : LaneCtx) : State :=
  match firstFault x.threads (f x s) with
  | some (j, e) => s.raiseMem x j (addr x j) k e
  | none => body s x

/-- R54: lane-local bound. -/
def llCheck (x : LaneCtx) (_ : State) (j : Nat) : Option MemFault :=
  spFault x.task.llm (widthBytes (fSub x.w)) (spOffset x j)
/-- R54: scratchpad bound. -/
def spCheck (x : LaneCtx) (_ : State) (j : Nat) : Option MemFault :=
  spFault x.task.spext (widthBytes (fSub x.w)) (spOffset x j)

def llLdBody (s : State) (x : LaneCtx) : State :=
  s.advance x (x.k.writeD x.w x.threads fun j =>
    loadWords (fSub x.w) (memBytes x.cohort.llm (spOffset x j) (widthBytes (fSub x.w))))
def llStBody (s : State) (x : LaneCtx) : State :=
  (s.modCohort x.task.id x.cohort.num fun h => { h with llm := storeAll x (spOffset x) h.llm }).advance x x.k
def spLdBody (s : State) (x : LaneCtx) : State :=
  s.advance x (x.k.writeD x.w x.threads fun j =>
    loadWords (fSub x.w) (s.spBytes x.cohort.cluster (s.spShare x.task + spOffset x j) (widthBytes (fSub x.w))))
def spStBody (s : State) (x : LaneCtx) : State :=
  (s.modCluster x.cohort.cluster fun c =>
    { c with sp := storeAll x (fun j => s.spShare x.task + spOffset x j) c.sp }).advance x x.k

def execLlLd (c : CoachRef) (w : LaneWord) (s : State) : Out :=
  s.lane c 4 0x00 w (checked llCheck spOffset .read llLdBody)
def execLlSt (c : CoachRef) (w : LaneWord) (s : State) : Out :=
  s.lane c 4 0x01 w (checked llCheck spOffset .write llStBody)
def execSpLd (c : CoachRef) (w : LaneWord) (s : State) : Out :=
  s.lane c 4 0x02 w (checked spCheck spOffset .read spLdBody)
def execSpSt (c : CoachRef) (w : LaneWord) (s : State) : Out :=
  s.lane c 4 0x03 w (checked spCheck spOffset .write spStBody)

/-! ### Pinned memory -/

/-- R395: an atomic never leaves the own pool; loads and stores follow R56. -/
def pmCheck (op : Nat) (k : Access) (x : LaneCtx) (s : State) (j : Nat) : Option MemFault :=
  pmFault s x.task.ten (pmWidth op (fSub x.w)) k (pmAddr x j)

/-- The physical address of thread j's access. -/
def pmPa (s : State) (x : LaneCtx) (j : Nat) : Nat := ((s.pinned x.task.ten (pmAddr x j)).map (·.1)).getD 0

/-- R317, R318: a pinned load or atomic leaves, one request per acting thread, and parks the coach. -/
def pmIssue (op : Nat) (k : Access) (s : State) (x : LaneCtx) : State :=
  let reqs := x.threads.map fun j =>
    (⟨j, pmPa s x j, if op = 6 then (opB x.k x.w j).setWidth 64 else opB64 x.k x.w j, opC64 x.k x.w j⟩ : PinnedReq)
  let s := (x.threads).foldl (fun (s : State) j =>
    s.memRequest k (pmPa s x j) (pmWidth op (fSub x.w)) x.task.ten (some (pmAddr x j)) (laneWordOf x.cohort.cluster) false
      (.pinned x.ref j)) s
  s.setCoach x.ref { x.k with access := some ⟨op, fSub x.w, fUD x.w, fD x.w, reqs, []⟩ }

/-- R317: a pinned store, visible at once (log 15). -/
def pmStBody (s : State) (x : LaneCtx) : State :=
  (x.threads.foldl (fun (s : State) j => s.laneWrite (pmPa s x j) (storeBytes x j)) s).advance x x.k

def execPmLd (c : CoachRef) (w : LaneWord) (s : State) : Out :=
  s.lane c 4 0x04 w (checked (pmCheck 4 .read) pmAddr .read (pmIssue 4 .read))
def execPmSt (c : CoachRef) (w : LaneWord) (s : State) : Out :=
  s.lane c 4 0x05 w (checked (pmCheck 5 .write) pmAddr .write pmStBody)
def execPmAddU32 (c : CoachRef) (w : LaneWord) (s : State) : Out :=
  s.lane c 4 0x06 w (checked (pmCheck 6 .atomic) pmAddr .atomic (pmIssue 6 .atomic))
def execPmAddS64 (c : CoachRef) (w : LaneWord) (s : State) : Out :=
  s.lane c 4 0x07 w (checked (pmCheck 7 .atomic) pmAddr .atomic (pmIssue 7 .atomic))
def execPmCasB64 (c : CoachRef) (w : LaneWord) (s : State) : Out :=
  s.lane c 4 0x08 w (checked (pmCheck 8 .atomic) pmAddr .atomic (pmIssue 8 .atomic))

/-- R318: the response of one thread's request: it is applied, unless a later access has had it applied already (`data`), and its
old value kept until the whole access returns. -/
def State.pinnedAnswer (s : State) (c : CoachRef) (thread cluster : Nat) (data : Option (List Byte)) : State :=
  match s.coach? c with
  | none => s
  | some k =>
    match k.access with
    | none => s
    | some a =>
      match a.reqs.find? (·.thread == thread) with
      | none => s
      | some q =>
        let r := match data with
          | some bs => (bs, s)
          | none =>
            let n := pmWidth a.op a.sub
            (if a.op ≤ 5 then s else s.soil q.pa n).pinnedApply a q cluster
        r.2.modCoach c fun k => { k with access := some { a with got := a.got ++ [(thread, r.1)] } }

/-- Every thread's request of an access has been answered. -/
def PinnedAccess.home (a : PinnedAccess) : Bool := a.reqs.all fun q => a.got.any (·.1 == q.thread)

/-- The bytes that came back for a thread. -/
def PinnedAccess.bytesOf (a : PinnedAccess) (j : Nat) : List Byte := ((a.got.find? (·.1 == j)).map (·.2)).getD []

/-- The words written for a thread: a load's by its width, an atomic's old value. -/
def PinnedAccess.words (a : PinnedAccess) (j : Nat) : List W32 :=
  loadWords (if a.op ≤ 5 then a.sub else if a.op = 6 then 4 else 5) (a.bytesOf j)

/-- R317, R318: a pinned access returns: D is written, under R306 where UD is set, and the coach goes on. -/
def pinnedReturn (k : Coach) (a : PinnedAccess) : Coach :=
  let js := a.reqs.map (·.thread)
  let k := { k with access := none }
  (if a.ud then k.setRegs true a.d 0 (a.words (js.headD 0))
   else js.foldl (fun k j => k.setRegs false a.d j (a.words j)) k).step

/-- PINNED_ACCESS_RETURN (R317, R318). -/
def execPinnedAccessReturn (c : CoachRef) (s : State) : Out :=
  match (s.coach? c).bind (·.access) with
  | none => no "no pinned access is in progress"
  | some a => when a.home "the pinned access still waits for memory" (s.modCoach c fun k => pinnedReturn k a)

end Sys2Proof.Machine
end

