-- ==== Sys2Proof/Machine/LaneSync.lean ====
section
/-! DEFINITION. Classes 0x06 and 0x07: synchronisation and control (R58–R62, R70–R74, R308–R311, R320–R322), and stuck
cohorts (R72, R310). -/

namespace Sys2Proof.Machine

/-! ### Barriers -/

/-- R70, R71: every thread of the cohort has arrived at b or exited. -/
def Cohort.complete (h : Cohort) (b : Nat) : Bool :=
  (h.coaches.mapIdx fun i k => (smGet 0 h.arrived (4 * i + b) ||| k.x) == 0xFFFFFFFF).all id

/-- Some thread has arrived at b. -/
def Cohort.anyAt (h : Cohort) (b : Nat) : Bool :=
  (List.range h.coaches.length).any fun i => decide (smGet 0 h.arrived (4 * i + b) ≠ 0)

/-- R70: a wait at b is over; its path goes on past the instruction. -/
def Coach.openBarrier (k : Coach) (b : Nat) : Coach :=
  let k := if k.wait = .barrier b then { k with wait := .none, pc := nextPc k.pc } else k
  { k with aside := k.aside.map fun a => if a.wait = .barrier b then { a with wait := .none, pc := nextPc a.pc } else a }

/-- R70: the barrier completes and opens its next generation. -/
def Cohort.openBarrier (h : Cohort) (b : Nat) : Cohort :=
  { h with coaches := h.coaches.map (·.openBarrier b)
           arrived := (List.range h.coaches.length).foldl (fun m i => smSet 0 m (4 * i + b) 0) h.arrived }

/-- R70, R71: each barrier that some thread waits at and that is now complete. -/
def Cohort.checkBarriers (h : Cohort) : Cohort :=
  (List.range 4).foldl (fun (h : Cohort) b => if h.anyAt b && h.complete b then h.openBarrier b else h) h

/-- `bar.sync` (R70): the acting threads arrive, and the path waits. -/
def barSyncBody (s : State) (x : LaneCtx) : State :=
  let b := fD x.w % 4
  s.modCohort x.task.id x.cohort.num fun h =>
    Cohort.checkBarriers { h with
      coaches := modAt h.coaches x.ref.coach fun k => { k with wait := .barrier b }
      arrived := smSet 0 h.arrived (4 * x.ref.coach + b) (smGet 0 h.arrived (4 * x.ref.coach + b) ||| x.act) }

def execBarSync (c : CoachRef) (w : LaneWord) (s : State) : Out := s.lane c 6 0x00 w barSyncBody

/-! ### Arrival counters -/

/-- The target of thread j: A, a u register, or IMM24 zero-extended. -/
def acTarget (x : LaneCtx) (j : Nat) : W32 := if x.w.i then immZ x.w else opA x.k x.w j

/-- `ac.wait` (R60). -/
def acWaitBody (s : State) (x : LaneCtx) : State :=
  let ac := fD x.w % 16
  let v := s.acValue x.task x.cohort ac
  let ts := (x.threads.map fun j => (j, acTarget x j)).filter fun p => !reached v p.2
  if ts.isEmpty then s.advance x x.k else s.setCoach x.ref { x.k with wait := .counter ac ts s.tick }

def execAcWait (c : CoachRef) (w : LaneWord) (s : State) : Out := s.lane c 6 0x01 w acWaitBody

/-- `ac.add` (R59, R62): a bound counter cannot be named. -/
def acAddBody (s : State) (x : LaneCtx) : State :=
  let ac := fD x.w % 16
  if (x.task.bound ac).isSome then s.counterFault x ac
  else
    let s := s.advance x x.k
    s.contribute x.task.id x.cohort.num ac (if x.w.i then immZ x.w else x.k.reg (fUB x.w) (fB x.w) x.low)

def execAcAdd (c : CoachRef) (w : LaneWord) (s : State) : Out := s.lane c 6 0x02 w acAddBody

/-- R62: a copy or order of the cohort will still add to acN. -/
def State.acOutstanding (s : State) (task cohort ac : Nat) : Bool :=
  s.copies.any (fun c => c.task == task && c.cohort == cohort && c.ac == ac)
    || s.orders.any fun o => o.task == task && o.cohort == cohort && o.ac == ac && o.amount != 0

/-- `ac.mode` (R59, R62). -/
def acModeBody (s : State) (x : LaneCtx) : State :=
  let ac := fD x.w % 16
  if (x.task.bound ac).isSome ∨ s.acOutstanding x.task.id x.cohort.num ac then s.counterFault x ac
  else
    (s.modCohort x.task.id x.cohort.num fun h =>
      { h with acCarts := if bitOf (fSub x.w) 0 then h.acCarts ||| BitVec.ofNat 16 (2 ^ ac)
                          else h.acCarts &&& ~~~(BitVec.ofNat 16 (2 ^ ac)) }).advance x x.k

def execAcMode (c : CoachRef) (w : LaneWord) (s : State) : Out := s.lane c 6 0x03 w acModeBody

/-! ### Ordering points: with stores visible at once (log 15) a fence only passes -/

def fenceBody (s : State) (x : LaneCtx) : State := s.advance x x.k

def execFencePm (c : CoachRef) (w : LaneWord) (s : State) : Out := s.lane c 6 0x04 w fenceBody
def execFenceSp (c : CoachRef) (w : LaneWord) (s : State) : Out := s.lane c 6 0x05 w fenceBody

/-! ### Epochs -/

/-- `epoch.adv` writes the epoch before the advance: every acting thread's D, or one u register. -/
def epochWrite (k : Coach) (ud : Bool) (d : Nat) (act : W32) (v : W32) : Coach :=
  if ud then k.setU d v else (threadsOf act).foldl (fun k j => k.setG d j v) k

/-- `epoch.adv` (R157, R158): blocks the coach while an advance is, or would be, deferred. -/
def epochAdvBody (s : State) (x : LaneCtx) : State :=
  let t := s.ten x.task.ten
  if t.epochPend then s.setCoach x.ref { x.k with epochWait := some (fUD x.w, fD x.w, x.act) }
  else if t.epochBlocked then
    (s.setCoach x.ref { x.k with epochWait := some (fUD x.w, fD x.w, x.act) }).modTen x.task.ten fun t =>
      { t with epochPend := true, epochWait := some x.ref }
  else
    (s.modTen x.task.ten fun t => { t with epoch := t.epoch + 1 }).advance x (epochWrite x.k (fUD x.w) (fD x.w) x.act t.epoch)

def execEpochAdv (c : CoachRef) (w : LaneWord) (s : State) : Out := s.lane c 6 0x06 w epochAdvBody

/-! ### Hitch instructions (R321) -/

/-- SYNC_HITCH of a hitch instruction. -/
def State.hitchFault (s : State) (x : LaneCtx) (h : Nat) : State :=
  s.syncFault x.task x.cohort.num x.cohort.cluster 0x62 0 h false

/-- The hitch an instruction names: XMOD[15:8]. -/
def hitchOf (x : LaneCtx) : Nat := fX x.w 8 8

/-- R321: the LANE end a hitch instruction may use, in the pool's cluster. -/
def laneHitch (s : State) (x : LaneCtx) (prod : Bool) : Option Hitch :=
  (s.hitch? x.task.ten (hitchOf x)).filter fun h =>
    (if prod then h.prod == 5 else h.cons == 5) && h.cluster == x.cohort.cluster

/-- `hc.get`: FREE → FILLING, or wait. -/
def hcGetBody (s : State) (x : LaneCtx) : State :=
  match laneHitch s x true with
  | none => s.hitchFault x (hitchOf x)
  | some h =>
    if (h.heldBy .filling x.ref).isSome then s.hitchFault x (hitchOf x)
    else
      let s := s.useHitch x.task.ten h.num x.task.id
      match h.freeCart with
      | some i =>
        (s.modHitch x.task.ten h.num (·.fill i (.coach x.ref))).advance x (x.k.setU (fD x.w) (BitVec.ofNat 32 (h.cartAt i)))
      | none => s.setCoach x.ref { x.k with wait := .hitchGet h.num (fD x.w) }

/-- `hc.put`: FILLING → QUEUED with LEN from A and TAG from B. -/
def hcPutBody (s : State) (x : LaneCtx) : State :=
  match laneHitch s x true with
  | none => s.hitchFault x (hitchOf x)
  | some h =>
    let len := (opA x.k x.w x.low).toNat
    match h.heldBy .filling x.ref with
    | none => s.hitchFault x (hitchOf x)
    | some i =>
      if len = 0 ∨ h.size < len then s.hitchFault x (hitchOf x)
      else
        ((s.useHitch x.task.ten h.num x.task.id).modHitch x.task.ten h.num
          (·.put i len (opB x.k x.w x.low) h.cluster)).advance x x.k

/-- `hc.take`: the oldest QUEUED cart → HELD, or wait. -/
def hcTakeBody (s : State) (x : LaneCtx) : State :=
  match laneHitch s x false with
  | none => s.hitchFault x (hitchOf x)
  | some h =>
    if (h.heldBy .held x.ref).isSome then s.hitchFault x (hitchOf x)
    else
      let s := s.useHitch x.task.ten h.num x.task.id
      match h.take (.coach x.ref) with
      | some (i, h') =>
        (s.modHitch x.task.ten h.num fun y => { h' with users := y.users }).advance x
          (x.k.setRegs true (fD x.w) 0 [BitVec.ofNat 32 (h.cartAt i), BitVec.ofNat 32 (h.cart i).len, (h.cart i).tag])
      | none => s.setCoach x.ref { x.k with wait := .hitchTake h.num (fD x.w) }

/-- `hc.ret`: HELD → FREE. -/
def hcRetBody (s : State) (x : LaneCtx) : State :=
  match laneHitch s x false with
  | none => s.hitchFault x (hitchOf x)
  | some h =>
    match h.heldBy .held x.ref with
    | none => s.hitchFault x (hitchOf x)
    | some i => ((s.useHitch x.task.ten h.num x.task.id).freeCart x.task.ten h.num i).advance x x.k

def execHcGet (c : CoachRef) (w : LaneWord) (s : State) : Out := s.lane c 6 0x07 w hcGetBody
def execHcPut (c : CoachRef) (w : LaneWord) (s : State) : Out := s.lane c 6 0x08 w hcPutBody
def execHcTake (c : CoachRef) (w : LaneWord) (s : State) : Out := s.lane c 6 0x09 w hcTakeBody
def execHcRet (c : CoachRef) (w : LaneWord) (s : State) : Out := s.lane c 6 0x0A w hcRetBody

/-! ### Class 0x07: control -/

def execNop (c : CoachRef) (w : LaneWord) (s : State) : Out := s.lane c 7 0x00 w fun s x => s.advance x x.k

/-- R308: JOFS: D holds bits [11:6], A bits [5:0]. -/
def jofs (w : LaneWord) : Nat := fD w * 64 + fA w

/-- R308: the branch: the coach after it, or the fault it raises. -/
def brResult (x : LaneCtx) : Nat ⊕ Coach :=
  let k := x.k
  let t := x.act
  let f := k.m &&& ~~~k.x &&& ~~~t
  let target := pcPlus k.pc (signedOf (fImm x.w) 24)
  if t = 0 then .inr k.step
  else if f = 0 then .inr { k with pc := target }
  else if jofs x.w = 0 then .inl 4
  else
    let j := pcPlus k.pc (jofs x.w)
    let newJoin := decide (k.joinPc ≠ some j)
    if newJoin ∧ k.joins = 16 then .inl 5
    else if 32 < k.stack.length + (if newJoin then 2 else 1) then .inl 5
    else
      .inr { k with
        stack := .path target t :: (if newJoin then .join j k.m :: k.stack else k.stack)
        m := f, pc := nextPc k.pc }

/-- A control instruction's new coach, or its fault. -/
def ctlBody (f : LaneCtx → Nat ⊕ Coach) (s : State) (x : LaneCtx) : State :=
  match f x with
  | .inl n => s.instrFault x n x.low
  | .inr k => s.setCoach x.ref k

def execBr (c : CoachRef) (w : LaneWord) (s : State) : Out := s.lane c 7 0x01 w (ctlBody brResult)

/-- R322: `call`, `ret` and `jmp.r` move the whole running path. -/
def wholePath (x : LaneCtx) (r : Nat ⊕ Coach) : Nat ⊕ Coach := if x.act = x.k.running then r else .inl 4

/-- R311: `call`. -/
def callResult (x : LaneCtx) : Nat ⊕ Coach :=
  wholePath x
    (if 8 ≤ x.k.calls.length then .inl 6
     else .inr { x.k with calls := (nextPc x.k.pc, x.k.joins) :: x.k.calls
                          pc := pcPlus x.k.pc (signedOf (fImm x.w) 24) })

/-- R311: `ret`. -/
def retResult (x : LaneCtx) : Nat ⊕ Coach :=
  wholePath x
    (match x.k.calls with
     | [] => .inl 6
     | (pc, j) :: r => if j = x.k.joins then .inr { x.k with calls := r, pc := pc } else .inl 6)

/-- `jmp.r`: the A pair of the lowest-numbered acting thread. -/
def jmpResult (x : LaneCtx) : Nat ⊕ Coach :=
  let a := (opA64 x.k x.w x.low).toNat % 2 ^ 48
  wholePath x (if a % 8 ≠ 0 then .inl 7 else .inr { x.k with pc := a })

def execCall (c : CoachRef) (w : LaneWord) (s : State) : Out := s.lane c 7 0x02 w (ctlBody callResult)
def execRet (c : CoachRef) (w : LaneWord) (s : State) : Out := s.lane c 7 0x03 w (ctlBody retResult)
def execJmpR (c : CoachRef) (w : LaneWord) (s : State) : Out := s.lane c 7 0x04 w (ctlBody jmpResult)

/-- `exit` (R71): the acting threads exit, which may complete barriers. -/
def exitBody (s : State) (x : LaneCtx) : State :=
  (s.advance x { x.k with x := x.k.x ||| x.act }).modCohort x.task.id x.cohort.num (·.checkBarriers)

def execExit (c : CoachRef) (w : LaneWord) (s : State) : Out := s.lane c 7 0x05 w exitBody

/-! ### Stuck cohorts (R72, R310) -/

/-- R72: every live thread of the coach waits at a barrier, at a join or in `ac.wait`. -/
def Coach.blocked (k : Coach) : Bool :=
  k.done || (k.access.isNone && k.order.isNone && k.epochWait.isNone && k.wait != .none
    && (k.waits.all fun w => match w with
      | .barrier _ => true
      | .counter _ ts _ => !ts.isEmpty
      | _ => false))

/-- R72: what acN reaches at most once every copy and order issued by the cohort completes. -/
def State.acPotential (s : State) (h : Cohort) (ac : Nat) : W32 :=
  smGet 0 h.ac ac + ((s.copies.filter fun c => c.task == h.task && c.cohort == h.num && c.ac == ac).foldl
    (fun a c => a + c.amount) 0)
    + ((s.orders.filter fun o => o.task == h.task && o.cohort == h.num && o.ac == ac).foldl (fun a o => a + o.amount) 0)

/-- R72: no counter waited on would reach a target. -/
def State.unreachable (s : State) (k : Task) (h : Cohort) (c : Coach) : Bool :=
  c.waits.all fun w => match w with
    | .counter ac ts _ =>
      (k.bound ac).isNone && ts.all fun p => !reached (s.acPotential h ac) p.2
    | _ => true

/-- The cohort with every coach brought as far as it goes. -/
def State.settleAll (s : State) (t task num : Nat) : State :=
  match s.cohort? task num with
  | none => s
  | some h => (List.range h.coaches.length).foldl (fun (s : State) i => s.settle t ⟨task, num, i⟩) s

/-- R72: the cohort is stuck. -/
def State.stuck (s : State) (k : Task) (h : Cohort) : Bool :=
  h.coaches.all (fun c => c.blocked) && h.coaches.any (fun c => !c.done)
    && (List.range 4).all (fun b => !(h.anyAt b && h.complete b)) && h.coaches.all fun c => c.done || s.unreachable k h c

/-- Barriers at which a thread of the cohort waits. -/
def Cohort.waitedAt (h : Cohort) : List Nat := (List.range 4).filter h.anyAt

/-- R310: a thread is held at a join: a JOIN entry has live threads that no path of the coach runs. -/
def Coach.joinHeld (k : Coach) : Bool :=
  let stack := k.aside.flatMap (·.inner) ++ k.stack
  let paths := k.aside.foldl (fun a y => a ||| y.mask) k.running
    ||| stack.foldl (fun a e => match e with
      | .path _ m => a ||| m
      | .join _ _ => a) 0
  stack.any fun e => match e with
    | .join _ m => decide (m &&& ~~~k.x &&& ~~~paths ≠ 0)
    | .path _ _ => false

/-- COHORT_STUCK (R72, R310): SYNC_STRANDED where a thread waits at a barrier or a join, else SYNC_COUNTER. -/
def execCohortStuck (task cohort : Nat) (s : State) : Out :=
  match s.task? task with
  | none => no "no such task"
  | some k =>
    let s := s.settleAll k.ten task cohort
    match s.cohort? task cohort with
    | none => no "no such cohort"
    | some h =>
      let join := h.coaches.any (·.joinHeld)
      let bar := h.waitedAt
      let ac := h.coaches.findSome? fun c => c.waits.findSome? fun w => match w with
        | .counter n _ _ => some n
        | _ => none
      when (s.stuck k h) "the cohort is not stuck"
        (if !bar.isEmpty ∨ join then s.syncFault k cohort h.cluster 0x60 (bar.headD 0xF) 0 join
         else s.syncFault k cohort h.cluster 0x61 (ac.getD 0) 0 false)

/-- SHARED_WAIT_LIMIT (R62): a wait on a bound counter outlasts the dispatch's limit. -/
def execSharedWaitLimit (c : CoachRef) (t : Nat) (s : State) : Out :=
  match s.task? c.task, s.cohort? c.task c.cohort, s.coach? c with
  | some k, some h, some y =>
    match y.sharedSince k with
    | some (ac, since) =>
      when (s.mayPass t && decide (k.swlim ≠ 0) && decide (since + k.swlim < t)) "the shared wait is within its limit"
        ((s.atTick t).syncFault k h.num h.cluster 0x61 ac 0 false)
    | none => no "no wait on a bound counter"
  | _, _, _ => no "no such coach"

end Sys2Proof.Machine
end

