-- ==== Sys2Proof/Machine/LaneCopy.lean ====
section
/-! DEFINITION. Class 0x05: the issue of asynchronous copies (R319, R320). Their transfers are the movers'. -/

namespace Sys2Proof.Machine

def copySpace (n : Nat) : Space := if n = 0 then .memory else if n = 1 then .scratch else .laneLocal

/-- R319: an address of a copy: a pair for memory, one register for scratchpad or lane-local. -/
def copyAddr (k : Coach) (sp : Nat) (u : Bool) (n j : Nat) : Nat :=
  if sp = 0 then (k.pair u n j).toNat % 2 ^ 48 else (k.reg u n j).toNat

/-- One copy as a thread issues it. -/
structure CopyReq where
  src : Place
  dst : Place
  len : Nat
  amount : W32

/-- R319: the operands of thread j. -/
def copyReq (x : LaneCtx) (j : Nat) : CopyReq :=
  { src := ⟨copySpace (fX x.w 14 2), x.cohort.cluster, copyAddr x.k (fX x.w 14 2) x.w.ua (fA x.w) j⟩
    dst := ⟨copySpace (fX x.w 12 2), x.cohort.cluster, copyAddr x.k (fX x.w 12 2) (fUD x.w) (fD x.w) j⟩
    len := (x.k.reg (fUB x.w) (fB x.w) j).toNat
    amount := opC x.k x.w j }

/-- R54: a lane-local or scratchpad side lies within its bound. -/
def sideOk (t : Task) (p : Place) (len : Nat) : Bool :=
  match p.space with
  | .scratch => decide (p.addr + len ≤ t.spext)
  | .laneLocal => decide (p.addr + len ≤ t.llm)
  | _ => true

/-- R319, R320: the movers of a cluster that take copies; the block chooses the lowest-numbered (log 16). -/
def State.copyMover (s : State) (cluster : Nat) : Nat :=
  8 * cluster + (leastFrom (fun m => bitOf s.enMover.toNat (8 * cluster + m) && !s.quiescing 2 (8 * cluster + m)) 8).getD 0

/-- R320: one copy issued: of length 0 it adds C at once, else a copy stands at a mover. -/
def State.issueCopy (s : State) (x : LaneCtx) (ac : Nat) (r : CopyReq) : State :=
  if r.len = 0 then s.contribute x.task.id x.cohort.num ac r.amount
  else
    let c : Copy :=
      { id := s.nextCopy, ten := x.task.ten, ctx := x.task.ctx, task := x.task.id, cohort := x.cohort.num,
        cluster := x.cohort.cluster, mover := s.copyMover x.cohort.cluster, src := r.src, dst := r.dst, len := r.len,
        ac := ac, amount := BitVec.ofNat 32 r.len, after := s.nextOrder }
    { s with nextCopy := s.nextCopy + 1, copies := s.copies ++ [c] }

/-- R320, R325: the checks of the threads that copy, then the copies in rising order of thread. -/
def copyBody (threads : LaneCtx → List Nat) (s : State) (x : LaneCtx) : State :=
  let ac := fX x.w 16 4
  let js := threads x
  let carts := (x.task.bound ac).isNone && bitOf x.cohort.acCarts.toNat ac
  match js.find? fun j => let r := copyReq x j
      carts || decide (4194303 < r.len) || (r.len != 0 && (!sideOk x.task r.src r.len || !sideOk x.task r.dst r.len)) with
  | some j =>
    let r := copyReq x j
    if 4194303 < r.len then s.instrFault x 8 j
    else if r.len ≠ 0 ∧ !sideOk x.task r.src r.len then s.laneXlt x 0x23 r.src.addr .read
    else if r.len ≠ 0 ∧ !sideOk x.task r.dst r.len then s.laneXlt x 0x23 r.dst.addr .write
    else s.counterFault x ac
  | none => js.foldl (fun (s : State) j => s.issueCopy x ac (copyReq x j)) (s.advance x x.k)

/-- `cp.u`: one copy for the coach. -/
def execCpU (c : CoachRef) (w : LaneWord) (s : State) : Out := s.lane c 5 0x00 w (copyBody fun x => [x.low])
/-- `cp.t`: one copy for each acting thread. -/
def execCpT (c : CoachRef) (w : LaneWord) (s : State) : Out := s.lane c 5 0x01 w (copyBody LaneCtx.threads)

end Sys2Proof.Machine
end

