-- ==== Sys2Proof/Machine/Scan.lean ====
section
/-! DEFINITION. The scan slice and the top-k unit (R180–R194, R340–R342). -/

namespace Sys2Proof.Machine

/-! ### Top-k lists (R188–R190) -/

/-- R188: e precedes f: score descending, then position ascending. -/
def TkEntry.before (e f : TkEntry) : Bool := decide (f.score < e.score) || (e.score == f.score && decide (e.pos < f.pos))

/-- An entry put into its place. -/
def insertTk (e : TkEntry) : List TkEntry → List TkEntry
  | [] => [e]
  | f :: l => if e.before f then e :: f :: l else f :: insertTk e l

/-- R188: an entry offered to a list of at most k. -/
def offerTk (k : Nat) (l : List TkEntry) (e : TkEntry) : List TkEntry := (insertTk e l).take k

/-- R190: an entry's word; none is the empty entry. -/
def tkWord : Option TkEntry → Nat
  | some e => e.pos + e.score * 2 ^ 40 + 2 ^ 63
  | none => 2 ^ 40 - 1

/-- R190: the entry of a word that is full. -/
def tkEntryOf (w : Nat) : Option TkEntry := if bitOf w 63 then some ⟨bitsOf w 40 16, bitsOf w 0 40⟩ else none

/-- R191: one row of the tile: 64 entries. -/
def tkRow (l : List TkEntry) : List Byte := (List.range 64).flatMap fun i => toLe 8 (tkWord l[i]?)

/-! ### Scores (R182) -/

/-- R182, unweighted. -/
def scoreFlat (clen : Nat) (q c : Nat) : Nat := clen - popcount clen (q ^^^ c)

/-- R182, weighted: 4-bit weights of the 16-bit groups. -/
def scoreWeighted (clen : Nat) (weights q c : Nat) : Nat :=
  ((List.range (clen / 16)).map fun g => bitsOf weights (4 * g) 4 * (16 - popcount 16 (bitsOf (q ^^^ c) (16 * g) 16))).sum

/-- The score of a loaded slot against a code. -/
def QuerySlot.score (q : QuerySlot) (clen : Nat) (weighted : Bool) (c : Nat) : Nat :=
  if weighted then scoreWeighted clen q.weights.toNat q.query.toNat c else scoreFlat clen q.query.toNat c

/-- R188, R189: a slot when an order begins: the current K and the list cut to it. -/
def QuerySlot.begin (q : QuerySlot) (k : Nat) : QuerySlot := if q.loaded then { q with k := k, list := q.list.take k } else q

/-- A scored code offered to a slot. -/
def QuerySlot.offer (q : QuerySlot) (clen : Nat) (o : ScanB1) (j c : Nat) : QuerySlot :=
  let sc := q.score clen o.weighted c
  if q.loaded && decide (o.minscore ≤ sc) then { q with list := offerTk q.k q.list ⟨sc, o.posbase + j⟩ } else q

/-- R180: bits of a CLEN code of C[2:0]. -/
def clenOf (code : Nat) : Nat := 16 * 2 ^ code

/-- The stateful units of a cluster changed. -/
def State.modUnits (s : State) (c : Nat) (f : Stateful → Stateful) : State :=
  s.modCluster c fun x => { x with units := f x.units }

/-! ### Acceptance (R340–R342) -/

/-- The scratchpad offset of A. -/
def Acc.off (a : Acc) : Nat := a.w.a.toNat % 2 ^ 23

/-- R326: the upper bits of an offset register are 0, and its alignment. -/
def Acc.offOk (a : Acc) (align n : Nat) (k : Access) : OM Unit := do
  a.need (a.off % align == 0) 0x11
  spBound a.x k a.off n

def acceptScanLd (a : Acc) : OM Accepted := do
  a.need (bitsOf a.w.c.toNat 0 3 != 7) 0x10
  a.offOk 128 5120 .read
  return { body := .scanLd a.off a.w.b (clenOf (bitsOf a.w.c.toNat 0 3)) }

/-- R341, R184. -/
def acceptScanB1 (a : Acc) : OM Accepted := do
  let bs ← a.descOk 64 64 false [fm 0 48, fm 0 41, fm 0 40, fm 0 2 + fm 8 7 + fm 16 14 + fm 32 8, 0, 0, 0, 0]
  let w := fun i => leAt bs (8 * i) 8
  let o : ScanB1 :=
    { codes := bitsOf (w 0) 0 48, count := bitsOf (w 1) 0 41, posbase := bitsOf (w 2) 0 40, weighted := bitOf (w 3) 0,
      prio := bitOf (w 3) 1, k := bitsOf (w 3) 8 7, minscore := bitsOf (w 3) 16 14, cmask := BitVec.ofNat 8 (bitsOf (w 3) 32 8) }
  a.need (o.codes % 128 == 0) 0x11
  a.need (decide (1 ≤ o.count ∧ o.count ≤ 2 ^ 40 ∧ 1 ≤ o.k ∧ o.k ≤ 64 ∧ o.minscore ≤ 15360)) 0x13
  let s ← get
  a.need (bitOf o.cmask.toNat a.h.cluster && (setBits 8 o.cmask.toNat).all (s.admits a.k.ten)) 0x14
  let clen := (s.cluster (((setBits 8 o.cmask.toNat)).headD 0)).units.clen
  a.need (decide (o.posbase + o.count ≤ 2 ^ 40 ∧ o.codes + o.count * (clen / 8) ≤ 2 ^ 48)) 0x13
  return { body := .scanB1 o }

def acceptTkRd (a : Acc) : OM Accepted := do
  a.offOk 512 16384 .write
  return { body := .tkRd a.off }

def acceptTkMerge (a : Acc) : OM Accepted := do
  a.offOk 8 512 .read
  return { body := .tkMerge a.off (bitsOf a.w.b.toNat 0 5) }

def acceptTkClr (a : Acc) : OM Accepted := return { body := .tkClr a.w.b }

/-! ### Effects -/

/-- `scan.ld` (R180, R189, R340). -/
def runScanLd (o : Order) (off : Nat) (mask : W32) (clen : Nat) : OM Unit := do
  let x := (← get).engOfOrder o
  let bs ← oSpRead x off 5120
  modify fun s => s.modUnits o.cluster fun u =>
    { u with
      clen := clen
      slots := u.slots.mapIdx fun i q =>
        if bitOf mask.toNat i then
          { loaded := true, query := BitVec.ofNat 1024 (leAt bs (128 * i) (clen / 8)),
            weights := BitVec.ofNat 256 (leAt bs (4096 + 32 * i) 32 % 2 ^ (4 * (clen / 16))), k := 64, list := [] }
        else { q with loaded := false } }

/-- The mover that reads a scan's codes: the lowest-numbered enabled mover of the mask's lowest-numbered cluster (R184). -/
def State.scanMover (s : State) (mask : BitVec 8) : UnitRef := .mover (s.copyMover ((setBits 8 mask.toNat).headD 0))

/-- R182, R188: every code from number `first` on against every loaded slot of one slice. -/
def scanSlice (o : ScanB1) (clen first : Nat) (codes : List Nat) (u : Stateful) : Stateful :=
  { u with slots := u.slots.map fun q =>
      (codes.zipIdx first).foldl (fun q c => q.offer clen o c.2 c.1) (q.begin o.k) }

/-- `tk.rd` (R191). -/
def runTkRd (o : Order) (off : Nat) : OM Unit := do
  let s ← get
  let slots := (s.cluster o.cluster).units.slots
  oSpWrite (s.engOfOrder o) off (slots.flatMap fun q => tkRow (if q.loaded then q.list else []))

/-- `tk.merge` (R192). -/
def runTkMerge (o : Order) (off slot : Nat) : OM Unit := do
  let bs ← oSpRead ((← get).engOfOrder o) off 512
  let es := ((chunksOf 8 64 bs).filterMap fun w => tkEntryOf (leNat w))
  modify fun s => s.modUnits o.cluster fun u =>
    { u with slots := modAt u.slots slot fun q => { q with list := es.foldl (offerTk q.k) q.list } }

/-- `tk.clr` (R193). -/
def runTkClr (o : Order) (mask : W32) : OM Unit :=
  modify fun s => s.modUnits o.cluster fun u =>
    { u with slots := u.slots.mapIdx fun i q => if bitOf mask.toNat i then { q with list := [] } else q }

end Sys2Proof.Machine
end

