-- ==== Sys2Proof/Machine/Interact.lean ====
section
/-! DEFINITION. Interaction slices, the epilogue, the coupling chain and the scans whose codes it carries (R183–R189, R195–R208, R234,
R235, R343–R345). -/

namespace Sys2Proof.Machine

/-! ### Formats (R195) -/

/-- R195: K_blk. -/
def iaK (fmt : Nat) : Nat := if fmt ≤ 1 then 512 else 256
/-- R343: bits of an element. -/
def iaBits (fmt : Nat) : Nat :=
  match fmt with
  | 0 => 4
  | 1 => 4
  | 2 => 8
  | 3 => 8
  | 6 => 32
  | _ => 16
/-- R343: bytes of a weight column, or of a native input row: the elements, then `.f4`'s scales. -/
def iaBytes (fmt : Nat) : Nat := iaK fmt * iaBits fmt / 8 + (if fmt = 0 then iaK fmt / 32 else 0)
/-- R195: completions per input row. -/
def iaCost (fmt : Nat) : Nat := if fmt ≤ 3 then 1 else if fmt = 6 then 16 else 2
def iaInt (fmt : Nat) : Bool := fmt == 1 || fmt == 3

/-- Element k of a column or native row, exactly; `e5` chooses E5M2 of `.f8`. -/
def iaElem (fmt : Nat) (e5 : Bool) (bs : List Byte) (k : Nat) : FVal :=
  match fmt with
  | 0 => mxVal (leAt bs (256 + k / 32) 1) (nibAt bs 0 k)
  | 1 => ofInt (signedOf (nibAt bs 0 k) 4) 0 false
  | 2 => fDecode (if e5 then e5m2Fmt else e4m3Fmt) (leAt bs k 1)
  | 3 => ofInt (signedOf (leAt bs k 1) 8) 0 false
  | 4 => fDecode bf16Fmt (leAt bs (2 * k) 2)
  | 5 => fDecode f16Fmt (leAt bs (2 * k) 2)
  | _ => fDecode f32Fmt (leAt bs (4 * k) 4)

/-- A column or native row as values. -/
def iaVals (fmt : Nat) (e5 : Bool) (bs : List Byte) : List FVal := (List.range (iaK fmt)).map (iaElem fmt e5 bs)

/-- What the entry conversion of an FP32 row gives: its values, saturations, and NaN made integers. -/
structure Entry where
  vals : List FVal
  sat : Nat := 0
  nan : Nat := 0

/-- A conversion of each element to a floating-point format and back to its value. -/
def entryFloat (f : Fmt) (ws : List W32) : Entry :=
  let cs := ws.map fun w => fConv f (f32 w)
  ⟨cs.map fun c => fDecode f c.code, (cs.filter (·.sat)).length, 0⟩

/-- To an integer format of n bits. -/
def entryInt (n : Nat) (ws : List W32) : Entry :=
  let cs := ws.map fun w => toInt .halfEven (-(2 ^ (n - 1))) (2 ^ (n - 1) - 1) (f32 w)
  ⟨cs.map fun c => ofInt c.val 0 false, (cs.filter (·.sat)).length, (cs.filter (·.nan)).length⟩

/-- To MXFP4, 32 elements to a scale block (R172). -/
def entryMx (ws : List W32) : Entry :=
  let bs := (chunksOf 32 ws.length ws).map fun b => mxBlock none (b.map f32)
  ⟨bs.flatMap fun b => b.2.1.map fun c => mxVal b.1 c, (bs.map (·.2.2)).sum, 0⟩

/-- R199: FP32 inputs multiplied by ISCALE and converted to the order's format. -/
def iaEntry (fmt : Nat) (e5 : Bool) (scale : W32) (ws : List W32) : Entry :=
  let ws := ws.map (wMul · scale)
  match fmt with
  | 0 => entryMx ws
  | 1 => entryInt 4 ws
  | 2 => entryFloat (if e5 then e5m2Fmt else e4m3Fmt) ws
  | 3 => entryInt 8 ws
  | 4 => entryFloat bf16Fmt ws
  | 5 => entryFloat f16Fmt ws
  | _ => entryFloat f32Fmt ws

/-! ### Accumulation (R200, R201) -/

/-- A zero sum as +0. -/
def plusZero : FVal → FVal
  | .fin neg m e => if m = 0 then .fin false 0 e else .fin neg m e
  | v => v

/-- R200, R201: the exact sum of the products of a row and a column. -/
def dotExact (x w : List FVal) : FVal := plusZero ((List.zipWith fMul x w).foldl fAdd (.fin false 0 0))

/-- R200: one accumulator element and its error term after a pass; whether an integer clamp took place. -/
def accStep (int comp : Bool) (acc err : W32) (s : FVal) : W32 × W32 × Bool :=
  if int then
    let i := acc.toInt + (match s with
      | .fin neg m e => sInt neg (m * 2 ^ e.toNat)
      | _ => 0)
    let c := max (-(2 ^ 31)) (min (2 ^ 31 - 1) i)
    (wrap32 c, err, c != i)
  else
    let v := fAdd (f32 acc) s
    let t := rn32 v
    if comp then (t, rn32 (fAdd (f32 err) (fAdd v (f32 t).negate)), false) else (t, err, false)

/-- Accumulator element keys. -/
def accKey (i j : Nat) : Nat := 256 * i + j

/-- R200, R203: a pass over rows × columns. -/
def accPass (int comp : Bool) (u : Stateful) (rows cols : List (List FVal)) : Stateful × Nat :=
  (rows.zipIdx).foldl (fun (r : Stateful × Nat) x =>
    (cols.zipIdx).foldl (fun (r : Stateful × Nat) w =>
      let k := accKey x.2 w.2
      let a := accStep int comp (smGet 0 r.1.acc k) (smGet 0 r.1.err k) (dotExact x.1 w.1)
      ({ r.1 with acc := smSet 0 r.1.acc k a.1, err := smSet 0 r.1.err k a.2.1 }, r.2 + b2n a.2.2)) r) (u, 0)

/-! ### Acceptance (R343–R345) -/

/-- R343. -/
def acceptIaMma (a : Acc) : OM Accepted := do
  let bs ← a.descOk 64 64 false [fm 0 23 + fm 24 8 + fm 32 32, fm 0 23 + fm 32 24, fm 0 12 + fm 16 8, 0, 0, 0, 0, 0]
  let w := fun i => leAt bs (8 * i) 8
  let o : IaMma :=
    { fmt := a.w.sub % 8, m := bitsOf (w 0) 0 9, n := bitsOf (w 0) 9 9, comp := bitOf (w 0) 18 || a.w.sub % 8 == 6,
      insrc := bitsOf (w 0) 19 2, xe5 := bitOf (w 0) 21, we5 := bitOf (w 0) 22, inhitch := bitsOf (w 0) 24 8,
      iscale := BitVec.ofNat 32 (bitsOf (w 0) 32 32), inTile := bitsOf (w 1) 0 23, istride := bitsOf (w 1) 32 24,
      koff := bitsOf (w 2) 0 12, whitch := bitsOf (w 2) 16 8 }
  a.need (decide (o.insrc ≤ 2)) 0x10
  a.need (o.inTile % 128 == 0 && o.istride % 8 == 0) 0x11
  a.need (decide (1 ≤ o.m ∧ o.m ≤ 256 ∧ 1 ≤ o.n ∧ o.n ≤ 256)) 0x13
  let h ← a.hitch o.whitch fun h => h.cons == 6
  a.need (decide (o.n * iaBytes o.fmt ≤ h.size)) 0x13
  if o.insrc = 0 then
    let _ ← a.hitch o.inhitch fun h => h.cons == 2 && h.cluster == a.h.cluster
  if o.insrc = 1 then spBound a.x .read o.inTile ((o.m - 1) * o.istride + 4 * (o.koff + iaK o.fmt))
  if o.insrc = 2 then spBound a.x .read o.inTile ((o.m - 1) * o.istride + iaBytes o.fmt)
  return { body := .iaMma o }

/-- R344: the tile orders. -/
def acceptIaSt (a : Acc) : OM Accepted := do
  a.offOk 4096 (262144 * (1 + b2n (bitOf a.w.sub 0))) .write
  return { body := .iaSt a.off (bitOf a.w.sub 0) }

def acceptIaLd (a : Acc) : OM Accepted := do
  a.offOk 4096 (262144 * (1 + b2n (bitOf a.w.sub 0))) .read
  return { body := .iaLd a.off (bitOf a.w.sub 0) }

def acceptIaZero (_ : Acc) : OM Accepted := return { body := .iaZero }

/-- R207: bytes of an output row of n columns. -/
def epBytes (ofmt n : Nat) : Nat :=
  match ofmt with
  | 0 => 4 * n
  | 1 => 2 * n
  | 2 => 2 * n
  | 5 => n / 2 + n / 32
  | _ => n

/-- R345. -/
def acceptEpCvt (a : Acc) : OM Accepted := do
  let full := 2 ^ 64 - 1
  let bs ← a.descOk 64 64 false
    [fm 0 14 + fm 16 18, full, full, fm 0 32 + fm 32 23, fm 0 23 + fm 32 23, fm 0 23 + fm 32 24, 0, 0]
  let w := fun i => leAt bs (8 * i) 8
  let o : EpCvt :=
    { src := bitsOf (w 0) 0 2, ofmt := bitsOf (w 0) 2 3, act := bitsOf (w 0) 5 3, smode := bitsOf (w 0) 8 2,
      bias := bitOf (w 0) 10, rnd := bitOf (w 0) 11, comp := bitOf (w 0) 12, dhit := bitOf (w 0) 13,
      m := bitsOf (w 0) 16 9, n := bitsOf (w 0) 25 9, stream := bitsOf (w 1) 0 16, rowbase := bitsOf (w 1) 16 48,
      colbase := bitsOf (w 2) 0 16, shitch := bitsOf (w 2) 16 8, dhitch := bitsOf (w 2) 24 8,
      alpha := BitVec.ofNat 32 (bitsOf (w 2) 32 32), hi := BitVec.ofNat 32 (bitsOf (w 3) 0 32), svec := bitsOf (w 3) 32 23,
      bvec := bitsOf (w 4) 0 23, srct := bitsOf (w 4) 32 23, dst := bitsOf (w 5) 0 23, dstride := bitsOf (w 5) 32 24 }
  a.need (decide (o.src ≤ 2 ∧ o.ofmt ≤ 6 ∧ o.smode ≤ 2 ∧ o.act ≤ 6)) 0x10
  a.need (decide (1 ≤ o.m ∧ o.m ≤ 256 ∧ 1 ≤ o.n ∧ o.n ≤ 256 ∧ (o.ofmt = 5 → o.n % 32 = 0))) 0x13
  if o.src = 1 then
    let _ ← a.hitch o.shitch fun h => h.cons == 3 && h.cluster == a.h.cluster
  if o.src = 2 then spBound a.x .read o.srct (4 * o.m * o.n)
  if o.smode ≠ 0 then spBound a.x .read o.svec (4 * (if o.smode = 1 then o.m else o.n))
  if o.bias then spBound a.x .read o.bvec (4 * o.n)
  if o.dhit then
    let h ← a.hitch o.dhitch fun h => h.prod == 3 && h.cluster == a.h.cluster
    a.need (decide (epBytes o.ofmt o.n ≤ h.size)) 0x13
  else spBound a.x .write o.dst ((o.m - 1) * o.dstride + epBytes o.ofmt o.n)
  return { body := .epCvt o }

/-! ### A pass (R195–R201) -/

/-- Elements of an FP32 row from a byte list; those past its end are +0 (R343). -/
def rowWords (bs : List Byte) (koff n : Nat) : List W32 :=
  (List.range n).map fun k => if 4 * (koff + k) + 4 ≤ bs.length then BitVec.ofNat 32 (leAt bs (4 * (koff + k)) 4) else 0

/-- R178: the IA_IN check point. -/
def iaNan (o : Order) (byWeight : Bool) (rows : List (List FVal)) : OM Unit :=
  if bitOf o.nan.toNat 2 then
    (rows.zipIdx).forM fun r => match r.1.findIdx? FVal.isNan with
      | some k => throw (.bad (nanFault o.unit 2 (if byWeight then k else r.2) 0 k))
      | none => pure ()
  else pure ()

/-- The oldest QUEUED cart of an order's hitch taken and its LEN bytes read; with none queued the order waits. -/
def takeCart (o : Order) (x : Eng) (hitch : Nat) : OM (Nat × List Byte × W32) := do
  let s ← get
  match (s.hitch? o.ten hitch).bind fun h => (h.take (.order o.id o.task o.unit)).map fun r => (h, r) with
  | none => throw .wait
  | some (h, i, h') => do
    set (s.modHitch o.ten hitch fun _ => h')
    return (i, s.spBytes h.cluster (x.base + h.cartAt i) (h.cart i).len, (h.cart i).tag)

/-- A held cart returned. -/
def giveCart (o : Order) (hitch i : Nat) : OM Unit := modify fun s => s.freeCart o.ten hitch i

/-- R199: one input row, and the cart that brought it. -/
def iaRow (o : Order) (m : IaMma) (x : Eng) (i : Nat) : OM (Entry × Option Nat) := do
  match m.insrc with
  | 0 => do
    let (c, bs, _) ← takeCart o x m.inhitch
    return (iaEntry m.fmt m.xe5 m.iscale (rowWords bs m.koff (iaK m.fmt)), some c)
  | 1 => do
    let bs ← oSpRead x (m.inTile + i * m.istride + 4 * m.koff) (4 * iaK m.fmt)
    return (iaEntry m.fmt m.xe5 m.iscale (rowWords bs 0 (iaK m.fmt)), none)
  | _ => do
    let bs ← oSpRead x (m.inTile + i * m.istride) (iaBytes m.fmt)
    return (⟨iaVals m.fmt m.xe5 bs, 0, 0⟩, none)

/-- The weights an order's buffer holds. -/
def Stateful.weights (u : Stateful) (order : Nat) : Option (List Byte) := (u.wbufs.find? (·.1 == order)).map (·.2)

/-- The columns of a weight block. -/
def weightCols (m : IaMma) (bs : List Byte) : List (List FVal) :=
  (chunksOf (iaBytes m.fmt) m.n bs).map (iaVals m.fmt m.we5)

/-- `ia.mma` (R195–R201): the pass, once its weights have loaded and its inputs are there. -/
def runIaMma (o : Order) (m : IaMma) : OM Unit := do
  let s ← get
  let x := s.engOfOrder o
  match (s.cluster o.cluster).units.weights o.id with
  | none => throw .wait
  | some wb => do
    let rows ← (List.range m.m).mapM (iaRow o m x)
    iaNan o false (rows.map (·.1.vals))
    rows.forM fun r => match r.2 with
      | some c => giveCart o m.inhitch c
      | none => pure ()
    let int := iaInt m.fmt
    modify fun s =>
      let r := accPass int m.comp (s.cluster o.cluster).units (rows.map (·.1.vals)) (weightCols m wb)
      let u : Stateful := { r.1 with
        mode := if int then 2 else b2n m.comp, wbufs := r.1.wbufs.filter (·.1 != o.id) }
      let s := s.modUnits o.cluster fun _ => u
      let s := (s.count (cntAccSat o.cluster) r.2).count (cntIaCompl o.cluster) (m.m * iaCost m.fmt)
      (s.count (cntCvtSat o.cluster) ((rows.map (·.1.sat)).sum)).count (cntCvtNan o.cluster) ((rows.map (·.1.nan)).sum)

/-! ### Tiles (R203) -/

/-- A tile's bytes, in row order. -/
def tileBytes (m : SMap W32) : List Byte := (List.range 65536).flatMap fun k => toLe 4 (smGet 0 m k).toNat

/-- A tile from bytes. -/
def tileOf (bs : List Byte) : SMap W32 :=
  ((chunksOf 4 65536 bs).zipIdx).filterMap fun w =>
    let v : W32 := BitVec.ofNat 32 (leNat w.1)
    if v = 0 then none else some (w.2, v)

def runIaSt (o : Order) (off : Nat) (comp : Bool) : OM Unit := do
  let s ← get
  let u := (s.cluster o.cluster).units
  let x := s.engOfOrder o
  oSpWrite x off (tileBytes u.acc)
  if comp then oSpWrite x (off + 262144) (tileBytes u.err)

def runIaLd (o : Order) (off : Nat) (comp : Bool) : OM Unit := do
  let x := (← get).engOfOrder o
  let a ← oSpRead x off 262144
  let e ← if comp then oSpRead x (off + 262144) 262144 else pure []
  modify fun s => s.modUnits o.cluster fun u =>
    { u with acc := tileOf a, err := if comp then tileOf e else u.err }

def runIaZero (o : Order) : OM Unit := modify fun s => s.modUnits o.cluster fun u => { u with acc := [], err := [] }

/-! ### The epilogue (R205–R208) -/

/-- R205, R206: the activations. -/
def activate (act : Nat) (alpha hi : W32) (y : W32) : W32 :=
  let v := f32 y
  match act with
  | 1 => if v.isNan || fLt (.fin false 0 0) v then y else 0
  | 2 => if !v.isNan && !fLt v (.fin false 0 0) then y else wMul alpha y
  | 3 => siluOf y
  | 4 => geluOf y
  | 5 => tanhOf y
  | 6 => if v.isNan then y else rn32 (fMin2 (fMax2 v (f32 alpha)) (f32 hi))
  | _ => y

/-- R205: the value of an accumulator element as the epilogue reads it. -/
def accValue (u : Stateful) (comp : Bool) (i j : Nat) : W32 :=
  let a := smGet 0 u.acc (accKey i j)
  if u.mode = 2 then rn32 (ofInt a.toInt 0 false)
  else if comp then wAdd a (smGet 0 u.err (accKey i j)) else a

/-- R205: one source row, and the cart that brought it. -/
def epRow (o : Order) (p : EpCvt) (x : Eng) (i : Nat) : OM (List W32 × Option Nat) := do
  match p.src with
  | 0 => do
    let u := ((← get).cluster o.cluster).units
    return ((List.range p.n).map (accValue u p.comp i), none)
  | 1 => do
    let (c, bs, _) ← takeCart o x p.shitch
    return (rowWords bs 0 p.n, some c)
  | _ => do
    let bs ← oSpRead x (p.srct + 4 * i * p.n) (4 * p.n)
    return (rowWords bs 0 p.n, none)

/-- A vector of FP32 values in the scratchpad. -/
def oVec (x : Eng) (off n : Nat) : OM (List W32) := do return rowWords (← oSpRead x off (4 * n)) 0 n

/-- R205: one row scaled, biased and activated. -/
def epValues (o : Order) (p : EpCvt) (x : Eng) (i : Nat) (ys : List W32) : OM (List W32) := do
  let ys ← (match p.smode with
    | 1 => do
      let sc ← oVec x (p.svec + 4 * i) 1
      return ys.map (wMul · (sc.headD 0))
    | 2 => do return List.zipWith wMul ys (← oVec x p.svec p.n)
    | _ => pure ys)
  let ys ← if p.bias then do return List.zipWith wAdd ys (← oVec x p.bvec p.n) else pure ys
  let ys := ys.map (activate p.act p.alpha p.hi)
  if bitOf o.nan.toNat 3 then
    match ys.findIdx? wNan with
    | some j => throw (.bad (nanFault o.unit 3 i 0 j))
    | none => pure ()
  return ys

/-- R175: the generator's bits of an output. -/
def epBits (p : EpCvt) (seed : W64) (i j : Nat) : Option W32 :=
  if p.rnd then
    some (srBits seed (BitVec.ofNat 64 (p.stream * 2 ^ 48) ||| BitVec.ofNat 64 (p.rowbase + i)) (BitVec.ofNat 64 (p.colbase + j)))
  else none

/-- R207: a row in its output format, with its conversions. -/
def epConvert (p : EpCvt) (seed : W64) (i : Nat) (ys : List W32) : List Byte × Nat × Nat :=
  let elems := fun (f : Nat → W32 → ElemCode) (bytes : Nat) =>
    let cs := ys.mapIdx f
    (cs.flatMap fun c => toLe bytes c.code, (cs.filter (·.sat)).length, (cs.filter (·.nan)).length)
  let flt := fun (f : Fmt) (bytes : Nat) => elems (fun j y => convBits f (epBits p seed i j) (f32 y)) bytes
  match p.ofmt with
  | 0 => elems (fun _ y => convBits f32Fmt none (f32 y)) 4
  | 1 => flt bf16Fmt 2
  | 2 => flt f16Fmt 2
  | 3 => flt e4m3Fmt 1
  | 4 => flt e5m2Fmt 1
  | 5 =>
    let bs := ((chunksOf 32 ys.length ys).zipIdx).map fun b =>
      mxBlock (if p.rnd then some fun k => (epBits p seed i (32 * b.2 + k)).getD 0 else none) (b.1.map f32)
    (packNibbles (bs.flatMap (·.2.1)) ++ bs.flatMap fun b => toLe 1 b.1, (bs.map (·.2.2)).sum, 0)
  | _ => elems (fun j y => convInt 8 (epBits p seed i j) (f32 y)) 1

/-- R345: a finished row written to its place or queued as a cart. -/
def epOut (o : Order) (p : EpCvt) (x : Eng) (i : Nat) (bs : List Byte) : OM Unit :=
  if p.dhit then do
    let s ← get
    match (s.hitch? o.ten p.dhitch).bind fun h => h.freeCart.map fun c => (h, c) with
    | none => throw .wait
    | some (h, c) =>
      let s := s.spWrite h.cluster (x.base + h.cartAt c) bs
      set (s.modHitch o.ten p.dhitch fun h => (h.fill c (.order o.id o.task o.unit)).put c bs.length (BitVec.ofNat 32 (p.rowbase + i)) h.cluster)
  else oSpWrite x (p.dst + i * p.dstride) bs

/-- One row of the epilogue. -/
def epStep (o : Order) (p : EpCvt) : OM EpCvt := do
  let s ← get
  let x := s.engOfOrder o
  let (ys, cart) ← epRow o p x p.row
  let ys ← epValues o p x p.row ys
  let r := epConvert p (((s.task? o.task).map (·.seed)).getD 0) p.row ys
  epOut o p x p.row r.1
  modify fun s => (s.count (cntCvtSat o.cluster) r.2.1).count (cntCvtNan o.cluster) r.2.2
  match cart with
  | some c => giveCart o p.shitch c
  | none => pure ()
  return { p with row := p.row + 1 }

/-- Rows as far as carts allow. -/
def runEpRows (o : Order) : Nat → EpCvt → OM EpCvt
  | 0, p => pure p
  | n + 1, p => do
    let s ← get
    match (epStep o p).go s with
    | (.ok p', s') => do
      set s'
      runEpRows o n p'
    | (.error .wait, _) => if p.row = 0 then throw .wait else return p
    | (.error f, s') => do
      set s'
      throw f

/-! ### The coupling chain (R21, R185, R197, R198, R234, R235) -/

/-- R21: the cluster after c on a tenancy's chain. -/
def State.nextOnChain (s : State) (ten c : Nat) : Option Nat := (s.chain ten).find? fun d => decide (c < d)

/-- The key of a scan order's code carts on the chain; hitches have the numbers below. -/
def codeKey (id : Nat) : Nat := 256 + id

/-- R235: a cart is queued on the chain. -/
def State.chainPut (s : State) (ten key i : Nat) : State :=
  s.modTen ten fun t => { t with chainQ := t.chainQ.filter (· != (key, i)) ++ [(key, i)] }

/-- R235: a cart has left the chain. -/
def State.chainDrop (s : State) (ten key i : Nat) : State :=
  s.modTen ten fun t => { t with chainQ := t.chainQ.filter (· != (key, i)) }

/-- The scan order and its parameters. -/
def State.scanOf (s : State) (id : Nat) : Option (Order × ScanB1) :=
  (s.order? id).bind fun o => match o.body with
    | .scanB1 b => some (o, b)
    | _ => none

/-- The cluster where a cart of the chain stands. -/
def State.chainAt (s : State) (ten : Nat) (k : Nat × Nat) : Option Nat :=
  if 256 ≤ k.1 then (s.scanOf (k.1 - 256)).bind fun p => (p.2.carts.find? (·.num == k.2)).map (·.clu)
  else (s.hitch? ten k.1).bind fun h => if (h.cart k.2).st = .chain then some (h.cart k.2).clu else none

/-- R198, R235: carts keep their order on the chain, each at a cluster of its own: those queued before have passed beyond the cluster
this one goes to, or this one where it leaves the chain. -/
def State.chainClear (s : State) (ten key i clu : Nat) (next : Option Nat) : Bool :=
  ((s.ten ten).chainQ.takeWhile (· != (key, i))).all fun e => match s.chainAt ten e with
    | some d => decide (next.getD clu < d)
    | none => true

/-- R197: the `ia.mma` of a cluster that waits for weights from a hitch: the first accepted one without a buffer. -/
def State.weightWaiter (s : State) (ten hitch c : Nat) : Option (Order × IaMma) :=
  ((s.queueOf (.ia c) 0).filterMap fun o => match o.body with
    | .iaMma m => if ((s.cluster c).units.weights o.id).isNone then some (o, m) else none
    | _ => none).find? fun p => p.1.ten == ten && p.2.whitch == hitch

/-- R197: the slice of the cart's cluster loads it. -/
def loadWeights (o : Order) (m : IaMma) (h : Hitch) (i c : Nat) : OM Unit := do
  let s ← get
  let x := s.engOfOrder o
  let bs := s.spBytes c (x.base + h.cartAt i) (m.n * iaBytes m.fmt)
  iaNan o true (weightCols m bs)
  set (s.modUnits c fun u => { u with wbufs := u.wbufs ++ [(o.id, bs)] })

/-- R234: the cart passes to the next cluster, or returns to its pool. -/
def State.passCart (s : State) (ten : Nat) (h : Hitch) (i : Nat) : State :=
  let c := h.cart i
  match s.nextOnChain ten c.clu with
  | none => (s.modHitch ten h.num fun h => { h.free i with queue := h.queue.filter (· != i) }).chainDrop ten h.num i
  | some d =>
    let at' := s.ctxShare ten h.ctx + h.cartAt i
    let s := s.spWrite d at' (s.spBytes c.clu at' c.len)
    s.modHitch ten h.num (·.modCart i fun x => { x with clu := d })

/-! ### Scanning (R183–R189) -/

/-- R185: the first cluster of a scan's chain, and the one after c. -/
def ScanB1.head (b : ScanB1) : Nat := (setBits 8 b.cmask.toNat).headD 0
def ScanB1.after (b : ScanB1) (c : Nat) : Option Nat := (setBits 8 b.cmask.toNat).find? fun d => decide (c < d)

/-- CLEN of a scan's array: that of the mask's lowest-numbered slice (log 31). -/
def State.scanLen (s : State) (b : ScanB1) : Nat := (s.cluster b.head).units.clen

/-- R185, R186: the codes of the next cart: what one completion compares, 4,096 B of them (log 172). -/
def ScanB1.take (b : ScanB1) (clen : Nat) : Nat := min (b.count - b.next) (if clen = 0 then b.count else 32768 / clen)

/-- The accesses of a scan's codes: the mover's (R184). -/
def State.scanEng (s : State) (o : Order) (b : ScanB1) : Eng := { s.engOfOrder o with unit := s.scanMover b.cmask }

/-- R183, R184: the codes of the next cart asked for. -/
def scanRead (o : Order) (b : ScanB1) : OM ScanB1 := do
  let x := (← get).scanEng o b
  let clen := (← get).scanLen b
  let n := b.take clen
  let va := (b.codes + b.next * (clen / 8)) % 2 ^ 48
  let ps ← oPieces x va (n * (clen / 8)) .read
  let s ← get
  let f := s.fetchStart (.xfer o.id b.made) (.xfer o.id b.made) o.ten (unitWord x.unit) (some va) b.prio false ps
  set f.1
  return { b with read := some ⟨b.made, n, f.2⟩, made := b.made + 1 }

/-- R185: the codes that have come are packed into a cart at the head of the chain. -/
def scanPack (o : Order) (b : ScanB1) (r : CodeRead) : OM ScanB1 := do
  let s ← get
  set (s.chainPut o.ten (codeKey o.id) r.num)
  return { b with next := b.next + r.count, read := none, carts := b.carts ++ [⟨r.num, b.next, b.head, s.fetched r.fetch⟩] }

/-- What the mover of a scan does next. -/
def scanFeed (o : Order) (b : ScanB1) : OM ScanB1 := do
  let s ← get
  match b.read with
  | none => if b.next < b.count then scanRead o b else return b
  | some r =>
    if !r.fetch.todo.isEmpty then
      let f := s.fetchMore (.xfer o.id r.num) o.ten (unitWord (s.scanMover b.cmask)) r.fetch
      set f.1
      return { b with read := some { r with fetch := f.2 } }
    else if s.fetchHome r.fetch && !s.busyRead o.id r.num then scanPack o b r
    else return b

/-- R185, R235: a code cart used by the slice where it stands, and passed on or returned; none: it cannot move. -/
def codeMove (o : Order) (b : ScanB1) (num : Nat) : OM (Option ScanB1) := do
  let s ← get
  match b.carts.find? (·.num == num) with
  | none => return none
  | some c =>
    let next := b.after c.clu
    if !s.chainClear o.ten (codeKey o.id) num c.clu next then return none
    else do
      let clen := s.scanLen b
      let codes := if clen = 0 then [] else (chunksOf (clen / 8) (c.bytes.length / (clen / 8)) c.bytes).map leNat
      modify fun s => (s.modUnits c.clu (scanSlice b clen c.first codes)).count (cntScanCompl c.clu) 1
      match next with
      | some d => return some { b with carts := modWhere (·.num == num) (fun c => { c with clu := d }) b.carts }
      | none => do
        modify fun s => s.chainDrop o.ten (codeKey o.id) num
        return some { b with carts := b.carts.filter (·.num != num) }

/-- A code cart moved as far as it goes. -/
def codeGo (o : Order) (num : Nat) : Nat → ScanB1 → OM ScanB1
  | 0, b => return b
  | n + 1, b => do
    match ← codeMove o b num with
    | some b' => do
      modify fun s => s.setBody o.id (.scanB1 b')
      codeGo o num n b'
    | none => return b

/-- `scan.b1` (R183–R189): what its mover and its carts do next; every code passes every slice of the mask once. -/
def scanGo (o : Order) (b : ScanB1) : OM ScanB1 := do
  let b ← scanFeed o b
  modify fun s => s.setBody o.id (.scanB1 b)
  b.carts.foldlM (fun b c => codeGo o c.num 8 b) b

/-- Every code has passed every slice. -/
def ScanB1.finished (b : ScanB1) : Bool := decide (b.count ≤ b.next) && b.read.isNone && b.carts.isEmpty

/-- CHAIN_LINK_COPY of a code cart (R185, R235). -/
def State.passCode (s : State) (id num : Nat) : Out :=
  match s.scanOf id with
  | none => no "no such scan"
  | some (o, b) =>
    match (codeMove o b num).go s with
    | (.ok (some b'), s') => .next (s'.setBody id (.scanB1 b'))
    | _ => no "no such code cart, or an earlier cart stands in the way"

/-- CHAIN_LINK_COPY (R185, R197, R234, R235): the cluster where the cart stands has used it, or uses it now, and passes it on. -/
def execChainLinkCopy (ten hitch cart : Nat) (s : State) : Out :=
  if 256 ≤ hitch then s.passCode (hitch - 256) cart
  else
    match s.hitch? ten hitch with
    | none => no "no such hitch"
    | some h =>
      let c := h.cart cart
      if !h.queue.contains cart ∨ c.st ≠ .chain then no "no such cart on the chain"
      else if !s.chainClear ten hitch cart c.clu (s.nextOnChain ten c.clu) then no "an earlier cart stands in the way"
      else if !bitOf c.tag.toNat c.clu then .next (s.passCart ten h cart)
      else
        match s.weightWaiter ten hitch c.clu with
        | none => no "the slice has no order that waits for weights"
        | some (o, m) =>
          if 2 ≤ (s.cluster c.clu).units.wbufs.length then no "both weight buffers are in use"
          else
            match (loadWeights o m h cart c.clu).go s with
            | (.ok _, s') => .next (s'.passCart ten h cart)
            | (.error f, s') => .next (s.orderStop s' o.ten o.ctx o.task (s.carrier o.unit) (.order o.id) f)

end Sys2Proof.Machine
end

