-- ==== Sys2Proof/Machine/Mover.lean ====
section
/-! DEFINITION. The stream movers (R209–R223, R319, R320): transfers, stream programs, and asynchronous copies. Requests leave at the
end of the tick in which they are issued, so transfers issued in one tick merge (R218, log 37). -/

namespace Sys2Proof.Machine

/-! ### Transfers (R212, R219) -/

/-- Whose transfer it is: its requests' clients, its accesses, the cohort of its lane-local side. -/
structure XCtx where
  who : MemClient
  wwho : Nat → WClient
  x : Eng
  task : Nat
  cohort : Nat
  llm : Nat

/-- R54: a place checked against its space. -/
def XCtx.bound (c : XCtx) (p : Place) (len : Nat) (k : Access) : OM Unit :=
  match p.space with
  | .scratch => if p.addr + len ≤ c.x.spext then pure () else throw (.acc (apertureFault k p.addr))
  | .laneLocal => if p.addr + len ≤ c.llm then pure () else throw (.acc (apertureFault k p.addr))
  | _ => pure ()

/-- The pieces of a memory side, none for another space. -/
def XCtx.pieces (c : XCtx) (p : Option Place) (len : Nat) (k : Access) : OM (List (Nat × Nat)) :=
  match p with
  | some ⟨.memory, _, va⟩ => oPieces c.x va len k
  | _ => return []

/-- The sides of a transfer checked and translated. -/
def XCtx.sides (c : XCtx) (src : Option Place) (dst : Place) (len : Nat) : OM (List (Nat × Nat) × List (Nat × Nat)) := do
  match src with
  | some p => c.bound p len .read
  | none => pure ()
  c.bound dst len .write
  let ps ← c.pieces src len .read
  let ds ← c.pieces (some dst) len .write
  return (ps, ds)

/-- R212, R219: a transfer or fill issued: its memory sides translated, its reads issued, its token taken unless it shares another's. -/
def XCtx.issue (c : XCtx) (n : Nat) (src : Option Place) (dst : Place) (fill : Byte) (len : Nat) (lat : Bool) (group : Nat := 0)
    (free : Bool := false) (merge : Merge := noMerge) : OM Xfer := do
  let (ps, ds) ← c.sides src dst len
  let s ← get
  let va := src.bind fun p => if p.space = .memory then some p.addr else none
  let f := s.fetchStart c.who c.wwho c.x.ten (unitWord c.x.unit) va lat false ps merge
  set (f.1.modTen c.x.ten fun t => { t with mtokIss := t.mtokIss + BitVec.ofNat 32 (b2n (!free)) })
  return { n := n, src := src, dst := dst, fill := fill, len := len, ready := s.tick, fetch := f.2, dsts := ds, group := group, free := free }

/-- R218: a transfer lengthened by one that goes on where it ends. -/
def XCtx.lengthen (c : XCtx) (x : Xfer) (src : Option Place) (dst : Place) (len : Nat) (merge : Merge) : OM Xfer := do
  let (ps, ds) ← c.sides src dst len
  let s ← get
  let f := s.fetchAdd c.who c.wwho c.x.ten (unitWord c.x.unit) false x.fetch ps merge
  set f.1
  return { x with len := x.len + len, fetch := f.2, dsts := x.dsts ++ ds }

/-- The source bytes of a transfer. -/
def XCtx.bytes (c : XCtx) (s : State) (x : Xfer) : List Byte :=
  match x.src with
  | none => List.replicate x.len x.fill
  | some p =>
    match p.space with
    | .memory => s.fetched x.fetch
    | .laneLocal => ((s.cohort? c.task c.cohort).map fun h => memBytes h.llm p.addr x.len).getD []
    | _ => s.spBytes p.clu (c.x.base + p.addr) x.len

/-- The bytes of a transfer at its destination. -/
def XCtx.put (c : XCtx) (s : State) (x : Xfer) (bs : List Byte) : State :=
  match x.dst.space with
  | .memory => s.putPieces c.x.ten c.wwho x.dsts x.dst.addr bs
  | .laneLocal => s.modCohort c.task c.cohort fun h => { h with llm := memPut h.llm x.dst.addr bs }
  | _ => s.spWrite x.dst.clu (c.x.base + x.dst.addr) bs

/-- A transfer with a piece of its destination beyond the own pool. -/
def State.remoteDst (s : State) (x : Xfer) : Bool :=
  x.dsts.any fun p => !s.ownPool p.1

/-- What landing a transfer comes to: not yet; written, its responses awaited; landed. -/
inductive Landed where
  | no
  | writing (s : State)
  | done (s : State)

/-- R216, R219: a transfer lands once its source is whole and its writes are visible; its token returns. A write into a checkpoint
region that has no image yet waits (R291). -/
def XCtx.land (c : XCtx) (s : State) (busy : Bool) (x : Xfer) : Landed :=
  if busy || !s.fetchHome x.fetch || (x.dst.space == .memory && !x.writing && s.ckHolds c.x.ten x.dst.addr x.len) then .no
  else
    let back := fun (s : State) => s.modTen c.x.ten fun t => { t with mtokRet := t.mtokRet + BitVec.ofNat 32 (b2n (!x.free)) }
    if x.writing then .done (back s)
    else
      let s' := c.put s x (c.bytes s x)
      if s.remoteDst x then .writing s' else .done (back s')

/-! ### Asynchronous copies (R319, R320) -/

/-- A copy's transfer as its mover makes it. -/
def State.copyCtx (s : State) (c : Copy) (k : Task) : XCtx :=
  ⟨.copy c.id, .copy c.id, s.engOf k c.cluster (.mover c.mover) (.coach ⟨c.task, c.cohort, 0⟩), c.task, c.cohort, k.llm⟩

/-- Transfers of a queue of a mover that hold tokens, copies on MQ0 among them. -/
def State.moverTokens (s : State) (m q : Nat) : Nat :=
  ((s.orders.filter fun o => o.unit == .mover m && o.queue == q).map fun o => match o.body with
    | .stRun _ r => (r.flight.filter (!·.free)).length
    | _ => 0).sum + (if q = 0 then (s.copies.filter fun c => c.mover == m && c.xfer.isSome).length else 0) + s.strays (.mover m) q

/-- R219: the queue, and the mover, may hold one more transfer. -/
def State.moverRoom (s : State) (m q ten : Nat) : Bool :=
  decide (s.moverTokens m q < bitsOf (s.ten ten).mlimit.toNat (8 * q) 8 + 1)
    && decide (((List.range 4).map (s.moverTokens m)).sum < 256)

def State.modCopy (s : State) (id : Nat) (f : Copy → Copy) : State := { s with copies := modWhere (·.id == id) f s.copies }

/-- R209, R217: nothing stands in MQ0 before the copy. -/
def State.copyFirst (s : State) (c : Copy) : Bool :=
  !(s.copies.any fun d => d.mover == c.mover && decide (d.id < c.id))
    && !(s.orders.any fun o => o.at (.mover c.mover) 0 && decide (o.id < c.after))

/-- A copy's transfer issued in its turn, where its mover is not stalled and has room. -/
def State.copyIssue (s : State) (c : Copy) (k : Task) : State :=
  let u : UnitRef := .mover c.mover
  if s.stalled u ∨ !s.copyFirst c then s
  else if !s.moverRoom c.mover 0 c.ten then s.modCopy c.id fun y => { y with since := some (y.since.getD s.tick) }
  else
    let x := s.copyCtx c k
    match (x.issue 0 (some c.src) c.dst 0 c.len c.promoted).go s with
    | (.ok y, s') => s'.modCopy c.id fun z => { z with xfer := some y, since := none }
    | (.error f, s') => s.orderStop s' c.ten c.ctx c.task u x.x.who f

/-- R111: a copy's line pieces requested as miss registers become free. -/
def State.copyMore (s : State) (c : Copy) : State :=
  match c.xfer with
  | some x =>
    if x.fetch.todo.isEmpty then s
    else
      let f := s.fetchMore (.copy c.id) c.ten (unitWord (.mover c.mover)) x.fetch
      f.1.modCopy c.id fun y => { y with xfer := some { x with fetch := f.2 } }
  | none => s

/-- R320: a copy that has landed adds its amount and is gone. -/
def State.copyLand (s : State) (c : Copy) (k : Task) : State :=
  match c.xfer with
  | none => s
  | some x =>
    match (s.copyCtx c k).land s (s.copyBusy c.id) x with
    | .no => s
    | .writing s' => s'.modCopy c.id fun y => { y with xfer := some { x with writing := true } }
    | .done s' =>
      let s' : State := { s' with copies := s'.copies.filter (·.id != c.id) }
      s'.contribute c.task c.cohort c.ac c.amount

/-- What a copy issues now. -/
def State.copyGo (s : State) (c : Copy) : State :=
  match s.task? c.task with
  | none => s
  | some k => if c.xfer.isNone then s.copyIssue c k else s.copyMore c

/-! ### Stream words (R211) -/

/-- A stream word's opcode and fields. -/
def swOp (w : Nat) : Nat := bitsOf w 28 4
def swCur (w : Nat) : Bool := bitOf w 27

/-- The program's words. -/
def StreamDesc.word (d : StreamDesc) (n : Nat) : Nat := ((d.words.getD n 0) : W32).toNat
def StreamDesc.param (d : StreamDesc) (n : Nat) : Nat := ((d.params.getD n 0) : W64).toNat

/-- R211: a loop's count. -/
def StreamDesc.count (d : StreamDesc) (w : Nat) : Nat := if bitOf w 25 then d.param (bitsOf w 0 3) % 2 ^ 32 else bitsOf w 0 25

/-- R213: a word's own reserved fields and codes. -/
def swOk (w : Nat) : Bool :=
  match swOp w with
  | 1 => true
  | 2 => true
  | 3 => bitsOf w 26 2 == 0 && (!bitOf w 25 || bitsOf w 3 22 == 0)
  | 4 => bitsOf w 22 3 == 0
  | 5 => bitsOf w 0 16 == 0 && decide (bitsOf w 16 5 ≤ 14)
  | 6 => bitOf w 22 == false && bitsOf w 26 2 != 3
  | 7 => bitsOf w 0 27 == 0
  | _ => false

/-- R213: the program checked word by word at a loop depth: the number of the first word that breaks a rule. -/
def progCheck (n depth : Nat) : List W32 → Option Nat
  | [] => some 15
  | w :: ws =>
    let w := w.toNat
    if !swOk w then some n
    else
      match swOp w with
      | 2 => if depth < bitsOf w 25 2 then some n else progCheck (n + 1) depth ws
      | 3 => if 4 ≤ depth then some n else progCheck (n + 1) (depth + 1) ws
      | 5 => if depth ≤ bitsOf w 22 2 then some n else progCheck (n + 1) depth ws
      | 7 =>
        if swCur w then
          if depth ≠ 0 then some n
          else (ws.findIdx? (· != 0)).map (· + n + 1)
        else if depth = 0 then some n
        else progCheck (n + 1) (depth - 1) ws
      | _ => progCheck (n + 1) depth ws

/-- The most bytes a program's EMIT and PAD words move, and the most carts it closes, from the word counts and loops: `ms` is
the runs of each open loop's body, innermost first. -/
def progTotals (d : StreamDesc) (ms : List Nat) : List W32 → Nat × Nat
  | [] => (0, 0)
  | w :: ws =>
    let w := w.toNat
    let m := ms.headD 1
    match swOp w with
    | 3 => progTotals d (m * d.count w :: ms) ws
    | 4 =>
      let r := progTotals d ms ws
      (r.1 + m * bitsOf w 0 22, r.2 + m * b2n (bitOf w 26))
    | 6 =>
      let r := progTotals d ms ws
      (r.1 + m * bitsOf w 0 22, r.2)
    | 7 => if swCur w then (0, 0) else progTotals d (ms.drop 1) ws
    | _ => progTotals d ms ws

/-! ### Acceptance (R209, R210, R213) -/

/-- R210: spaces. -/
def spaceOf (n : Nat) : Space :=
  match n with
  | 0 => .memory
  | 1 => .scratch
  | 2 => .laneLocal
  | _ => .hitch

/-- R210: the descriptor's fields. -/
def streamDescOf (bs : List Byte) (addr : Nat) : StreamDesc :=
  let w := fun i => leAt bs (4 * i) 4
  { sspace := spaceOf (bitsOf (w 0) 0 3), scl := bitsOf (w 0) 3 3, dspace := spaceOf (bitsOf (w 0) 6 3), dcl := bitsOf (w 0) 9 3,
    shitch := bitsOf (w 0) 12 8, dhitch := bitsOf (w 0) 20 8, prio := bitOf (w 0) 30, pro := bitOf (w 0) 31,
    deadline := bitsOf (w 1) 0 24, drain := bitsOf (w 2) 0 16, cnt := bitsOf (w 2) 16 4, fcnt := bitsOf (w 2) 20 4,
    fwait := bitOf (w 2) 24, fbase := BitVec.ofNat 32 (w 3), fstep := BitVec.ofNat 32 (w 4)
    params := (List.range 8).map fun i => BitVec.ofNat 64 (leAt bs (0x20 + 8 * i) 8)
    words := (List.range 16).map fun i => BitVec.ofNat 32 (leAt bs (0x60 + 4 * i) 4), addr := addr }

/-- R213: a stream fault unless the condition holds. -/
def Acc.streamNeed (a : Acc) (b : Bool) (word : Nat) : OM Unit := oCheck b (streamFault a.name a.w.a.toNat word)

/-- R213, R226, R227: a stream's hitch. -/
def Acc.streamHitch (a : Acc) (num : Nat) (ok : Hitch → Bool) : OM Unit := do
  match (← oTen a).hitch? num with
  | some h =>
    a.streamNeed (ok h && h.dismantle.isEmpty) 0
    modify fun s => s.useHitch a.k.ten num a.k.id
  | none => a.streamNeed false 0

/-- R62, R216: the counter's mode suits the stream: a counter in carts mode needs a stream that closes carts. -/
def Acc.streamCounter (a : Acc) (d : StreamDesc) : OM Unit :=
  if (a.k.bound d.cnt).isNone ∧ bitOf a.h.acCarts.toNat d.cnt ∧ d.dspace ≠ .hitch then
    throw (.bad ⟨0x61, 0, a.h.num, unitWord a.name.unit + d.cnt * 2 ^ 16⟩)
  else pure ()

/-- `st.run` at acceptance (R209–R213). -/
def acceptStRun (a : Acc) : OM Accepted := do
  let bs ← a.desc 192 64 true
  let d := streamDescOf bs a.w.a.toNat
  a.streamNeed (layoutOk bs ([fm 0 28 + fm 30 26, fm 0 25 + fm 32 32, fm 0 32, 0]
    ++ List.replicate 16 (2 ^ 64 - 1) ++ [0, 0, 0, 0])) 0
  a.streamNeed (decide (bitsOf (leAt bs 0 4) 0 3 ≤ 3 ∧ bitsOf (leAt bs 0 4) 6 3 ≤ 3)) 0
  match progCheck 0 0 d.words with
  | some n => a.streamNeed false n
  | none => pure ()
  if d.sspace = .hitch then a.streamHitch d.shitch fun h => h.cons == 0 && h.cluster == a.h.cluster
  if d.dspace = .hitch then a.streamHitch d.dhitch fun h => h.prod == 0 && (h.cons == 6 || h.cluster == a.h.cluster)
  let s ← get
  a.streamNeed ((d.sspace != .scratch || s.granted a.k.ten d.scl) && (d.dspace != .scratch || s.granted a.k.ten d.dcl)) 0
  a.streamCounter d
  return { body := .stRun d {} }

/-- R216: what a stream may add to its counter. -/
def StreamDesc.mostAmount (d : StreamDesc) (carts : Bool) : Nat :=
  let r := progTotals d [] d.words
  if carts then r.2 + 1 else r.1

/-! ### Running a program (R212–R217, R223) -/

/-- A stream as its mover runs it. -/
structure StreamCtx where
  o : Order
  d : StreamDesc
  c : XCtx
  k : Task

def State.streamCtx (s : State) (o : Order) (d : StreamDesc) (k : Task) : StreamCtx :=
  ⟨o, d, ⟨.xfer o.id 0, .xfer o.id 0, s.engOf k o.cluster o.unit (.order o.id), o.task, o.cohort, k.llm⟩, k⟩

/-- The transfer's own clients. -/
def StreamCtx.at (c : StreamCtx) (n : Nat) : XCtx := { c.c with who := .xfer c.o.id n, wwho := .xfer c.o.id n }

/-- R212: addr(c). -/
def cursorAddr (c : Cursor) (loops : List (Nat × Nat × Nat)) : Int :=
  c.base + c.gofs + ((loops.reverse.zipIdx).map fun l => (l.1.1 : Int) * c.st.getD l.2 0).sum

def StreamRun.cursor (r : StreamRun) (dst : Bool) : Cursor := if dst then r.dst else r.src
def StreamRun.setCursor (r : StreamRun) (dst : Bool) (c : Cursor) : StreamRun :=
  if dst then { r with dst := c } else { r with src := c }

/-- The word of the END that closes the loop opened before word n. -/
def StreamDesc.matchingEnd (d : StreamDesc) : Nat → Nat → Nat → Nat
  | 0, n, _ => n
  | f + 1, n, depth =>
    match swOp (d.word n) with
    | 3 => d.matchingEnd f (n + 1) (depth + 1)
    | 7 => if swCur (d.word n) then n else if depth = 0 then n else d.matchingEnd f (n + 1) (depth - 1)
    | _ => d.matchingEnd f (n + 1) depth

/-- What one word came to: the stream goes on, or waits. -/
inductive Ran where
  | on (r : StreamRun)
  | wait (r : StreamRun)

/-- R215: an EMIT or PAD a sentinel padded. -/
def StreamCtx.padMiss (c : StreamCtx) : OM Unit := modify fun s => s.count (cntPadMiss c.o.cluster) 1

/-- R214: an offset within a cart, or SYNC_HITCH. -/
def StreamCtx.cartOff (c : StreamCtx) (hitch : Nat) (size len : Nat) (start v : Int) : OM Nat := do
  if v < start ∨ (size : Int) < v - start + len then throw (.bad (hitchBad c.o.unit hitch))
  return (v - start).toNat

/-- R214, R231: the source cart of a transfer: the one held, or the next of the hitch; none: no cart is queued. -/
def StreamCtx.srcCart (c : StreamCtx) (r : StreamRun) (v : Int) : OM (Option (StreamRun × Hitch × Nat × Int)) := do
  let s ← get
  match s.hitch? c.o.ten c.d.shitch with
  | none => throw (.bad (hitchBad c.o.unit c.d.shitch))
  | some h =>
    match r.srcCart with
    | some (i, v0) => return some (r, h, i, v0)
    | none =>
      match h.take (.order c.o.id c.o.task c.o.unit) with
      | none => return none
      | some (i, h') => do
        set (s.modHitch c.o.ten h.num fun _ => h')
        return some ({ r with srcCart := some (i, v) }, h', i, v)

/-- R214, R231: the destination cart of a transfer: the one being filled, or a FREE one; none: no cart is free. -/
def StreamCtx.dstCart (c : StreamCtx) (r : StreamRun) (v : Int) : OM (Option (StreamRun × Hitch × Nat × Int)) := do
  let s ← get
  match s.hitch? c.o.ten c.d.dhitch with
  | none => throw (.bad (hitchBad c.o.unit c.d.dhitch))
  | some h =>
    match r.dstCart with
    | some (i, v0) => return some (r, h, i, v0)
    | none =>
      match h.freeCart with
      | none => return none
      | some i => do
        let h' := h.fill i (.order c.o.id c.o.task c.o.unit)
        set (s.modHitch c.o.ten h.num fun _ => h')
        return some ({ r with dstCart := some (i, v), dstHigh := 0 }, h', i, v)

/-- A cursor's address in a space other than hitch space; one below 0 lies outside scratchpad and lane-local memory. -/
def plainPlace (sp : Space) (clu : Nat) (v : Int) : Place :=
  match sp with
  | .memory => ⟨.memory, clu, (v % 2 ^ 48).toNat⟩
  | _ => ⟨sp, clu, if v < 0 then 2 ^ 48 else v.toNat⟩

/-- The source place of a transfer. -/
def StreamCtx.srcPlace (c : StreamCtx) (r : StreamRun) (len : Nat) : OM (Option (StreamRun × Place)) := do
  let v := cursorAddr r.src r.loops
  match c.d.sspace with
  | .hitch => do
    match ← c.srcCart r v with
    | none => return none
    | some (r, h, i, v0) => do
      let off ← c.cartOff h.num h.size len v0 v
      return some (r, ⟨.hitch, h.cluster, h.cartAt i + off⟩)
  | sp => return some (r, plainPlace sp c.d.scl v)

/-- R227: the cluster a hitch is filled in: the head of the chain for a CHAIN hitch. -/
def State.fillCluster (s : State) (h : Hitch) (ten : Nat) : Nat := if h.cons = 6 then (s.chain ten).headD h.cluster else h.cluster

/-- The destination place of a transfer. -/
def StreamCtx.dstPlace (c : StreamCtx) (r : StreamRun) (len : Nat) : OM (Option (StreamRun × Place)) := do
  let v := cursorAddr r.dst r.loops
  match c.d.dspace with
  | .hitch => do
    match ← c.dstCart r v with
    | none => return none
    | some (r, h, i, v0) => do
      let off ← c.cartOff h.num h.size len v0 v
      return some ({ r with dstHigh := max r.dstHigh (off + len) },
        ⟨.hitch, (← get).fillCluster h c.o.ten, h.cartAt i + off⟩)
  | sp => return some (r, plainPlace sp c.d.dcl v)

/-! ### Merging (R218) -/

/-- q goes on where n bytes at p end. -/
def Place.follows (p q : Place) (n : Nat) : Bool := p.space == q.space && p.clu == q.clu && q.addr == p.addr + n

/-- A memory side of n bytes stays in its 2 MiB region. -/
def Place.within (p : Place) (n : Nat) : Bool := p.space != .memory || p.addr / 2 ^ 21 == (p.addr + n - 1) / 2 ^ 21

/-- A transfer that is issued and whose requests have not been sent, of the group that merges now. -/
def Xfer.fresh (x : Xfer) (tick group : Nat) : Bool := x.ready == tick && x.group == group && !x.writing

/-- R218: contiguous at the source and at the destination, one of them in memory, up to 4 KiB within 2 MiB. -/
def Xfer.goesOn (x : Xfer) (src : Option Place) (dst : Place) (len : Nat) : Bool :=
  match x.src, src with
  | some p, some q => p.follows q x.len && x.dst.follows dst x.len && (p.space == .memory || dst.space == .memory)
      && decide (x.len + len ≤ 4096) && p.within (x.len + len) && x.dst.within (x.len + len)
  | _, _ => false

/-- R218: n bytes at p and m at q lie in one aligned 256 B block of memory. -/
def Place.sameBlock (p q : Place) (n m : Nat) : Bool :=
  p.space == .memory && q.space == .memory && (p.addr + n - 1) / 256 == p.addr / 256 && q.addr / 256 == p.addr / 256
    && (q.addr + m - 1) / 256 == p.addr / 256

/-- R218, R219: the memory sides of two transfers merge, so that they count once. -/
def Xfer.shares (x : Xfer) (src : Option Place) (dst : Place) (len : Nat) : Bool :=
  let far := fun (p : Place) => p.space != .memory
  match x.src, src with
  | some p, some q => (!(far q && far dst)) && (far q && far p || p.sameBlock q x.len len)
      && (far dst && far x.dst || x.dst.sameBlock dst x.len len)
  | _, _ => false

/-- R218: an unsent read of the stream that a read may join: of the transfer it lengthens, or of one in the same aligned 256 B block. -/
def streamMerge (s : State) (o : Order) (r : StreamRun) (own : Option Nat) : Merge := fun q pa n =>
  let ok := fun (w : MemClient) => match w with
    | .xfer i k => i == o.id && (own == some k || ((q.pa + q.len - 1) / 256 == q.pa / 256 && pa / 256 == q.pa / 256 && (pa + n - 1) / 256 == pa / 256
        && r.flight.any fun x => x.n == k && x.fresh s.tick r.group))
    | _ => false
  match q.who with
  | .miss slice k => (s.rc.miss.find? fun m => m.slice == slice && m.n == k).any fun m => (m.waits.head?).any ok
  | w => ok w

/-- R236: where a transfer writes, outside lane-local memory, carts and other packages (log 157). -/
def State.destsOf (s : State) (x : Xfer) : List Dest :=
  match x.dst.space with
  | .memory => (x.dsts.filter fun p => s.ownPool p.1).map fun p => ⟨none, poolAddr p.1, p.2⟩
  | .scratch => [⟨some x.dst.clu, x.dst.addr, x.len⟩]
  | _ => []

/-- A range added to those before it: one that goes on where the last ended lengthens it. -/
def addDest (l : List Dest) (d : Dest) : List Dest :=
  match l with
  | e :: l => if l.contains d || e = d then e :: l
    else if e.clu = d.clu ∧ e.addr + e.len = d.addr then { e with len := e.len + d.len } :: l else d :: e :: l
  | [] => [d]

/-- R236: a transfer sent is remembered with its task. -/
def State.noteDests (s : State) (task : Nat) (x : Xfer) : State :=
  { s with tasks := modWhere (·.id == task) (fun k => { k with dests := (s.destsOf x).foldl addDest k.dests }) s.tasks }

/-- R212, R218: one transfer or fill issued, or merged with one that has not been sent; an effect that waits for a cart or a token changes
nothing but since when it waits (R221). -/
def StreamCtx.send (c : StreamCtx) (r : StreamRun) (read : Bool) (fill : Byte) (len : Nat) : OM Ran := do
  let s ← get
  let m := match c.o.unit with
    | .mover m => m
    | _ => 0
  let src ← if read then do
      match ← c.srcPlace r len with
      | none => return .wait r
      | some (r, p) => pure (r, some p)
    else pure (r, none)
  match ← c.dstPlace src.1 len with
  | none => do
    set s
    return .wait r
  | some (r', dst) => do
    let r' := { r' with bytes := r'.bytes + len, since := none, hot := false }
    match r.flight.find? fun x => x.fresh s.tick r.group && x.goesOn src.2 dst len with
    | some x => do
      let y ← (c.at x.n).lengthen x src.2 dst len (streamMerge s c.o r (some x.n))
      modify fun s => s.noteDests c.o.task { y with dst := dst, len := len, dsts := y.dsts.drop x.dsts.length }
      return .on { r' with flight := modWhere (·.n == x.n) (fun _ => y) r'.flight }
    | none => do
      let free := r.flight.any fun x => x.fresh s.tick r.group && x.shares src.2 dst len
      if !free && !s.moverRoom m c.o.queue c.o.ten then
        set s
        return .wait { r with since := some (r.since.getD s.tick) }
      let x ← (c.at r.nissued).issue r.nissued src.2 dst fill len (c.d.prio || r.hot) r.group free (streamMerge s c.o r none)
      modify fun s => s.noteDests c.o.task x
      return .on { r' with nissued := r.nissued + 1, flight := r'.flight ++ [x] }

/-- R212: an EMIT's transfer, or what a sentinel makes of it. -/
def StreamCtx.emit (c : StreamCtx) (r : StreamRun) (w : Nat) : OM Ran := do
  let len := bitsOf w 0 22
  if r.dst.miss then do
    c.padMiss
    return .on r
  else if len = 0 then return .on r
  else if r.src.miss then do
    let q ← c.send r false 0 len
    match q with
    | .on _ => c.padMiss
    | _ => pure ()
    return q
  else c.send r true 0 len

/-- R211: a PAD's fill byte. -/
def StreamDesc.padByte (d : StreamDesc) (w : Nat) : Byte :=
  match bitsOf w 26 2 with
  | 0 => 0
  | 1 => 0xFF
  | _ => BitVec.ofNat 8 (d.param (bitsOf w 23 3))

def StreamCtx.pad (c : StreamCtx) (r : StreamRun) (w : Nat) : OM Ran := do
  let len := bitsOf w 0 22
  if r.dst.miss then do
    c.padMiss
    return .on r
  else if len = 0 then return .on r
  else c.send r false (c.d.padByte w) len

/-- R234, R235: a cart just queued in a hitch whose consumer is CHAIN stands on the chain. -/
def State.chained (s : State) (ten hitch i : Nat) : State :=
  if (s.hitch? ten hitch).any (·.cons == 6) then s.chainPut ten hitch i else s

/-- R214: the destination cart queued with its length and TAG; with no cart open nothing closes (log 38). -/
def StreamCtx.close (c : StreamCtx) (r : StreamRun) : OM StreamRun := do
  match r.dstCart with
  | none => return r
  | some (i, _) => do
    modify fun s => (s.modHitch c.o.ten c.d.dhitch fun h =>
      h.put i r.dstHigh (BitVec.ofNat 32 (c.d.param 7)) (s.fillCluster h c.o.ten)).chained c.o.ten c.d.dhitch i
    return { r with dstCart := none, dstHigh := 0, carts := r.carts + 1 }

/-- R214: the source cart returned. -/
def StreamCtx.release (c : StreamCtx) (r : StreamRun) : OM StreamRun := do
  match r.srcCart with
  | none => return r
  | some (i, _) => do
    modify fun s => s.freeCart c.o.ten c.d.shitch i
    return { r with srcCart := none }

/-- R223: a fence's own condition beyond landing: FCNT, and for a prologue stream the tasks before the command fence (R224). -/
def StreamCtx.fenceOpen (c : StreamCtx) (s : State) (r : StreamRun) : Bool :=
  let target := c.d.fbase + BitVec.ofNat 32 r.nfence * c.d.fstep
  (!c.d.fwait || match s.cohort? c.o.task c.o.cohort with
    | some h => reached (s.acValue c.k h c.d.fcnt) target
    | none => true) && (!c.d.pro || ((s.task? c.o.task).map (·.held.isEmpty)).getD true)

/-- R212, R214, R223: what stands after an EMIT's transfer: the fence, then SREL and DCLOSE, each once every transfer issued
has landed (log 39). -/
def StreamCtx.afterEmit (c : StreamCtx) (r : StreamRun) (srel dclose : Bool) : OM Ran := do
  let s ← get
  if !r.flight.isEmpty then return .wait r
  if r.fencing ∧ !c.fenceOpen s r then return .wait r
  let r := if r.fencing then { r with fencing := false, nfence := r.nfence + 1 } else r
  let r ← if srel then c.release r else pure r
  let r ← if dclose then c.close r else pure r
  return .on { r with after := none, pc := r.pc + 1, group := r.group + 1 }

/-- R215: the list entry of a GATHER: none for the sentinel. -/
def StreamCtx.entry (c : StreamCtx) (r : StreamRun) (w : Nat) : OM (Option Nat) := do
  let k := ((r.loops.reverse)[bitsOf w 22 2]?).map (·.1)
  let wide := bitOf w 21
  let n := if wide then 8 else 4
  let e ← oWord c.c.x (c.d.param (bitsOf w 24 3)) (n * k.getD 0) n
  let e := if wide then e % 2 ^ 48 else e
  return if e = (if wide then 2 ^ 48 - 1 else 2 ^ 32 - 1) then none else some e

/-- R216: the end of the program: a destination cart with bytes is closed, an empty one returned. -/
def StreamCtx.finish (c : StreamCtx) (r : StreamRun) : OM Ran := do
  if !r.flight.isEmpty then return .wait r
  match r.dstCart with
  | some (i, _) => do
    if r.dstHigh = 0 then
      modify fun s => s.freeCart c.o.ten c.d.dhitch i
      return .wait { r with dstCart := none, ended := true }
    else
      let r ← c.close r
      return .wait { r with ended := true }
  | none => return .wait { r with ended := true }

/-- R212: one word. -/
def StreamCtx.step (c : StreamCtx) (r : StreamRun) : OM Ran := do
  match r.after with
  | some (srel, dclose) => c.afterEmit r srel dclose
  | none =>
    let w := c.d.word r.pc
    let next := fun (r : StreamRun) => { r with pc := r.pc + 1 }
    let cur := swCur w
    match swOp w with
    | 1 =>
      let b : Int := (c.d.param (bitsOf w 24 3) : Int) + bitsOf w 0 24
      return .on (next (r.setCursor cur { r.cursor cur with base := b, gofs := 0, miss := false }))
    | 2 =>
      let st := signedOf (bitsOf w 0 24) 24 * (if bitOf w 24 then 4096 else 1)
      let k := r.cursor cur
      return .on (next (r.setCursor cur { k with st := k.st.set (bitsOf w 25 2) st }))
    | 3 =>
      if c.d.count w = 0 then return .on { r with pc := c.d.matchingEnd 16 (r.pc + 1) 0 + 1 }
      else return .on { r with loops := (0, c.d.count w, r.pc + 1) :: r.loops, pc := r.pc + 1 }
    | 4 =>
      match ← c.emit r w with
      | .on r => return .on (if bitOf w 27 || bitOf w 26 || bitOf w 25 then
          { r with fencing := bitOf w 27, after := some (bitOf w 25, bitOf w 26) } else next r)
      | q => return q
    | 5 =>
      let k := r.cursor cur
      match ← c.entry r w with
      | none => return .on (next (r.setCursor cur { k with miss := true }))
      | some e => return .on (next (r.setCursor cur { k with miss := false, gofs := (e * 2 ^ bitsOf w 16 5 : Nat) }))
    | 6 =>
      match ← c.pad r w with
      | .on r => return .on (next r)
      | q => return q
    | _ =>
      if cur then c.finish r
      else
        match r.loops with
        | [] => return .on (next r)
        | (k, n, top) :: ls =>
          if k + 1 < n then return .on { r with loops := (k + 1, n, top) :: ls, pc := top }
          else return .on { r with loops := ls, pc := r.pc + 1 }

/-- The stream carried on, word by word, until it waits. -/
def pumpStream : Nat → Nat → State → State
  | 0, _, s => s
  | f + 1, id, s =>
    match s.order? id with
    | none => s
    | some o =>
      match o.body, s.task? o.task with
      | .stRun d r, some k =>
        if s.stalled o.unit ∨ r.ended then s
        else
          match ((s.streamCtx o d k).step r).go s with
          | (.ok (.on r'), s') => pumpStream f id ((s'.farDrop (.order id)).setBody id (.stRun d r'))
          | (.ok (.wait r'), s') => s'.setBody id (.stRun d r')
          | (.error e, s') => s.orderStop s' o.ten o.ctx o.task o.unit (.order id) e
      | _, _ => s

/-- Words a stream may run in one command (the model's own step, log 37). -/
def streamFuel : Nat := 4096

/-- R111: line pieces of transfers in flight requested as miss registers become free. -/
def State.streamMore (s : State) (o : Order) (d : StreamDesc) (r : StreamRun) : State :=
  let m := r.flight.foldl (fun (x : State × List Xfer) y =>
    if y.fetch.todo.isEmpty then (x.1, x.2 ++ [y])
    else
      let f := x.1.fetchMore (.xfer o.id y.n) o.ten (unitWord o.unit) y.fetch
      (f.1, x.2 ++ [{ y with fetch := f.2 }])) (s, [])
  m.1.setBody o.id (.stRun d { r with flight := m.2 })

/-- R217: what stands at the head of a mover's queue. -/
inductive MoverHead where
  | stream (o : Order) (d : StreamDesc) (r : StreamRun)
  | copy (c : Copy)

/-- R209, R217: the stream or copy that a queue of a mover runs. -/
def State.moverHead (s : State) (m q : Nat) : Option MoverHead :=
  match s.headOf (.mover m) q with
  | some o => match o.body with
    | .stRun d r => some (.stream o d r)
    | _ => none
  | none => if q = 0 then (s.copies.find? fun c => c.mover == m && s.copyFirst c).map .copy else none

/-- R220: the rank of a running stream among those of its mover, before its queue number: class and dry tick. -/
def MoverHead.rank : MoverHead → Nat
  | .stream o d r => b2n (!(d.prio || r.hot)) * 2 ^ 70 + (d.dry o.accepted r.landed).getD (2 ^ 69)
  | .copy c => b2n (!c.promoted) * 2 ^ 70 + 2 ^ 69

/-- What it issues now. -/
def State.headGo (s : State) : MoverHead → State
  | .stream o d r => pumpStream streamFuel o.id (s.streamMore o d r)
  | .copy c => s.copyGo c

/-- R217, R220: what the streams of a mover issue now, in the order of their rank. -/
def State.pumpMover (s : State) (m : Nat) : State :=
  let hs := (List.range 4).filterMap fun q => (s.moverHead m q).map fun h => (4 * h.rank + q, q)
  (sortOn (·.1) hs).foldl (fun (s : State) h => ((s.moverHead m h.2).map s.headGo).getD s) s

/-- Transfer n of the head stream lands where it can. -/
def State.landXfer (s : State) (m q n : Nat) : Option State :=
  (s.headOf (.mover m) q).bind fun o =>
    match o.body, s.task? o.task with
    | .stRun d r, some k =>
      (r.flight.find? (·.n == n)).bind fun x =>
        match ((s.streamCtx o d k).at n).land s (s.busyRead o.id n) x with
        | .no => none
        | .writing s' => some (s'.setBody o.id (.stRun d { r with
            flight := modWhere (·.n == n) (fun x => { x with writing := true }) r.flight }))
        | .done s' => some (s'.setBody o.id (.stRun d { r with
            flight := r.flight.filter (·.n != n), landed := r.landed + x.len }))
    | _, _ => none

/-- COPY_COMPLETE (R320): the copy's mover issues what it can, and the copy lands where its bytes are all there. -/
def execCopyComplete (id : Nat) (s : State) : Out :=
  match s.copies.find? (·.id == id) with
  | none => no "no such copy"
  | some c =>
    let s1 := s.pumpMover c.mover
    let s2 := match s1.copies.find? (·.id == id), s1.task? c.task with
      | some c, some k => s1.copyLand c k
      | _, _ => s1
    when (decide (s2 ≠ s)) "the copy can neither be issued nor land" s2

/-- STREAM_TRANSFER_LANDS (R216, R217, R219, R223): the mover issues what it can, and transfer n of the head stream of the queue lands. -/
def execStreamTransferLands (mover queue n : Nat) (s : State) : Out :=
  let s1 := s.pumpMover mover
  match s1.landXfer mover queue n with
  | some s2 => .next s2
  | none => when (decide (s1 ≠ s)) "no transfer of that number can land" s1

/-! ### Promotion (R221) -/

/-- R221: a tick from which a bulk request has waited 1,024 ticks. -/
def waitedAt (since t : Nat) : Bool := decide (since + promoteAfter ≤ t)

/-- R221: a transfer whose later requests are latency-critical, where it has waited. -/
def Xfer.promote (t : Nat) (x : Xfer) : Xfer :=
  if waitedAt x.ready t then { x with fetch := { x.fetch with lat := true } } else x

/-- R221: as `Xfer.promote`, of a read of a gather engine. -/
def GRead.promote (t : Nat) (r : GRead) : GRead :=
  if waitedAt r.ready t then { r with fetch := { r.fetch with lat := true } } else r

/-- R221: an order whose bulk requests that have waited are latency-critical. -/
def OrderBody.promote (t : Nat) : OrderBody → OrderBody
  | .stRun d r => .stRun d { r with hot := r.hot || r.since.any (waitedAt · t), flight := r.flight.map (Xfer.promote t) }
  | .gathQ g => .gathQ { g with hot := g.hot || g.since.any (waitedAt · t), flight := g.flight.map (GRead.promote t) }
  | b => b

/-- BULK_PROMOTION (R221): the requests of an order (2 × order) or copy (2 × copy + 1) that have waited 1,024 ticks. -/
def execBulkPromotion (id t : Nat) (s : State) : Out :=
  if !s.mayPass t then no "the tick is past, or something is due before it"
  else if id % 2 = 0 then
    match s.order? (id / 2) with
    | none => no "no such order"
    | some o =>
      when (o.body.promoteFrom.any (waitedAt · t)) "no bulk request has waited 1,024 ticks" ((s.atTick t).setBody o.id (o.body.promote t))
  else
    match s.copies.find? (·.id == id / 2) with
    | none => no "no such copy"
    | some c =>
      when (c.promoteFrom.any (waitedAt · t)) "no bulk request has waited 1,024 ticks"
        ((s.atTick t).modCopy c.id fun y => { y with promoted := true, xfer := y.xfer.map (Xfer.promote t) })

end Sys2Proof.Machine
end

