-- ==== Sys2Proof/Machine/LineOrders.lean ====
section
/-! DEFINITION. The line orders (R346–R349): `ln.put`, `ln.take`, `ln.ovf`. -/

namespace Sys2Proof.Machine

/-! ### Acceptance -/

/-- R129, R143, R346: the SEND bank of a table, SEALED. -/
def Acc.sealedSend (a : Acc) (table : Nat) : OM Table := do
  let t ← a.table table
  a.need t.desc.train 0x12
  oBankGroup a.name.unit a.k.ten t.send.addr t.desc.bankBytes .read
  if t.send.sealing.isSome then oWait
  a.bankNeed ⟨table, true, t.send.step⟩ t.send (t.send.st == .sealed)
  return t

/-- R346, R135: `ln.put`; the first line put of a SEND bank's rows since it was opened meets its SAT. -/
def acceptLnPut (a : Acc) : OM Accepted := do
  let bs ← a.descOk 64 64 false [fm 0 9 + fm 12 12 + fm 32 32, 2 ^ 64 - 1, 2 ^ 64 - 1, 0, 0, 0, 0, 0]
  let w0 := leAt bs 0 8
  let o : LnPut :=
    { hitch := bitsOf w0 0 8, send := bitOf w0 8, table := bitsOf w0 12 12, tag := BitVec.ofNat 32 (bitsOf w0 32 32),
      src := BitVec.ofNat 64 (leAt bs 8 8), len := leAt bs 16 4, count := leAt bs 20 4 }
  if !o.send then a.aw o.src.toNat 1
  let h ← a.hitch o.hitch fun h => h.cons == 4 && h.prod == 0 && h.cluster == a.h.cluster
  if o.send then
    let t ← a.sealedSend o.table
    a.need (decide (o.count * t.desc.abytes ≤ h.size ∧ o.len + o.count ≤ t.send.nslot)) 0x13
    if !t.send.put then
      modify fun s => s.modTable a.k.ten o.table fun y => { y with send := { y.send with put := true } }
      let sat := ((← get).bankRead a.k.ten t.send).sat
      oCheck (sat == 0) (shadowFault a.name.unit o.table true sat)
  else
    a.need (decide (o.len ≤ h.size)) 0x13
  return { body := .lnPut o }

/-- R348: `ln.take`. -/
def acceptLnTake (a : Acc) : OM Accepted := do
  let bs ← a.descOk 64 64 false [fm 0 8, 2 ^ 64 - 1, fm 0 32, 2 ^ 64 - 1, 0, 0, 0, 0]
  let o : LnTake :=
    { hitch := leAt bs 0 1, dst := BitVec.ofNat 64 (leAt bs 8 8), max := leAt bs 16 4, result := BitVec.ofNat 64 (leAt bs 24 8) }
  a.aw o.dst.toNat 1
  a.aw o.result.toNat 8
  let _ ← a.hitch o.hitch fun h => h.prod == 4 && h.cons == 0 && h.cluster == a.h.cluster
  return { body := .lnTake o }

/-- R349: `ln.ovf`. -/
def acceptLnOvf (a : Acc) : OM Accepted := do
  let bs ← a.descOk 64 64 false [fm 0 12, 2 ^ 64 - 1, fm 0 40, fm 0 32, 0, 0, 0, 0]
  let bk := leAt bs 8 8
  a.aw bk 64
  a.need (leAt bs 16 8 % 8 == 0 && leAt bs 24 4 % 8 == 0) 0x11
  let t ← a.sealedSend (bitsOf (leAt bs 0 8) 0 12)
  let b ← bucketOf a (← oRead a.x bk 0 64)
  return { body := .lnOvf { table := t.num, bk := b, inbox := leAt bs 16 8, istride := leAt bs 24 4 } }

/-! ### Putting and taking carts -/

/-- R346: the bytes of a put and the SEND rows among them. -/
def putBytes (o : Order) (p : LnPut) (x : Eng) : OM (List Byte × Option SentRows) := do
  if p.send then
    match ((← get).ten o.ten).table? p.table with
    | none => throw (.bad (orderFault o.name 0x12))
    | some t => do
      let bs ← oBankRead o.unit o.ten (slotVa t.desc t.send p.len 0) (p.count * t.desc.abytes)
      return (bs, some ⟨p.table, p.len, p.count, o.ctx, o.task⟩)
  else return (← oRead x p.src.toNat 0 p.len, none)

/-- `ln.put` (R346, R347): a FREE cart filled and queued. -/
def runLnPut (o : Order) (p : LnPut) : OM Unit := do
  let s ← get
  let x := s.engOfOrder o
  match (s.hitch? o.ten p.hitch).bind fun h => h.freeCart.map fun c => (h, c) with
  | none => throw .wait
  | some (h, c) => do
    let (bs, rows) ← putBytes o p x
    modify fun s => (s.spWrite h.cluster (x.base + h.cartAt c) bs).modHitch o.ten p.hitch fun h =>
      ((h.fill c (.order o.id o.task o.unit)).put c bs.length p.tag h.cluster).modCart c fun y => { y with rows := rows }

/-- `ln.take` (R348): the next QUEUED cart copied out and returned. -/
def runLnTake (o : Order) (p : LnTake) : OM Unit := do
  let x := (← get).engOfOrder o
  let (c, bs, tag) ← takeCart o x p.hitch
  giveCart o p.hitch c
  if p.max < bs.length then throw (.bad (orderFault o.name 0x13))
  oWrite x p.dst.toNat 0 bs
  oWrite x p.result.toNat 0 (toLe 4 bs.length ++ toLe 4 tag.toNat)

/-! ### Overflow contributions (R349) -/

/-- A WRITE through an owner's window: its pieces' request tags. -/
def ovfWrite (o : Order) (win off : Nat) (bs : List Byte) : OM (List W32) := do
  let s ← get
  match s.windowFault o.ten win off bs.length with
  | none => do
    let ps := msgPieces (windowPa win off) bs.length
    set (s.writeRequests o.ten (windowPa win off) bs fun _ => .lnOvf o.id)
    return (List.range ps.length).map fun i => s.xlt.nextRtag + BitVec.ofNat 32 i
  | some c => throw (.acc ⟨0, .write, c, 0, false, 0⟩)

/-- The region of an owner: its window and the region's offset in it. -/
def LnOvf.region (p : LnOvf) (d : TableDesc) (self r : Nat) : Nat × Nat := (d.wbase + r, p.inbox + self * p.istride)

/-- R349: the records of one owner sent. -/
def ovfOwner (o : Order) (p : LnOvf) (t : Table) (es : List ((Nat × Nat) × Nat)) (r : Nat) : OM (List (W32 × Nat × Option Nat)) := do
  let mine := es.filter (·.1.1 == r)
  let g := p.region t.desc o.self r
  let ts ← (mine.zipIdx).mapM fun e => do
    let slot := o.fsize * p.bk.bmax + e.1.2
    let bs ← oBankRead o.unit o.ten (slotVa t.desc t.send slot 0) t.desc.abytes
    let tags ← ovfWrite o g.1 (g.2 + 8 + e.2 * (8 + t.desc.abytes)) (toLe 8 e.1.1.2 ++ bs)
    return tags.map fun x => (x, r, some slot)
  return ts.flatten

/-- R349: the overflow entries read and every owner's records sent. -/
def startOvf (o : Order) (p : LnOvf) : OM LnOvf := do
  match ((← get).ten o.ten).table? p.table with
  | none => throw (.bad (orderFault o.name 0x12))
  | some t => do
    let es := (← readOverflow ((← get).engOfOrder o) p.bk).zipIdx
    let rs := (List.range o.fsize).filter (· != o.self)
    let fl ← rs.mapM (ovfOwner o p t es)
    return { p with
      started := true, flight := fl.flatten
      seals := rs.map fun r => (r, (es.filter (·.1.1 == r)).length) }

/-- R349: seal words written for the owners whose records are all answered. -/
def sealOvf (o : Order) (p : LnOvf) : OM LnOvf := do
  match ((← get).ten o.ten).table? p.table with
  | none => return p
  | some t => do
    let open' := fun (r : Nat) => p.flight.any (·.2.1 == r)
    let ready := p.seals.filter fun x => !open' x.1
    let ts ← ready.mapM fun x => do
      let g := p.region t.desc o.self x.1
      let tags ← ovfWrite o g.1 g.2 (toLe 8 (x.2 + 0x80000000))
      return tags.map fun y => (y, x.1, (none : Option Nat))
    return { p with flight := p.flight ++ ts.flatten, seals := p.seals.filter fun x => open' x.1 }

/-- What an overflow order does next. -/
def stepOvf (o : Order) (p : LnOvf) : OM LnOvf := do
  let p ← if p.started then pure p else startOvf o p
  sealOvf o p

/-- Every seal word's RESP has arrived. -/
def LnOvf.finished (p : LnOvf) : Bool := p.started && p.flight.isEmpty && p.seals.isEmpty

/-- R349, R145: a RESP of an overflow order: a record whose every piece is answered counts in SENTROW. -/
def State.ovfAnswered (s : State) (o : Order) (p : LnOvf) (rtag : W32) : State :=
  let slot := (p.flight.find? (·.1 == rtag)).bind (·.2.2)
  let fl := p.flight.filter (·.1 != rtag)
  let s := s.setBody o.id (.lnOvf { p with flight := fl })
  match slot with
  | some k =>
    if fl.any (·.2.2 == some k) then s
    else
      (s.modTable o.ten p.table fun t => { t with send := { t.send with sent := insertNew t.send.sent k } }).totals
        o.ten o.ctx o.task p.table [(srSentRow, 1)]
  | none => s

end Sys2Proof.Machine
end

