-- ==== Sys2Proof/Machine/Orders.lean ====
section
/-! DEFINITION. Engine, line and fold orders: issue, acceptance and completion (R326–R331, R346, R350, R224, R410, R412). -/

namespace Sys2Proof.Machine

/-! ### Issue (R326, R328) -/

/-- R326: an order word as issued: the registers of the lowest-numbered acting thread. -/
def orderWordOf (x : LaneCtx) (cls op : Nat) : OrderWord :=
  let w := x.w
  { cls := cls, op := op, a := opA64 x.k w x.low, b := x.k.reg (fUB w) (fB w) x.low, c := opC x.k w x.low
    amount := if cls = 8 ∧ op = 0x10 then 0 else opD x.k w x.low
    ac := fX w 16 4, dspace := fX w 14 2, queue := fX w 12 2, unit := fX w 8 4, sub := fSub w, acting := x.act }

/-! ### What acceptance waits for (R224, R328, R366, R412) -/

/-- R412, R415: the context may use the stateful units now; with no holder, one whose unit state lies in its area waits for
the switch that brings it back (R413). -/
def Tenancy.mayHold (t : Tenancy) (ctx : Nat) : Bool :=
  match t.holder with
  | none => !t.unitsUsed.contains ctx
  | some n => (t.slot n).ctx == ctx && (t.slot n).st != .empty && !t.holdLost

/-- R328: the queue has room. -/
def State.queueRoom (s : State) (u : UnitRef) (q : Nat) : Bool := decide ((s.queueOf u q).length < Config.queueDepth)

/-- What an order waits for at acceptance before its descriptor is read; a PARK of its context holds it (R418). -/
def Acc.ready (a : Acc) (s : State) : Bool :=
  !(s.ten a.k.ten).parking a.k.ctx && s.queueRoom a.name.unit a.w.queue && !s.stalled (s.carrier a.name.unit)
    && (!a.name.unit.stateful || (s.ten a.k.ten).mayHold a.k.ctx)

/-- R224: an OVERLAP fence holds the order; prologue streams pass. -/
def Acc.fenced (a : Acc) : OM Unit := do
  if !a.k.held.isEmpty then
    if a.w.cls = 8 ∧ a.w.op = 0x10 then
      let bs ← a.desc 192 64 true
      if !bitOf (leAt bs 0 4) 31 then oWait
    else oWait

/-! ### Checks at acceptance (R62, R330, R410) -/

/-- R330, R326: the unit exists, is enabled and granted (log 25). -/
def State.unitServes (s : State) (ten cluster unit : Nat) (u : UnitRef) : Bool :=
  s.admits ten cluster && match u with
    | .gather e => decide (unit ≤ 3) && bitOf s.enGather.toNat e && !s.quiescing 1 e
    | .mover m => decide (unit ≤ 7) && bitOf s.enMover.toNat m && !s.quiescing 2 m
    | _ => true

/-- R410: the context's slot has the unit-state area. -/
def State.hasUnits (s : State) (ten ctx : Nat) : Bool :=
  match (s.ten ten).slotOf ctx with
  | some n => ((s.ten ten).slot n).hasUnits
  | none => false

/-- R330, R410: sub-code 0x14. -/
def Acc.serves (a : Acc) : OM Unit := do
  let s ← get
  a.need (s.unitServes a.k.ten a.h.cluster a.w.unit a.name.unit) 0x14
  a.need (!a.name.unit.stateful || s.hasUnits a.k.ten a.k.ctx) 0x14

/-- R329: a counter in carts mode and a non-zero amount. -/
def Acc.counter (a : Acc) : OM Unit :=
  if a.w.amount ≠ 0 ∧ (a.k.bound a.w.ac).isNone ∧ bitOf a.h.acCarts.toNat a.w.ac then
    throw (.bad ⟨0x61, 0, a.h.num, unitWord a.name.unit + a.w.ac * 2 ^ 16⟩)
  else pure ()

/-- The order's own acceptance (R331–R350). -/
def Acc.body (a : Acc) : OM Accepted :=
  match a.w.cls, a.w.op with
  | 8, 0x00 => acceptGathQ a
  | 8, 0x01 => acceptGathBk a
  | 8, 0x02 => acceptGathOvf a
  | 8, 0x08 => acceptSaddOpen a
  | 8, 0x09 => acceptSaddX64 a
  | 8, 0x0A => acceptSaddQ64 a
  | 8, 0x0B => acceptSaddSeal a
  | 8, 0x0C => acceptSaddClose a
  | 8, 0x10 => acceptStRun a
  | 8, 0x14 => acceptPlBag a
  | 8, 0x18 => acceptScanLd a
  | 8, 0x19 => acceptScanB1 a
  | 8, 0x1C => acceptTkRd a
  | 8, 0x1D => acceptTkMerge a
  | 8, 0x1E => acceptTkClr a
  | 8, 0x20 => acceptIaMma a
  | 8, 0x21 => acceptIaSt a
  | 8, 0x22 => acceptIaLd a
  | 8, 0x23 => acceptIaZero a
  | 8, 0x24 => acceptEpCvt a
  | 9, 0x00 => acceptLnPut a
  | 9, 0x01 => acceptLnTake a
  | 9, _ => acceptLnOvf a
  | _, _ => acceptFold a

/-- R331: `scan.b1` needs room at every slice of its mask. -/
def scanRoom : OrderBody → OM Unit
  | .scanB1 b => do
    let s ← get
    if (setBits 8 b.cmask.toNat).all fun c => s.queueRoom (.scan c) 0 then pure () else oWait
  | _ => pure ()

/-- R329, R216: the counter and amount an accepted order stands for. -/
def Acc.amountOf (a : Acc) (b : OrderBody) : Nat × W32 :=
  match b with
  | .stRun d _ => (d.cnt, BitVec.ofNat 32 (d.mostAmount ((a.k.bound d.cnt).isNone && bitOf a.h.acCarts.toNat d.cnt)))
  | _ => (a.w.ac, a.w.amount)

/-- R412: the first order at a stateful unit makes its context the holder. -/
def Tenancy.takeHold (t : Tenancy) (ctx tick : Nat) : Tenancy :=
  if t.holder.isNone then
    { t with holder := t.slotOf ctx, holdSince := tick, holdLost := false, unitsUsed := insertNew t.unitsUsed ctx }
  else t

/-- The whole acceptance: its checks, its descriptor, and the order in its queue (R97, R156, R179, R328). -/
def Acc.accept (a : Acc) : OM Unit := do
  a.fenced
  a.serves
  a.counter
  let r ← a.body
  scanRoom r.body
  let s ← get
  let t := s.ten a.k.ten
  let am := a.amountOf r.body
  let o : Order :=
    { id := s.nextOrder, unit := a.name.unit, queue := a.w.queue, ten := a.k.ten, ctx := a.k.ctx, task := a.k.id,
      cohort := a.h.num, cluster := a.h.cluster, op := a.w.op, addr := a.name.pc, ac := am.1, amount := am.2,
      ticket := if r.ticket then some t.epoch else none, mode := t.mode, nan := t.nanPolicy, self := t.self,
      fsize := t.fsize, accepted := s.tick, body := r.body }
  let s := if r.ticket then s.modTen a.k.ten (·.takeTicket) else s
  let s := if a.name.unit.stateful then s.modTen a.k.ten (·.takeHold a.k.ctx s.tick) else s
  set { s with nextOrder := s.nextOrder + 1, orders := s.orders ++ [o] }

/-- An order word at acceptance. -/
def State.accOf (s : State) (k : Task) (h : Cohort) (c : CoachRef) (pc : Nat) (w : OrderWord) : Acc :=
  let u := w.unitRef h.cluster
  { k := k, h := h, coach := c.coach, x := s.engOf k h.cluster u (.coach c), name := ⟨pc, w.op, u⟩, w := w }

/-- The order accepted, or the fault it raised, or what its descriptor waits for; none: it waits for nothing new. `p` is the state with
the coach parked at it, `y` the coach past it. -/
def Acc.settle (a : Acc) (p : State) (c : CoachRef) (y : Coach) (s : State) : Option State :=
  if !a.ready s then none
  else
    match a.accept.go s with
    | (.ok _, s') => some ((s'.farDrop (.coach c)).setCoach c y)
    | (.error .wait, _) => none
    | (.error f, s') => some (p.orderStop s' a.k.ten a.k.ctx a.k.id (s.carrier a.name.unit) (.coach c) f)

/-- R328: an order issued: accepted at once, or its coach parks at it. -/
def orderBody (cls op : Nat) (s : State) (x : LaneCtx) : State :=
  let w := orderWordOf x cls op
  let p := s.setCoach x.ref { x.k with order := some w }
  ((s.accOf x.task x.cohort x.ref x.k.pc w).settle p x.ref x.k.step s).getD p

/-- R326, R330: an undefined encoding of an order word is an order fault. -/
def orderUndef (cls op : Nat) (s : State) (x : LaneCtx) : State :=
  s.failTask x.task.ten x.task.ctx x.task.id
    (match x.w.other with
      | none => orderFault ⟨x.k.pc, op, orderUnit cls op x.cohort.cluster (fX x.w 8 4)⟩ 0x10
      | some o => ⟨0x10, 0x10, x.k.pc + o.2.toNat * 2 ^ 48, (Config.noUnit o.2).toNat + x.cohort.cluster * 2 ^ 8⟩)

/-- The issue of an order by a coach. -/
def State.issueOrder (s : State) (c : CoachRef) (cls op : Nat) (w : LaneWord) : Out :=
  when (s.laneReady c && s.laneGets c (wordBits w cls op)) "the coach is not ready to issue, or its lane fetches another word"
    (s.laneRun c cls op w (orderUndef cls op) (orderBody cls op))

def execGathQ (c : CoachRef) (w : LaneWord) (s : State) : Out := s.issueOrder c 8 0x00 w
def execGathBk (c : CoachRef) (w : LaneWord) (s : State) : Out := s.issueOrder c 8 0x01 w
def execGathOvf (c : CoachRef) (w : LaneWord) (s : State) : Out := s.issueOrder c 8 0x02 w
def execSaddOpen (c : CoachRef) (w : LaneWord) (s : State) : Out := s.issueOrder c 8 0x08 w
def execSaddX64 (c : CoachRef) (w : LaneWord) (s : State) : Out := s.issueOrder c 8 0x09 w
def execSaddQ64 (c : CoachRef) (w : LaneWord) (s : State) : Out := s.issueOrder c 8 0x0A w
def execSaddSeal (c : CoachRef) (w : LaneWord) (s : State) : Out := s.issueOrder c 8 0x0B w
def execSaddClose (c : CoachRef) (w : LaneWord) (s : State) : Out := s.issueOrder c 8 0x0C w
def execStRun (c : CoachRef) (w : LaneWord) (s : State) : Out := s.issueOrder c 8 0x10 w
def execPlBag (c : CoachRef) (w : LaneWord) (s : State) : Out := s.issueOrder c 8 0x14 w
def execScanLd (c : CoachRef) (w : LaneWord) (s : State) : Out := s.issueOrder c 8 0x18 w
def execScanB1 (c : CoachRef) (w : LaneWord) (s : State) : Out := s.issueOrder c 8 0x19 w
def execTkRd (c : CoachRef) (w : LaneWord) (s : State) : Out := s.issueOrder c 8 0x1C w
def execTkMerge (c : CoachRef) (w : LaneWord) (s : State) : Out := s.issueOrder c 8 0x1D w
def execTkClr (c : CoachRef) (w : LaneWord) (s : State) : Out := s.issueOrder c 8 0x1E w
def execIaMma (c : CoachRef) (w : LaneWord) (s : State) : Out := s.issueOrder c 8 0x20 w
def execIaSt (c : CoachRef) (w : LaneWord) (s : State) : Out := s.issueOrder c 8 0x21 w
def execIaLd (c : CoachRef) (w : LaneWord) (s : State) : Out := s.issueOrder c 8 0x22 w
def execIaZero (c : CoachRef) (w : LaneWord) (s : State) : Out := s.issueOrder c 8 0x23 w
def execEpCvt (c : CoachRef) (w : LaneWord) (s : State) : Out := s.issueOrder c 8 0x24 w
def execLnPut (c : CoachRef) (w : LaneWord) (s : State) : Out := s.issueOrder c 9 0x00 w
def execLnTake (c : CoachRef) (w : LaneWord) (s : State) : Out := s.issueOrder c 9 0x01 w
def execLnOvf (c : CoachRef) (w : LaneWord) (s : State) : Out := s.issueOrder c 9 0x02 w
def execFoldSgd (c : CoachRef) (w : LaneWord) (s : State) : Out := s.issueOrder c 10 0x00 w
def execFoldAdagrad (c : CoachRef) (w : LaneWord) (s : State) : Out := s.issueOrder c 10 0x01 w
def execFoldAdam (c : CoachRef) (w : LaneWord) (s : State) : Out := s.issueOrder c 10 0x02 w
def execFoldGet (c : CoachRef) (w : LaneWord) (s : State) : Out := s.issueOrder c 10 0x03 w

/-- ORDER_ACCEPT (R328, R412): the order at which a coach is parked is accepted, or faults. -/
def execOrderAccept (c : CoachRef) (s : State) : Out :=
  match s.task? c.task, s.cohort? c.task c.cohort, s.coach? c with
  | some k, some h, some y =>
    match y.order with
    | none => no "the coach is not parked at an order"
    | some w =>
      match (s.accOf k h c y.pc w).settle s c { y.step with order := none } s with
      | some s' => .next s'
      | none => no "the unit cannot accept the order yet"
  | _, _, _ => no "no such coach"

/-! ### Completion (R329) -/

/-- R204, R194, R331: the effect of an order waits for these earlier orders: all of its queue at a gather engine, mover, pooling
unit or interaction slice; at scan slice and top-k unit those of both that share a slice; at the arena unit those whose
effect is still to come. -/
def Order.follows (o p : Order) : Bool :=
  let slices := fun (q : Order) => match q.body with
    | .scanB1 b => setBits 8 b.cmask.toNat
    | _ => match q.unit with
      | .scan c => [c]
      | .topk c => [c]
      | _ => []
  match o.unit with
  | .scan _ => (slices o).any fun c => (slices p).contains c
  | .topk _ => (slices o).any fun c => (slices p).contains c
  | .arena _ => p.unit == o.unit && match p.body with
    | .saddQ64 _ _ _ _ _ => true
    | .saddClose _ => true
    | .fold _ => true
    | _ => false
  | _ => p.unit == o.unit && p.queue == o.queue

/-- An order's turn; a copy stands in MQ0 as a stream does (R209). -/
def State.turnOf (s : State) (o : Order) : Bool :=
  !(s.orders.any fun p => decide (p.id < o.id) && o.follows p) && !s.copyBefore o.unit o.queue o.id

/-- R184, R367: the unit that carries an order's traffic. -/
def State.trafficUnit (s : State) (o : Order) : UnitRef :=
  match o.body with
  | .scanB1 b => s.scanMover b.cmask
  | _ => s.carrier o.unit

/-- R216: what a finished stream contributes. -/
def State.streamAmount (s : State) (o : Order) (d : StreamDesc) (r : StreamRun) : W32 :=
  match s.task? o.task, s.cohort? o.task o.cohort with
  | some k, some h =>
    if (k.bound d.cnt).isNone && bitOf h.acCarts.toNat d.cnt then BitVec.ofNat 32 r.carts else BitVec.ofNat 32 r.bytes
  | _, _ => 0

/-- R329, R156: the order is gone, its ticket back, its amount contributed. -/
def State.retire (s : State) (o : Order) (amount : W32) : State :=
  let s := (s.dropOrder o.id).returnTicket o.ten o.ticket
  if amount = 0 then s else s.contribute o.task o.cohort o.ac amount

/-- What running an order comes to: finished, gone on, or nothing yet. -/
inductive Turn where
  | done (amount : W32)
  | more (b : OrderBody)
  | wait

/-- A whole effect that finishes the order. -/
def whole (o : Order) (m : OM Unit) : OM Turn := do
  m
  return .done o.amount

/-- The effect of an order in its turn, or the check that what it waited for has happened. -/
def runOrder (o : Order) : OM Turn := do
  let s ← get
  match o.body with
  | .gathQ g => return if g.done = g.count then .done o.amount else .wait
  | .gathBk b => whole o (runGathBk o b)
  | .gathOvf _ _ es done fl => return match es with
      | some l => if done = l.length ∧ fl.isEmpty then .done o.amount else .wait
      | none => .wait
  | .saddOpen _ _ _ => return .done o.amount
  | .saddX64 _ left => return if left = 0 then .done o.amount else .wait
  | .saddQ64 r src map n st => whole o (runSaddQ64 o r src map n st)
  | .saddSeal r => return if ((s.bank? o.ten r).map (·.sealing.isNone)).getD true then .done o.amount else .wait
  | .saddClose r =>
    if s.addsOf o.ten r.table r.send o.id then return .wait
    else do
      set (s.closeBank o.ten r)
      return .done o.amount
  | .stRun d r => return if r.ended ∧ r.flight.isEmpty then .done (s.streamAmount o d r) else .wait
  | .plBag p => return if p.nbags ≤ p.bag then .done o.amount else .wait
  | .scanLd off mask clen => whole o (runScanLd o off mask clen)
  | .scanB1 b => do
    let b' ← scanGo o b
    return if b'.finished then .done o.amount else if b' = b then .wait else .more (.scanB1 b')
  | .tkRd off => whole o (runTkRd o off)
  | .tkMerge off slot => whole o (runTkMerge o off slot)
  | .tkClr mask => whole o (runTkClr o mask)
  | .iaMma m => whole o (runIaMma o m)
  | .iaSt off comp => whole o (runIaSt o off comp)
  | .iaLd off comp => whole o (runIaLd o off comp)
  | .iaZero => whole o (runIaZero o)
  | .epCvt p => do
    let p' ← runEpRows o (p.m - p.row) p
    return if p.m ≤ p'.row then .done o.amount else .more (.epCvt p')
  | .lnPut p => whole o (runLnPut o p)
  | .lnTake p => whole o (runLnTake o p)
  | .lnOvf p => do
    let p' ← stepOvf o p
    return if p'.finished then .done o.amount else if p' = p then .wait else .more (.lnOvf p')
  | .fold f => do
    let f' ← runFold o f
    return if f.count ≤ f'.row then .done o.amount else if f' = f then .wait else .more (.fold f')
  | .sent n => return if s.farBusy (.order o.id) then .wait else .done n

/-- R143, R132, R338: orders that finish by events of their own, whatever stands before them. -/
def OrderBody.free : OrderBody → Bool
  | .saddOpen _ _ _ => true
  | .saddX64 _ _ => true
  | .saddSeal _ => true
  | _ => false

/-- ORDER_COMPLETE (R329): an order in its turn takes its effect and completes once its writes beyond the own pool are answered (R283), or
goes on as far as it can. -/
def execOrderComplete (id : Nat) (s : State) : Out :=
  match s.order? id with
  | none => no "no such order"
  | some o =>
    if !(o.body.free || s.turnOf o) then no "an earlier order stands before it"
    else if s.stalled (s.trafficUnit o) then no "its unit is stalled"
    else
      match (runOrder o).go s with
      | (.ok (.done n), s') =>
        let s' := s'.farDrop (.order id)
        .next (if s'.farBusy (.order id) then s'.setBody id (.sent n) else s'.retire o n)
      | (.ok (.more b), s') => .next ((s'.farDrop (.order id)).setBody id b)
      | (.ok .wait, _) => no "the order is not complete"
      | (.error .wait, _) => no "what the order waits for is not there"
      | (.error f, s') => .next (s.orderStop s' o.ten o.ctx o.task (s.trafficUnit o) (.order id) f)

end Sys2Proof.Machine
end

