-- ==== Sys2Proof/Machine/Serve.lean ====
section
/-! DEFINITION. Serving window and pod requests at the receiver (R277, R278, R281–R285). -/

namespace Sys2Proof.Machine

/-- Where a request acts: reading, writing, and the physical address of an aligned element. -/
structure Target where
  read : Nat → OM (List Byte)
  write : List Byte → OM Unit
  elem : Nat → Nat → OM Nat

/-- A mover's accesses for the block itself. -/
def moverEng (who : FarWho) (u : UnitRef) (ten : Nat) : Eng := ⟨who, none, u, ten, 0, 0, 0, 0, u⟩

/-- The pieces of n bytes of the own pool; such an access does not go on to another block (log 12). -/
def ownPieces (x : Eng) (va n : Nat) (k : Access) : OM (List (Nat × Nat)) := do
  let ps ← oPieces x va n k
  let s ← get
  match ps.find? fun p => !s.ownPool p.1 with
  | some p => throw (.acc ⟨(vaAlong va ps p.1).getD va, k, 0x21, 0, false, 0⟩)
  | none => return ps

/-- R292: bytes that a peer writes in the own pool. -/
def State.peerWrite (s : State) (pa : Nat) (bs : List Byte) : State := (s.soil pa bs.length).engineWrite pa bs

/-- R281: through a tenancy's translation context, carried by one of its movers (R367). -/
def windowTarget (x : Eng) (va : Nat) : Target :=
  { read := fun n => do
      let ps ← ownPieces x va n .read
      return (← ps.mapM fun p => oPool x va p.1 p.2 false).flatten
    write := fun bs => do
      let ps ← ownPieces x va bs.length .write
      modify fun s => (ps.foldl (fun (r : State × List Byte) p => (r.1.peerWrite p.1 (r.2.take p.2), r.2.drop p.2)) (s, bs)).1
    elem := fun off n => do return ((← ownPieces x (va + off) n .atomic).headD (0, 0)).1 }

/-- A read of the pool for a request of a tenancy, none being shown as 0, whose data is lost (R397, R398). -/
def oPoison (ten pa n : Nat) : OM Unit := do
  let s ← get
  if (s.lost pa n).isSome then
    set (s.meetBad ten pa n)
    throw (.bad (s.badDataRec pa n none memWordU))

/-- R385: a pod request's bytes lie in the groups of `MEM_SVC_GRP`. -/
def oPodGroup (pa n : Nat) (k : Access) : OM Unit := do
  let svc := (← get).mem.svc.toNat
  match (leafPieces (n / 2 ^ 21 + 2) pa n).find? fun p => !bitOf svc (channelGroup p.1) with
  | some p => throw (.acc ⟨p.1, k, 0x21, 8, false, 0⟩)
  | none => pure ()

/-- R278: at a physical address of the own pool. -/
def podTarget (pa : Nat) : Target :=
  { read := fun n => do
      oPodGroup pa n .read
      oPoison 0 pa n
      return (← get).poolBytes pa n
    write := fun bs => do
      oPodGroup pa bs.length .write
      modify fun s => s.peerWrite pa bs
    elem := fun off n => do
      oPodGroup (pa + off) n .atomic
      return pa + off }

/-- R131, R282: one element of an atomic: its new value from the old one and the operand. -/
def atomicNew (op : Nat) (cmp : W64) (old new : Nat) : Nat :=
  if op = opAdd64 then (satAdd64 (BitVec.ofNat 64 old) (BitVec.ofNat 64 new)).1.toNat
  else if op = opAdd32 then (old + new) % 2 ^ 32
  else if old = cmp.toNat then new else old

/-- R282: an atomic on each consecutive element; the old value of the first. -/
def serveAtomic (ten : Nat) (g : Target) (m : Msg) : OM (List Byte) := do
  let k := if m.op = opAdd32 then 4 else 8
  let olds ← (List.range (m.data.length / k)).mapM fun i => do
    let pa ← g.elem (k * i) k
    oPoison ten pa k
    let old := (← get).poolWord pa k
    modify fun s => s.peerWrite pa (toLe k (atomicNew m.op m.cmp old (leAt m.data (k * i) k)))
    return old
  return toLe 8 (olds.headD 0)

/-- R282, R283: a request carried out: the data of its RESP. -/
def serveOp (ten : Nat) (g : Target) (m : Msg) : OM (List Byte) := do
  if m.op = opRead then g.read m.len
  else if m.op = opWrite then
    g.write m.data
    return []
  else
    let old ← serveAtomic ten g m
    return if m.op = opCas64 then old else []

/-- R281, R366: the mover that carries a window request of a tenancy: its lowest-numbered one that is not stalled (log 13). -/
def State.freeMover (s : State) (t : Nat) : Option Nat :=
  (s.chain t).findSome? fun c =>
    (leastFrom (fun m => bitOf s.enMover.toNat (8 * c + m) && !s.stalled (.mover (8 * c + m))) 8).map (8 * c + ·)

/-- R281, R366, R371, R398: what carrying out a window request by a mover comes to. -/
def State.serveWindow (s : State) (port ten va mover : Nat) (m : Msg) : State :=
  let u : UnitRef := .mover mover
  let waits := fun (s : State) => { s with xlt := { s.xlt with served := s.xlt.served ++ [⟨port, m.win, ten, va, mover, m⟩] } }
  match (serveOp ten (windowTarget (moverEng (.order 0) u ten) va) m).go s with
  | (.ok data, s') => s'.respond m rsOk data
  | (.error (.acc f), s') =>
    let r := xltRec f (unitWord u) 0 .window
    if f.code = 0x30 ∨ f.code = 0x31 then (s'.event r.code r.detail (tenCtx ten 0) 0 r.info0 r.info1).respond m rsPoison []
    else if f.replay ∧ !(s.ten ten).timetabled then waits (s.pendFault ten 0 u .window f)
    else (s'.event r.code r.detail (tenCtx ten 0) 0 r.info0 r.info1).respond m rsFault []
  | (.error (.bad f), s') => (s'.event f.code f.detail {} 0 f.info0 f.info1).respond m rsPoison []
  | (.error (.miss v k), _) => waits (s.startWalk ten v k u .window)
  | (.error _, s') => s'.respond m rsFault []

/-- R278, R385: a pod request carried out at a physical address; outside the groups of `MEM_SVC_GRP` it returns FAULT (log 173). -/
def State.servePod (s : State) (m : Msg) : State :=
  match (serveOp 0 (podTarget m.addr) m).go s with
  | (.ok data, s') => s'.respond m rsOk data
  | (.error (.bad f), s') => (s'.event f.code f.detail {} 0 f.info0 f.info1).respond m rsPoison []
  | (.error (.acc f), s') =>
    let r := xltRec f memWordU 0 .window
    (s'.event r.code r.detail {} 0 r.info0 r.info1).respond m rsFault []
  | (.error _, s') => s'.respond m rsFault []

/-- R278, R281: the operation is allowed by WR and AT. -/
def opAllowed (op : Nat) (wr at' : Bool) : Bool := if op = opRead then true else if op = opWrite then wr else at'

/-- R282: the bytes a request covers. -/
def Msg.span (m : Msg) : Nat := if m.op = opRead then m.len else m.data.length

/-- R281: a receive entry takes a request: the status it is refused with, none where it is taken. -/
def RecvEntry.refuse (e : RecvEntry) (m : Msg) : Option Nat :=
  let mask := e.smask.toNat
  if !e.en ∨ m.src &&& mask ≠ e.src.toNat &&& mask ∨ m.jobTag ≠ e.jobTag ∨ !opAllowed m.op e.wr e.at_ then
    some rsRefused
  else if e.size < m.addr + m.span then some rsRange
  else none

/-- R278: a pod-export entry that serves a request. -/
def PodEntry.serves (e : PodEntry) (m : Msg) : Bool :=
  e.en && e.jobTag == m.jobTag && opAllowed m.op e.wr e.at_ && decide (e.pbase ≤ m.addr)
    && decide (m.addr + m.span ≤ e.pbase + e.size)

/-- R278, R281, R285: a request that arrived on a port; an entry whose old requests still run takes none (log 46). -/
def State.serve (s : State) (port : Nat) (m : Msg) : State :=
  if m.kind = 1 then
    if s.xlt.podEn ∧ (s.xlt.pod.any fun e => e.2.serves m) then s.servePod m else s.respond m rsRefused []
  else
    let e := smGet {} s.xlt.recv m.win
    if s.xlt.withdrawn.contains m.win then s.respond m rsRefused []
    else
      match e.refuse m with
      | some st => s.respond m st []
      | none => s.serveWindow port e.ten ((e.lbase + m.addr) % 2 ^ 48) ((s.freeMover e.ten).getD (s.anyMover e.ten)) m

/-- R366: a request that its receive entry takes waits at the port while every mover of the tenancy is stalled. -/
def State.serveWaits (s : State) (m : Msg) : Bool :=
  let e := smGet {} s.xlt.recv m.win
  m.kind != 1 && !s.xlt.withdrawn.contains m.win && (e.refuse m).isNone && (s.freeMover e.ten).isNone
    && (s.chain e.ten).any fun c => (List.range 8).any fun k => bitOf s.enMover.toNat (8 * c + k)

/-- R366, R373: the window requests that a unit carries are carried out again. -/
def State.reserve (s : State) (ten : Nat) (u : UnitRef) : State :=
  let r := s.takeServed ten (Served.by u)
  r.1.foldl (fun (s : State) x => s.serveWindow x.port x.ten x.va x.mover x.msg) r.2

end Sys2Proof.Machine
end

