-- ==== Sys2Proof/Machine/Translate.lean ====
section
/-! DEFINITION. The translation unit's own events: walks that end, faults answered, ranges pinned and unpinned, and
invalidation broadcasts (R55–R57, R364–R382, R497). -/

namespace Sys2Proof.Machine

/-! ### Walks (R365, R366, R369) -/

/-- R365: a walk that waited starts where fewer than 16 run. -/
def State.nextWalk (s : State) : State :=
  match s.xlt.walkQ with
  | [] => s
  | w :: q =>
    if s.xlt.walks.length < 16 then
      State.count { s with xlt := { s.xlt with walks := s.xlt.walks ++ [w], walkQ := q } } cntWalk 1
    else s

/-- R369, R371, R375, R398: one of the parties a failed walk served: stalled on a replayable fault, or ended. A task already
gone is left (R399: ended twice in one tick, recorded once). -/
def State.walkFault (s : State) (ten : Nat) (u : UnitRef) (serv : Serving) (f : AccFault) : State :=
  match serv with
  | .task id =>
    match s.task? id with
    | some k => s.accFault ten k.ctx id u f
    | none => s
  | .checkpoint =>
    if f.replay ∧ !(s.ten ten).timetabled then s.pendFault ten 0 u serv f
    else
      let r := xltRec f (unitWord u) 0 serv
      (s.event r.code r.detail (tenCtx ten 0) 0 r.info0 r.info1).ckFail ten f.code
  | _ =>
    if f.replay ∧ !(s.ten ten).timetabled then s.pendFault ten 0 u serv f
    else
      let r := xltRec f (unitWord u) 0 serv
      (s.event r.code r.detail (tenCtx ten 0) 0 r.info0 r.info1).unserve ten (Served.by u)

/-- R364: a walked leaf installed in the block TLB and in the first-level TLB of a unit that waited. -/
def State.installWalk (s : State) (ten : Nat) (u : UnitRef) (l : Leaf) : State :=
  let e := leafEntry ten l
  let x := if s.xlt.btlb.any fun y => y.2.2 = e then s.xlt else s.xlt.install e
  State.l1Install { s with xlt := x } u e

/-- R362: how a walk ends for one of its parties: the leaf, or the fault of its access. -/
def State.walkEnd (s : State) (ten : Nat) (p : Party) : Except AccFault Leaf :=
  if !(s.ten ten).xltEn then .error ⟨p.va, p.kind, 0x20, 0, false, 0⟩
  else
    match walkTables s (s.ten ten) p.va p.kind.writes with
    | .leaf l => .ok l
    | .fail code level mal => .error ⟨p.va, p.kind, code, level + 4 * b2n mal, true, 0⟩
    | .lost code pa => .error ⟨p.va, p.kind, code, 0, false, pa⟩

/-- R365, R366: what the end of a walk brings one of its parties; a granule that the first finds bad, the others meet poisoned (R397,
log 45). -/
def State.partyEnd (ten : Nat) (s : State) (p : Party) : State :=
  match s.walkEnd ten p with
  | .ok l =>
    let s := s.installWalk ten p.unit l
    if p.serv = .window then s.reserve ten p.unit else s
  | .error f => (if f.code = 0x30 then s.meetBad ten f.pa 1 else s).walkFault ten p.unit p.serv f

/-- WALK_COMPLETE (R365, R366): walk n ends; its units go on, or fault. -/
def execWalkComplete (n : Nat) (s : State) : Out :=
  match s.xlt.walks[n]? with
  | none => no "no such walk runs"
  | some w =>
    let s1 : State := { s with xlt := { s.xlt with walks := s.xlt.walks.eraseIdx n } }
    .next (w.units.foldl (State.partyEnd w.ten) (s1.nextWalk.unstallWalk w.ten w.va))

/-! ### Answers to faults (R373, R374, R377) -/

def State.pendingFault (s : State) (ten : Nat) (fid : W16) : Option PendFault := (s.ten ten).faults.find? (·.fid == fid)

/-- An answered fault is no longer pending, and its units are released. -/
def State.answered (s : State) (ten : Nat) (fid : W16) : State :=
  (s.unstallFault ten fid).modTen ten fun x => { x with faults := x.faults.filter (·.fid != fid) }

/-- R373: the party of a fault answered with ABORT ends. -/
def State.abortServed (s : State) (ten : Nat) (f : PendFault) (p : Party) : State :=
  match p.serv with
  | .task id =>
    match s.task? id with
    | some k => s.abortTask k 1 f.seq f.code.toNat
    | none => s
  | .checkpoint => s.ckFail ten f.code.toNat
  | _ => s.unserve ten (Served.by p.unit)

/-- R373: ABORT: every party of the fault ends, with the fault's code. -/
def State.answerAbort (s : State) (ten : Nat) (f : PendFault) : State :=
  f.units.foldl (fun (s : State) p => s.abortServed ten f p) (s.answered ten f.fid)

/-- R373: a party's translation is no longer held by its TLBs, so that it walks again. -/
def State.forget (s : State) (ten : Nat) (p : Party) : State :=
  let keep := fun (e : TlbEntry) => e.locked || !e.covers ten p.va
  let s : State := { s with xlt := { s.xlt with btlb := s.xlt.btlb.filter fun y => keep y.2.2 } }
  match p.unit with
  | .gather g => { s with gtlb := s.gtlb.filter fun y => y.1 != g || keep y.2 }
  | .mover m => s.modCluster (m / 8) fun c => { c with tlb := c.tlb.filter keep }
  | .arena c => s.modCluster c fun x => { x with tlb := x.tlb.filter keep }
  | _ => s

/-- R373: RETRY: every unit stalled on the fault walks again, and then replays its access. -/
def State.answerRetry (s : State) (ten : Nat) (f : PendFault) : State :=
  f.units.foldl (fun (s : State) p => (s.forget ten p).startWalk ten p.va p.kind p.unit p.serv) (s.answered ten f.fid)

/-- FAULT_RETRY (R373). -/
def execFaultRetry (ten : Nat) (fid : W16) (hm : HostMem) (s : State) : Out :=
  withHost s hm fun s =>
    match s.pendingFault ten fid with
    | none => s.hostWrite (s.tenErr ten errFresp)
    | some f => s.hostWrite (s.answerRetry ten f)

/-- FAULT_ABORT (R373). -/
def execFaultAbort (ten : Nat) (fid : W16) (s : State) : Out :=
  match s.pendingFault ten fid with
  | none => s.hostWrite (s.tenErr ten errFresp)
  | some f => s.hostWrite (s.answerAbort ten f)

/-- FAULT_TIMEOUT (R374). -/
def execFaultTimeout (ten : Nat) (fid : W16) (t : Nat) (s : State) : Out :=
  match s.pendingFault ten fid with
  | none => no "no such fault is pending"
  | some f =>
    let tmo := (s.ten ten).faultTmo.toNat
    when (decide (tmo ≠ 0 ∧ f.tick + tmo ≤ t) && s.mayPass t) "the fault's time is not up" ((s.atTick t).answerAbort ten f)

/-! ### Pinned ranges (R55–R57, R497) -/

def Tenancy.pin (t : Tenancy) (k : Nat) : Pin := t.pins.getD k {}
def State.modPin (s : State) (t k : Nat) (f : Pin → Pin) : State := s.modTen t fun x => { x with pins := modAt x.pins k f }

/-- R57, R497: the locked entries of a range are freed. -/
def State.freePin (s : State) (t k : Nat) : State :=
  { s with xlt := { s.xlt with btlb := s.xlt.btlb.filter fun y => !(y.2.2.locked && y.2.2.ten == t && y.2.2.pin == k) } }

/-- R497: a write to `TEN_PINk_BASE`. -/
def State.pinWriteReg (s : State) (t k : Nat) (en : Bool) (base : BitVec 27) (size : W16) : State :=
  let p := (s.ten t).pin k
  if p.st = 1 ∨ (s.ten t).st = .free ∨ size = 0 ∨ 32768 < size.toNat
      ∨ (en ∧ p.en ∧ (base ≠ p.base ∨ size ≠ p.size)) then s.tenErr t errState
  else if en ∧ p.en then s
  else if en then s.modPin t k fun _ => { en := true, base := base, size := size, st := 1 }
  else (s.freePin t k).modPin t k fun _ => { base := base, size := size }

/-- PIN (R497): EN = 1 written with a base and a size. -/
def execPin (ten k : Nat) (base : BitVec 27) (size : W16) (hm : HostMem) (s : State) : Out :=
  withHost s hm fun s => s.hostWrite (s.pinWriteReg ten k true base size)

/-- UNPIN (R57, R497): EN = 0 written over the range's own base and size. -/
def execUnpin (ten k : Nat) (s : State) : Out :=
  let p := (s.ten ten).pin k
  s.hostWrite (s.pinWriteReg ten k false p.base p.size)

/-- How the walk of a range ends: its leaves, a fault at a device address, lost data, or no room for a locked entry. -/
inductive PinRes where
  | ok (l : List Leaf)
  | fail (code va : Nat)
  | lost (code pa va : Nat)

/-- R55: leaf by leaf from va to the end of a range. -/
def pinLeaves (s : State) (t : Tenancy) (stop : Nat) : Nat → Nat → List Leaf → PinRes
  | 0, _, acc => .ok acc
  | f + 1, va, acc =>
    if stop ≤ va then .ok acc
    else
      match walkTables s t va false with
      | .fail code _ _ => .fail code va
      | .lost code pa => .lost code pa va
      | .leaf l => pinLeaves s t stop f (l.va + (if l.big then 2 ^ 30 else 2 ^ 21)) (acc ++ [l])

/-- R55: the leaves of the addresses from va up to `stop`, past 2^48 too (log 174); with translation disabled the first is not present
(R382). -/
def State.pinWalk (s : State) (t : Tenancy) (va stop : Nat) : PinRes :=
  if !t.xltEn then .fail 0x20 va else pinLeaves s t stop ((stop - va) / 2 ^ 21 + 1) va []

/-- R55: leaves locked in the block TLB for a range, while fewer than 1,024 are locked and their set has an unlocked way;
the first leaf that finds no room. -/
def lockLeaves (t k : Nat) : List Leaf → Xlt → Except Nat Xlt
  | [], x => .ok x
  | l :: ls, x =>
    let e := { leafEntry t l with locked := true, pin := k }
    if Config.lockedMax ≤ x.locked ∨ (btlbWay x (btlbSet e)).isNone then .error l.va else lockLeaves t k ls (x.install e)

/-- R55, R497: the range fails: no locked entry is kept. -/
def State.pinFails (s : State) (t k code va : Nat) (limit : Bool) : State :=
  (s.freePin t k).modPin t k fun p =>
    { p with st := 3, w := false, limit := limit, fault := BitVec.ofNat 8 code, faddr := BitVec.ofNat 27 (va / 2 ^ 21) }

/-- R55, R397: a pin walk met an entry whose data is lost: its record. -/
def State.pinLost (s : State) (t code pa va : Nat) : State :=
  (s.meetBad t pa 1).event code 0 (tenCtx t 0) 0 (memInfo0 pa) (memInfo1 xltWord (some va))

/-- R55, R380: the addresses from va to `stop` of range k walked and locked: the state where they are, and whether
every leaf allows writes; or the range has failed. -/
def State.pinLock (s : State) (t k va stop : Nat) : State × Option Bool :=
  match s.pinWalk (s.ten t) va stop with
  | .fail code va => (s.pinFails t k code va false, none)
  | .lost code pa va => ((s.pinLost t code pa va).pinFails t k code va false, none)
  | .ok ls =>
    match lockLeaves t k ls s.xlt with
    | .error va => (s.pinFails t k 0 va true, none)
    | .ok x => ({ s with xlt := x }, some (ls.all (·.w)))

/-- PIN_WALK_DONE (R55, R497). -/
def execPinWalkDone (ten k : Nat) (s : State) : Out :=
  let p := (s.ten ten).pin k
  if p.st ≠ 1 then no "the range is not being walked"
  else
    match s.pinLock ten k (p.base.toNat * 2 ^ 21) ((p.base.toNat + p.size.toNat) * 2 ^ 21) with
    | (s', some w) => .next (s'.modPin ten k fun p => { p with st := 2, w := w })
    | (s', none) => .next s'

/-! ### Invalidation broadcasts (R41, R378–R381, R476) -/

/-- R378: which tenancies and host addresses a broadcast names; no range: every address. -/
structure Bcast where
  asid : Option W16
  range : Option (Nat × Nat)

/-- R378: the broadcast matches a tenancy. -/
def Bcast.names (b : Bcast) (t : Tenancy) : Bool :=
  match b.asid with
  | some a => t.asid == a
  | none => true

/-- R378: the broadcast matches n bytes at a device address of tenancy t. -/
def Bcast.hits (b : Bcast) (s : State) (t va n : Nat) : Bool :=
  b.names (s.ten t) && match b.range with
    | none => true
    | some (lo, hi) =>
      let hva := (s.ten t).apbase.toNat * 2 ^ 30 + va
      decide (hva < hi) && decide (lo < hva + n)

def Bcast.leaf (b : Bcast) (s : State) (e : TlbEntry) : Bool := b.hits s e.ten e.va e.size

/-- Whether the memory bytes of a fetch or of a place lie in what the broadcast names. -/
def Bcast.fetch (b : Bcast) (s : State) (t : Nat) (f : Fetch) : Bool :=
  match f.va with
  | some va => b.hits s t va ((f.pieces.map (·.2)).sum)
  | none => false
def Bcast.place (b : Bcast) (s : State) (t : Nat) (p : Place) (n : Nat) : Bool := p.space == .memory && b.hits s t p.addr n
def Bcast.xfer (b : Bcast) (s : State) (t : Nat) (x : Xfer) : Bool :=
  b.fetch s t x.fetch || b.place s t x.dst x.len

/-- The device address of an element of an arena. -/
def State.addVa (s : State) (a : ArenaAdd) : Option Nat :=
  ((s.ten a.ten).table? a.bank.table).map fun t => slotVa t.desc (t.bank a.bank.send) a.slot a.elem

/-- Whether the address lies in what the broadcast names. -/
def Bcast.opt (b : Bcast) (s : State) (t : Nat) (va : Option Nat) (n : Nat) : Bool := va.any fun v => b.hits s t v n

/-- R379: the accesses in flight under translations that the broadcast removes. -/
def State.inFlightUnder (s : State) (b : Bcast) : List MemClient :=
  (s.orders.flatMap fun o =>
    match o.body with
    | .gathQ g => (g.flight.filter fun r => b.fetch s o.ten r.fetch).map fun r => MemClient.gather o.id r.pos
    | .gathOvf _ _ _ _ fl => (fl.filter fun r => b.fetch s o.ten r.fetch).map fun r => MemClient.gather o.id r.pos
    | .stRun _ r => (r.flight.filter (b.xfer s o.ten)).map fun x => MemClient.xfer o.id x.n
    | .scanB1 c => (c.read.toList.filter fun r => b.fetch s o.ten r.fetch).map fun r => MemClient.xfer o.id r.num
    | _ => [])
  ++ (s.copies.filter fun c => match c.xfer with
      | some x => b.xfer s c.ten x
      | none => false).map (fun c => MemClient.copy c.id)
  ++ (s.mem.reqs.filter fun r => r.who != .margin && b.opt s r.ten r.va r.len).map (·.who)
  ++ (s.adds.filter fun a => b.opt s a.ten (s.addVa a) 8).map (fun a => MemClient.add a.order a.slot a.elem)
  ++ (s.xlt.wreqs.filter fun w => b.opt s w.ten w.va (max w.msg.len w.msg.data.length)).map fun w => MemClient.request w.rtag

/-- R378–R381: a broadcast taken: entries removed, locked ones kept for the lanes until walked again (R380), and what
its acknowledgement waits for. -/
def State.broadcast (s : State) (b : Bcast) : Out :=
  if 64 ≤ s.xlt.invals.length then no "64 broadcasts are held"
  else
    let gone := fun (e : TlbEntry) => b.leaf s e
    let old := s.xlt.btlb.filter fun y => y.2.2.locked && !y.2.2.stale && gone y.2.2
    .next { s with
      gtlb := s.gtlb.filter fun y => !gone y.2
      clusters := s.clusters.map fun c => { c with tlb := c.tlb.filter fun e => !gone e }
      xlt := { s.xlt with
        btlb := (s.xlt.btlb.filter fun y => y.2.2.locked || !gone y.2.2).map fun y =>
          if gone y.2.2 then (y.1, y.2.1, { y.2.2 with stale := true }) else y
        invNum := s.xlt.invNum + 1
        invals := s.xlt.invals ++
          [{ num := s.xlt.invNum, taken := s.tick, waits := s.inFlightUnder b
             repin := (old.map fun y => (y.2.2.ten, y.2.2.va)).eraseDups }] } }

/-- INVALIDATION_RANGE (R378, R476): PAGES 0 stands for 2^32. -/
def execInvalidationRange (asid : W16) (va : BitVec 44) (pages : W32) (s : State) : Out :=
  let n := if pages = 0 then 2 ^ 32 else pages.toNat
  s.broadcast ⟨some asid, some (va.toNat * 4096, (va.toNat + n) * 4096)⟩

/-- INVALIDATION_SPACE (R378). -/
def execInvalidationSpace (asid : W16) (s : State) : Out := s.broadcast ⟨some asid, none⟩

/-- INVALIDATION_ALL (R378). -/
def execInvalidationAll (s : State) : Out := s.broadcast ⟨none, none⟩

/-- R380: one removed locked leaf walked again: its range keeps its other leaves, or fails whole. -/
def State.rewalk (s : State) (y : Nat × Nat × TlbEntry) : State :=
  let e := y.2.2
  let p := (s.ten e.ten).pin e.pin
  let lo := p.base.toNat * 2 ^ 21
  let s : State := { s with xlt := { s.xlt with btlb := s.xlt.btlb.filter (· != y) } }
  match s.pinLock e.ten e.pin (max e.va lo) (min (e.va + e.size) (lo + p.size.toNat * 2 ^ 21)) with
  | (s', some _) => s'.modPin e.ten e.pin fun q =>
      { q with w := (s'.xlt.btlb.filter fun z => z.2.2.locked && z.2.2.ten == e.ten && z.2.2.pin == e.pin).all (·.2.2.w) }
  | (s', none) => s'

/-- R380: the removed locked leaves of a broadcast that are still held. -/
def State.rewalkAll (s : State) (i : Inval) : State :=
  (s.xlt.btlb.filter fun y => y.2.2.locked && y.2.2.stale && i.repin.contains (y.2.2.ten, y.2.2.va)).foldl
    (fun (s : State) y => if s.xlt.btlb.contains y then s.rewalk y else s) s

/-- INVALIDATION_ACK (R41, R379–R381): the oldest broadcast is acknowledged, no earlier than the tick after it was taken and
the tick after the last of its accesses ended. -/
def execInvalidationAck (t : Nat) (s0 : State) : Out :=
  let s := s0.atTick t
  match s.xlt.invals with
  | [] => no "no broadcast is held"
  | i :: q =>
    if t < i.taken + 1 ∨ !s0.mayPass t ∨ !i.clear then no "the broadcast cannot be acknowledged yet"
    else
      let s := s.rewalkAll i
      let s : State := { s with xlt := { s.xlt with invals := q, invd := !s.xlt.invd } }
      .next (if s.ev.invrec then s.event 0xAC 0 {} 0 i.num xltWord else s)

end Sys2Proof.Machine
end

