-- ==== Sys2Proof/Machine/Port.lean ====
section
/-! DEFINITION. The memory port's events: responses, row-cache fills and clears, and the traffic generator (R111–R116,
R396–R404, R473, R474, R501). -/

namespace Sys2Proof.Machine

/-! ### Whom a read serves -/

/-- R98, R219: the token of an aborted read or transfer comes back with the last thing that held it. -/
def State.tokenHome (s : State) (who : MemClient) : State :=
  let busy := match who with
    | .gather o p => s.busyRead o p
    | .xfer o n => s.busyRead o n
    | .copy id => s.copyBusy id
    | _ => true
  match s.orphans.find? (·.who == who) with
  | none => s
  | some x =>
    if busy then s
    else
      State.modTen { s with orphans := s.orphans.filter (·.who != who) } x.ten fun t => match x.unit with
        | .gather _ => { t with gtokRet := t.gtokRet + 1 }
        | _ => { t with mtokRet := t.mtokRet + 1 }

/-- The task a client's read serves. -/
def State.clientTask (s : State) : MemClient → Option Task
  | .pinned c _ => s.task? c.task
  | .gather o _ => (s.order? o).bind fun x => s.task? x.task
  | .xfer o _ => (s.order? o).bind fun x => s.task? x.task
  | .copy id => (s.copies.find? (·.id == id)).bind fun c => s.task? c.task
  | _ => none

/-- The registers' waiting clients where the client is a miss register, else the client itself. -/
def State.consumers (s : State) : MemClient → List MemClient
  | .miss slice n => (s.rc.miss.filter fun m => m.slice == slice && m.n == n).flatMap (·.waits)
  | c => [c]

/-- The tasks that a response serves, without repeats. -/
def State.servedTasks (s : State) (c : MemClient) : List Nat :=
  ((s.consumers c).filterMap fun x => (s.clientTask x).map (·.id)).eraseDups

/-- The fetch of a client changed. -/
def State.mapFetch (s : State) (c : MemClient) (f : Fetch → Fetch) : State :=
  match c with
  | .gather o p =>
    s.modOrder o fun x =>
      let go := modWhere (fun (r : GRead) => r.pos == p) fun r => { r with fetch := f r.fetch }
      match x.body with
      | .gathQ g => { x with body := .gathQ { g with flight := go g.flight } }
      | .gathOvf b ret es d fl => { x with body := .gathOvf b ret es d (go fl) }
      | _ => x
  | .xfer o n =>
    s.modOrder o fun x => match x.body with
      | .stRun d r =>
        { x with body := .stRun d { r with flight := modWhere (·.n == n) (fun y => { y with fetch := f y.fetch }) r.flight } }
      | .scanB1 b => { x with body := .scanB1 { b with read := b.read.map fun r => if r.num = n then { r with fetch := f r.fetch } else r } }
      | _ => x
  | .copy id => s.modCopy id fun y => { y with xfer := y.xfer.map fun x => { x with fetch := f x.fetch } }
  | _ => s

/-! ### The traffic generator (R403, R404, R501) -/

/-- `MEM_MARGIN_BASE`: the first frame and their number. -/
def MemPort.marginFrame (m : MemPort) : Nat := bitsOf m.marginBase.toNat 21 31 * 2 ^ 21
def MemPort.marginFrames (m : MemPort) : Nat := bitsOf m.marginBase.toNat 52 11

/-- R501: the address of 512 B region n of the generator's frames. -/
def MemPort.marginAt (m : MemPort) (n : Nat) : Nat :=
  let k := n / 4096 % (max 1 m.marginFrames)
  m.marginFrame + k / 32 * 2 ^ 31 + k % 32 * 2 ^ 25 + n % 4096 * 512

/-- R403: the 512 B a pattern writes: alternating 0x55 and 0xAA; those of the other patterns the spec does not give (log 44). -/
def State.marginBytes (s : State) (pat : Nat) : List Byte × State :=
  if pat = 1 then ((List.range 512).map fun i => if i % 2 = 0 then 0x55 else 0xAA, s)
  else
    ((List.range 128).flatMap fun i => toLe 4 (Config.freeWord (s.free + i)).toNat, { s with free := s.free + 128 })

/-- R403: the generator writes a region and asks for it back. -/
def State.marginIssue (s : State) : State :=
  let pa := s.mem.marginAt s.mem.marginNext
  let (bs, s) := s.marginBytes (marginPat s.mem.margin)
  let s := s.engineWrite pa bs
  State.memRequest { s with mem := { s.mem with marginNext := s.mem.marginNext + 1 } } .read pa 512 (marginTen s.mem.margin) none
    memWordU false .margin

/-- R403: whether the host may write the generator's registers for a tenancy and a group. -/
def State.marginAllowed (s : State) (ten grp : Nat) : Bool :=
  s.testMode || ((s.ten ten).testPriv && bitOf (s.ten ten).chgrp.toNat grp)

/-- R501: what EN set with this register and base starts. -/
def MemPort.marginStarts (m : MemPort) (v : W64) : Bool :=
  decide (channelGroup m.marginFrame = marginGrp v ∧ m.marginFrames ≠ 0 ∧ bitsOf m.marginBase.toNat 25 5 = 0)

/-- MEM_MARGIN (R403, R501): a write of the register. -/
def State.writeMargin (s : State) (v : W64) : State :=
  let v := v &&& 0x7FFFF
  if !s.marginAllowed (marginTen v) (marginGrp v) then s.setLockvio
  else if marginEn v ∧ !s.mem.marginStarts v then { s with mem := { s.mem with margin := v &&& 0x7FFFE } }
  else
    let s : State := { s with mem := { s.mem with margin := v } }
    if marginEn v ∧ !s.memBusy .margin then State.marginIssue { s with mem := { s.mem with marginNext := 0 } } else s

def execMemMargin (v : W64) (s : State) : Out := s.hostWrite (s.writeMargin v)

/-- R404: a response to the generator: its errors are counted, and it goes on while EN is set. -/
def State.marginBack (s : State) (errors : Nat) : State :=
  let s := s.count cntMargin errors
  if marginEn s.mem.margin then s.marginIssue else s

/-! ### Responses (R397–R399, R473, R474) -/

/-- R441, R115: a register whose fill is not to be installed. -/
def State.markMiss (s : State) (c : MemClient) : State :=
  match c with
  | .miss slice n =>
    { s with rc := { s.rc with
        miss := modWhere (fun m => m.slice == slice && m.n == n) (fun m => { m with marked := true }) s.rc.miss } }
  | _ => s

/-- R397, R398: a response whose granules include bad ones. MEM_UNCORRECTABLE is written once for it, and the tasks it
serves abort under that record; granules that were poisoned already raise MEM_POISON for each task (log 43). -/
def State.badResponse (s : State) (r : MemReq) (new : Bool) (pa : Nat) : State :=
  let ts := s.servedTasks r.who
  let s := s.markMiss r.who
  if new then
    let cause := s.ev.seq
    let f := memFaultRec 0x30 pa r.va r.unit
    let who : EvWho := match ts.head?.bind s.task? with
      | some k => tenCtx k.ten k.ctx
      | none => tenCtx r.ten 0
    let s := s.event f.code f.detail who (b2n (!ts.isEmpty)) f.info0 f.info1
    ts.foldl (fun (s : State) id => match s.task? id with
      | some k => s.abortTask k 1 cause 0x30
      | none => s) s
  else
    ts.foldl (fun (s : State) id => match s.task? id with
      | some k => s.failTask k.ten k.ctx id (memFaultRec 0x31 pa r.va r.unit)
      | none => s) s

/-- R391: the requests sent before r to its 8 B words have been served. -/
def State.serveEarlier (s : State) (r : MemReq) : State :=
  ((s.mem.reqs.takeWhile fun y => !(y.link == r.link && y.tag == r.tag)).filter fun y =>
    y.data.isNone && sameWord r.pa r.len y.pa y.len).foldl State.settleReq s

/-- R318: a good response of a pinned access. -/
def State.goodResponse (s : State) (r : MemReq) : State :=
  match r.who with
  | .pinned c j => s.pinnedAnswer c j (((s.cohort? c.task c.cohort).map (·.cluster)).getD 0) r.data
  | _ => s

/-- R474: the outstanding request with a tag of a link. -/
def MemPort.req? (m : MemPort) (link tag : Nat) : Option MemReq := m.reqs.find? fun r => r.link == link && r.tag == tag
def State.dropReq (s : State) (link tag : Nat) : State :=
  { s with mem := { s.mem with reqs := s.mem.reqs.filter fun r => !(r.link == link && r.tag == tag) } }

/-- The poisoned granules of a request's bytes, ascending. -/
def State.badGranules (s : State) (r : MemReq) : List Nat :=
  sortDistinct (s.mem.poison.filter (meets r.pa r.len))

/-- R397: the granules a response reports uncorrectable, ascending: those it marks, and those known to be bad. -/
def State.newBad (s : State) (r : MemReq) (umask : BitVec 8) : List Nat :=
  sortDistinct (maskGranules r.pa umask ++ s.mem.bad.filter (meets r.pa r.len))

/-- R397: a response's marks: its granules are poisoned from then on, a newly found one is logged, and the generator
of the group stops. -/
def State.takeMarks (s : State) (r : MemReq) (umask pmask : BitVec 8) : State :=
  let s := s.addPoison (maskGranules r.pa pmask)
  if r.who = .margin then s.poisonBad (s.newBad r umask) else s.foundBad r.ten (s.newBad r umask)

/-- MEMORY_RESPONSE (R397, R398, R404, R473, R474): the response to a tag of a link; saturation is counted where the
operation is applied (R318), so `_sat` only repeats it; a request of this tick has been sent by then (R220). `ce` errors were corrected (R396), and `mis` words of a generator's data miscompare. -/
def execMemoryResponse (link tag : Nat) (umask pmask : BitVec 8) (_sat : Bool) (ce mis : Nat) (s : State) : Out :=
  let s := (if (s.mem.req? link tag).any (!·.sent) then s.sendAll else s).count cntMemCe ce
  match s.mem.req? link tag with
  | none => .next (s.count cntStray 1)
  | some r =>
    let new := s.newBad r umask
    let s := ((s.serveEarlier r).dropReq link tag).takeMarks r umask pmask
    match r.who with
    | .margin => .next (s.marginBack ((s.badGranules r).length + mis))
    | who =>
      let s := match new, s.badGranules r with
        | g :: _, _ => s.badResponse r true (64 * g)
        | [], g :: _ => s.badResponse r false (64 * g)
        | [], [] => s.goodResponse r
      .next (s.tokenHome who)

/-! ### The row cache (R111–R116) -/

/-- The sectors a register fetched, as memory holds them. -/
def State.missSectors (s : State) (m : MissReg) : SMap (List Byte) :=
  (sortDistinct m.sectors).map fun k => (k, s.poolBytes (m.line * 512 + k * 128) 128)

/-- ROW_CACHE_FILL (R111, R112, R115): the register's reads are all back: its waiting reads get their bytes, the line is
installed unless the register is marked, and the register is free. -/
def execRowCacheFill (slice n : Nat) (s : State) : Out :=
  match s.rc.miss.find? fun m => m.slice == slice && m.n == n with
  | none => no "no such miss register is busy"
  | some m =>
    if s.memBusy (.miss slice n) then no "the register's reads are not all back"
    else
      let rc := { s.rc with
        miss := s.rc.miss.filter fun x => !(x.slice == slice && x.n == n)
        freed := smSet 0 s.rc.freed slice (smGet 0 s.rc.freed slice + 1) }
      let rc := if m.marked then rc else rc.install (s.ten m.ten).rcway m.line (s.missSectors m)
      let s : State := { s with rc := rc }
      let s := m.waits.foldl (fun (s : State) c => s.mapFetch c fun f => f.fill s slice n) s
      .next (m.waits.eraseDups.foldl (fun (s : State) c => s.tokenHome c) s)

/-- R113, R116: the lines in some ways of every slice are cleared, and the tenancy's registers in flight are marked. -/
def State.clearWays (s : State) (ten : Nat) (ways : W16) : State :=
  { s with rc := { s.rc with
      lines := s.rc.lines.filter fun l => !bitOf ways.toNat l.way
      miss := modWhere (fun m => m.ten == ten) (fun m => { m with marked := true }) s.rc.miss } }

/-- RCWAY_CLEAR_DONE (R113): the ways a write added or removed are clear, and the new mask takes effect. -/
def execRcwayClearDone (ten : Nat) (s : State) : Out :=
  match (s.ten ten).rcwayNew with
  | none => no "no change of the mask is in progress"
  | some w =>
    .next ((s.clearWays ten ((s.ten ten).rcway ^^^ w)).modTen ten fun x => { x with rcway := w, rcwayNew := none })

end Sys2Proof.Machine
end

