-- ==== Sys2Proof/Machine/Windows.lean ====
section
/-! DEFINITION. Windows and pod requests as the block's boundary sees them (R278–R285, R500), and the tensor cores' accesses
to exchange windows (R67, R68). -/

namespace Sys2Proof.Machine

/-! ### The tables' copies (R278, R279, R285, R500) -/

/-- A little-endian entry of a table; one whose data is lost is not taken (log 47). -/
def State.tableEntry (s : State) (pa n : Nat) : Except State (List Byte) :=
  if (s.lost pa n).isSome then
    let f := s.badDataRec pa n none xltWord
    .error ((s.meetBad 0 pa n).event f.code f.detail {} 0 f.info0 f.info1)
  else .ok (s.poolBytes pa n)

/-- R279: the fields of a send entry. -/
def sendEntry (bs : List Byte) : SendEntry :=
  let w := leAt bs 0 4
  { en := bitOf w 0, ten := bitsOf w 2 3, haddr := bitsOf w 8 14, rwin := bitsOf w 22 8
    jobTag := BitVec.ofNat 32 (leAt bs 4 4), size := bitsOf (leAt bs 8 8) 0 41 }

/-- R279: the fields of a receive entry. -/
def recvEntry (bs : List Byte) : RecvEntry :=
  let w := leAt bs 0 8
  { en := bitOf w 0, wr := bitOf w 1, at_ := bitOf w 2, ten := bitsOf w 3 3, src := BitVec.ofNat 14 (bitsOf w 8 14)
    smask := BitVec.ofNat 14 (bitsOf w 22 14), jobTag := BitVec.ofNat 32 (leAt bs 8 4)
    lbase := bitsOf (leAt bs 16 8) 0 48, size := bitsOf (leAt bs 24 8) 0 41 }

/-- R278: the fields of a pod-export entry. -/
def podEntry (bs : List Byte) : PodEntry :=
  let w := leAt bs 0 4
  { en := bitOf w 0, wr := bitOf w 1, at_ := bitOf w 2, jobTag := BitVec.ofNat 32 (leAt bs 4 4)
    pbase := bitsOf (leAt bs 8 8) 0 46, size := bitsOf (leAt bs 16 8) 0 47 }

/-- R279: a send entry reloaded. -/
def State.commitSend (s : State) (n : Nat) : State :=
  match s.tableEntry (s.xlt.sendBase.toNat * 2 ^ 12 + 16 * n) 16 with
  | .error s => s
  | .ok bs => { s with xlt := { s.xlt with send := smSet {} s.xlt.send n (sendEntry bs) } }

/-- R279, R285: a receive entry reloaded; an entry in force that changes is withdrawn. -/
def State.commitRecv (s : State) (n : Nat) : State :=
  match s.tableEntry (s.xlt.recvBase.toNat * 2 ^ 13 + 32 * n) 32 with
  | .error s => s
  | .ok bs =>
    let old := smGet {} s.xlt.recv n
    let new := recvEntry bs
    { s with xlt := { s.xlt with
        recv := smSet {} s.xlt.recv n new
        withdrawn := if old.en ∧ old ≠ new then insertNew s.xlt.withdrawn n else s.xlt.withdrawn } }

/-- R278, R500: a pod-export entry reloaded; there are 64. -/
def State.commitPod (s : State) (n : Nat) : State :=
  if 64 ≤ n then s
  else
    match s.tableEntry (s.xlt.podBase.toNat * 2 ^ 11 + 32 * n) 32 with
    | .error s => s
    | .ok bs => { s with xlt := { s.xlt with pod := smSet {} s.xlt.pod n (podEntry bs) } }

/-- WIN_COMMIT_SEND (R279). -/
def execWinCommitSend (entry : BitVec 8) (hm : HostMem) (s : State) : Out :=
  withHost s hm fun s => s.hostWrite (s.commitSend entry.toNat)
/-- WIN_COMMIT_RECV (R279, R285). -/
def execWinCommitRecv (entry : BitVec 8) (hm : HostMem) (s : State) : Out :=
  withHost s hm fun s => s.hostWrite (s.commitRecv entry.toNat)
/-- PODEXP_COMMIT (R278, R500). -/
def execPodexpCommit (entry : BitVec 8) (hm : HostMem) (s : State) : Out :=
  withHost s hm fun s => s.hostWrite (s.commitPod entry.toNat)

/-- WINDOW_RELEASED (R285): the last request taken under a withdrawn entry has completed. -/
def execWindowReleased (entry : Nat) (s : State) : Out :=
  if !s.xlt.withdrawn.contains entry then no "the entry is not withdrawn"
  else if s.xlt.served.any (·.win == entry) then no "a request under the old entry still runs"
  else
    .next (State.event { s with xlt := { s.xlt with withdrawn := s.xlt.withdrawn.filter (· != entry) } } 0xA5 0 {} 0 entry xltWord)

/-! ### Messages that arrive (R265, R266, R281–R284) -/

/-- The first message of a list of buffers, and the buffers without it; a buffer that empties is free again. -/
def takeMsg : List (List Msg) → Option (Msg × List (List Msg) × Nat)
  | [] => none
  | [] :: bs => takeMsg bs
  | (m :: ms) :: bs => some (m, if ms.isEmpty then (bs, 1) else (ms :: bs, 0))

/-- The oldest request of a port, where it has the operation `op`; a freed buffer gives its credit back (R266). -/
def State.takeRequest (s : State) (p op : Nat) : Option (Msg × State) :=
  match takeMsg (s.port p).vc0 with
  | some (m, bs, k) => if m.op = op then some (m, s.modPort p fun x => { x with vc0 := bs, give0 := x.give0 + k }) else none
  | none => none

/-- The oldest response of a port. -/
def State.takeResp (s : State) (p : Nat) : Option (Msg × State) :=
  match takeMsg (s.port p).vc1 with
  | some (m, bs, k) => some (m, s.modPort p fun x => { x with vc1 := bs, give1 := x.give1 + k })
  | none => none

/-- R281: a request of one operation served. -/
def State.serveNext (s : State) (p op : Nat) : Out :=
  match s.takeRequest p op with
  | some (m, s') => if s.serveWaits m then no "the movers that could carry the request are stalled" else .next (s'.serve p m)
  | none => no "no such request is at the port"

def execRead (port : Nat) (s : State) : Out := s.serveNext port opRead
def execWrite (port : Nat) (s : State) : Out := s.serveNext port opWrite
def execAdd64 (port : Nat) (s : State) : Out := s.serveNext port opAdd64
def execAdd32 (port : Nat) (s : State) : Out := s.serveNext port opAdd32
def execCas64 (port : Nat) (s : State) : Out := s.serveNext port opCas64

/-- The block's own name for the client of a window request. -/
def WClient.mem : WClient → Option MemClient
  | .gather o p _ => some (.gather o p)
  | .xfer o n _ => some (.xfer o n)
  | .copy id _ => some (.copy id)
  | _ => none

/-- The physical address a request named, where its client knows it. -/
def WClient.pa : WClient → Nat
  | .gather _ _ pa => pa
  | .xfer _ _ pa => pa
  | .copy _ pa => pa
  | .checkpoint _ pa => pa
  | .far _ _ pa => pa
  | .lnOvf _ => 0

/-- The unit that carries the traffic of an order. -/
def State.orderUnitOf (s : State) (id : Nat) : UnitRef := ((s.order? id).map s.trafficUnit).getD (.mover 0)

/-- The unit that made a request. -/
def State.reqUnit (s : State) : WClient → UnitRef
  | .gather o _ _ | .xfer o _ _ | .lnOvf o | .far (.order o) _ _ => s.orderUnitOf o
  | .copy id _ => .mover (((s.copies.find? (·.id == id)).map (·.mover)).getD 0)
  | .checkpoint t _ | .far (.ckpt t) _ _ => .mover (s.anyMover t)
  | .far (.coach c) _ _ =>
    match (s.coach? c).bind (·.order), s.cohort? c.task c.cohort with
    | some w, some h => s.carrier (w.unitRef h.cluster)
    | _, _ => .mover 0

/-- The task of a request's client. -/
def State.reqTask (s : State) : WClient → Option Task
  | .lnOvf o => (s.order? o).bind fun x => s.task? x.task
  | .far _ task _ => task.bind s.task?
  | c => c.mem.bind s.clientTask

/-- R283, R284, R293: a request that failed: its task aborts, a checkpoint ends; with neither left, only a record. -/
def State.failRequest (s : State) (w : WReq) (f : FaultRec) : State :=
  match w.client, s.reqTask w.client with
  | .checkpoint t _, _ | .far (.ckpt t) _ _, _ => (s.event f.code f.detail (tenCtx t 0) 0 f.info0 f.info1).ckFail t f.code
  | _, some k => s.failTask k.ten k.ctx k.id f
  | _, none => s.event f.code f.detail (tenCtx w.ten 0) 0 f.info0 f.info1

/-- R283: the fault that a RESP's status raises. -/
def statusCode (st : Nat) : Nat := if st = rsRefused then 0x21 else if st = rsFault then 0x20 else if st = rsPoison then 0x31 else 0x23

/-- R283: the record of a status other than OK. -/
def State.statusRec (s : State) (w : WReq) (st : Nat) : FaultRec :=
  let u := unitWord (s.reqUnit w.client)
  if st = rsPoison then memFaultRec 0x31 w.client.pa none u
  else ⟨statusCode st, 0, w.va.getD 0 + (if w.msg.op = opRead then 0 else 2 ^ 48), u⟩

/-- R283: the data of a good RESP reaches its client. -/
def State.deliver (s : State) (w : WReq) (m : Msg) : State :=
  match w.client with
  | .gather o p pa => if w.msg.op = opRead then s.mapFetch (.gather o p) (·.add pa m.data) else s
  | .xfer o n pa => if w.msg.op = opRead then s.mapFetch (.xfer o n) (·.add pa m.data) else s
  | .copy id pa => if w.msg.op = opRead then s.mapFetch (.copy id) (·.add pa m.data) else s
  | .lnOvf o =>
    match s.order? o with
    | some x => match x.body with
      | .lnOvf p => s.ovfAnswered x p w.rtag
      | _ => s
    | none => s
  | .far who _ pa =>
    if w.msg.op = opRead then { s with far := modWhere (fun x => x.who == who && x.pa == pa && x.len == w.msg.len) (fun x => { x with data := some m.data }) s.far }
    else s
  | .checkpoint _ _ => s

/-- A request no longer awaits its RESP. -/
def State.dropWReq (s : State) (rtag : W32) : State :=
  { s with xlt := { s.xlt with wreqs := s.xlt.wreqs.filter (·.rtag != rtag) } }

/-- A token whose last holder was a request (R98, R219). -/
def State.reqHome (s : State) (w : WReq) : State :=
  match w.client.mem with
  | some c => s.tokenHome c
  | none => s

/-- RESP (R283, R284): a response completes its request; one after its timeout is counted and discarded. -/
def execResp (port : Nat) (s : State) : Out :=
  match s.takeResp port with
  | none => no "no response is at the port"
  | some (m, s) =>
    match s.xlt.wreqs.find? fun w => w.rtag == m.rtag && w.sent with
    | some w =>
      let s := s.dropWReq m.rtag
      let s := if m.status = rsOk then s.deliver w m else s.failRequest w (s.statusRec w m.status)
      .next (s.reqHome w)
    | none =>
      match s.xlt.late.find? (·.1 == m.rtag) with
      | some l =>
        .next (State.modTen { s with xlt := { s.xlt with late := s.xlt.late.filter (· != l) } } l.2 fun x =>
          { x with ab := { x.ab with late := x.ab.late + 1 } })
      | none => .next s

/-- WINDOW_TIMEOUT (R284): LINE_MISSING at the requester. -/
def execWindowTimeout (rtag : W32) (t : Nat) (s : State) : Out :=
  match s.xlt.wreqs.find? (·.rtag == rtag) with
  | none => no "no such request awaits its response"
  | some w =>
    if t < w.tick + (s.ten w.ten).winLimit ∨ !s.mayPass t then no "the request's time is not up"
    else
      let s := (s.atTick t).dropWReq rtag
      let s : State := { s with xlt := { s.xlt with late := if w.sent then s.xlt.late ++ [(rtag, w.ten)] else s.xlt.late } }
      .next ((s.failRequest w ⟨0x40, 0, 0, unitWord (s.reqUnit w.client)⟩).reqHome w)

/-! ### The tensor cores (R65–R68) -/

/-- R65, R498: a resident slot's window in a cluster holds n bytes at an offset. -/
def State.windowHolds (s : State) (ten slot cluster off n : Nat) : Bool :=
  let x := (s.ten ten).slot slot
  (x.st == .resident || x.st == .parking) && s.granted ten cluster && bitOf x.xwClusters cluster && decide (off + n ≤ x.xwSize)

/-- R67: an access is answered. -/
def State.tcDone (s : State) (data : List Byte) : State := { s with tcResp := .done data }

/-- R68: an access that is discarded, reported as failed, and counted. -/
def State.tcDiscard (s : State) (ten : Nat) : State :=
  State.modTen { s with tcResp := .failed } ten fun x => { x with ab := { x.ab with tcDisc := x.ab.tcDisc + 1 } }

/-- R65: the value of a slot's shared counter, as the tensor cores read it. -/
def Slot.shared (x : Slot) (cluster xc : Nat) : W32 := smGet 0 x.xc (xcKey cluster xc)

/-- TENSOR_CORE_ACCESS (R67, R68): a read is answered with what it reads; a write or an addition takes effect; an access to a
window that is not there, or past its end, is discarded and reported as failed. -/
def execTensorCoreAccess (ten slot cluster : Nat) (op : TensorOp) (s : State) : Out :=
  let x := (s.ten ten).slot slot
  let holds := s.windowHolds ten slot cluster
  match op with
  | .start =>
    if holds 0 1 then .next ((s.modSlot ten slot fun y => { y with tcOpen := true }).tcDone []) else .next (s.tcDiscard ten)
  | .stop => .next ((s.modSlot ten slot fun y => { y with tcOpen := false }).tcDone [])
  | .read off n =>
    if holds off n then .next (s.tcDone (s.spBytes cluster (x.spBase + x.xwBase + off) n)) else .next (s.tcDiscard ten)
  | .write off bs =>
    if holds off bs.length then .next ((s.spWrite cluster (x.spBase + x.xwBase + off) bs).tcDone []) else .next (s.tcDiscard ten)
  | .readCounter xc =>
    if holds 0 1 ∧ xc < 16 then .next (s.tcDone (toLe 4 (x.shared cluster xc).toNat)) else .next (s.tcDiscard ten)
  | .addCounter xc n =>
    if holds 0 1 ∧ xc < 16 then .next ((s.addShared ten x.ctx cluster xc n).tcDone []) else .next (s.tcDiscard ten)

end Sys2Proof.Machine
end

