-- ==== Sys2Proof/Machine/Front.lean ====
section
/-! DEFINITION. The front end: how a command is taken at the head of its ring, or refused (R24, R75–R78, R351–R354, R367,
R406), and the rings' own events (R25, R76, R499). -/

namespace Sys2Proof.Machine

/-! ### Commands as the ring holds them -/

/-- R352: an entry's opcode and the rest of it. -/
def cmdOf (bs : List Byte) : Nat × CmdEntry :=
  (leAt bs 0 1,
    { flags := BitVec.ofNat 24 (leAt bs 1 3), usertag := BitVec.ofNat 32 (leAt bs 4 4), result := BitVec.ofNat 64 (leAt bs 8 8)
      arg0 := BitVec.ofNat 64 (leAt bs 16 8), arg1 := BitVec.ofNat 64 (leAt bs 24 8) })

/-- R351: the address of the entry at the head. -/
def Ring.slotVa (r : Ring) : Nat := r.base.toNat * 4096 + 32 * (r.head.toNat % 2 ^ r.log2n.toNat)
/-- R351: the address of the head word. -/
def Ring.headVa (r : Ring) : Nat := r.tailVa + 4

/-- R406: the commands that LOADING takes. -/
def loadingOp (op : Nat) : Bool := [2, 3, 4, 5, 6, 11, 12].contains op

/-- R353: the command at the head. -/
def State.cmdAt (s : State) (r op : Nat) (e : CmdEntry) : CmdRef :=
  let x := s.ring r
  ⟨r, x.head, x.ten.toNat, x.ctx.toNat, op, e⟩

/-- R76, R442: LOAD_REFUSED: the ring stops at its head; `c` is the command where its entry could be read. -/
def State.refuseAt (s : State) (r reason : Nat) (c : Option CmdRef) : State :=
  let x := s.ring r
  let s := s.event 0x90 reason (tenCtx x.ten.toNat x.ctx.toNat) 0 (r + x.head.toNat * 2 ^ 32) feWord
  let s := match c with
    | some c => s.complete c stRefused reason 0 0
    | none => s
  s.stopRing r reason

/-- R351: the head moves past a taken command. -/
def State.moveHead (s : State) (r : Nat) : State :=
  let x := s.ring r
  let h := x.head + 1
  (s.modRing r fun y => { y with head := h }).pinWrite x.ten.toNat x.headVa (toLe 4 h.toNat)

/-- R354: the ring waits for a command. -/
def State.holdRing (s : State) (c : CmdRef) : State := s.modRing c.ring fun r => { r with hold := .command c }

/-! ### Checks (R75, R352) -/

/-- A command's checks: they stop with a reason code, and leave behind only what a read whose data is lost leaves. -/
abbrev CM (α : Type) := ExceptT Nat (StateM State) α

def CM.go {α : Type} (m : CM α) (s : State) : Except Nat α × State := ExceptT.run m s
def cNeed (b : Bool) (reason : Nat) : CM Unit := if b then pure () else throw reason
def cTen (c : CmdRef) : CM Tenancy := do return (← get).ten c.ten

/-- R367, R397: a front-end read of n bytes whose data is lost, and its record. -/
def State.feLost (s : State) (t code pa va n : Nat) : State :=
  let f := memFaultRec code pa (some va) feWord
  (s.meetPinned t va n).event f.code f.detail (tenCtx t 0) 0 f.info0 f.info1

/-- R367: a front-end read of n bytes. -/
def cRead (c : CmdRef) (va n : Nat) : CM (List Byte) := do
  match (← get).pinRead c.ten va n with
  | .bytes bs => return bs
  | .outside => throw 0x0A
  | .lost code pa => do
    modify fun s => s.feLost c.ten code pa va n
    throw 0x0A

/-- R352: reserved fields and alignments of an entry, by opcode. -/
def cmdForm (op : Nat) (e : CmdEntry) : Bool :=
  let a := e.arg0.toNat
  let b := e.arg1.toNat
  decide (e.flags.toNat < 2 ∧ e.result.toNat % 32 = 0) && match op with
    | 1 => decide (a % 64 = 0 ∧ b = 0)
    | 2 => decide (a < 2 ∧ b = 0)
    | 3 => decide (a % 64 = 0) && bitsOf b 12 4 == 0 && decide (b < 2 ^ 17)
    | 4 => decide (b < 2 ∧ (b = 1 ∨ a % 64 = 0))
    | 5 => bitsOf a 20 12 == 0 && decide (a < 2 ^ 55) && bitsOf a 32 12 == 0 && bitsOf b 9 7 == 0 && decide (b < 2 ^ 25)
    | 6 => decide (a = 0 ∧ b = 0)
    | 7 => true
    | 8 => decide (b = 0)
    | 9 => decide (a % 64 = 0 ∧ b = 0)
    | 10 => decide (a < 4 ∧ b % 4096 = 0)
    | 11 => decide (a < 256 ∧ b % 4096 = 0)
    | _ => decide (a < 3 ∧ b = 0)

/-- Which command a row stands for: its opcode and what of its arguments the row fixes. -/
structure CmdRow where
  op : Nat
  pick : CmdEntry → Bool := fun _ => true

/-- The front end takes the command at the head of ring r (R76, R351–R354, R367): refused with the first failed check, or
taken with its effect. `chk` is the command's own checks, `act` its effect. -/
def State.takeCmd {α : Type} (s : State) (r : Nat) (e : CmdEntry) (row : CmdRow) (chk : CmdRef → CM α)
    (act : CmdRef → α → State → State) : Out :=
  let x := s.ring r
  if !s.ringReady r then no "the front end takes no command of the ring now"
  else
    match s.pinRead x.ten.toNat x.slotVa 32 true with
    | .outside => .next (s.refuseAt r 0x0A none)
    | .lost code pa => .next ((s.feLost x.ten.toNat code pa x.slotVa 32).refuseAt r 0x0A none)
    | .bytes bs =>
      let op := (cmdOf bs).1
      let c := s.cmdAt r op e
      if (cmdOf bs).2 ≠ e then no "the entry at the head is another one"
      else if op = 0 ∨ 12 < op then .next (s.refuseAt r 0x1B (some c))
      else if op ≠ row.op ∨ !row.pick e then no "the entry at the head is of another row"
      else if (s.ten c.ten).st = .loading ∧ !loadingOp op then no "the command holds its ring until RUNNING"
      else if !cmdForm op e then .next (s.refuseAt r 0x1B (some c))
      else
        match (chk c).go s with
        | (.ok a, s') => .next (act c a (s'.moveHead r))
        | (.error reason, s') => .next (s'.refuseAt r reason (some c))

/-! ### The rings' own events -/

/-- R25, R367: the front end reads a ring's tail word; one that cannot be read stops the ring where a write of it has woken
the front end. -/
def State.readTail (s : State) (r : Nat) (woken : Bool) : State :=
  let x := s.ring r
  if !s.watched x then s
  else
    match s.pinRead x.ten.toNat x.tailVa 4 true with
    | .bytes bs => s.modRing r fun y => { y with tail := BitVec.ofNat 32 (leNat bs) }
    | .outside => if woken then s.refuseAt r 0x0A none else s
    | .lost code pa => (s.feLost x.ten.toNat code pa x.tailVa 4).refuseAt r 0x0A none

/-- RING_WAKE (R25, R351): the host has written entries and then the tail word; it wakes the front end. -/
def execRingWake (r : Nat) (tail : W32) (hm : HostMem) (s : State) : Out :=
  withHost s hm fun s =>
    let x := s.ring r
    let s' := match s.pinned x.ten.toNat x.tailVa with
      | some (pa, _) => s.poolWrite pa (toLe 4 tail.toNat)
      | none => s
    s.hostWrite (s'.readTail r true)

/-- R76: a stopped ring is resumed. -/
def State.resumeRing (s : State) (r : Nat) : State :=
  if (s.ring r).stopped then
    (s.modRing r fun x => { x with stopped := false, reason := 0 }).readTail r false
  else s

/-- RING_RESUME (R76, R499). -/
def execRingResume (r : Nat) (s : State) : Out := s.hostWrite (s.resumeRing r)

/-- R499: a write to `FE_RING_BASE`: bindings only while EN is 0; EN only for a tenancy that is LOADING or RUNNING. -/
def State.writeRingBase (s : State) (r : Nat) (en : Bool) (log2n : BitVec 5) (base : BitVec 36) : State :=
  let x := s.ring r
  let st := (s.ten x.ten.toNat).st
  if x.en then
    let s := if log2n ≠ x.log2n ∨ base ≠ x.base then s.tenErr x.ten.toNat errState else s
    if en then s else s.modRing r fun y => { y with en := false }
  else
    let ok := decide (4 ≤ log2n.toNat ∧ log2n.toNat ≤ 16)
    let s := if ok then s.modRing r fun y => { y with log2n := log2n, base := base } else s.modRing r fun y => { y with base := base }
    if en ∧ (st = .loading ∨ st = .running) then
      (s.modRing r fun y => { y with en := true, head := 0, tail := 0, stopped := false, reason := 0, hold := .none }).readTail r false
    else s

/-- RING_ENABLE (R499): EN written 1 with LOG2N and BASE. -/
def execRingEnable (r : Nat) (log2n : BitVec 5) (base : W64) (s : State) : Out :=
  s.hostWrite (s.writeRingBase r true log2n (BitVec.ofNat 36 (bitsOf base.toNat 12 36)))

end Sys2Proof.Machine
end

