-- ==== Sys2Proof/Machine/Commands.lean ====
section
/-! DEFINITION. The front-end commands DISPATCH, FENCE, TABLE_LOAD, HITCH_BUILD and INVALIDATE_ALL (R46, R52, R66, R75, R79–R84,
R116, R125–R127, R224–R228, R232, R354, R355, R393). -/

namespace Sys2Proof.Machine

/-! ### DISPATCH (R46, R52, R66, R75, R355) -/

/-- R299: a DISPATCH that the front end takes clears the caches for the tenancy. -/
def State.clearWords (s : State) (t : Nat) : State :=
  { s with clusters := s.clusters.map fun c => { c with icache := c.icache.filter (·.ten != t) } }

/-- R355: the parameters of a dispatch descriptor. -/
structure DispDesc where
  cmask : Nat
  k : Nat
  nreg : Nat
  llm : Nat
  nthread : Nat
  spext : Nat
  swlim : Nat
  seed : W64
  entry : Nat
  args : Nat
  binds : List (Nat × Nat)

/-- R355: the valid bytes of BIND: acN and xcM. -/
def bindsOf (w : Nat) : List (Nat × Nat) :=
  (List.range 8).filterMap fun b =>
    let v := bitsOf w (8 * b) 8
    if bitOf v 7 then some (8 + bitsOf v 4 3, bitsOf v 0 4) else none

/-- R355: the descriptor's fields. -/
def dispDesc (bs : List Byte) : DispDesc :=
  let w := leAt bs 0 4
  { cmask := bitsOf w 0 8, k := bitsOf w 8 5, nreg := bitsOf w 13 7, llm := bitsOf w 20 9 * 1024, nthread := leAt bs 4 4
    spext := bitsOf (leAt bs 8 4) 0 12 * 4096, swlim := leAt bs 12 4, seed := BitVec.ofNat 64 (leAt bs 16 8)
    entry := bitsOf (leAt bs 24 8) 0 48, args := bitsOf (leAt bs 32 8) 0 48, binds := bindsOf (leAt bs 40 8) }

/-- R355, R508: the bits the descriptor's layout names. -/
def dispMasks : List Nat :=
  [fm 0 29 + fm 32 32, fm 0 12 + fm 32 32, fm 0 64, fm 0 48, fm 0 48, fm 0 64, 0, 0]

/-- R66: a window of the context in each of the clusters. -/
def Slot.windowsIn (x : Slot) (cmask : Nat) : Bool := decide (x.xwSize ≠ 0) && (setBits 8 cmask).all (bitOf x.xwClusters)

/-- R46, R75: a dispatch's checks, in the order of the table of R75. -/
def chkDispatch (c : CmdRef) : CM DispDesc := do
  let bs ← cRead c c.entry.arg0.toNat 64
  cNeed (layoutOk bs dispMasks) 0x1B
  let d := dispDesc bs
  let s ← get
  let t := s.ten c.ten
  let x := (t.slot ((t.slotOf c.ctx).getD 0))
  cNeed (decide (0 < d.nthread ∧ d.nthread ≤ 2 ^ 30 ∧ 0 < d.k ∧ d.k ≤ 16)) 0x01
  cNeed (decide (8 ≤ d.nreg ∧ d.nreg ≤ 64 ∧ d.nreg % 8 = 0)) 0x02
  cNeed (decide (d.cmask ≠ 0) && (setBits 8 d.cmask).all (s.admits c.ten)) 0x03
  cNeed (decide (0 < x.cohortSlots)) 0x04
  cNeed (decide (d.k ≤ x.coachSlots)) 0x05
  cNeed (decide (32 * d.k * d.nreg ≤ x.regs)) 0x06
  cNeed (decide (d.llm ≤ x.llmBytes ∧ d.llm ≤ 262144)) 0x07
  cNeed (decide (d.spext ≤ x.spLimit)) 0x08
  cNeed (decide ((d.binds.map (·.1)).eraseDups.length = d.binds.length) && (d.binds.isEmpty || x.windowsIn d.cmask)) 0x09
  cNeed (s.pinnedRange c.ten d.entry 8 && s.pinnedRange c.ten d.args 8) 0x0A
  return d

/-- R224: the tasks that hold the orders of a ring's next dispatches. -/
def State.fenceTasks (s : State) (ring : Nat) : List Nat :=
  ((s.overlaps.filter fun o => o.cmd.ring == ring).flatMap (·.tasks)).eraseDups

/-- R46, R77, R509: a task is admitted. -/
def actDispatch (c : CmdRef) (d : DispDesc) (s : State) : State :=
  let k : Task :=
    { id := s.nextTask, ten := c.ten, ctx := c.ctx, cmd := c, cmask := BitVec.ofNat 8 d.cmask, k := d.k, nreg := d.nreg
      llm := d.llm, nthread := d.nthread, spext := d.spext, swlim := d.swlim, seed := d.seed, entry := d.entry
      args := d.args, binds := d.binds, rank := (s.ten c.ten).self, fsize := (s.ten c.ten).fsize
      held := s.fenceTasks c.ring }
  let s := s.clearWords c.ten
  { s with tasks := s.tasks ++ [k], nextTask := s.nextTask + 1 }

def execDispatch (r : Nat) (e : CmdEntry) (s : State) : Out := s.takeCmd r e ⟨1, fun _ => true⟩ chkDispatch actDispatch

/-! ### FENCE (R224) -/

/-- R224: the tasks dispatched earlier from a ring and not yet complete. -/
def State.ringTasks (s : State) (ring : Nat) : List Nat := (s.tasks.filter (·.cmd.ring == ring)).map (·.id)

def actFenceFull (c : CmdRef) (_ : Unit) (s : State) : State :=
  match s.ringTasks c.ring with
  | [] => s.finish c stDone 0 0 0
  | ts => s.modRing c.ring fun r => { r with hold := .fence c ts }

def actFenceOverlap (c : CmdRef) (_ : Unit) (s : State) : State :=
  match s.ringTasks c.ring with
  | [] => s.finish c stDone 0 0 0
  | ts => { s with overlaps := s.overlaps ++ [⟨c, ts⟩] }

def execFenceFull (r : Nat) (e : CmdEntry) (s : State) : Out :=
  s.takeCmd r e ⟨2, fun e => !bitOf e.arg0.toNat 0⟩ (fun _ => pure ()) actFenceFull
def execFenceOverlap (r : Nat) (e : CmdEntry) (s : State) : Out :=
  s.takeCmd r e ⟨2, fun e => bitOf e.arg0.toNat 0⟩ (fun _ => pure ()) actFenceOverlap

/-! ### TABLE_LOAD (R79–R84, R125–R127, R393) -/

/-- R82: a descriptor's fields. -/
def tableDesc (bs : List Byte) : TableDesc :=
  let w0 := leAt bs 0 8
  let w5 := leAt bs 40 8
  let w7 := leAt bs 56 8
  { format := bitsOf w0 0 4, width := bitsOf w0 8 13, exp := signedOf (bitsOf w0 24 8) 8, train := bitOf w0 32
    nocache := bitOf w0 33, dir := bitOf w0 34, base := bitsOf (leAt bs 8 8) 0 48, rows := bitsOf (leAt bs 16 8) 0 41
    slots := bitsOf (leAt bs 24 8) 0 41, dirptr := bitsOf (leAt bs 32 8) 0 48, ownfn := bitsOf w5 0 2
    nown := bitsOf w5 2 10, obase := bitsOf w5 12 9, wbase := bitsOf w5 21 8, exclog := bitsOf w5 29 5
    ownparm := bitsOf (leAt bs 48 8) 0 48, aways := bitsOf w7 0 5, acap := bitsOf w7 8 22 }

/-- R82, R508: the bits the descriptor's layout names. -/
def tableMasks : List Nat :=
  [fm 0 4 + fm 8 13 + fm 24 11, fm 0 48, fm 0 41, fm 0 41, fm 0 48, fm 0 34, fm 0 48, fm 0 5 + fm 8 22]

/-- R83: the width rule of a format. -/
def widthOk (format w : Nat) : Bool :=
  match format with
  | 5 => w % 32 == 0
  | 7 => w % 2 == 0
  | 8 => w % 16 == 0
  | _ => true

/-- R84. -/
def TableDesc.ok (d : TableDesc) : Bool :=
  decide (d.format ≤ 8 ∧ 1 ≤ d.width ∧ d.width ≤ 4096 ∧ -96 ≤ d.exp ∧ d.exp ≤ 31 ∧ d.base % 128 = 0
    ∧ 1 ≤ d.rows ∧ d.rows ≤ 2 ^ 40) && widthOk d.format d.width
  && (!d.dir || decide (d.rows ≤ d.slots))
  && decide (1 ≤ d.nown ∧ d.obase + d.nown ≤ 512)
  && (d.ownfn != 2 || decide (d.rows ≤ d.nown * d.ownparm))
  && (!d.train || decide (d.format ≠ 8 ∧ d.aways ≠ 0)) && decide (d.aways ≤ 16 ∧ d.exclog ≤ 20)

/-- R393: the shared-cache ways that no arena holds, those of the table being replaced counted as free. -/
def Tenancy.freeWays (t : Tenancy) (old : Option Table) : W64 :=
  t.scway &&& ~~~(t.scwayRsv &&& ~~~((old.map (·.ways)).getD 0))

/-- R393: the n lowest-numbered ways of a mask. -/
def lowWays (m : W64) (n : Nat) : W64 := BitVec.ofNat 64 (maskOf ((setBits 64 m.toNat).take n))

/-- The arena banks that a tenancy holds, but for one table's: start and length. -/
def Tenancy.banks (t : Tenancy) (old : Option Table) : List (Nat × Nat) :=
  (t.tables.filter fun x => x.desc.train && some x.num != old.map (·.num)).flatMap fun x =>
    [(x.recv.addr, x.desc.bankBytes), (x.send.addr, x.desc.bankBytes)]

/-- The arena range: start and end. -/
def Tenancy.arena (t : Tenancy) : Nat × Nat := (t.arenaBase.toNat * 4096, (t.arenaBase.toNat + t.arenaSize.toNat) * 4096)

/-- R125: the lowest 4 KiB-aligned address of the arena range where n bytes fit beside the banks placed. -/
def placeBank (t : Tenancy) (banks : List (Nat × Nat)) (n : Nat) : Option Nat :=
  let (lo, hi) := t.arena
  let cands := sortDistinct (lo :: banks.map fun b => roundUp (b.1 + b.2) 4096)
  cands.find? fun a => decide (lo ≤ a ∧ a + n ≤ hi) && banks.all fun b => decide (a + n ≤ b.1) || decide (b.1 + b.2 ≤ a)

/-- R125: both banks placed, RECV first. -/
def placeBanks (t : Tenancy) (old : Option Table) (d : TableDesc) : Option (Nat × Nat) := do
  let bs := t.banks old
  let r ← placeBank t bs d.bankBytes
  let w ← placeBank t ((r, d.bankBytes) :: bs) d.bankBytes
  return (r, w)

/-- R75, R84, R125–R127: the checks of a load, and the table it makes under a number. -/
def chkTable (c : CmdRef) (old : Option Table) (num : Option Nat) : CM Table := do
  let bs ← cRead c c.entry.arg0.toNat 64
  let d := tableDesc bs
  let t ← cTen c
  let free := t.freeWays old
  cNeed (!d.train || decide (d.aways ≤ popcount 64 free.toNat)) 0x12
  match num with
  | none => throw 0x13
  | some n => do
    cNeed (d.ok && layoutOk bs tableMasks) 0x14
    if d.train then
      cNeed (decide (0 < d.acap ∧ 2 * d.bankBytes ≤ d.aways * Config.wayCap)) 0x15
      match placeBanks t old d with
      | none => throw 0x15
      | some (r, w) => return { num := n, desc := d, recv := { addr := r }, send := { addr := w }, ways := lowWays free d.aways }
    else return { num := n, desc := d }

/-- One TABLE_LOAD of a tenancy is carried out at a time. -/
def State.tableIdle (s : State) (r : Nat) : Bool := ((s.ten (s.ring r).ten.toNat).loading).isNone

/-- R80: the lowest number, below 4,096, that the tenancy does not hold. -/
def Tenancy.freeTable (t : Tenancy) : Option Nat :=
  if 4096 ≤ t.tables.length then none else leastFrom (fun n => (t.table? n).isNone) 4096

/-- R80, R127: the table a replacement or release names: held, with CLEAR banks where it trains. -/
def chkHeld (c : CmdRef) : CM Table := do
  let t ← cTen c
  match t.table? (bitsOf c.entry.arg1.toNat 0 12) with
  | none => throw 0x1F
  | some x => do
    cNeed (!x.desc.train || (x.recv.st == .clear && x.send.st == .clear)) 0x16
    return x

def chkTableLoad (c : CmdRef) : CM Table := do chkTable c none (← cTen c).freeTable
def chkTableReplace (c : CmdRef) : CM Table := do
  let old ← chkHeld c
  chkTable c (some old) (some old.num)

/-- R354: the load runs, and its ring is held. -/
def actTable (replace : Bool) (c : CmdRef) (t : Table) (s : State) : State :=
  (s.holdRing c).modTen c.ten fun x => { x with loading := some (c, t, replace) }

/-- A table's number and ways released (R80, R393). -/
def Tenancy.dropTable (t : Tenancy) (x : Table) : Tenancy :=
  { t with tables := t.tables.filter (·.num != x.num), scwayRsv := t.scwayRsv &&& ~~~x.ways }

/-- R354: RES0 and RES1 of a TABLE_LOAD. -/
def tableRes (t : Table) : Nat × Nat := (t.num + t.send.addr * 2 ^ 16, t.recv.addr)

def actTableRelease (c : CmdRef) (x : Table) (s : State) : State :=
  (s.modTen c.ten (·.dropTable x)).finish c stDone 0 x.num 0

/-- R80: the variants of TABLE_LOAD. -/
def isReplace (e : CmdEntry) : Bool := bitOf e.arg1.toNat 16

def execTableLoad (r : Nat) (e : CmdEntry) (s : State) : Out :=
  if !s.tableIdle r then no "another load of the tenancy is in progress"
  else s.takeCmd r e ⟨3, fun e => !isReplace e⟩ chkTableLoad (actTable false)
def execTableReplace (r : Nat) (e : CmdEntry) (s : State) : Out :=
  if !s.tableIdle r then no "another load of the tenancy is in progress"
  else s.takeCmd r e ⟨3, fun e => isReplace e && e.arg0 != 0⟩ chkTableReplace (actTable true)
def execTableRelease (r : Nat) (e : CmdEntry) (s : State) : Out :=
  if !s.tableIdle r then no "another load of the tenancy is in progress"
  else s.takeCmd r e ⟨3, fun e => isReplace e && e.arg0 == 0⟩ chkHeld actTableRelease

/-- n bytes of pinned memory zeroed, leaf by leaf, where the group check lets them be (R386, log 169), and their poison cleared (R125,
R399). -/
def pinZeroGo (t : Nat) : Nat → Nat → Nat → State → State
  | 0, _, _, s => s
  | f + 1, va, n, s =>
    if n = 0 then s
    else
      let k := min n (2 ^ 21 - va % 2 ^ 21)
      let s := match s.addPlace t va false with
        | .at pa =>
          let s := s.serveBefore pa k
          { s with rc := s.rc.write (poolAddr pa) (List.replicate k 0), mem := { s.mem with
              pool := memZero s.mem.pool (poolAddr pa) k
              poison := s.mem.poison.filter fun g => !covers (poolAddr pa) k g
              bad := s.mem.bad.filter fun g => !covers (poolAddr pa) k g } }
        | _ => s
      pinZeroGo t f (va + k) (n - k) s

/-- R125, R128: a bank written whole: CLEAR. -/
def State.writeBank (s : State) (ten : Nat) (d : TableDesc) (b : Bank) (send : Bool) : State :=
  (pinZeroGo ten (d.bankBytes / 2 ^ 21 + 2) b.addr d.bankBytes s).bankPut ten b.addr (bankHeader send b)

/-- R94: the reserved bytes of a table's status record are written 0 at its load. -/
def State.clearStatus (s : State) (ten num : Nat) : State :=
  s.pinWrite ten ((s.ten ten).statusBase.toNat * 64 + 64 * num + 0x14) (toLe 12 0)

/-- TABLE_LOAD_DONE (R80, R94, R125, R393): the banks are written and the table is held. Orders accepted since the command was
taken have the descriptor it replaces (DESIGN CHOICE, log 177). -/
def execTableLoadDone (ten : Nat) (s : State) : Out :=
  match (s.ten ten).loading with
  | none => no "no load is in progress"
  | some (c, t, _) =>
    let s := if t.desc.train then (s.writeBank ten t.desc t.recv false).writeBank ten t.desc t.send true else s
    let s := s.modTen ten fun x =>
      let x := match x.table? t.num with
        | some o => x.dropTable o
        | none => x
      { x with tables := x.tables ++ [t], scwayRsv := x.scwayRsv ||| t.ways, loading := none }
    let r := tableRes t
    .next ((s.clearStatus ten t.num).finish c stDone 0 r.1 r.2)

/-! ### HITCH_BUILD (R226–R228, R232) -/

/-- R226: the parameters of a build. -/
structure HitchParm where
  num : Nat
  prod : Nat
  cons : Nat
  cluster : Nat
  base : Nat
  size : Nat
  count : Nat

def hitchParm (e : CmdEntry) : HitchParm :=
  let a := e.arg0.toNat
  let b := e.arg1.toNat
  ⟨bitsOf a 0 8, bitsOf a 8 4, bitsOf a 12 4, bitsOf a 16 3, bitsOf a 32 23, bitsOf b 0 9 * 4096, bitsOf b 16 9⟩

/-- R226, R227: endpoint pairings. -/
def endpointsOk (prod cons : Nat) : Bool :=
  [0, 1, 3, 4, 5].contains prod && [0, 2, 3, 4, 5, 6].contains cons && (cons != 6 || prod == 0)

/-- R227: the clusters a pool occupies. -/
def State.poolClusters (s : State) (ten cons cluster : Nat) : List Nat := if cons = 6 then s.chain ten else [cluster]

/-- R228. -/
def State.hitchOk (s : State) (c : CmdRef) (p : HitchParm) : Bool :=
  let t := s.ten c.ten
  let x := t.slot ((t.slotOf c.ctx).getD 0)
  let cl := s.poolClusters c.ten p.cons p.cluster
  (t.hitch? p.num).isNone && (p.cons == 6 || s.admits c.ten p.cluster) && endpointsOk p.prod p.cons
    && decide (4096 ≤ p.size ∧ p.size ≤ 2 ^ 20 ∧ 1 ≤ p.count ∧ p.count ≤ 256)
    && decide (p.base + p.size * p.count ≤ x.spLimit)
    && t.hitches.all fun h =>
      h.ctx != c.ctx || !(s.poolClusters c.ten h.cons h.cluster).any cl.contains
        || decide (p.base + p.size * p.count ≤ h.base) || decide (h.base + h.size * h.carts.length ≤ p.base)

/-- R226: carts of the hitches a tenancy has built. -/
def Tenancy.cartsBuilt (t : Tenancy) : Nat := (t.hitches.map (·.carts.length)).sum

/-- R75, R228. -/
def chkHitchBuild (c : CmdRef) : CM HitchParm := do
  let s ← get
  let t := s.ten c.ten
  let p := hitchParm c.entry
  cNeed (decide (p.count + t.cartsBuilt ≤ t.allotCarts.toNat ∧ t.hitches.length < t.allotHitches.toNat)) 0x10
  cNeed (p.base % 4096 == 0) 0x1B
  cNeed (s.hitchOk c p) 0x17
  return p

def actHitchBuild (c : CmdRef) (p : HitchParm) (s : State) : State :=
  (s.modTen c.ten fun t => { t with hitches := t.hitches ++
    [{ num := p.num, ctx := c.ctx, prod := p.prod, cons := p.cons, cluster := p.cluster, base := p.base, size := p.size
       carts := List.replicate p.count {} }] }).finish c stDone 0 0 0

/-- R232: the hitch is released, and the commands that waited for it complete. -/
def State.finishDismantle (s : State) (ten : Nat) (h : Hitch) : State :=
  let s := s.modTen ten fun t => { t with hitches := t.hitches.filter (·.num != h.num) }
  h.dismantle.foldl (fun (s : State) c => s.finish c stDone 0 0 0) s

def chkDismantle (c : CmdRef) : CM Nat := do
  let n := bitsOf c.entry.arg0.toNat 0 8
  cNeed (((← cTen c).hitch? n).isSome) 0x18
  return n

/-- R232: the hitch is released at once where every cart is FREE; else the command joins its dismantle. -/
def actDismantle (c : CmdRef) (n : Nat) (s : State) : State :=
  match s.hitch? c.ten n with
  | none => s
  | some h =>
    let h := { h with dismantle := h.dismantle ++ [c] }
    if h.allFree then s.finishDismantle c.ten h else (s.holdRing c).modHitch c.ten n fun _ => h

def isDismantle (e : CmdEntry) : Bool := bitOf e.arg0.toNat 19

def execHitchBuild (r : Nat) (e : CmdEntry) (s : State) : Out :=
  s.takeCmd r e ⟨5, fun e => !isDismantle e⟩ chkHitchBuild actHitchBuild
def execHitchDismantle (r : Nat) (e : CmdEntry) (s : State) : Out :=
  s.takeCmd r e ⟨5, isDismantle⟩ chkDismantle actDismantle

/-- DISMANTLE_COMPLETE (R232, R239). -/
def execDismantleComplete (ten hitch : Nat) (s : State) : Out :=
  match s.hitch? ten hitch with
  | none => no "no such hitch"
  | some h =>
    when (!h.dismantle.isEmpty && h.allFree) "no dismantle waits, or a cart is not FREE" (s.finishDismantle ten h)

/-! ### INVALIDATE_ALL (R116, R160) -/

def actInvalidate (c : CmdRef) (_ : Unit) (s : State) : State :=
  (s.holdRing c).modTen c.ten fun t => { t with invTaken := t.invTaken + 1, invCmd := some c }

/-- INVALIDATE_ALL (R116, R160). One of a tenancy is carried out at a time, from whichever ring (DESIGN CHOICE, log 178). -/
def execInvalidateAll (r : Nat) (e : CmdEntry) (s : State) : Out :=
  let t := s.ten (s.ring r).ten.toNat
  if t.invTaken ≠ t.invDone then no "another clear of the tenancy is in progress"
  else s.takeCmd r e ⟨6, fun _ => true⟩ (fun _ => pure ()) actInvalidate

/-- INVALIDATE_ALL_DONE (R116): every line in the tenancy's ways is gone, and the command completes. -/
def execInvalidateAllDone (ten : Nat) (s : State) : Out :=
  let t := s.ten ten
  if t.invTaken = t.invDone then no "no clear is in progress"
  else
    let s := (s.clearWays ten t.rcway).modTen ten fun t => { t with invDone := t.invDone + 1, invCmd := none }
    match t.invCmd with
    | some c => .next (s.finish c stDone 0 0 0)
    | none => .next s

end Sys2Proof.Machine
end

