-- ==== Sys2Proof/Machine/Tasks.lean ====
section
/-! DEFINITION. Cohorts placed and ended, and the end of a task (R47–R49, R52, R53, R59, R301, R233). -/

namespace Sys2Proof.Machine

/-! ### COHORT_PLACEMENT -/

/-- The shapes of the context's cohorts placed on one lane. -/
def State.laneTasks (s : State) (k : Task) (cluster lane : Nat) : List Task :=
  (s.cohorts.filter fun h => h.cluster == cluster && h.lane == lane).filterMap fun h =>
    (s.task? h.task).filter fun t => t.ten == k.ten && t.ctx == k.ctx

/-- Registers of one cohort of a task (R52). -/
def Task.regs (k : Task) : Nat := 32 * k.k * k.nreg

/-- R49, R51, R52: the lane has room for one more cohort of the task within the context's share. -/
def State.laneRoom (s : State) (k : Task) (x : Slot) (cluster lane : Nat) : Bool :=
  let ts := s.laneTasks k cluster lane
  decide (ts.length + 1 ≤ x.cohortSlots ∧ (ts.map (·.k)).sum + k.k ≤ x.coachSlots
    ∧ (ts.map (·.regs)).sum + k.regs ≤ x.regs ∧ (ts.map (·.llm)).sum + k.llm ≤ x.llmBytes)

/-- R47: threads of coach i of cohort n that start in the exited state. -/
def Task.missing (k : Task) (n i : Nat) : W32 :=
  BitVec.ofNat 32 (maskOf ((List.range 32).filter fun j => decide (k.nthread ≤ n * (32 * k.k) + i * 32 + j)))

/-- R301: a coach as it is placed: at the entry, every register 0 but u0:u1. -/
def Task.newCoach (k : Task) (n i : Nat) : Coach :=
  { pc := k.entry, x := k.missing n i, u := smSet 0 (smSet 0 [] 0 (BitVec.ofNat 32 k.args)) 1 (BitVec.ofNat 32 (k.args / 2 ^ 32)) }

/-- R53, R59: a cohort as it is placed. -/
def Task.newCohort (k : Task) (n cluster lane : Nat) : Cohort :=
  { task := k.id, num := n, cluster := cluster, lane := lane, coaches := (List.range k.k).map (k.newCoach n) }

/-- R48, R49: the next cohort of a task may be placed on a lane. -/
def State.mayPlace (s : State) (k : Task) (cluster lane : Nat) : Bool :=
  decide (k.next < k.cohortCount ∧ lane < 16) && bitOf k.cmask.toNat cluster && s.admits k.ten cluster
    && match (s.ten k.ten).slotOf k.ctx with
      | some n => ((s.ten k.ten).slot n).st == .resident && s.laneRoom k ((s.ten k.ten).slot n) cluster lane
      | none => false

/-- The next cohort placed. -/
def State.place (s : State) (k : Task) (cluster lane : Nat) : State :=
  { s with
    cohorts := s.cohorts ++ [k.newCohort k.next cluster lane]
    tasks := modWhere (·.id == k.id) (fun t => { t with next := t.next + 1 }) s.tasks }

/-- COHORT_PLACEMENT (R48, R49). -/
def execCohortPlacement (task cluster lane : Nat) (s : State) : Out :=
  match s.task? task with
  | none => no "no such task"
  | some k => when (s.mayPlace k cluster lane) "no cohort of the task can be placed there" (s.place k cluster lane)

/-! ### COHORT_END -/

/-- R48: every thread has exited, and every copy and order of the cohort has completed. -/
def State.cohortOver (s : State) (h : Cohort) : Bool :=
  h.coaches.all (fun c => c.done && c.access.isNone && c.order.isNone)
    && !(s.copies.any fun c => c.task == h.task && c.cohort == h.num)
    && !(s.orders.any fun o => o.task == h.task && o.cohort == h.num)

/-- R233: the unit word of a cart's holder where that holder is an order or a coach of the task. -/
def Hitch.heldUnit (h : Hitch) (task : Nat) (c : Cart) : Option Nat :=
  if c.st = .filling ∨ c.st = .held then
    match c.holder with
    | .order _ t u => if t = task then some (unitWord u) else none
    | .coach r => if r.task = task then some (laneWordOf h.cluster) else none
    | _ => none
  else none

/-- R198: the unit word of the slice at which a weight cart waits with no `ia.mma` to take it. -/
def State.leftWeights (s : State) (ten task : Nat) (h : Hitch) (c : Cart) : Option Nat :=
  if c.st = .chain ∧ h.users.contains task ∧ bitOf c.tag.toNat c.clu ∧ (s.weightWaiter ten h.num c.clu).isNone then
    some (unitWord (.ia c.clu))
  else none

/-- R198, R233: the first cart that a task may not leave behind: the unit and the hitch. -/
def State.leftCart (s : State) (k : Task) : Option (Nat × Nat) :=
  (s.ten k.ten).hitches.findSome? fun h =>
    h.carts.findSome? fun c => ((h.heldUnit k.id c).or (s.leftWeights k.ten k.id h c)).map fun u => (u, h.num)

/-- The task's last cohort has ended. -/
def State.lastCohort (s : State) (k : Task) (cohort : Nat) : Bool :=
  k.next == k.cohortCount && !(s.cohorts.any fun h => h.task == k.id && h.num != cohort)

/-- R236: a task that has ended no longer counts as a user of hitches. -/
def State.forgetUser (s : State) (t task : Nat) : State :=
  s.modTen t fun x => { x with hitches := x.hitches.map fun h => { h with users := h.users.filter (· != task) } }

/-- R354: the task ends and its DISPATCH completes. -/
def State.endTask (s : State) (k : Task) : State :=
  let s := State.forgetUser { s with tasks := s.tasks.filter (·.id != k.id) } k.ten k.id
  (s.complete k.cmd stDone 0 0 0).releaseFences k.id

/-- A cohort's resources freed (R48). -/
def State.dropCohort (s : State) (task num : Nat) : State :=
  { s with cohorts := s.cohorts.filter fun h => !(h.task == task && h.num == num) }

/-- COHORT_END (R48, R198, R233): the cohort ends; with the last one the task, unless it leaves a cart behind. -/
def execCohortEnd (task cohort : Nat) (s : State) : Out :=
  match s.task? task with
  | none => no "no such task"
  | some k =>
    let s := s.settleAll k.ten task cohort
    match s.cohort? task cohort with
    | none => no "no such cohort"
    | some h =>
      if !s.cohortOver h then no "a thread runs, or a copy or order of the cohort is outstanding"
      else if s.lastCohort k cohort then
        match s.leftCart k with
        | some (u, n) => .next (s.failTask k.ten k.ctx k.id ⟨0x62, 0, cohort, u + n % 256 * 2 ^ 20⟩)
        | none => .next ((s.dropCohort task cohort).endTask k)
      else .next (s.dropCohort task cohort)

end Sys2Proof.Machine
end

