-- ==== Sys2Proof/Machine/Holder.lean ====
section
/-! DEFINITION. The holder of the stateful units and its switches (R412–R415). -/

namespace Sys2Proof.Machine

/-! ### The unit-state area (R413) -/

/-- R413: CLEN, the loaded-slot mask, K of each slot and the interaction mode; their places in the 128 B are the model's
choice (log 56). -/
def unitInfo (u : Stateful) : List Byte :=
  toLe 4 u.clen ++ toLe 4 (maskOf ((List.range 32).filter fun i => (u.slots[i]?).any (·.loaded)))
    ++ u.slots.flatMap (fun q => toLe 1 q.k) ++ toLe 1 u.mode

/-- R413: a cluster's unit state as its area holds it. -/
def unitBytes (u : Stateful) : List Byte :=
  tileBytes u.acc ++ tileBytes u.err ++ u.slots.flatMap (fun q => tkRow (if q.loaded then q.list else []))
    ++ u.slots.flatMap (fun q => toLe 128 q.query.toNat) ++ u.slots.flatMap (fun q => toLe 32 q.weights.toNat) ++ unitInfo u

/-- R413: the unit state of an area's bytes. -/
def unitsOf (bs : List Byte) : Stateful :=
  let mask := leAt bs 0x85404 4
  { clen := leAt bs 0x85400 4
    slots := (List.range 32).map fun i =>
      { loaded := bitOf mask i, query := BitVec.ofNat 1024 (leAt bs (0x84000 + 128 * i) 128)
        weights := BitVec.ofNat 256 (leAt bs (0x85000 + 32 * i) 32), k := leAt bs (0x85408 + i) 1
        list := (chunksOf 8 64 (bs.drop (0x80000 + 512 * i))).filterMap fun w => tkEntryOf (leNat w) }
    acc := tileOf bs, err := tileOf (bs.drop 0x40000), mode := leAt bs 0x85428 1 }

/-- R410: where a slot's unit-state area begins in each cluster. -/
def Slot.areaBase (x : Slot) : Nat := x.spBase + x.spLimit

/-- R413: the unit state of every cluster moved into a slot's area. -/
def State.saveUnits (s : State) (ten n : Nat) : State :=
  let x := (s.ten ten).slot n
  (s.chain ten).foldl (fun (s : State) c =>
    (s.spWrite c x.areaBase (unitBytes (s.cluster c).units)).modUnits c fun _ => {}) s

/-- R413: a slot's unit state moved out of its area; empty units for a context that holds them for the first time. -/
def State.loadUnits (s : State) (ten n : Nat) : State :=
  let x := (s.ten ten).slot n
  if (s.ten ten).unitsUsed.contains x.ctx then
    (s.chain ten).foldl (fun (s : State) c => s.modUnits c fun _ => unitsOf (s.spBytes c x.areaBase Config.unitArea)) s
  else
    ((s.chain ten).foldl (fun (s : State) c => s.modUnits c fun _ => {}) s).modTen ten fun t =>
      { t with unitsUsed := insertNew t.unitsUsed x.ctx }

/-- The units taken from their holder, if there is one. -/
def State.releaseUnits (s : State) (ten : Nat) : State :=
  match (s.ten ten).holder with
  | some n => (s.saveUnits ten n).modTen ten fun t => { t with holder := none, holdLost := false }
  | none => s

/-- The units given to a slot. -/
def State.giveUnits (s : State) (ten n : Nat) : State :=
  (s.loadUnits ten n).modTen ten fun t => { t with holder := some n, holdSince := s.tick, holdLost := false }

/-! ### Who waits (R412) -/

/-- The slots after the holder, in slot order, the holder itself last. -/
def afterHolder (holder : Option Nat) : List Nat :=
  match holder with
  | some n => (List.range 4).map fun k => (n + 1 + k) % 4
  | none => List.range 4

/-- R412: the slot the units go to next. -/
def State.nextHolder (s : State) (ten : Nat) : Option Nat := (afterHolder (s.ten ten).holder).find? (s.slotWaits ten)

/-- R412: the holder has no accepted order at the units, and no cart of its hitches waits at one (R198). -/
def State.holderIdle (s : State) (ten : Nat) : Bool :=
  match (s.ten ten).holder with
  | none => true
  | some n =>
    let ctx := ((s.ten ten).slot n).ctx
    !(s.orders.any fun o => o.ten == ten && o.ctx == ctx && o.unit.stateful)
      && (s.ten ten).hitches.all fun h => h.ctx != ctx || h.carts.all fun c => !(c.st == .chain && bitOf c.tag.toNat c.clu)

/-- HOLDER_SWITCH (R412, R413). -/
def execHolderSwitch (ten : Nat) (s : State) : Out :=
  match s.nextHolder ten with
  | none => no "no context waits for the units"
  | some n =>
    if (s.ten ten).holder = some n ∧ !(s.ten ten).holdLost then no "only the holder waits, and it holds the units"
    else when (s.holderIdle ten) "the holder still uses the units" ((s.releaseUnits ten).giveUnits ten n)

/-- HOLD_TIMEOUT (R415): the holder has kept the units for HOLD ticks while another context waits (log 57). -/
def execHoldTimeout (ten t : Nat) (s : State) : Out :=
  let x := s.ten ten
  match x.holder with
  | none => no "no context holds the units"
  | some n =>
    when (s.mayPass t && decide (x.hold.toNat ≠ 0 ∧ x.holdSince + x.hold.toNat ≤ t) && s.othersWait ten n && !x.holdLost)
      "no other context waits, or the hold has not run out"
      ((s.atTick t).modTen ten fun y => { y with holdLost := true })

end Sys2Proof.Machine
end

