-- ==== Sys2Proof/Machine/Books.lean ====
section
/-! DEFINITION. The books that AUDIT compares (R95, R427–R432, R511). -/

namespace Sys2Proof.Machine

/-! ### In-flight terms -/

/-- R427: the clients of a tenancy's requests, misses and window requests. -/
def State.busyClients (s : State) (ten : Nat) : List MemClient :=
  ((s.mem.reqs.filter (·.ten == ten)).map (·.who) ++ (s.rc.miss.filter (·.ten == ten)).flatMap (·.waits)
    ++ (s.xlt.wreqs.filter (·.ten == ten)).filterMap (·.client.mem)).eraseDups

/-- A stream mover. -/
def UnitRef.isMover : UnitRef → Bool
  | .mover _ => true
  | _ => false

/-- R98, R236: gather tokens out: reads of standing orders, and those of ended ones not yet home. -/
def State.gtokFlight (s : State) (ten : Nat) : Nat :=
  ((s.orders.filter (·.ten == ten)).map fun o => match o.body with
    | .gathQ g => (g.flight.filter (·.master.isNone)).length
    | .gathOvf _ _ _ _ fl => fl.length
    | _ => 0).sum
  + (s.orphans.filter fun x => x.ten == ten && !x.unit.isMover).length

/-- R219, R236: mover tokens out: transfers of standing streams and copies, and those of ended ones not yet home. -/
def State.mtokFlight (s : State) (ten : Nat) : Nat :=
  ((s.orders.filter (·.ten == ten)).map fun o => match o.body with
    | .stRun _ r => (r.flight.filter (!·.free)).length
    | _ => 0).sum
  + (s.copies.filter fun c => c.ten == ten && c.xfer.isSome).length
  + (s.orphans.filter fun x => x.ten == ten && x.unit.isMover).length

/-- R95: positions of accepted look-up and bucketing orders not finished. -/
def State.posFlight (s : State) (ten : Nat) : Nat :=
  ((s.orders.filter (·.ten == ten)).map fun o => match o.body with
    | .gathQ g => g.count - g.done
    | .gathBk b => b.count
    | _ => 0).sum

/-! ### Identities -/

/-- A book out of balance: its bit, its index, and by how much its identity fails. -/
structure Broken where
  bit : Nat
  index : Nat
  short : W32
deriving DecidableEq, Repr

/-- A book whose two sides are compared modulo 2^32. -/
def book (bit index : Nat) (l r : W32) : List Broken := if l = r then [] else [⟨bit, index, l - r⟩]

/-- One counter of a table's status record, 0 where the record is not pinned. -/
def State.statusOf (s : State) (ten table off : Nat) : W32 :=
  match s.pinned ten ((s.ten ten).statusBase.toNat * 64 + 64 * table + off) with
  | some (pa, _) => BitVec.ofNat 32 (s.poolWord pa 4)
  | none => 0

/-- R427 bit 7: the position book, over the tenancy's tables; with none held nothing is compared (log 70). -/
def State.posBook (s : State) (ten : Nat) : List Broken :=
  let ts := (s.ten ten).tables.map (·.num)
  let sum := fun (off : Nat) => ts.foldl (fun (a : W32) n => a + s.statusOf ten n off) 0
  if ts.isEmpty then []
  else book 7 0 (sum srReq) (sum srDeliv + sum srDropRange + sum srDropMiss + sum srDropOwn + (s.ten ten).ab.pos
    + BitVec.ofNat 32 (s.posFlight ten))

/-- R427 bit 4: one hitch. -/
def Hitch.book (h : Hitch) : List Broken :=
  Machine.book 4 h.num (h.produced - h.consumed) (BitVec.ofNat 32 (h.carts.filter (·.st == .queued)).length)

/-- R427 bit 8, R511: one bank: contributions, and slots folded or passed out beyond NSLOT. -/
def State.bankBooks (s : State) (ten table : Nat) (send : Bool) (b : Bank) : List Broken :=
  let ix := 2 * table + b2n send
  let excess := s.bankExcess ten b
  let b := s.bankRead ten b
  let out := (s.adds.filter fun a => a.ten == ten && a.bank.table == table && a.bank.send == send).length
  book 8 ix b.conv (b.comb + b.added + b.nan + BitVec.ofNat 32 out)
    ++ (if excess = 0 then [] else [⟨9, ix, 0 - BitVec.ofNat 32 excess⟩])

/-- R427 bit 10: the shares of a tenancy in one of its clusters. -/
def State.spBook (s : State) (ten c : Nat) : List Broken :=
  let n := (((s.ten ten).slots.filter (·.st != .empty)).map (·.spSize)).sum
  if 2 ^ 23 < n then [⟨10, c, BitVec.ofNat 32 (2 ^ 23) - BitVec.ofNat 32 n⟩] else []

/-- R427: the tenancy's books, in order of their bits. -/
def State.tenBooks (s : State) (ten : Nat) : List Broken :=
  let t := s.ten ten
  let trained := t.tables.filter (·.desc.train)
  book 0 0 t.gtokIss (t.gtokRet + BitVec.ofNat 32 (s.gtokFlight ten))
    ++ book 1 0 t.mtokIss (t.mtokRet + BitVec.ofNat 32 (s.mtokFlight ten))
    ++ (List.range 16).flatMap (fun k => book 2 k (smGet 0 s.rc.alloc k)
      (smGet 0 s.rc.freed k + BitVec.ofNat 32 (s.rc.miss.filter (·.slice == k)).length))
    ++ book 3 0 t.tickTaken (t.tickRet
      + BitVec.ofNat 32 (s.orders.filter fun o => o.ten == ten && o.ticket.isSome).length)
    ++ t.hitches.flatMap Hitch.book ++ s.posBook ten
    ++ trained.flatMap (fun x => s.bankBooks ten x.num false x.recv ++ s.bankBooks ten x.num true x.send)
    ++ (s.chain ten).flatMap (s.spBook ten)

/-- R266, R427 bit 5: credits held + FREE sent − credits returned, on each channel of a port with a trained link whose books
have been zeroed at M; the peer's side of R268 is compared at AUDIT carriages (log 60). -/
def Port.creditSum (x : Port) (vc1 : Bool) : W32 :=
  if vc1 then BitVec.ofNat 32 x.credit1 + x.sent.free1 - x.taken.cret1
  else BitVec.ofNat 32 x.credit0 + x.sent.free0 - x.taken.cret0

/-- R242, R266: the port's books are running. -/
def Port.bookable (x : Port) : Bool :=
  !(x.st == .down || x.st == .training || x.txDue || x.rxDue)

/-- R266, R427 bit 5: the credit books of a port. -/
def State.portBooks (s : State) (p : Nat) : List Broken :=
  let x := s.port p
  if x.bookable then book 5 (p * 2) (x.creditSum false) 128 ++ book 5 (p * 2 + 1) (x.creditSum true) 128 else []

/-- R266: credits held + FREE sent − credits returned = 128 on both channels. -/
def Port.creditsOk (x : Port) : Bool := !x.bookable || (x.creditSum false == 128 && x.creditSum true == 128)

/-- R431: the books that an AUDIT of a scope compares. -/
def State.audited (s : State) (ten scope : Nat) : List Broken :=
  (if scope = 1 then [] else s.tenBooks ten)
    ++ (if scope = 0 then [] else
      match (s.ten ten).tt with
      | some x => (portsOf x.ports).flatMap s.portBooks
      | none => [])

/-- R432: a broken book acts at the scope that owns it. -/
def State.actBroken (s : State) (ten : Nat) (b : Broken) : State :=
  match b.bit with
  | 2 =>
    let cause := s.ev.seq
    (s.event 0x70 0 {} 4 (2 + b.index * 2 ^ 8) (feWord + b.short.toNat * 2 ^ 16)).contain 4 (some cause) 0x70
  | 4 =>
    match s.hitch? ten b.index with
    | some h => s.imbalanceCtx ten h.ctx 4 b.index b.short.toNat feWord
    | none => s
  | n => s.imbalanceTen ten n b.index b.short.toNat feWord

/-! ### AUDIT (R354, R431) -/

/-- R354: the mask of books out of balance. -/
def auditMask (bs : List Broken) : Nat := maskOf (bs.map (·.bit))

def actAudit (c : CmdRef) (_ : Unit) (s : State) : State :=
  match s.audited c.ten (bitsOf c.entry.arg0.toNat 0 2) with
  | [] => s.finish c stDone 0 0 0
  | bs => bs.foldl (fun (s : State) b => s.actBroken c.ten b) (s.finish c stFailed 0x70 (auditMask bs) 0)

def execAudit (r : Nat) (e : CmdEntry) (s : State) : Out := s.takeCmd r e ⟨12, fun _ => true⟩ (fun _ => pure ()) actAudit

end Sys2Proof.Machine
end

