-- ==== Sys2Proof/Machine/Contexts.lean ====
section
/-! DEFINITION. CHECKPOINT, PARK and UNPARK (R291–R293, R356, R416–R419). -/

namespace Sys2Proof.Machine

/-! ### CHECKPOINT (R291–R293, R356) -/

/-- R356: region entry e of a descriptor. -/
def ckEntryOk (bs : List Byte) (e : Nat) : Bool :=
  let w := fun k => leAt bs (64 + 32 * e + k) 8
  decide (w 0 % 512 = 0 ∧ w 0 < 2 ^ 48 ∧ w 8 ≠ 0 ∧ w 8 % 512 = 0 ∧ w 16 % 512 = 0 ∧ w 16 < 2 ^ 48 ∧ w 24 = 0)

/-- R356: the checks of a checkpoint descriptor. -/
def chkCheckpoint (c : CmdRef) : CM (List CkRegion) := do
  let h ← cRead c c.entry.arg0.toNat 64
  let n := leAt h 0 1
  cNeed (layoutOk h [fm 0 7, 0, 0, 0, 0, 0, 0, 0] && decide (1 ≤ n ∧ n ≤ 64)) 0x1C
  let bs ← cRead c c.entry.arg0.toNat (64 + 32 * n)
  cNeed ((List.range n).all (ckEntryOk bs)) 0x1C
  return ckRegions n bs

/-- R293: the checkpoint begins, or waits for the one that runs; its ring goes on. -/
def actCheckpoint (c : CmdRef) (rs : List CkRegion) (s : State) : State :=
  if (s.ten c.ten).ckpt.isNone then s.ckBegin c rs
  else s.modTen c.ten fun t => { t with ckWait := t.ckWait ++ [(c, rs)] }

def execCheckpoint (r : Nat) (e : CmdEntry) (s : State) : Out :=
  s.takeCmd r e ⟨9, fun _ => true⟩ chkCheckpoint actCheckpoint

/-- The bytes of a piece of the image: those it holds, with the read that the mover makes of them (R109), or those read in its turn. -/
def ckBytes (x : Eng) (p : CkPiece) : OM (List Byte) := do
  match p.pa with
  | some pa => do
    modify fun s => (s.readNow x.ten pa p.len false).2
    return p.bytes
  | none => eRead x p.src p.len

/-- One piece of the image written to its destination. -/
def ckPiece (x : Eng) (p : CkPiece) : OM Unit := do
  let bs ← ckBytes x p
  let ds ← oPieces x p.dst p.len .write
  modify fun s => (s.farDrop x.who).putPieces x.ten (.checkpoint x.ten) ds p.dst bs

/-- The image of a checkpoint written piece by piece as far as it goes: what is left of it, and why it stopped. -/
def ckWrite (x : Eng) : List CkPiece → State → Option (OFault × State) × List CkPiece × State
  | [], s => (none, [], s)
  | p :: ps, s =>
    match (ckPiece x p).go s with
    | (.ok _, s') => ckWrite x ps s'
    | (.error f, s') => (some (f, s'), p :: ps, s)

/-- R366, R371: what a checkpoint that stops does. -/
def State.ckStop (s s' : State) (ten : Nat) (x : Eng) : OFault → State
  | .acc f => (if f.replay ∧ !(s.ten ten).timetabled then s else s').walkFault ten x.unit .checkpoint f
  | .miss va k => s.startWalk ten va k x.unit .checkpoint
  | .far ps => s.farAsk ten none x.who ps
  | _ => s

/-- R293: the checkpoint is complete, and the next one begins. -/
def State.ckFinish (s : State) (ten : Nat) (k : Checkpoint) : State :=
  ((s.modTen ten fun t => { t with ckpt := none }).finish k.cmd stDone 0 k.taken 0).ckNext ten

/-- Window requests of a tenancy's checkpoint still await their responses. -/
def State.ckBusy (s : State) (ten : Nat) : Bool := s.xlt.wreqs.any fun w => match w.client with
  | .checkpoint t _ => t == ten
  | _ => false

/-- CHECKPOINT_DONE (R291, R293): the image is written as far as it goes; where a destination lies behind a window, its responses end
the checkpoint. A miss or a fault stalls it, or ends it as failed. -/
def execCheckpointDone (ten : Nat) (s : State) : Out :=
  match (s.ten ten).ckpt with
  | none => no "no checkpoint runs"
  | some k =>
    let u : UnitRef := .mover (s.anyMover ten)
    if k.writing then when (!s.ckBusy ten) "a window write of the image awaits its response" (s.ckFinish ten k)
    else if s.stalled u then no "the mover is stalled"
    else
      let x := moverEng (.ckpt ten) u ten
      let r := ckWrite x k.image s
      let t := r.2.2.modTen ten fun t => { t with ckpt := some { k with image := r.2.1, writing := r.2.1.isEmpty } }
      match r.1 with
      | some (f, s') => when (decide (t.ckStop s' ten x f ≠ s)) "the checkpoint waits for bytes of another block" (t.ckStop s' ten x f)
      | none => .next (if t.ckBusy ten then t else t.ckFinish ten k)

/-! ### PARK (R417–R419) -/

/-- R419: PARK names a resident slot but 0, of a tenancy that is not timetabled, with no open exchange window. -/
def chkPark (c : CmdRef) : CM Nat := do
  let t ← cTen c
  let n := bitsOf c.entry.arg0.toNat 0 2
  cNeed (decide (n ≠ 0) && (t.slot n).st == .resident && !t.timetabled && !(t.slot n).tcOpen) 0x1E
  return n

/-- R418, steps 1 and 2. -/
def actPark (c : CmdRef) (n : Nat) (s : State) : State :=
  let ctx := ((s.ten c.ten).slot n).ctx
  ((s.holdRing c).modSlot c.ten n fun x =>
    { x with st := .parking, move := some ⟨c, c.entry.arg1.toNat, s.tick, none⟩ }).stopCoaches c.ten ctx true

def execPark (r : Nat) (e : CmdEntry) (s : State) : Out := s.takeCmd r e ⟨10, fun _ => true⟩ chkPark actPark

/-- The cells of n bytes at a, from 0 on; and cells put back at a. -/
def memCut (m : List Host.Cell) (a n : Nat) : List Host.Cell :=
  (m.filter fun c => decide (a ≤ c.1 ∧ c.1 < a + n)).map fun c => (c.1 - a, c.2)
def memPaste (m : List Host.Cell) (a n : Nat) (cs : List Host.Cell) : List Host.Cell :=
  memPatch (memZero m a n) (cs.map fun c => (c.1 + a, c.2))

/-- R417: the bytes of a save area. -/
def State.saveBytes (s : State) (ten n : Nat) : Nat :=
  let x := (s.ten ten).slot n
  4096 + (s.chain ten).length * (x.spSize + 65536 + 16 * (4 * x.regs + x.llmBytes + 32768))

/-- R417, R508: the header; its reserved bytes are 0. -/
def State.saveHeader (s : State) (ten n : Nat) : List Byte :=
  let t := s.ten ten
  let x := t.slot n
  toLe 4 Config.saveFormat.toNat ++ toLe 4 t.jobTag.toNat ++ toLe 4 (x.ctx + t.clusters.toNat * 2 ^ 8) ++ toLe 4 x.lane.toNat
    ++ toLe 8 x.sp.toNat ++ toLe 8 s.tick ++ toLe 8 (s.saveBytes ten n) ++ List.replicate 4040 0

/-- R417, R418: what the save area holds behind its header (log 58). -/
def State.saveImage (s : State) (ten n area : Nat) : SaveImage :=
  let t := s.ten ten
  let x := t.slot n
  { ten := ten, area := area, jobTag := t.jobTag, ctx := x.ctx, clusters := t.clusters, lane := x.lane, sp := x.sp
    scratch := (s.chain ten).map fun c => (c, memCut (s.cluster c).sp x.spBase x.spSize)
    tick := s.tick
    tasks := s.tasks.filter (·.of ten x.ctx)
    cohorts := (s.ctxCohorts ten x.ctx).map fun h =>
      { h with coaches := h.coaches.map fun c => { c with order := none, stopped := false } }
    maps := (s.chain ten).flatMap fun c =>
      ((s.cluster c).maps.filter fun m => m.ten == ten && m.ctx == x.ctx).map fun m => (c, m)
    xc := x.xc }

/-- A context's state on the block gone: cohorts, landing maps, shared counters. -/
def State.dropCtx (s : State) (ten n : Nat) : State :=
  let ctx := ((s.ten ten).slot n).ctx
  let gone := (s.ctxCohorts ten ctx)
  State.modSlot { s with
      cohorts := s.cohorts.filter fun h => !gone.contains h
      clusters := s.clusters.map fun c => { c with maps := c.maps.filter fun m => !(m.ten == ten && m.ctx == ctx) } } ten n fun x =>
    { x with xc := [] }

/-- R418, R421: a PARK or UNPARK that has ended. -/
def State.endMove (s : State) (ten n : Nat) (st : SlotSt) : State :=
  (s.modSlot ten n fun x => { x with st := st, move := none, blockedSince := none }).modTen ten fun t => { t with hinted := false }

/-- Rings of a context. -/
def State.ctxRings (s : State) (ten ctx : Nat) : List Nat :=
  (List.range s.rings.length).filter fun r => (s.ring r).en && (s.ring r).ten.toNat == ten && (s.ring r).ctx.toNat == ctx

/-- R416, R419: a context's rings are watched again, and their tail words read at once. -/
def State.watchAgain (s : State) (ten ctx : Nat) : State :=
  (s.ctxRings ten ctx).foldl (fun (s : State) r => s.readTail r false) s

/-- R419: the context goes on as if it had not been parked. -/
def State.unpauseCtx (s : State) (ten n : Nat) (m : Move) (reason : Nat) : State :=
  let ctx := ((s.ten ten).slot n).ctx
  (((s.endMove ten n .resident).stopCoaches ten ctx false).finish m.cmd stFailed reason 0 0).watchAgain ten ctx

/-- PARK_DONE (R418, steps 4 and 5): a fault of the save ends the PARK as failed (log 59). -/
def execParkDone (ten slot : Nat) (s : State) : Out :=
  match s.parkOf ten slot with
  | none => no "the slot is not being parked"
  | some m =>
    let ctx := ((s.ten ten).slot slot).ctx
    if !s.drained ten ctx then no "work of the context is still in flight"
    else
      let s1 := if (s.ten ten).holder = some slot then s.releaseUnits ten else s
      let u : UnitRef := .mover (s1.anyMover ten)
      match s1.vWrite u ten m.area (s1.saveHeader ten slot) true with
      | .bad f s' =>
        let r := xltRec f (unitWord u) 0 .checkpoint
        .next ((s'.event r.code r.detail (tenCtx ten ctx) 0 r.info0 r.info1).unpauseCtx ten slot m f.code)
      | .miss _ s' => .next (s'.unpauseCtx ten slot m 0x20)
      | .ok _ s' =>
        let im := s1.saveImage ten slot m.area
        let s' : State := { s' with saves := s'.saves.filter (fun y => !(y.ten == ten && y.area == m.area)) ++ [im] }
        .next (((s'.dropCtx ten slot).endMove ten slot .empty).finish m.cmd stDone 0 0 0)

/-- PARK_TIMEOUT (R419). -/
def execParkTimeout (ten slot t : Nat) (s : State) : Out :=
  match s.parkOf ten slot with
  | none => no "the slot is not being parked"
  | some m =>
    when (s.mayPass t && decide (m.start + (s.ten ten).ptmo.toNat ≤ t) && !s.drained ten ((s.ten ten).slot slot).ctx)
      "the drain has finished, or its time is not up" ((s.atTick t).unpauseCtx ten slot m 0x01)

/-! ### Shares (R51, R410, R498) -/

/-- R51: the lane shares of some slots fit one lane. -/
def lanesFit (xs : List Slot) : Bool :=
  decide ((xs.map (·.cohortSlots)).sum ≤ 16 ∧ (xs.map (·.coachSlots)).sum ≤ 64 ∧ (xs.map (·.regs)).sum ≤ 65536
    ∧ (xs.map (·.llmBytes)).sum ≤ 262144)

/-- R410: a scratchpad share lies within 8 MiB and has room for its unit-state area. -/
def Slot.spFits (x : Slot) : Bool :=
  decide (x.spBase + x.spSize ≤ 2 ^ 23) && (!x.hasUnits || decide (Config.unitArea ≤ x.spSize))

/-- R410: two scratchpad shares overlap. -/
def Slot.overlaps (x y : Slot) : Bool :=
  decide (0 < x.spSize ∧ 0 < y.spSize ∧ x.spBase < y.spBase + y.spSize ∧ y.spBase < x.spBase + x.spSize)

/-- R498: a slot's exchange window lies within its share, below its unit-state area. -/
def Slot.windowFits (x : Slot) : Bool := x.xwSize == 0 || decide (x.xwBase + x.xwSize ≤ x.spLimit)

/-- The other occupied slots of a tenancy. -/
def Tenancy.otherSlots (t : Tenancy) (n : Nat) : List Slot :=
  ((List.range 4).filter fun m => m != n && (t.slot m).st != .empty).map t.slot

/-- R51, R410: the shares of a slot that is to be n can be held beside those of the occupied slots. -/
def Tenancy.slotFits (t : Tenancy) (n : Nat) (x : Slot) : Bool :=
  lanesFit (x :: t.otherSlots n) && x.spFits && !((t.otherSlots n).any x.overlaps)

/-! ### UNPARK (R416) -/

/-- R416: the lowest-numbered empty slot whose shares the host has set, to values that can be held beside the occupied slots' (log 85). -/
def Tenancy.freeSlot (t : Tenancy) : Option Nat :=
  leastFrom (fun n => let x := t.slot n; x.st == .empty && (x.lane != 0 || x.sp != 0) && t.slotFits n x) 4

/-- R416: the saved image a header names. -/
def State.savedBy (s : State) (t : Tenancy) (ctx : Nat) (x : Slot) (tick : Nat) : Option SaveImage :=
  s.saves.find? fun y => y.jobTag == t.jobTag && y.ctx == ctx && y.lane == x.lane && y.sp == x.sp
    && y.clusters == t.clusters && y.tick == tick

/-- R416, R417: the header agrees with the slot, and its save is one the firmware has written (log 53, log 58). -/
def State.headerOk (s : State) (t : Tenancy) (ctx : Nat) (x : Slot) (bs : List Byte) : Bool :=
  leAt bs 0 4 == Config.saveFormat.toNat && leAt bs 4 4 == t.jobTag.toNat && leAt bs 8 1 == ctx
    && leAt bs 9 1 == t.clusters.toNat && leAt bs 12 4 == x.lane.toNat && leAt bs 16 4 == x.sp.toNat
    && (s.savedBy t ctx x (leAt bs 24 8)).isSome

/-- R416: the slot, and the TICK of the save to be restored. -/
def chkUnpark (c : CmdRef) : CM (Nat × Option Nat) := do
  let t ← cTen c
  let ctx := c.entry.arg0.toNat
  let area := c.entry.arg1.toNat
  match t.freeSlot with
  | none => throw 0x1D
  | some n => do
    cNeed (t.slotOf ctx).isNone 0x1D
    if area = 0 then return (n, none)
    else
      let s ← get
      match s.vRead (.mover (s.anyMover c.ten)) c.ten area 64 true with
      | .bad _ _ => throw 0x1D
      | .miss _ _ => throw 0x1D
      | .ok bs s' => do
        set s'
        cNeed (s'.headerOk t ctx (t.slot n) bs) 0x1D
        return (n, some (leAt bs 24 8))

def actUnpark (c : CmdRef) (x : Nat × Option Nat) (s : State) : State :=
  (s.holdRing c).modSlot c.ten x.1 fun y =>
    { y with st := .unparking, ctx := c.entry.arg0.toNat, move := some ⟨c, c.entry.arg1.toNat, s.tick, x.2⟩ }

def execUnpark (r : Nat) (e : CmdEntry) (s : State) : Out := s.takeCmd r e ⟨11, fun _ => true⟩ chkUnpark actUnpark

/-- R416: what a parked context left is discarded: its tasks' DISPATCHes complete DISCARDED (log 52). -/
def State.forgetCtx (s : State) (ten ctx : Nat) : State :=
  let ts := s.tasks.filter (·.of ten ctx)
  let s := ts.foldl (fun (s : State) k => (s.complete k.cmd stDiscarded 0 0 0).releaseFences k.id)
    { s with tasks := s.tasks.filter fun k => !k.of ten ctx }
  s.modTen ten fun t =>
    { t with hitches := t.hitches.filter (·.ctx != ctx), unitsUsed := t.unitsUsed.filter (· != ctx) }

/-- R416: a fresh context in a slot: its share of every cluster zeroed. -/
def State.freshCtx (s : State) (ten n : Nat) : State :=
  let x := (s.ten ten).slot n
  let s := (s.dropCtx ten n).forgetCtx ten x.ctx
  (s.chain ten).foldl (fun (s : State) c => s.modCluster c fun y => { y with sp := memZero y.sp x.spBase x.spSize }) s

/-- R416: the tasks of a saved context: those the block still knows, and those it no longer does as they were saved. -/
def State.restoreTasks (s : State) (ten : Nat) (im : SaveImage) : State :=
  { s with tasks := s.tasks ++ (im.tasks.filter fun k => (s.task? k.id).isNone).map fun k =>
      { k with ten := ten, cmd := { k.cmd with ten := ten } } }

/-- R416: a saved context brought back exactly (log 58). -/
def State.restoreCtx (s : State) (ten n : Nat) (im : SaveImage) : State :=
  let x := (s.ten ten).slot n
  let s := im.scratch.foldl (fun (s : State) p =>
    s.modCluster p.1 fun y => { y with sp := memPaste y.sp x.spBase x.spSize p.2 }) s
  let s := s.restoreTasks ten im
  let s := im.maps.foldl (fun (s : State) m =>
    s.modCluster m.1 fun y => { y with maps := y.maps ++ [{ m.2 with ten := ten }] }) s
  State.modSlot { s with cohorts := s.cohorts ++ im.cohorts.filter fun h => (s.task? h.task).any (·.of ten x.ctx) } ten n fun y =>
    { y with xc := im.xc }

/-- UNPARK_DONE (R416): the context is resident, and its rings are watched again. -/
def execUnparkDone (ten slot : Nat) (s : State) : Out :=
  let x := (s.ten ten).slot slot
  match x.st, x.move with
  | .unparking, some m =>
    let s' := match m.restore.bind (s.savedBy (s.ten ten) x.ctx x) with
      | some im => s.restoreCtx ten slot im
      | none => s.freshCtx ten slot
    .next (((s'.endMove ten slot .resident).finish m.cmd stDone 0 0 0).watchAgain ten x.ctx)
  | _, _ => no "the slot is not being unparked"

end Sys2Proof.Machine
end

