-- ==== Sys2Proof/Machine/LineCode.lean ====
section
/-! DEFINITION. A carriage as the lanes carry it: header and message bits (R244, R245), CRC-32C (R244), the RS(544,514) codewords
(R243), markers and symbols on the lanes (R243, R269, R270), and what a receiver makes of them (R247). -/

namespace Sys2Proof.Machine

/-! ### The header (R245) -/

/-- R245: the eight header words; reserved bits are 0. -/
def carWords (c : Carriage) : List Nat :=
  [c.cls.toNat + b2n c.vlate * 2 ^ 3 + b2n c.cstart * 2 ^ 4 + b2n c.cend * 2 ^ 5 + c.srank.toNat * 2 ^ 16 + c.drank.toNat * 2 ^ 25
      + c.dhitch.toNat * 2 ^ 34 + c.sport.toNat * 2 ^ 42,
   c.carno.toNat, c.stamp.toNat, c.len.toNat + c.offset.toNat * 2 ^ 16, c.tag.toNat + c.entry.toNat * 2 ^ 32, c.brkt.toNat,
   c.cret0.toNat + c.cret1.toNat * 2 ^ 8 + c.rotm.toNat * 2 ^ 16 + c.rotp.toNat * 2 ^ 32 + b2n c.rotv * 2 ^ 37 + c.jreqp.toNat * 2 ^ 38
      + b2n c.jreqv * 2 ^ 43,
   c.ctype.toNat + b2n c.vc * 2 ^ 8]

/-- R245: the fields of eight header words; the payload is not theirs. -/
def headerOf (ws : List Nat) : Carriage :=
  let w := fun i => ws.getD i 0
  let f := fun i lo (n : Nat) => BitVec.ofNat n (bitsOf (w i) lo n)
  { cls := f 0 0 3, vlate := bitOf (w 0) 3, cstart := bitOf (w 0) 4, cend := bitOf (w 0) 5, srank := f 0 16 9, drank := f 0 25 9
    dhitch := f 0 34 8, sport := f 0 42 4, carno := f 1 0 64, stamp := f 2 0 64, len := f 3 0 11, offset := f 3 16 20
    tag := f 4 0 32, entry := f 4 32 16, brkt := f 5 0 64, cret0 := f 6 0 8, cret1 := f 6 8 8, rotm := f 6 16 16, rotp := f 6 32 5
    rotv := bitOf (w 6) 37, jreqp := f 6 38 5, jreqv := bitOf (w 6) 43, ctype := f 7 0 8, vc := bitOf (w 7) 8 }

/-! ### The message (R244) -/

/-- R244: payload bytes of a carriage. -/
def payloadMax : Nat := 1856

/-- R244: the 1,920 bytes that the CRC covers: header and payload; payload bytes that are not used are sent as 0 (log 163). -/
def carBody (c : Carriage) : List Byte :=
  (carWords c).flatMap (toLe 8) ++ c.payload.take payloadMax ++ List.replicate (payloadMax - c.payload.length) 0

/-- R244: one bit of CRC-32C: polynomial 0x1EDC_6F41, reflected (log 163). -/
def crcBit (c : Nat) : Nat := if c % 2 = 1 then (c / 2) ^^^ 0x82F63B78 else c / 2

/-- R244: CRC-32C of some bytes. -/
def crc32c (bs : List Byte) : Nat :=
  (bs.foldl (fun c b => (List.range 8).foldl (fun c _ => crcBit c) (c ^^^ b.toNat)) 0xFFFFFFFF) ^^^ 0xFFFFFFFF

/-- R244: the message of a body and a CRC; bits [15,419:15,392] are 0. -/
def messageOf (body : List Byte) (crc : Nat) : Nat := leNat body + crc * 2 ^ 15360

/-- R244: the message of a carriage. -/
def carMessage (c : Carriage) : Nat := messageOf (carBody c) (crc32c (carBody c))

/-- R244: the header and payload of a message. -/
def carriageOf (m : Nat) : Carriage :=
  let c := headerOf ((List.range 8).map fun w => bitsOf m (64 * w) 64)
  { c with payload := toLe c.len.toNat (bitsOf m 512 (8 * payloadMax)) }

/-- R244: the CRC of a message agrees with its header and payload. -/
def crcGood (m : Nat) : Bool := bitsOf m 15360 32 == crc32c (toLe 1920 m)

/-- R244: message symbol k of codeword c. -/
def messageSymbol (m c k : Nat) : Nat := bitsOf m (5140 * c + 10 * k) 10

/-! ### RS(544,514) over ten-bit symbols (R243); the field and the generator are the model's (log 163) -/

/-- Product in GF(2^10), modulo x^10 + x^3 + 1. -/
def gfMul (a b : Nat) : Nat :=
  (List.range 10).foldl (fun acc i =>
    let d := acc * 2
    let d := if 1024 ≤ d then d ^^^ 0x409 else d
    if bitOf b (9 - i) then d ^^^ a else d) 0

/-- The n-th power of an element. -/
def gfPow (a : Nat) : Nat → Nat
  | 0 => 1
  | n + 1 => gfMul a (gfPow a n)

/-- The inverse of an element other than 0. -/
def gfInv (a : Nat) : Nat := gfPow a 1022

/-- A polynomial, lowest coefficient first, at x. -/
def gfEval (p : List Nat) (x : Nat) : Nat := p.foldr (fun c acc => gfMul acc x ^^^ c) 0

/-- A polynomial times a constant; the sum of two. -/
def gfScale (k : Nat) (p : List Nat) : List Nat := p.map (gfMul k)
def gfAdd : List Nat → List Nat → List Nat
  | [], q => q
  | p, [] => p
  | a :: p, b :: q => (a ^^^ b) :: gfAdd p q

/-- R243: symbols of a codeword's parity, and the symbol errors it corrects. -/
def rsParityLen : Nat := 30
def rsMax : Nat := 15

/-- The generator: the product of x − α^i for i from 0 to 29, lowest coefficient first. -/
def rsGen : List Nat :=
  (List.range rsParityLen).foldl (fun g i => gfAdd (gfScale (gfPow 2 i) g) (0 :: g)) [1]

/-- R243: the 30 parity symbols of 514 message symbols, in the order they are sent. -/
def rsParity (msg : List Nat) : List Nat :=
  let g := (rsGen.take rsParityLen).reverse
  msg.foldl (fun reg a =>
    let k := a ^^^ reg.headD 0
    gfAdd (reg.drop 1 ++ [0]) (gfScale k g)) (List.replicate rsParityLen 0)

/-- R243: a codeword: the message symbols, then the parity. -/
def rsEncode (msg : List Nat) : List Nat := msg ++ rsParity msg

/-- The syndromes of 544 symbols, the first symbol being the highest coefficient. -/
def rsSyndromes (r : List Nat) : List Nat := (List.range rsParityLen).map fun i => gfEval r.reverse (gfPow 2 i)

/-- Berlekamp and Massey: the locator, the last other polynomial, its discrepancy, the shift between them and the length. -/
structure RsStep where
  loc : List Nat := [1]
  prev : List Nat := [1]
  disc : Nat := 1
  shift : Nat := 1
  len : Nat := 0

/-- One step on syndrome n. -/
def RsStep.next (syn : List Nat) (x : RsStep) (n : Nat) : RsStep :=
  let d := (List.range (x.len + 1)).foldl (fun acc i => acc ^^^ gfMul (x.loc.getD i 0) (syn.getD (n - i) 0)) 0
  if d = 0 then { x with shift := x.shift + 1 }
  else
    let loc := gfAdd x.loc (List.replicate x.shift 0 ++ gfScale (gfMul d (gfInv x.disc)) x.prev)
    if 2 * x.len ≤ n then { loc := loc, prev := x.loc, disc := d, shift := 1, len := n + 1 - x.len }
    else { x with loc := loc, shift := x.shift + 1 }

/-- The error locator of some syndromes. -/
def rsLocator (syn : List Nat) : RsStep := (List.range rsParityLen).foldl (RsStep.next syn) {}

/-- Forney: the error at coefficient j. -/
def rsError (syn loc : List Nat) (j : Nat) : Nat :=
  let x := gfPow 2 j
  let y := gfInv x
  let omega := (List.range rsParityLen).map fun n =>
    (List.range (n + 1)).foldl (fun acc i => acc ^^^ gfMul (loc.getD i 0) (syn.getD (n - i) 0)) 0
  let deriv := (List.range loc.length).foldl (fun acc i => if i % 2 = 1 then acc ^^^ gfMul (loc.getD i 0) (gfPow y (i - 1)) else acc) 0
  gfMul x (gfMul (gfEval omega y) (gfInv deriv))

/-- R243, R247: a received codeword: its symbols corrected and how many were wrong; none where it is uncorrectable. -/
def rsDecode (r : List Nat) : Option (List Nat × Nat) :=
  let syn := rsSyndromes r
  if syn.all (· == 0) then some (r, 0)
  else
    let x := rsLocator syn
    let js := (List.range r.length).filter fun j => gfEval x.loc (gfInv (gfPow 2 j)) == 0
    if rsMax < x.len ∨ js.length ≠ x.len then none
    else
      let fixed := js.foldl (fun (l : List Nat) j => modAt l (r.length - 1 - j) fun a => a ^^^ rsError syn x.loc j) r
      if (rsSyndromes fixed).all (· == 0) then some (fixed, js.length) else none

/-! ### The lanes (R243, R269, R270, R273) -/

/-- R243: symbols of a codeword, of its message, and of a lane. -/
def rsLen : Nat := 544
def rsMsgLen : Nat := 514
def laneSymbols : Nat := 102

/-- R243: the three codewords of a message. -/
def codewords (m : Nat) : List (List Nat) := (List.range 3).map fun c => rsEncode ((List.range rsMsgLen).map (messageSymbol m c))

/-- R243: interleaved symbol z. -/
def symbolAt (cws : List (List Nat)) (z : Nat) : Nat := (cws.getD (z % 3) []).getD (z / 3) 0

/-- R243: the marker of logical lane l in carriage n. -/
def laneMarker (l n : Nat) : Nat := (l + n) % 16

/-- R243: the 1,024 bits of logical lane l: its marker, then its symbols, least significant bit first. -/
def laneBits (cws : List (List Nat)) (l n : Nat) : Nat :=
  (List.range laneSymbols).foldl (fun a j => a + symbolAt cws (16 * j + l) * 2 ^ (4 + 10 * j)) (laneMarker l n)

/-- R273: the action of an injection, as it reaches the bits. -/
def injDrop : Nat := 0
def injSoft : Nat := 1
def injHard : Nat := 2
def injCrc : Nat := 3
def injReorder : Nat := 4

/-- R273: a codeword with its first n symbols flipped. -/
def flipSymbols (n : Nat) (cw : List Nat) : List Nat := cw.mapIdx fun i a => if i < n then a ^^^ 0x3FF else a

/-- R273: the codewords of a message under an injected action. -/
def injectedWords (m : Nat) (hit : Option Nat) : List (List Nat) :=
  match hit with
  | some 1 => (codewords m).mapIdx fun c w => if c = 0 then flipSymbols 8 w else w
  | some 2 => (codewords m).map (flipSymbols 16)
  | some 3 => codewords (m ^^^ 2 ^ 512)
  | _ => codewords m

/-- R243, R273: the sixteen logical lanes of a carriage under an injected action; DROP breaks the marker of lane 0. -/
def carLanes (c : Carriage) (hit : Option Nat) : List Nat :=
  let cws := injectedWords (carMessage c) hit
  (List.range 16).map fun l =>
    let w := laneBits cws l c.carno.toNat
    if l = 0 ∧ hit = some injDrop then w ^^^ 8 else w

/-- R269: the physical lane of logical lane k with the spare at s. -/
def physLane (s k : Nat) : Nat := if k < s then k else k + 1

/-- R269: the logical lane that physical lane j carries with the spare at s. -/
def logicalLane (s j : Nat) : Option Nat := if j < s then some j else if j = s then none else some (j - 1)

/-- R270: the logical lane that is also sent on the spare's lane, from carriage P − 128 on. -/
def Spare.doubled (x : Spare) (n : Nat) : Option Nat :=
  match x.next with
  | some (p, s') => if x.jump ∨ p ≤ n ∨ n + 128 < p then none else logicalLane x.pos s'
  | none => none

/-- R243, R269, R270: what the seventeen physical lanes of a port send with its last carriage. -/
def Port.wire (x : Port) : List (Option Nat) :=
  match x.out with
  | [] => List.replicate 17 none
  | c :: _ =>
    let ls := carLanes c x.hit
    (List.range 17).map fun j =>
      ((logicalLane x.tx.pos j).or (if j = x.tx.pos then x.tx.doubled (x.lastSent.getD 0) else none)).map fun k => ls.getD k 0

/-! ### What a receiver makes of the lanes (R247) -/

/-- R247: a carriage with the symbols corrected in it, or one that is discarded. -/
inductive Arrival where
  | taken (c : Carriage)
  | discarded (fec : Nat)
deriving DecidableEq, Repr

/-- R243: symbol j of a lane, and codeword c of sixteen logical lanes. -/
def laneSymbol (w j : Nat) : Nat := bitsOf w (4 + 10 * j) 10
def codewordOf (ls : List Nat) (c : Nat) : List Nat :=
  (List.range rsLen).map fun k => let z := 3 * k + c; laneSymbol (ls.getD (z % 16) 0) (z / 16)

/-- R244: the message of three codewords' message symbols. -/
def joinMessage (cws : List (List Nat)) : Nat :=
  (cws.mapIdx fun c w => ((w.take rsMsgLen).mapIdx fun k a => a * 2 ^ (5140 * c + 10 * k)).sum).sum

/-- R247: what arrives on the physical lanes with the receiving spare at s: discarded where a codeword is uncorrectable, the CRC
fails, or the markers do not match the carriage number. -/
def arrivalOf (s : Nat) (phys : List Nat) : Arrival :=
  let ls := (List.range 16).map fun k => phys.getD (physLane s k) 0
  let ds := (List.range 3).map fun c => rsDecode (codewordOf ls c)
  let fec := (ds.map fun d => (d.map (·.2)).getD 0).sum
  if ds.any (·.isNone) then .discarded fec
  else
    let m := joinMessage (ds.map fun d => (d.map (·.1)).getD [])
    let c := carriageOf m
    let marked := (List.range 16).all fun l => bitsOf (ls.getD l 0) 0 4 == laneMarker l c.carno.toNat
    if !crcGood m ∨ !marked then .discarded fec else .taken { c with fec := fec }

end Sys2Proof.Machine
end

