-- ==== Sys2Proof/Machine/LineBase.lean ====
section
/-! DEFINITION. What both directions of the line share: timetable entries (R249–R251), link books (R268), window-protocol
messages as bytes (R282), the faults of a membership (R248, R437), and the operation on a hitch's bytes (R253, R254). -/

namespace Sys2Proof.Machine

/-! ### Memberships and their timetables -/

/-- The held timetable with a STAMP. -/
def State.stampOf (s : State) (stamp : Nat) : Option (Nat × Timetable) :=
  (List.range 8).findSome? fun t => ((s.ten t).tt.filter fun x => x.stamp.toNat == stamp).map fun x => (t, x)

/-! ### Link books (R268) -/

/-- R268: one carriage counted in the books of a direction. -/
def Books.count (b : Books) (c : Carriage) : Books :=
  let k := c.cls.toNat
  { data := if k = clData then b.data + 1 else b.data
    vacant := if k = clVacant then b.vacant + 1 else b.vacant
    roll := if k = clRoll then b.roll + 1 else b.roll
    control := if k = clControl then b.control + 1 else b.control
    free0 := if k = clFree ∧ !c.vc then b.free0 + 1 else b.free0
    free1 := if k = clFree ∧ c.vc then b.free1 + 1 else b.free1
    audit := if k = clAudit then b.audit + 1 else b.audit
    bytes := if k = clData then b.bytes + BitVec.ofNat 32 c.len.toNat else b.bytes
    vlate := if k = clVacant ∧ c.vlate then b.vlate + 1 else b.vlate
    cret0 := b.cret0 + BitVec.ofNat 32 c.cret0.toNat
    cret1 := b.cret1 + BitVec.ofNat 32 c.cret1.toNat }

/-- R268: the books in payload order: the seven classes, payload bytes, VLATE, and the two credit returns. -/
def Books.words (b : Books) : List W32 :=
  [b.data, b.vacant, b.roll, b.control, b.free0, b.free1, b.audit, b.bytes, b.vlate, b.cret0, b.cret1]

/-- R268: an AUDIT payload. -/
def Books.payload (b : Books) : List Byte := b.words.flatMap (fun w => toLe 4 w.toNat) ++ toLe (1856 - 44) 0

/-! ### Window-protocol messages as bytes (R282) -/

/-- R282: a message's header and data, padded to 8 B. -/
def Msg.bytes (m : Msg) : List Byte :=
  toLe 1 m.op ++ toLe 1 m.status ++ toLe 2 m.len ++ toLe 4 m.rtag.toNat ++ toLe 2 m.src ++ toLe 1 m.win ++ toLe 1 m.kind
    ++ toLe 4 m.jobTag.toNat ++ toLe 8 m.addr ++ toLe 8 m.cmp.toNat ++ m.data
    ++ toLe (roundUp m.data.length 8 - m.data.length) 0

/-- R282: the message at the start of some bytes, and its size. -/
def msgAt (bs : List Byte) : Msg × Nat :=
  let op := leAt bs 0 1
  let len := leAt bs 2 2
  let n := if op = opRead then 0 else len
  let kind := leAt bs 11 1
  ({ op := op, status := leAt bs 1 1, len := len, rtag := BitVec.ofNat 32 (leAt bs 4 4), src := bitsOf (leAt bs 8 2) 0 14
     win := leAt bs 10 1, kind := kind, jobTag := BitVec.ofNat 32 (leAt bs 12 4)
     addr := if kind = 0 then bitsOf (leAt bs 16 8) 0 40 else bitsOf (leAt bs 16 8) 0 46
     cmp := BitVec.ofNat 64 (leAt bs 24 8), data := (bs.drop 32).take n }, 32 + roundUp n 8)

/-- R282, R265: a message a virtual channel may carry; reserved operations are dropped (log 67). -/
def Msg.ok (m : Msg) (vc : Bool) : Bool := if vc then m.op == opResp else [opRead, opWrite, opAdd64, opAdd32, opCas64].contains m.op

/-- R282: the messages of a FREE payload. -/
def msgsOf (vc : Bool) : Nat → List Byte → List Msg
  | 0, _ => []
  | f + 1, bs =>
    if bs.length < 32 ∨ bs.length < (msgAt bs).2 then []
    else (if (msgAt bs).1.ok vc then [(msgAt bs).1] else []) ++ msgsOf vc f (bs.drop (msgAt bs).2)

/-! ### Faults of a membership (R248, R253, R262, R437) -/

/-- R248, R437: a fault of the line: the tenancy's tasks abort under one record, and the formation brakes. -/
def State.failTen (s : State) (t : Nat) (f : FaultRec) : State :=
  let ks := s.tasks.filter (·.ten == t)
  let cause := s.ev.seq
  let s := s.event f.code f.detail (tenCtx t 0) (if ks.isEmpty then 0 else 1) f.info0 f.info1
  (ks.foldl (fun (s : State) k => s.abortTask k 1 cause f.code) s).orderBrake t (BitVec.ofNat 64 s.tick)

/-- R442: the record of a line fault: the carriage number and the timetable entry. -/
def lineRec (code p n entry : Nat) : FaultRec := ⟨code, 0, n, portWord p + entry % 2 ^ 16 * 2 ^ 16⟩

/-- R233, R442: SYNC_HITCH of a port. -/
def lineHitch (p h : Nat) : FaultRec := ⟨0x62, 0, 0, portWord p + h % 256 * 2 ^ 20⟩

/-- Carriages, buffers and payload bytes of a port discarded and counted. -/
def State.discard (s : State) (p n : Nat) : State :=
  s.modPort p fun x => { x with discarded := x.discarded + BitVec.ofNat 32 n }

/-! ### Carts of the line (R231, R253, R254) -/

/-- The scratchpad address of a cart in its pool's cluster. -/
def State.lineCartAt (s : State) (t : Nat) (h : Hitch) (i : Nat) : Nat := s.ctxShare t h.ctx + h.cartAt i

/-- The cart a hitch has under way on the line. -/
def cartOn (l : List LineCart) (h : Nat) : Option LineCart := l.find? (·.hitch == h)
/-- A hitch's cart no longer under way. -/
def dropCart (l : List LineCart) (h : Nat) : List LineCart := l.filter (·.hitch != h)
/-- A hitch's cart under way, or moved on. -/
def putCart (l : List LineCart) (c : LineCart) : List LineCart := dropCart l c.hitch ++ [c]

/-- R264: at the end of a run the carts under way return to FREE (log 61). -/
def State.dropLineCarts (s : State) (t : Nat) : State :=
  match (s.ten t).tt with
  | none => s
  | some x =>
    ((x.sending ++ x.filling).foldl (fun (s : State) c => s.freeCart t c.hitch c.cart) s).modTt t fun y =>
      { y with sending := [], filling := [], ended := [] }

end Sys2Proof.Machine
end

