-- ==== Sys2Proof/Machine/LineSend.lean ====
section
/-! DEFINITION. What a port sends (R240, R242–R253, R259, R262–R268, R270–R274, R288, R503). -/

namespace Sys2Proof.Machine

/-! ### The header (R245, R246) -/

/-- R270, R272: what a port announces of its sending spare on carriage n. -/
def Spare.announced (x : Spare) (n : Nat) : Option (Nat × Nat) :=
  x.next.filter fun a => decide (n < a.1) && (x.jump || decide (a.1 ≤ n + 512))

/-- R245: the header fields that ride on every carriage of a port. -/
def State.lineHeader (s : State) (p n : Nat) : Carriage :=
  let x := s.port p
  let m := s.membOf p
  let a := x.tx.announced n
  { sport := BitVec.ofNat 4 p, carno := BitVec.ofNat 64 n
    stamp := (m.map fun y => y.2.stamp).getD 0
    srank := BitVec.ofNat 9 ((m.map fun y => y.2.rank).getD 0)
    brkt := match m with
      | some (t, y) => if y.departed then (s.ten t).brkt else 0
      | none => 0
    cret0 := BitVec.ofNat 8 x.give0, cret1 := BitVec.ofNat 8 x.give1
    rotm := BitVec.ofNat 16 ((a.map (·.1)).getD 0), rotp := BitVec.ofNat 5 ((a.map (·.2)).getD 0), rotv := a.isSome
    jreqp := BitVec.ofNat 5 (x.jreq.getD 0), jreqv := x.jreq.isSome }

/-- R268: an AUDIT carriage: the books of the carriages before it. -/
def State.auditCar (s : State) (p n : Nat) : Carriage :=
  { s.lineHeader p n with cls := 3, len := 1856, payload := (s.port p).sent.payload }

/-! ### CONTROL and FREE -/

/-- A waiting CONTROL message, taken before this tick (R255, R256), and the state without it; a fenced port sends LINK alone
(R288). -/
def State.controlCar (s : State) (p n : Nat) : Option (Carriage × State) :=
  let ok := fun (c : Ctl) => decide (c.tick < n) && (!bitOf s.fence.toNat p || c.ctype == 6)
  match (s.port p).ctl.filter ok with
  | [] => none
  | c :: _ =>
    some ({ s.lineHeader p n with cls := 4, len := BitVec.ofNat 11 c.payload.length, ctype := BitVec.ofNat 8 c.ctype, payload := c.payload },
      s.modPort p fun x => { x with ctl := x.ctl.erase c })

/-- Messages for one hall address packed in order as far as they fit (R282). -/
def packMsgs (dest : Nat) : List (Nat × Msg) → Nat → List Msg
  | [], _ => []
  | (d, m) :: l, room =>
    if d = dest ∧ m.bytes.length ≤ room then m :: packMsgs dest l (room - m.bytes.length) else []

/-- The messages that leave on a port's virtual channel now, R503: the first message whose port this is, and those to the same
address behind it. -/
def State.freeMsgs (s : State) (p : Nat) (vc : Bool) : List Msg :=
  let all := if vc then s.xlt.resps.map fun r => (r.dest, r.msg)
    else (s.xlt.wreqs.filter (!·.sent)).map fun r => (r.dest, r.msg)
  match all.dropWhile fun m => s.portFor m.1 vc != some p with
  | [] => []
  | m :: l => packMsgs m.1 (m :: l) 1856

/-- Messages that have left on port p, which their tenancies have then used (R289). -/
def State.msgsSent (s : State) (p : Nat) (vc : Bool) (ms : List Msg) : State :=
  if vc then { s with xlt := { s.xlt with resps := ms.foldl (fun l m => l.eraseP (·.msg == m)) s.xlt.resps } }
  else
    let mine := fun (w : WReq) => ms.any (·.rtag == w.rtag)
    let s := (s.xlt.wreqs.filter mine).foldl (fun (s : State) w =>
      s.modTen w.ten fun t => { t with usedPorts := t.usedPorts ||| BitVec.ofNat 16 (2 ^ p) }) s
    { s with xlt := { s.xlt with wreqs := modWhere mine (fun w => { w with sent := true }) s.xlt.wreqs } }

/-- R265: a FREE carriage, responses first (a response never waits on a request), and the credit it spends. -/
def State.freeCar (s : State) (p n : Nat) : Option (Carriage × State) :=
  let go := fun (vc : Bool) (ms : List Msg) =>
    let bs := ms.flatMap Msg.bytes
    ({ s.lineHeader p n with cls := 5, len := BitVec.ofNat 11 bs.length, vc := vc, payload := bs },
      (s.msgsSent p vc ms).modPort p fun x =>
        if vc then { x with credit1 := x.credit1 - 1 } else { x with credit0 := x.credit0 - 1 })
  if s.quiescing 4 p then none
  else
    match s.freeMsgs p true, s.freeMsgs p false with
    | [], [] => none
    | [], ms => some (go false ms)
    | ms, _ => some (go true ms)

/-! ### DATA (R231, R253, R31) -/

/-- R346: the SEND rows of a cart that has departed count in SENTROW and as sent; where the count meets poison, the task of
their `ln.put` aborts (R94, R398). -/
def State.rowsSent (s : State) (t : Nat) (rows : Option SentRows) : State :=
  match rows with
  | none => s
  | some r =>
    let s := s.modTable t r.table fun x =>
      { x with send := { x.send with sent := (List.range r.count).foldl (fun l i => insertNew l (r.first + i)) x.send.sent } }
    match s.statusAdd t r.table srSentRow r.count with
    | some s' => s'
    | none =>
      let (f, s) := s.statusFault t r.table srSentRow
      s.failTask t r.ctx r.task f

/-- The next bytes of a hitch's cart sent; the last byte returns the cart to FREE. -/
def State.sendBytes (s : State) (p t n : Nat) (e : W64) (h : Hitch) (c : LineCart) : Carriage × State :=
  let y := h.cart c.cart
  let k := min (y.len - c.off) 1856
  let fin := decide (y.len ≤ c.off + k)
  let car := { s.lineHeader p n with
    cls := 1, cstart := teSoc e, cend := fin, dhitch := BitVec.ofNat 8 (teDhitch e)
    len := BitVec.ofNat 11 k, offset := BitVec.ofNat 20 c.off, tag := if teSoc e then y.tag else 0
    payload := s.spBytes h.cluster (s.lineCartAt t h c.cart + c.off) k }
  if fin then
    (car, ((s.modTt t fun x => { x with sending := dropCart x.sending c.hitch }).freeCart t h.num c.cart).rowsSent t y.rows)
  else (car, s.modTt t fun x => { x with sending := putCart x.sending { c with off := c.off + k } })

/-- R253, R31: a DATA entry. -/
def State.dataCar (s : State) (p t n : Nat) (e : W64) : Carriage × State :=
  let num := teShitch e
  let lineHitch? := fun (s : State) => (s.hitch? t num).filter fun h => h.cons == 4
  let open' := ((s.ten t).tt.bind fun x => cartOn x.sending num)
  if teSoc e then
    let s := match open', s.hitch? t num with
      | some c, some h =>
        let s := (s.discard p ((h.cart c.cart).len - c.off)).freeCart t num c.cart
        (s.modTt t fun x => { x with sending := dropCart x.sending num }).failTen t (lineHitch p num)
      | _, _ => s
    match (lineHitch? s).bind fun h => h.take (.port p) with
    | some (i, h') =>
      let s := s.modHitch t num fun _ => h'
      let c : LineCart := ⟨num, i, 0⟩
      (s.modTt t fun x => { x with sending := putCart x.sending c }).sendBytes p t n e h' c
    | none =>
      ({ s.lineHeader p n with vlate := true }, s.modPort p fun x => { x with lateStages := x.lateStages + 1 })
  else
    match open', lineHitch? s with
    | some c, some h => s.sendBytes p t n e h c
    | _, _ => (s.lineHeader p n, s)

/-! ### ROLL (R259) -/

/-- R259: a record's 16 bytes. -/
def rollBytes (rank : Nat) : Option RollRec → List Byte
  | some r => toLe 8 r.stamp.toNat ++ toLe 2 (rank + 2 ^ 15) ++ toLe 4 r.ident.toNat ++ toLe 2 0
  | none => toLe 8 0 ++ toLe 2 rank ++ toLe 4 0 ++ toLe 2 0

/-- R259: the records of ranks FIRST to FIRST + 115 below FSIZE. -/
def Timetable.rollPayload (x : Timetable) (first : Nat) : List Byte :=
  ((List.range 116).filter fun k => decide (first + k < x.fsize)).flatMap fun k =>
    rollBytes (first + k) (x.records.find? (·.rank == first + k))

/-! ### One carriage composed -/

/-- R250: the class of the send half of an entry, on a carriage with the header of the port. A CONTROL entry with no message
waiting sends an empty one of CTYPE 0 (log 68). -/
def State.classCar (s : State) (p t n : Nat) (x : Timetable) (e : W64) : Carriage × State :=
  let base := s.lineHeader p n
  match teSclass e with
  | 1 => s.dataCar p t n e
  | 2 =>
    let bs := x.rollPayload (teFirst e)
    ({ base with cls := 2, len := BitVec.ofNat 11 bs.length, payload := bs }, s)
  | 4 => (s.controlCar p n).getD ({ base with cls := 4 }, s)
  | 5 => (s.freeCar p n).getD (base, s)
  | _ => (base, s)

/-- R245, R250: the send half of an entry; every carriage of an entry carries its DRANK. -/
def State.entryCar (s : State) (p t n : Nat) (x : Timetable) (e : W64) : Carriage × State :=
  let r := s.classCar p t n x e
  ({ r.1 with drank := BitVec.ofNat 9 (teDrank e) }, r.2)

/-- R240, R265, R267: outside RUNNING and BRAKING. -/
def State.idleCar (s : State) (p n : Nat) : Carriage × State :=
  if n % 65536 = 0 then (s.auditCar p n, s)
  else
    match s.controlCar p n with
    | some r => r
    | none => if bitOf s.fence.toNat p then (s.lineHeader p n, s) else (s.freeCar p n).getD (s.lineHeader p n, s)

/-- R240, R251, R264: the carriage of number n on port p. -/
def State.compose (s : State) (p n : Nat) : Carriage × State :=
  match s.runOf p with
  | some (t, x) =>
    match (s.ten t).plan x p n with
    | .roll j e =>
      let r := s.entryCar p t n x e
      ({ r.1 with entry := BitVec.ofNat 16 j }, r.2)
    | .cycle j e =>
      let r := s.entryCar p t n x e
      ({ r.1 with entry := BitVec.ofNat 16 j }, r.2)
    | .audit => (s.auditCar p n, s)
    | _ => (s.lineHeader p n, s)
  | none => s.idleCar p n

/-! ### The injector (R273, R506) -/

/-- R506: the injector acts on a carriage. -/
def Injector.acts (i : Injector) (p : Nat) (c : Carriage) : Bool :=
  i.en && decide (i.since < c.carno.toNat ∧ i.count ≠ 0) && bitOf i.cls.toNat c.cls.toNat
    && (if i.random then (srBits i.seed (BitVec.ofNat 64 p) c.carno).toNat % 2 ^ i.log2r.toNat == 0 else c.carno == i.carno)

/-- R273, R506: one injection counted, with its record. -/
def State.injected (s : State) (p : Nat) (c : Carriage) : State :=
  let a := (s.port p).inj.action.toNat
  (s.modPort p fun x => { x with inj := { x.inj with
      count := x.inj.count - 1, done := x.inj.done + 1, en := x.inj.count != 1 } }).event 0xA9 0 {} 0 c.carno.toNat
    (portWord p + a * 2 ^ 16)


/-! ### Departure -/

/-- R242, R266: at carriage M the books sent are zeroed and the credits set to 128. -/
def Port.startTx (x : Port) (n : Nat) : Port :=
  if x.txDue ∧ x.m.toNat ≤ n then
    { x with
      txDue := false, sent := {}, led0 := { x.led0 with sent := {} }, credit0 := 128, credit1 := 128, give0 := 0, give1 := 0 }
  else x

/-- R240, R268: carriage n of port p composed and counted. -/
def State.make (s : State) (p n : Nat) : Carriage × State :=
  let s := s.modPort p (·.startTx n)
  let r := s.compose p n
  (r.1, r.2.modPort p fun x =>
    { x with sent := x.sent.count r.1, give0 := x.give0 - r.1.cret0.toNat, give1 := x.give1 - r.1.cret1.toNat })

/-- What departs on a port: one carriage, under an injected action; `later` is a carriage that goes in the next tick. -/
def State.send (s : State) (p n : Nat) (c : Carriage) (hit : Option Nat) (later : Option Carriage) : State :=
  s.modPort p fun x => { x with
    out := [if hit = some injSoft then { c with fec := 8 } else c], hit := hit, swapped := later, lastSent := some n }

/-- R258, R264: DEPARTURE or STOP_CARRIAGE stands before carriage n of a port. -/
def State.waitsFor (s : State) (p n : Nat) : Bool :=
  match s.membOf p with
  | some (t, x) =>
    (x.st == .armed && (s.port p).st == .armed && decide ((s.ten t).td.toNat ≤ n))
      || (x.departed && (s.port p).st == .braking && (s.ten t).stopAt == some n)
  | none => false

/-- R240: the tick n of a port sends one carriage. REORDER sends the next carriage in place of this one, which follows a tick later
(log 69). -/
def State.depart (s : State) (p n : Nat) : State :=
  match (s.port p).swapped with
  | some c => s.send p n c none none
  | none =>
    let r := s.make p n
    let i := (s.port p).inj
    if !i.acts p r.1 then r.2.send p n r.1 none none
    else if i.action.toNat ≠ injReorder then (r.2.injected p r.1).send p n r.1 (some i.action.toNat) none
    else if s.waitsFor p (n + 1) then r.2.send p n r.1 none none
    else
      let next := (r.2.injected p r.1).make p (n + 1)
      next.2.send p n next.1 (some injReorder) (some r.1)

/-- CARRIAGE_DEPARTURE (R240): one carriage at each tick; never two in one, and none is skipped (R33). -/
def execCarriageDeparture (port t : Nat) (s : State) : Out :=
  let x := s.port port
  if port ≥ 16 ∨ !x.st.sends ∨ !s.mayPass t ∨ x.lastSent.any (fun n => decide (t ≤ n)) then
    no "the port does not send a carriage in this tick"
  else if s.waitsFor port t then no "the departure or the stop carriage of the membership comes first"
  else .next ((s.atTick t).depart port t)

/-- STOP_CARRIAGE (R264): carriage B + 4,096 goes as AUDIT on every braking port. -/
def execStopCarriage (ten t : Nat) (s : State) : Out :=
  match (s.ten ten).tt, (s.ten ten).stopAt with
  | some x, some stop =>
    let ps := (portsOf x.ports).filter fun p => (s.port p).st == .braking && !(s.port p).lastSent.any fun n => decide (t ≤ n)
    when (x.st == .braking && t == stop && s.mayPass t && !ps.isEmpty) "it is not the stop carriage of a braking membership"
      (ps.foldl (fun (s : State) p => s.depart p t) (s.atTick t))
  | _, _ => no "the membership has no brake tick"

end Sys2Proof.Machine
end

