-- ==== Sys2Proof/Machine/LineStart.lean ====
section
/-! DEFINITION. Memberships: TIMETABLE_LOAD, ARM and BRAKE, the start tree's messages, departure, roll call and the end of a
brake (R249–R264, R354, R370, R376, R504). -/

namespace Sys2Proof.Machine

/-! ### TIMETABLE_LOAD (R75, R249–R252, R354, R504) -/

/-- R504: entries of timetable memory that a timetable takes. -/
def Timetable.size (x : Timetable) : Nat := (portsOf x.ports).length * (256 + x.cycle)

/-- R504: `TT_FREE`. -/
def State.ttFree (s : State) : Nat :=
  Config.ttCap - ((List.range 8).map fun t =>
    ((s.ten t).tt.map Timetable.size).getD 0 + ((s.ten t).ttLoading.map fun l => l.2.size).getD 0).sum

/-- R249: the header's fields. -/
def ttHeader (bs : List Byte) : Timetable :=
  let w1 := leAt bs 8 8
  let w2 := leAt bs 16 8
  { stamp := BitVec.ofNat 64 (leAt bs 0 8), rank := bitsOf w1 0 9, fsize := bitsOf w1 9 10, ports := BitVec.ofNat 16 (bitsOf w1 32 16)
    cycle := bitsOf w2 0 17, parent := bitsOf w2 32 4, root := bitOf w2 36, children := BitVec.ofNat 16 (bitsOf w2 48 16)
    roll := [], cyc := [] }

/-- R249: the bits the header names. -/
def ttMasks : List Nat := [fm 0 64, fm 0 19 + fm 32 16, fm 0 17 + fm 32 5 + fm 48 16, 0, 0, 0, 0, 0]

/-- R255: the start-tree ports. -/
def Timetable.tree (x : Timetable) : List Nat := portsOf x.children ++ (if x.root then [] else [x.parent])

/-- R23, R252: a port that the timetable may take: IDLE, not fenced (R288), carrying no timetable. -/
def State.portFree (s : State) (p : Nat) : Bool :=
  (s.port p).st == .idle && !bitOf s.fence.toNat p && (s.port p).memb.isNone
    && (List.range 8).all fun t => match (s.ten t).ttLoading with
      | some l => !bitOf l.2.ports.toNat p
      | none => true

/-- R252: the header's own checks. -/
def State.ttHeaderOk (s : State) (ten : Nat) (x : Timetable) (bs : List Byte) : Bool :=
  decide (x.stamp ≠ 0 ∧ 1 ≤ x.fsize ∧ x.fsize ≤ 512 ∧ x.rank < x.fsize ∧ x.ports ≠ 0 ∧ x.cycle ≠ 0) && layoutOk bs ttMasks
    && (portsOf x.ports).all s.portFree && x.tree.all (bitOf x.ports.toNat)
    && (s.ten ten).tt.isNone && (s.ten ten).ttLoading.isNone

/-- R250, R252: an entry whose halves have classes of a list, and no reserved bit. -/
def teOk (classes : List Nat) (e : W64) : Bool :=
  classes.contains (teSclass e) && classes.contains (teRclass e) && bitsOf e.toNat 29 3 == 0 && !bitOf e.toNat 35
    && bitsOf e.toNat 53 11 == 0

/-- The entries of the ports, each n of them, from byte `off` of each port's run of `len` entries. -/
def ttSection (bs : List Byte) (ports : List Nat) (off n len : Nat) : List (Nat × List W64) :=
  ports.zipIdx.map fun p =>
    (p.1, (chunksOf 8 n (bs.drop (8 * (p.2 * len + off)))).map fun w => BitVec.ofNat 64 (leNat w))

/-- R75, R252: the checks of a load, and the timetable. -/
def chkTimetable (c : CmdRef) : CM Timetable := do
  let h ← cRead c c.entry.arg0.toNat 64
  let s ← get
  let x := ttHeader h
  cNeed (decide (x.cycle ≤ 65536 ∧ x.size ≤ s.ttFree)) 0x11
  cNeed (s.ttHeaderOk c.ten x h) 0x19
  let bs ← cRead c (c.entry.arg0.toNat + 64) (8 * x.size)
  let ps := portsOf x.ports
  let x := { x with roll := ttSection bs ps 0 256 (256 + x.cycle), cyc := ttSection bs ps 256 x.cycle (256 + x.cycle) }
  cNeed (x.roll.all fun r => r.2.all (teOk [0, 2, 4])) 0x19
  cNeed (x.cyc.all fun r => r.2.all (teOk [0, 1, 4, 5])) 0x19
  return x

/-- R354: the load runs, and its ring is held. -/
def actTimetable (c : CmdRef) (x : Timetable) (s : State) : State :=
  (s.holdRing c).modTen c.ten fun t => { t with ttLoading := some (c, x) }

def isUnload (e : CmdEntry) : Bool := bitOf e.arg1.toNat 0

def execTimetableLoad (r : Nat) (e : CmdEntry) (s : State) : Out := s.takeCmd r e ⟨4, fun e => !isUnload e⟩ chkTimetable actTimetable

/-- The membership a set of ports carries. -/
def State.setMemb (s : State) (ps : List Nat) (m : Option Nat) : State :=
  ps.foldl (fun (s : State) p => s.modPort p fun x => { x with memb := m }) s

/-- TIMETABLE_LOAD_DONE (R354): the timetable is held. -/
def execTimetableLoadDone (ten : Nat) (s : State) : Out :=
  match (s.ten ten).ttLoading with
  | none => no "no load is in progress"
  | some (c, x) =>
    let s := s.modTen ten fun t => { t with ttLoading := none, tt := some x, usedPorts := t.usedPorts ||| x.ports }
    .next ((s.setMemb (portsOf x.ports) (some ten)).finish c stDone 0 x.stamp.toNat 0)

/-- R354: UNLOAD names a held timetable whose ports are IDLE. -/
def chkUnload (c : CmdRef) : CM Timetable := do
  let s ← get
  match (s.ten c.ten).tt.filter fun x => x.stamp == c.entry.arg0 with
  | none => throw 0x19
  | some x => do
    cNeed ((portsOf x.ports).all fun p => (s.port p).st == .idle) 0x19
    return x

/-- A membership's timetable released. -/
def State.dropTt (s : State) (ten : Nat) : State :=
  match (s.ten ten).tt with
  | none => s
  | some x =>
    ((s.dropLineCarts ten).setMemb (portsOf x.ports) none).modTen ten fun t => { t with tt := none }

def actUnload (c : CmdRef) (x : Timetable) (s : State) : State := (s.dropTt c.ten).finish c stDone 0 x.stamp.toNat 0

def execTimetableUnload (r : Nat) (e : CmdEntry) (s : State) : Out := s.takeCmd r e ⟨4, isUnload⟩ chkUnload actUnload

/-! ### The start tree (R255, R256, R261) -/

/-- R255: CONTROL message types. -/
def ctArm : Nat := 1
def ctAck : Nat := 2
def ctNak : Nat := 3
def ctConfirm : Nat := 4
def ctLink : Nat := 6

/-- R255: a message's payload: STAMP, T_d and eight bytes of its own. -/
def ctBytes (stamp td own : Nat) : List Byte := toLe 8 stamp ++ toLe 8 td ++ toLe 8 own

/-- R253–R255: the hitches a timetable names, as sources and as takes. -/
def Timetable.sources (x : Timetable) : List Nat :=
  (x.cyc.flatMap fun r => r.2.filterMap fun e => if teSclass e = clData then some (teShitch e) else none).eraseDups
def Timetable.takes (x : Timetable) : List Nat :=
  (x.cyc.flatMap fun r => r.2.filterMap fun e => if teRclass e = clData then some (teThitch e) else none).eraseDups

/-- R255: why a block does not accept ARM: 2 port not IDLE, 3 hitch not built, 4 T_d too near; 0: it accepts. -/
def State.armReason (s : State) (t : Nat) (x : Timetable) (td : Nat) : Nat :=
  if !((portsOf x.ports).all fun p => (s.port p).st == .idle && !bitOf s.fence.toNat p) then 2
  else if !((x.sources.all fun h => (s.hitch? t h).any (·.cons == 4)) && x.takes.all fun h => (s.hitch? t h).any (·.prod == 4)) then 3
  else if td < s.tick + 64 then 4
  else 0

/-- R256: every ACK is there: the root sends CONFIRM, any other block its ACK. -/
def State.allAcked (s : State) (t : Nat) : State :=
  match (s.ten t).tt with
  | none => s
  | some x =>
    let td := (s.ten t).td.toNat
    if !((portsOf x.children).all x.acks.contains) then s
    else if !x.root then s.sendCtl [x.parent] ctAck (ctBytes x.stamp.toNat td (1 + x.ackCount))
    else if s.tick + 8 ≤ td then
      (s.sendCtl (portsOf x.children) ctConfirm (ctBytes x.stamp.toNat td 0)).modTt t fun y => { y with confirmed := true }
    else s

/-- R255, R502: ARM accepted: ports ARMED, ARM to every child. `root` is the root's rank. -/
def State.acceptArm (s : State) (t : Nat) (x : Timetable) (td root : Nat) (cmd : Option CmdRef) : State :=
  let ps := portsOf x.ports
  let s := ps.foldl (fun (s : State) p => s.modPort p fun y => { y with rollMiss := 0 }) (s.movePorts ps .armed)
  let s := s.modTen t fun y =>
    { y with td := BitVec.ofNat 64 td
             tt := y.tt.map fun z => { z with st := .armed, confirmed := false, acks := [], ackCount := 0, nak := none, armCmd := cmd } }
  (s.sendCtl (portsOf x.children) ctArm (ctBytes x.stamp.toNat td root)).allAcked t

/-- R354: ARM is taken at the root of the membership with that STAMP. -/
def chkArm (c : CmdRef) : CM Timetable := do
  match (← cTen c).tt.filter fun x => x.stamp == c.entry.arg0 && x.root with
  | some x => return x
  | none => throw 0x1A

/-- R255, R258: the root accepts, or its ARM is FAILED with the reason of a NAK. -/
def actArm (c : CmdRef) (x : Timetable) (s : State) : State :=
  let td := c.entry.arg1.toNat
  match s.armReason c.ten x td with
  | 0 => s.acceptArm c.ten x td x.rank (some c)
  | n => s.finish c stFailed n x.rank 0

def execArm (r : Nat) (e : CmdEntry) (s : State) : Out := s.takeCmd r e ⟨7, fun _ => true⟩ chkArm actArm

/-- R261, R262, R354: a running membership brakes, an armed one is cancelled; for any other the command completes at once (its RES0: log
117). -/
def actBrake (c : CmdRef) (_ : Unit) (s : State) : State :=
  let t := s.ten c.ten
  match t.tt.filter fun x => x.stamp == c.entry.arg0 with
  | none => s.finish c stDone 0 0 0
  | some x =>
    match x.st with
    | .running | .armed =>
      (s.modTt c.ten fun y => { y with brakeCmds := y.brakeCmds ++ [c] }).orderBrake c.ten (BitVec.ofNat 64 s.tick)
    | _ => s.finish c stDone 0 t.brkt.toNat 0

def execBrake (r : Nat) (e : CmdEntry) (s : State) : Out := s.takeCmd r e ⟨8, fun _ => true⟩ (fun _ => pure ()) actBrake

/-! ### Messages taken (R255, R256, R261) -/

/-- A NAK sent on a port: the refusing rank and the reason in the message's own eight bytes (log 65). -/
def State.sendNak (s : State) (p stamp td rank reason : Nat) : State :=
  s.sendCtl [p] ctNak (ctBytes stamp td (rank + reason * 2 ^ 32))

/-- R255: ARM taken from the parent port. -/
def State.takeArm (s : State) (p : Nat) (bs : List Byte) : State :=
  let stamp := leAt bs 0 8
  let td := leAt bs 8 8
  match s.stampOf stamp with
  | none => s.fresh.2.sendNak p stamp td (s.fresh.1.toNat % 512) 1
  | some (t, x) =>
    if x.root ∨ p ≠ x.parent then s
    else
      match s.armReason t x td with
      | 0 => s.acceptArm t x td (leAt bs 16 8) none
      | n => s.sendNak p stamp td x.rank n

/-- The armed membership a message names. -/
def State.armedBy (s : State) (bs : List Byte) : Option (Nat × Timetable) :=
  (s.stampOf (leAt bs 0 8)).filter fun m => m.2.st == .armed && (s.ten m.1).td.toNat == leAt bs 8 8

/-- R255: ACK taken from a child. -/
def State.takeAck (s : State) (p : Nat) (bs : List Byte) : State :=
  match s.armedBy bs with
  | some (t, x) =>
    if bitOf x.children.toNat p ∧ !x.acks.contains p then
      (s.modTt t fun y => { y with acks := y.acks ++ [p], ackCount := y.ackCount + leAt bs 16 8 }).allAcked t
    else s
  | none => s

/-- R255: NAK taken from a child: passed to the parent, or kept at the root. -/
def State.takeNak (s : State) (p : Nat) (bs : List Byte) : State :=
  match s.armedBy bs with
  | some (t, x) =>
    if !bitOf x.children.toNat p then s
    else if x.root then
      s.modTt t fun y => { y with nak := y.nak.or (some (leAt bs 16 4, leAt bs 20 4)) }
    else s.sendCtl [x.parent] ctNak (bs.take 24)
  | none => s

/-- R256: CONFIRM taken in time arms the departure and is passed on. -/
def State.takeConfirm (s : State) (p : Nat) (bs : List Byte) : State :=
  match s.armedBy bs with
  | some (t, x) =>
    if !x.root ∧ p = x.parent ∧ s.tick + 8 ≤ (s.ten t).td.toNat then
      (s.sendCtl (portsOf x.children) ctConfirm (ctBytes x.stamp.toNat (s.ten t).td.toNat 0)).modTt t fun y =>
        { y with confirmed := true }
    else s
  | none => s

/-- R261: DISARM taken before T_d cancels the departure. -/
def State.takeDisarm (s : State) (p : Nat) (bs : List Byte) : State :=
  match s.armedBy bs with
  | some (t, _) => s.cancelDeparture t (some p)
  | none => s

/-- R242, R463: LINK taken: both ends use the later of the two proposals as M; a port still in training keeps the peer's for its
own (log 64). -/
def Port.takeLink (x : Port) (m : Nat) : Port :=
  let x := { x with linked := some (max m (x.linked.getD 0)) }
  if x.st.sends ∧ x.m.toNat < m then { x with m := BitVec.ofNat 64 m, txDue := true, rxDue := true } else x

def State.takeLink (s : State) (p : Nat) (bs : List Byte) : State := s.modPort p (·.takeLink (leAt bs 0 8))

/-! ### Departure, roll call, the end of a brake (R258–R260, R264, R376) -/

/-- R376: a fault still pending at departure ends its parties with its code. -/
def State.abortPending (s : State) (t : Nat) : State :=
  (s.ten t).faults.foldl (fun (s : State) f => s.answerAbort t f) s

/-- R258: the membership runs; its block holds its own roll record. -/
def State.startRun (s : State) (t : Nat) (x : Timetable) : State :=
  let s := s.movePorts ((portsOf x.ports).filter fun p => (s.port p).st == .armed) .running
  let s := s.modTen t fun y =>
    { y with
      brkt := 0
      tt := y.tt.map fun z =>
        { z with st := .running, armCmd := none, records := [⟨z.rank, z.stamp, s.fw.perIdent⟩], rolled := false, sending := [], filling := [], ended := [] } }
  let s := match x.armCmd with
    | some c => s.finish c stDone 0 0 0
    | none => s
  s.abortPending t

/-- R258: the start is abandoned; the root's further record carries a NAK it took. -/
def State.startOff (s : State) (t : Nat) (x : Timetable) : State :=
  let s := s.event 0xA3 0 (tenCtx t 0) 0 x.stamp.toNat feWord
  let nak := x.nak.getD (0, 0)
  let s := if x.root then s.event 0xA3 0 (tenCtx t 0) 0 x.stamp.toNat (feWord + nak.1 % 512 * 2 ^ 16 + nak.2 % 1024 * 2 ^ 25) else s
  s.abandonStart t nak.2 nak.1

/-- DEPARTURE (R258): T_d has come. -/
def execDeparture (ten t : Nat) (s : State) : Out :=
  match (s.ten ten).tt with
  | none => no "no timetable is held"
  | some x =>
    when (x.st == .armed && decide ((s.ten ten).td.toNat ≤ t) && s.mayPass t) "the membership is not armed, or T_d has not come"
      (if x.confirmed then (s.atTick t).startRun ten x else (s.atTick t).startOff ten x)

/-- R260: a rank that the block may count on: one record with the membership's STAMP, and one IDENT. -/
def Timetable.present (x : Timetable) (rank : Nat) : Bool :=
  let rs := x.records.filter (·.rank == rank)
  rs.any (fun r => r.stamp == x.stamp) && decide ((rs.map (·.ident)).eraseDups.length = 1)

/-- R260: the missing ranks. -/
def Timetable.missing (x : Timetable) : List Nat := (List.range x.fsize).filter fun r => !x.present r

/-- ROLL_CALL_CHECK (R260). -/
def execRollCallCheck (ten t : Nat) (s : State) : Out :=
  match (s.ten ten).tt with
  | none => no "no timetable is held"
  | some x =>
    let td := (s.ten ten).td.toNat
    if !x.departed ∨ x.rolled ∨ t < td + 303 ∨ !s.mayPass t then no "the roll call is not due"
    else
      let s := (s.atTick t).modTt ten fun y => { y with rolled := true }
      let miss := x.missing
      let mask : BitVec 512 := BitVec.ofNat 512 (maskOf miss)
      let s := (portsOf x.ports).foldl (fun (s : State) p => s.modPort p fun y => { y with rollMiss := mask }) s
      match miss with
      | [] => .next s
      | r :: _ =>
        .next ((s.event 0xA3 1 (tenCtx ten 0) 0 x.stamp.toNat (feWord + r * 2 ^ 16 + miss.length % 1024 * 2 ^ 25)).orderBrake ten
          (BitVec.ofNat 64 (td + 256)))

/-- BRAKE_IDLE (R264): 48 ticks after the stop carriage the ports are IDLE; the timetable stays loaded. -/
def execBrakeIdle (ten t : Nat) (s : State) : Out :=
  match (s.ten ten).tt, (s.ten ten).stopAt with
  | some x, some stop =>
    when (x.st == .braking && decide (stop + Config.linkMax ≤ t) && s.mayPass t) "the membership does not brake, or its last arrivals may still come"
      (let s := s.atTick t
       let s := s.movePorts ((portsOf x.ports).filter fun p => (s.port p).st == .braking) .idle
       ((s.dropLineCarts ten).modTt ten fun y => { y with st := .loaded, confirmed := false }).finishBrakes ten)
  | _, _ => no "the membership has no brake tick"

end Sys2Proof.Machine
end

