-- ==== Sys2Proof/Machine/LineTake.lean ====
section
/-! DEFINITION. Carriages that arrive (R247, R248, R254–R261, R265–R268, R270, R272, R288, R40). -/

namespace Sys2Proof.Machine

/-! ### What every carriage carries (R242, R245, R246, R265, R270, R272) -/

/-- R242: at carriage M the books taken are zeroed. -/
def Port.startRx (x : Port) (n : Nat) : Port :=
  if x.rxDue ∧ x.m.toNat ≤ n then
    { x with
      rxDue := false, taken := {}, uncorr := 0, led0 := { x.led0 with taken := {}, uncorr := 0 }, lastCarno := none, seen := [] }
  else x

/-- The carriage number nearest above n with given bits [15:0]. -/
def carnoFrom (n low : Nat) : Nat := n + (low + 65536 - n % 65536) % 65536

/-- R270, R272: an announced step of the peer's spare, or the jump to the position this port has asked for (`jreq`). A position
the spare already has is an announcement that has been carried out. -/
def Spare.hear (x : Spare) (jreq : Option Nat) (c : Carriage) : Spare :=
  let pos := c.rotp.toNat
  if c.rotv ∧ pos ≠ x.pos then
    { x with next := some (carnoFrom c.carno.toNat c.rotm.toNat, pos), jump := jreq == some pos }
  else x

/-- R272: a request to move the sending spare: announced for the carriage 16 after this tick. -/
def Spare.asked (x : Spare) (c : Carriage) (t : Nat) : Spare :=
  if c.jreqv ∧ !x.held ∧ !(x.jump ∧ x.next.isSome) then { x with next := some (t + 16, c.jreqp.toNat), jump := true, target := none } else x

/-- R271, R272: the peer asks for a lane that the spare, retired into another, cannot replace (log 164). -/
def Spare.cannot (x : Spare) (c : Carriage) : Bool := c.jreqv && x.held && x.pos != c.jreqp.toNat

/-- A carriage counted, and its link-maintenance fields taken. -/
def State.linkFields (s : State) (p : Nat) (c : Carriage) : State :=
  (s.count (cntFecCor p) c.fec).modPort p fun x =>
    let x := x.startRx c.carno.toNat
    { x with
      fecNow := x.fecNow + c.fec
      taken := x.taken.count c
      credit0 := x.credit0 + c.cret0.toNat, credit1 := x.credit1 + c.cret1.toNat
      rx := x.rx.hear x.jreq c, tx := x.tx.asked c s.tick
      seen := insertNew (x.seen.filter fun n => decide (s.tick ≤ n + Config.linkMax)) c.carno.toNat }

/-! ### The checks of R248 -/

/-- R248, R254: LINE_MISSING or LINE_STAMP, or neither, for a carriage against its entry. -/
def Timetable.check (x : Timetable) (last : Option Nat) (e : W64) (c : Carriage) : Option Nat :=
  let k := c.cls.toNat
  let rc := teRclass e
  let th := teThitch e
  if c.stamp ≠ x.stamp ∨ c.srank.toNat ≠ teSrank e ∨ last.any (fun n => decide (c.carno.toNat ≤ n)) then some 0x41
  else if k = clVacant ∧ rc ≠ clVacant then
    if c.vlate then some 0x40
    else if rc = clFree ∨ (rc = clData ∧ x.ended.contains th) then none
    else some 0x41
  else if k ≠ rc then some 0x41
  else if expected e ∧ c.drank.toNat ≠ x.rank then some 0x41
  else if k = clData ∧ (c.dhitch.toNat ≠ th ∨ (!c.cstart ∧ (cartOn x.filling th).isNone)) then some 0x41
  else none

/-- A carriage taken: the port's latest number. -/
def State.tookCar (s : State) (p n : Nat) : State := s.modPort p fun x => { x with lastCarno := some n }

/-- R248: an AUDIT that the plan expects: of the membership, and later than every carriage taken; it has no entry to differ from. -/
def Timetable.checkAudit (x : Timetable) (last : Option Nat) (c : Carriage) : Option Nat :=
  if c.cls.toNat ≠ clAudit ∨ c.stamp ≠ x.stamp ∨ last.any (fun n => decide (c.carno.toNat ≤ n)) then some 0x41 else none

/-- A carriage that failed its check: counted, and in RUNNING outside the roll call a fault (R248). -/
def State.badCar (s : State) (p t : Nat) (x : Timetable) (c : Carriage) (pl : Plan) (code : Nat) : State :=
  let s := s.discard p 1
  match pl with
  | .roll _ _ => s
  | _ => if x.st = .running then s.failTen t (lineRec code p c.carno.toNat pl.index) else s

/-- R40, R424: a tenancy whose arrivals are counted as discarded. -/
def State.shutTen (s : State) (t : Nat) : Bool :=
  s.st == .contained || (s.ten t).st == .halted || ((s.ten t).st == .quiescing && s.quiesce.forced && s.quiescing 5 t)

/-- R262: an earlier brake tick taken from a carriage of the formation. -/
def State.hearBrake (s : State) (t : Nat) (x : Timetable) (c : Carriage) : State :=
  if c.brkt ≠ 0 ∧ c.stamp = x.stamp then s.orderBrake t c.brkt else s

/-- R288: a carriage that a fenced port discards. -/
def fencedOff (c : Carriage) : Bool :=
  !(c.cls.toNat == clVacant || c.cls.toNat == clAudit || (c.cls.toNat == clControl && c.ctype.toNat == ctLink))

/-- What arrives outside a run is taken as IDLE traffic; in a run it is checked against the plan. `act` is what a carriage
of the row does once accepted in a run, with the membership and the entry; `idle` what it does outside one. -/
def State.taken (s : State) (p : Nat) (c : Carriage) (act : State → Nat → W64 → State) (idle : State → State) : State :=
  let n := c.carno.toNat
  if bitOf s.fence.toNat p ∧ fencedOff c then s.modPort p fun x => { x with fenceDrop := x.fenceDrop + 1 }
  else
    match s.runOf p with
    | none => (idle s).tookCar p n
    | some (t, x) =>
      let s := s.hearBrake t x c
      match (s.ten t).tt with
      | none => s
      | some x =>
        let pl := (s.ten t).plan x p n
        let done := fun (bad : Option Nat) (e : W64) => match bad with
          | some code => s.badCar p t x c pl code
          | none => (if s.shutTen t then s.discard p 1 else act s t e).tookCar p n
        match pl with
        | .before => (idle s).tookCar p n
        | .roll _ e => done (x.check (s.port p).lastCarno e c) e
        | .cycle _ e => done (x.check (s.port p).lastCarno e c) e
        | .audit => done (x.checkAudit (s.port p).lastCarno c) 0
        | .after => if c.cls.toNat = clVacant then s.tookCar p n else s.discard p 1

/-- R40: the port went down in this tick with the block's containment: what arrives in the tick is still accepted and counted. -/
def State.contained (s : State) (p : Nat) : Bool := (s.port p).contAt == some s.tick

/-- A carriage that reaches a port. One that reaches it in the tick of the block's containment is counted, and discarded (R40);
one that asks for a lane the port cannot give takes the port DOWN (R272). -/
def State.arrive (s : State) (p : Nat) (c : Carriage) (act : State → Nat → W64 → State) (idle : State → State) : Out :=
  if p ≥ 16 then no "no such port"
  else if s.contained p then .next ((s.linkFields p c).discard p 1)
  else if !(s.port p).st.sends then no "the port has no trained link"
  else
    let t := (s.linkFields p c).taken p c act idle
    .next (if (s.port p).tx.cannot c then t.portDown p 6 else t)

/-- The row takes carriages of one class. -/
def State.arriveAs (s : State) (p k : Nat) (c : Carriage) (act : State → Nat → W64 → State) (idle : State → State) : Out :=
  if c.cls.toNat ≠ k then no "the carriage is of another class" else s.arrive p c act idle

/-! ### DATA (R233, R254) -/

/-- R254: a cart that is still filling when its hitch's next cart starts is given back and counted (log 66). -/
def State.leaveCart (s : State) (p t th : Nat) : State :=
  match (s.ten t).tt.bind fun x => cartOn x.filling th with
  | some lc => ((s.discard p 1).freeCart t th lc.cart).modTt t fun x => { x with filling := dropCart x.filling th }
  | none => s

/-- R254: a cart of the take hitch for a carriage: a FREE one at CSTART, else the one that is filling. -/
def State.takeCartFor (s : State) (p t th : Nat) (c : Carriage) : Option (LineCart × State) :=
  if c.cstart then
    let s := s.leaveCart p t th
    match (s.hitch? t th).filter fun h => h.prod == 4 with
    | some h => h.freeCart.map fun i =>
      let lc : LineCart := ⟨th, i, 0⟩
      (lc, (s.modHitch t th fun h => (h.fill i (.port p)).modCart i fun y => { y with tag := c.tag }).modTt t fun x =>
        { x with filling := putCart x.filling lc, ended := x.ended.filter (· != th) })
    | none => none
  else ((s.ten t).tt.bind fun x => cartOn x.filling th).map fun lc => (lc, s)

/-- R254: payload bytes land in the cart; CEND queues it. -/
def State.landData (s : State) (p : Nat) (c : Carriage) (t : Nat) (e : W64) : State :=
  let th := teThitch e
  match s.takeCartFor p t th c with
  | none => (s.discard p 1).failTen t (lineHitch p th)
  | some (lc, s) =>
    match s.hitch? t th with
    | none => s
    | some h =>
      let fin := c.offset.toNat + c.len.toNat
      if h.size < fin then
        ((s.discard p 1).freeCart t th lc.cart |>.modTt t fun x => { x with filling := dropCart x.filling th }).failTen t (lineHitch p th)
      else
        let s := s.spWrite h.cluster (s.lineCartAt t h lc.cart + c.offset.toNat) (c.payload.take c.len.toNat)
        if c.cend then
          (s.modHitch t th fun h => h.put lc.cart fin (h.cart lc.cart).tag h.cluster).modTt t fun x =>
            { x with filling := dropCart x.filling th, ended := insertNew x.ended th }
        else s

/-- DATA_CARRIAGE (R254); outside a run it is discarded and counted (R264). -/
def execDataCarriage (port : Nat) (c : Carriage) (s : State) : Out :=
  s.arriveAs port clData c (fun s t e => s.landData port c t e) (·.discard port 1)

/-- VACANT_CARRIAGE (R248). -/
def execVacantCarriage (port : Nat) (c : Carriage) (s : State) : Out := s.arriveAs port clVacant c (fun s _ _ => s) id

/-! ### ROLL (R259, R260) -/

/-- R259: the records of a payload that are PRESENT. -/
def rollOf (bs : List Byte) : List RollRec :=
  (chunksOf 16 116 bs).filterMap fun w =>
    if bitOf (leAt w 8 2) 15 then some ⟨bitsOf (leAt w 8 2) 0 9, BitVec.ofNat 64 (leAt w 0 8), BitVec.ofNat 32 (leAt w 10 4)⟩ else none

/-- ROLL_CARRIAGE (R259). -/
def execRollCarriage (port : Nat) (c : Carriage) (s : State) : Out :=
  s.arriveAs port clRoll c (fun s t _ => s.modTt t fun x =>
    { x with records := (rollOf (c.payload.take c.len.toNat)).foldl (fun l r => if l.contains r then l else l ++ [r]) x.records })
    (·.discard port 1)

/-! ### AUDIT (R266–R268) -/

/-- R268: the sender's books of a payload. -/
def auditWords (bs : List Byte) : List W32 := (List.range 11).map fun i => BitVec.ofNat 32 (leAt bs (4 * i) 4)

/-- R268: a difference of books, as a signed number. -/
def bookDiff (a b : W32) : Int := (a - b).toInt

/-- R266, R268: the books of a payload agree with the receiver's, `x` being the port before the carriage is counted. -/
def Port.auditOk (x : Port) (bs : List Byte) : Bool :=
  let w := auditWords bs
  let ds := (w.zip x.taken.words).map fun q => bookDiff q.1 q.2
  (ds.take 9).all (fun d => decide (0 ≤ d)) && decide ((ds.take 7).sum = (x.uncorr.toNat : Int))
    && w.getD 9 0 == x.taken.cret0 && w.getD 10 0 == x.taken.cret1 && x.creditsOk

/-- R268: LINE_AUDIT: a timetabled membership's tasks abort and it brakes; else a record alone. -/
def State.auditFails (s : State) (p n : Nat) : State :=
  match s.membOf p with
  | some (t, _) =>
    if (s.ten t).timetabled then s.failTen t (lineRec 0x42 p n 0)
    else s.event 0x42 0 (tenCtx t 0) 0 n (portWord p)
  | none => s.event 0x42 0 {} 0 n (portWord p)

/-- R466: an audit interval ends: more than 4,096 symbols corrected in it while HELD set FECHI, with its record (log 158). -/
def State.auditFec (s : State) (p : Nat) : State :=
  let x := s.port p
  let s := s.modPort p fun y => { y with fecNow := 0 }
  if !((x.tx.held || x.rx.held) && decide (4096 < x.fecNow)) then s
  else
    if x.fechi then s.markAgain (0xF000 + 8 * p) 40
    else
      let s := s.markSet (0xF000 + 8 * p) 40
      State.errRecord (s.modPort p fun y => { y with fechi := true }) (0xF000 + 8 * p) 40

/-- AUDIT_CARRIAGE (R268, R466). -/
def execAuditCarriage (port : Nat) (c : Carriage) (s : State) : Out :=
  let x := (s.port port).startRx c.carno.toNat
  let good := x.rxDue || x.auditOk c.payload
  let f := fun (s : State) => (if good then s else s.auditFails port c.carno.toNat).auditFec port
  s.arriveAs port clAudit c (fun s _ _ => f s) f

/-! ### FREE (R265, R266, R282) -/

/-- R265: a carriage's messages into a buffer of its channel; a carriage with none gives its buffer back at once, and one that
finds no buffer is discarded and counted. -/
def State.takeFree (s : State) (p : Nat) (c : Carriage) : State :=
  let ms := msgsOf c.vc 58 (c.payload.take c.len.toNat)
  let x := s.port p
  let full := if c.vc then decide (128 ≤ x.vc1.length) else decide (128 ≤ x.vc0.length)
  if full then s.discard p 1
  else s.modPort p fun x =>
    if ms.isEmpty then (if c.vc then { x with give1 := x.give1 + 1 } else { x with give0 := x.give0 + 1 })
    else if c.vc then { x with vc1 := x.vc1 ++ [ms] } else { x with vc0 := x.vc0 ++ [ms] }

/-- FREE_CARRIAGE (R265). -/
def execFreeCarriage (port : Nat) (c : Carriage) (s : State) : Out :=
  s.arriveAs port clFree c (fun s _ _ => s.takeFree port c) (·.takeFree port c)

/-! ### CONTROL (R242, R255–R261) -/

/-- The types R255 to R261 give CONTROL messages. -/
def knownCtype (n : Nat) : Bool := decide (1 ≤ n ∧ n ≤ 6)

/-- A CONTROL carriage of one type. One that carries no message the spec names arrives without effect (log 68). -/
def State.control (s : State) (p ctype : Nat) (c : Carriage) (f : State → State) : Out :=
  if !knownCtype c.ctype.toNat then s.arriveAs p clControl c (fun s _ _ => s) id
  else if c.ctype.toNat ≠ ctype then no "the carriage carries another message" else s.arriveAs p clControl c (fun s _ _ => f s) f

def execArmControl (port : Nat) (c : Carriage) (s : State) : Out := s.control port ctArm c (·.takeArm port c.payload)
def execAck (port : Nat) (c : Carriage) (s : State) : Out := s.control port ctAck c (·.takeAck port c.payload)
def execNak (port : Nat) (c : Carriage) (s : State) : Out := s.control port ctNak c (·.takeNak port c.payload)
def execConfirm (port : Nat) (c : Carriage) (s : State) : Out := s.control port ctConfirm c (·.takeConfirm port c.payload)
def execDisarm (port : Nat) (c : Carriage) (s : State) : Out := s.control port ctDisarm c (·.takeDisarm port c.payload)
/-- LINK (R242, R463): a port in training takes the peer's proposal too. -/
def execLink (port : Nat) (c : Carriage) (s : State) : Out :=
  if (s.port port).st = .training ∧ c.cls.toNat = clControl ∧ c.ctype.toNat = ctLink then .next (s.takeLink port c.payload)
  else s.control port ctLink c (·.takeLink port c.payload)

/-! ### Absent carriages (R247, R248) -/

/-- DISCARDED_CARRIAGE (R247): counted in UNCORR, and treated as absent; `fec` symbols of its other codewords were corrected. -/
def execDiscardedCarriage (port carno fec : Nat) (s : State) : Out :=
  if port ≥ 16 ∨ !((s.port port).st.sends || s.contained port) then no "the port has no trained link"
  else .next ((s.count (cntFecCor port) fec).modPort port fun x =>
    let x := x.startRx carno; { x with uncorr := x.uncorr + 1, fecNow := x.fecNow + fec })

/-- CARRIAGE_TIMEOUT (R248): carriage n, expected in a run, has not been taken by tick n + 48: LINE_MISSING in RUNNING outside the
roll call, else it is only counted (log 165). -/
def execCarriageTimeout (port n t : Nat) (s : State) : Out :=
  match s.runOf port with
  | none => no "the port carries no timetable"
  | some (ten, x) =>
    let pl := (s.ten ten).plan x port n
    when (decide (port < 16) && s.overdue port n && t == n + Config.linkMax && s.mayPass t) "no carriage of that number is missing"
      (let s := (s.atTick t).modPort port fun y => { y with seen := insertNew y.seen n }
       match pl with
       | .cycle j _ => if x.st = .running then s.failTen ten (lineRec 0x40 port n j) else s.discard port 1
       | _ => s.discard port 1)

end Sys2Proof.Machine
end

