-- ==== Sys2Proof/Machine/LinePort.lean ====
section
/-! DEFINITION. A port itself: training, disable, fences, routes, lane rotation and retirement, the injector's arming, the
hall counter (R241, R242, R269–R274, R286, R288, R463–R466, R502, R503, R506). -/

namespace Sys2Proof.Machine

/-! ### Training (R241, R242, R463, R502) -/

/-- R502: TRAIN of a wired port that is DOWN (log 63). -/
def State.trainPort (s : State) (p : Nat) : State :=
  if (s.port p).st = .down ∧ bitOf s.fw.perPorts.toNat p then
    State.movePort { (s.modPort p fun x => { x with trainStart := s.tick, linked := none }) with
      enPort := s.enPort ||| BitVec.ofNat 16 (2 ^ p) } p .training
  else s

/-- LINE_TRAIN (R463, R502). -/
def execLineTrain (port : Nat) (s : State) : Out :=
  if port ≥ 16 then no "no such port" else s.hostWrite (s.trainPort port)

/-- R463: lanes that count as failed. -/
def State.failedLanes (s : State) (p : Nat) (good : BitVec 17) : BitVec 17 :=
  ~~~good ||| s.fw.perRetired.getD p 0 ||| (s.port p).retireReg

/-- R269, R271: the spare of a port after training: at home and rotating, or held at the failed lane. -/
def Port.trainSpare (x : Port) (failed : BitVec 17) (t : Nat) : Port :=
  match setBits 17 failed.toNat with
  | [] => { x with tx := { stepped := t }, rx := { stepped := t }, rotating := true }
  | l :: _ => { x with tx := { pos := l, held := true }, rx := { pos := l, held := true }, rotating := false }

/-- R242, R463: the port is trained; it proposes carriage M for the link's books, or takes its peer's later one (log 64). Its first
carriage departs in the next tick (R240). -/
def State.trained (s : State) (p : Nat) (failed inverted : BitVec 17) (lat : Nat) : State :=
  let m := max (s.tick + 128) ((s.port p).linked.getD 0)
  ((s.modPort p fun x =>
    { x.trainSpare failed s.tick with
      lat := BitVec.ofNat 8 lat, inverted := inverted, retired := failed, jreq := none, calFail := 0, calOk := 0
      m := BitVec.ofNat 64 m, txDue := true, rxDue := true, lastCarno := none, seen := [], out := [], swapped := none, lastSent := some s.tick }).sendCtl
    [p] ctLink (toLe 8 m)).movePort p .idle

/-- TRAINING_COMPLETE (R463): IDLE with at least 16 good lanes and a latency of at most 48 ticks, else DOWN. -/
def execTrainingComplete (port : Nat) (r : TrainResult) (s : State) : Out :=
  if (s.port port).st ≠ .training then no "the port is not in training"
  else
    match r with
    | .misaligned => .next (s.portDown port 5)
    | .trained good inverted lat =>
      let failed := s.failedLanes port good
      if 2 ≤ (setBits 17 failed.toNat).length then .next (s.portDown port 3)
      else if Config.linkMax < lat then
        .next ((s.modPort port fun x => { x with lat := BitVec.ofNat 8 (min lat 255) }).portDown port 4)
      else .next (s.trained port failed inverted lat)

/-- TRAINING_SIGNAL_TIMEOUT (R463): 250 ms without the peer's signal. -/
def execTrainingSignalTimeout (port t : Nat) (s : State) : Out :=
  when ((s.port port).st == .training && decide ((s.port port).trainStart + signalWait ≤ t) && s.mayPass t)
    "the port is not in training, or its time is not up" ((s.atTick t).portDown port 2)

/-- R502: DOWN of a port; ignored with LOCKVIO while a timetable may need it. -/
def State.disablePort (s : State) (p : Nat) : State :=
  match (s.port p).st with
  | .down => s
  | .training | .idle => s.portDown p 1
  | .armed | .running | .braking => s.setLockvio

/-- LINE_DOWN (R502). -/
def execLineDown (port : Nat) (s : State) : Out :=
  if port ≥ 16 then no "no such port" else s.hostWrite (s.disablePort port)

/-! ### Retirement (R271, R464, R502) -/

/-- R271: the host's record of a retired lane. -/
def State.laneEvent (s : State) (p : Nat) : State := s.event 0xAB 0 {} 0 (s.port p).retired.toNat (portWord p)

/-- R271: the sending spare is at the retired position and is held there. -/
def State.holdSpare (s : State) (p : Nat) : State :=
  (s.modPort p fun x =>
    { x with
      tx := { x.tx with held := true, target := none, next := none, jump := false }, rotating := false
      retired := x.retired ||| BitVec.ofNat 17 (2 ^ x.tx.pos) }).laneEvent p

/-- R271: a lane is retired: in place where the spare rests there, else the spare sets out for it. -/
def State.retireLane (s : State) (p lane : Nat) : State :=
  if (s.port p).tx.pos = lane ∧ (s.port p).tx.next = none then s.holdSpare p
  else s.modPort p fun x => { x with tx := { x.tx with target := some lane } }

/-- R463, R464: training alone decides what a retired lane does to the port. -/
def PortSt.untrained : PortSt → Bool
  | .down => true
  | .training => true
  | _ => false

/-- R464, R502: a write to `LINE_RETIRE` is ignored: it clears a bit of a port that is not DOWN, or no spare is left. -/
def State.retireBad (s : State) (p : Nat) (lanes : BitVec 17) : Bool :=
  let x := s.port p
  let new := setBits 17 (lanes &&& ~~~x.retireReg).toNat
  (x.st != .down && (x.retireReg &&& ~~~lanes) != 0)
    || (if x.st.untrained then
        !new.isEmpty && decide (2 ≤ (setBits 17 (lanes ||| s.fw.perRetired.getD p 0).toNat).length)
      else decide (2 ≤ new.length) || (!new.isEmpty && (x.tx.held || x.tx.target.isSome || x.tx.jump)))

/-- R502: a write to `LINE_RETIRE`. -/
def State.writeRetire (s : State) (p : Nat) (lanes : BitVec 17) : State :=
  if s.retireBad p lanes then s.setLockvio
  else
    let new := setBits 17 (lanes &&& ~~~(s.port p).retireReg).toNat
    if (s.port p).st.untrained then s.modPort p fun x => { x with retireReg := lanes, retired := x.retired ||| lanes }
    else
      let s := s.modPort p fun x => { x with retireReg := lanes }
      match new with
      | [] => s
      | l :: _ => s.retireLane p l

/-- LINE_RETIRE (R271, R502). -/
def execLineRetire (port : Nat) (lanes : BitVec 17) (s : State) : Out :=
  if port ≥ 16 then no "no such port" else s.hostWrite (s.writeRetire port lanes)

/-! ### Fences and routes (R288, R503) -/

/-- R288: a write to `LINE_FENCE`. -/
def State.writeFence (s : State) (v : W16) : State :=
  let busy := fun (p : Nat) => match (s.port p).st with
    | .armed | .running | .braking => true
    | _ => false
  if (setBits 16 (v &&& ~~~s.fence).toNat).any busy then s.setFenceErr else { s with fence := v }

/-- LINE_FENCE (R288). -/
def execLineFence (fence : W16) (s : State) : Out := s.hostWrite (s.writeFence fence)

/-- R503: a write to `LINE_ROUTE`: INDEX is selected; with WR the entry takes MASK. There are 288 entries. -/
def State.writeRoute (s : State) (index : BitVec 9) (mask : W16) (wr : Bool) : State :=
  let s := { s with routeIdx := index }
  if wr ∧ index.toNat < 288 then { s with route := smSet 0 s.route index.toNat mask } else s

/-- ROUTE_WRITE (R503). -/
def execRouteWrite (index : BitVec 9) (mask : W16) (s : State) : Out := s.hostWrite (s.writeRoute index mask true)

/-! ### Rotation, retirement steps, jumps (R269–R272) -/

/-- R269: the next position of the sweep, and its direction. -/
def Spare.sweep (x : Spare) : Nat × Bool :=
  if x.up then (if x.pos < 16 then (x.pos + 1, true) else (15, false))
  else if 0 < x.pos then (x.pos - 1, false) else (1, true)

/-- R270: a single step is announced for the carriage 512 after tick t. -/
def Spare.announce (x : Spare) (pos t : Nat) : Spare := { x with next := some (t + 512, pos), jump := false, stepped := t }

/-- ROTATION_STEP (R269, R270). -/
def execRotationStep (port t : Nat) (s : State) : Out :=
  let x := s.port port
  when (x.sweeps && decide (x.tx.stepped + rotationPeriod ≤ t) && s.mayPass t) "no rotation step of the port is due"
    ((s.atTick t).modPort port fun y =>
      { y with tx := { y.tx.announce y.tx.sweep.1 t with up := y.tx.sweep.2 } })

/-- R271: one position towards the retired lane. -/
def towards (pos lane : Nat) : Nat := if pos < lane then pos + 1 else pos - 1

/-- RETIREMENT_STEP (R271): the next of the steps taken back to back. -/
def execRetirementStep (port t : Nat) (s : State) : Out :=
  let x := s.port port
  match x.tx.target with
  | none => no "no lane of the port is being retired"
  | some l =>
    when (x.retires && s.mayPass t) "no retirement step of the port is due"
      ((s.atTick t).modPort port fun y => { y with tx := y.tx.announce (towards y.tx.pos l) t })

/-- The mapping switched to the announced position. -/
def Spare.switch (x : Spare) : Spare := { x with pos := (x.next.map (·.2)).getD x.pos, next := none, jump := false }

/-- R241: the departure tick of the carriages that arrive in tick t. -/
def Port.sentAt (x : Port) (t : Nat) : Nat := t - x.lat.toNat

/-- R270, R271: the sending spare takes its step; at the position of a retirement it is held. -/
def State.switchTx (s : State) (p t : Nat) : State :=
  if (s.port p).tx.stepDue t then
    let s := (s.modPort p fun x => { x with tx := x.tx.switch }).count (cntLineRot p) 1
    if (s.port p).tx.target = some (s.port p).tx.pos then s.holdSpare p else s
  else s

/-- R270: the receiving spare takes the peer's step, as carriage P reaches the port. -/
def State.switchRx (s : State) (p t : Nat) : State :=
  if (s.port p).rx.stepDue ((s.port p).sentAt t) then (s.modPort p fun x => { x with rx := x.rx.switch }).count (cntLineRot p) 1 else s

/-- ROTATION_SWITCH (R270): carriage P of an announced step. -/
def execRotationSwitch (port t : Nat) (s : State) : Out :=
  let x := s.port port
  when (x.st.sends && (x.tx.stepDue t || x.rx.stepDue (x.sentAt t)) && s.mayPass t) "no announced step of the port is due"
    (((s.atTick t).switchTx port t).switchRx port t)

/-- CALIBRATION_VISIT (R465, R466): the lane under the resting spare is judged. -/
def execCalibrationVisit (port : Nat) (v : Verdict) (s : State) : Out :=
  let x := s.port port
  if !x.st.sends ∨ !x.rotating ∨ x.tx.held ∨ x.tx.next.isSome ∨ x.tx.target.isSome then no "no lane of the port is being calibrated"
  else
    let bit : BitVec 17 := BitVec.ofNat 17 (2 ^ x.tx.pos)
    let twice := bitOf x.calFail.toNat x.tx.pos
    let failed := s.modPort port fun y => { y with calFail := y.calFail ||| bit, calOk := y.calOk &&& ~~~bit }
    match v with
    | .pass => .next (s.modPort port fun y => { y with calFail := y.calFail &&& ~~~bit, calOk := y.calOk ||| bit })
    | .fail => .next (if twice then failed.retireLane port x.tx.pos else failed)
    | .hardFail => .next (failed.retireLane port x.tx.pos)

/-- R272, R442: the record of a lost lane. -/
def State.lostRec (s : State) (p lane : Nat) : State :=
  let who : EvWho := match (s.port p).memb with
    | some t => tenCtx t 0
    | none => {}
  s.event 0x43 0 who 0 s.tick (portWord p + lane % 32 * 2 ^ 32)

/-- LANE_LOST (R272): a jump is asked of the peer, or with no spare left the port is DOWN. -/
def execLaneLost (port lane : Nat) (s : State) : Out :=
  let x := s.port port
  if !x.st.sends ∨ 17 ≤ lane ∨ lane = x.rx.pos ∨ x.jreq = some lane then no "no such lane carries carriages to the port"
  else
    let s := s.lostRec port lane
    if x.rx.held ∨ x.jreq.isSome then .next (s.portDown port 6)
    else .next (s.modPort port fun y => { y with jreq := some lane })

/-- R272: the sending spare jumps and is held. -/
def State.jumpTx (s : State) (p t : Nat) : State :=
  if (s.port p).tx.jumpDue t then (s.modPort p fun x => { x with tx := x.tx.switch }).holdSpare p else s

/-- R272: the receiving spare jumps as carriage P reaches the port, and is held; the request is answered. -/
def State.jumpRx (s : State) (p t : Nat) : State :=
  if (s.port p).rx.jumpDue ((s.port p).sentAt t) then
    (s.modPort p fun x =>
      { x with rx := { x.rx.switch with held := true }, rotating := false, jreq := none
               retired := x.retired ||| BitVec.ofNat 17 (2 ^ x.rx.switch.pos) }).laneEvent p
  else s

/-- SPARE_JUMP (R272): carriage P of an announced jump. -/
def execSpareJump (port t : Nat) (s : State) : Out :=
  let x := s.port port
  when (x.st.sends && (x.tx.jumpDue t || x.rx.jumpDue (x.sentAt t)) && s.mayPass t) "no announced jump of the port is due"
    (((s.atTick t).jumpTx port t).jumpRx port t)

/-! ### The injector's registers (R274, R506) -/

/-- R274: writes to a port's `INJ_` registers take effect. -/
def State.injAllowed (s : State) (p : Nat) : Bool :=
  s.testMode || (s.port p).memb.any fun t => (s.ten t).testPriv

/-- R506: a value of `INJ_CTL`; EN stays 0 where it could inject nothing. -/
def Injector.load (i : Injector) (v : W64) (t : Nat) : Injector :=
  let n := v.toNat
  let action := bitsOf n 1 3
  let log2r := bitsOf n 5 6
  let ok := decide (bitsOf n 32 32 ≠ 0 ∧ action ≤ 4 ∧ 4 ≤ log2r ∧ log2r ≤ 32)
  { i with
    en := bitOf n 0 && ok, action := BitVec.ofNat 3 action, random := bitOf n 4, log2r := BitVec.ofNat 6 log2r
    cls := BitVec.ofNat 6 (bitsOf n 11 6), count := BitVec.ofNat 32 (bitsOf n 32 32), since := t }

/-- R274: an injector register written. -/
def State.writeInj (s : State) (p : Nat) (f : Injector → Injector) : State :=
  if s.injAllowed p then s.modPort p fun x => { x with inj := f x.inj } else s.setLockvio

/-- INJECTOR_ARM (R506). -/
def execInjectorArm (port : Nat) (v : W64) (s : State) : Out :=
  if port ≥ 16 then no "no such port" else s.hostWrite (s.writeInj port fun i => i.load v s.tick)

/-! ### The hall counter (R286, R453) -/

/-- HALL_COUNTER_SLIP (R286): from LOADED onward the block contains itself; in SAFE it only counts again (R453). -/
def execHallCounterSlip (s : State) : Out := .next (if s.opened then s.contain 1 none 0 else s)

end Sys2Proof.Machine
end

