-- ==== Sys2Proof/Machine/Tenancies.lean ====
section
/-! DEFINITION. Tenancies opened, run and taken out, epochs advanced by the host, quiesces, the clear report, containment by
the host, the swap hint and the end of an interrupt hold-off (R157, R158, R289, R405–R411, R421–R426, R432, R438–R440, R447). -/

namespace Sys2Proof.Machine

/-! ### OPEN and RUN (R407, R408, R448) -/

/-- R407: a cluster set names clusters, each enabled and granted to no other tenancy. -/
def State.clustersOk (s : State) (ten : Nat) (cl : BitVec 8) : Bool :=
  cl != 0 && (cl &&& ~~~s.enCluster) == 0
    && (List.range 8).all fun u => u == ten || (s.ten u).st == .free || (cl &&& (s.ten u).clusters) == 0

/-- R407: the checks of OPEN. -/
def State.openOk (s : State) (ten : Nat) : Bool :=
  let t := s.ten ten
  s.clustersOk ten t.clusters && t.chgrp != 0 && lanesFit [t.slot 0] && (t.slot 0).spFits

/-- R409, R416: a scratchpad share zeroed in every cluster of the tenancy. -/
def State.zeroShare (s : State) (ten n : Nat) : State :=
  let x := (s.ten ten).slot n
  (s.chain ten).foldl (fun (s : State) c => s.modCluster c fun y => { y with sp := memZero y.sp x.spBase x.spSize }) s

/-- R408, R416: context 0 resident in slot 0, fresh; R505: the tenancy is no longer clear. -/
def State.openTen (s : State) (ten : Nat) : State :=
  let s := s.modTen ten fun t =>
    { t.modSlot 0 fun x => { x with st := .resident, ctx := 0, xc := [], blockedSince := none, move := none, tcOpen := false } with
      hinted := false, holder := none, holdLost := false, unitsUsed := [], usedPorts := 0 }
  let s : State := { s with ledClear := s.ledClear &&& ~~~(BitVec.ofNat 8 (2 ^ ten)) }
  let s := (s.moveTen ten .loading).zeroShare ten 0
  if s.st = .ready then s.moveBlock .serving else s

/-- R407, R448: a write of OPEN. -/
def State.writeOpen (s : State) (ten : Nat) : State :=
  match s.st with
  | .draining => s.tenErr ten errState
  | .ready | .serving =>
    if (s.ten ten).st ≠ .free then s.tenErr ten errState
    else if s.openOk ten then s.openTen ten
    else s.tenErr ten errValue
  | .off | .safe | .loaded | .contained => s

/-- R406: a write of RUN; in another state it is ignored and sets STATE (log 72). -/
def State.writeRun (s : State) (ten : Nat) : State :=
  if (s.ten ten).st = .loading then s.moveTen ten .running else s.tenErr ten errState

/-- OPEN (R407). -/
def execOpenTenancy (ten : Nat) (s : State) : Out :=
  if ten ≥ 8 then no "no such tenancy" else s.hostWrite (s.writeOpen ten)
/-- RUN (R406). -/
def execRunTenancy (ten : Nat) (s : State) : Out :=
  if ten ≥ 8 then no "no such tenancy" else s.hostWrite (s.writeRun ten)

/-! ### Epochs (R157, R158) -/

/-- R157, R158: a host write to `LED_EPOCH_ADV`. -/
def State.writeEpochAdv (s : State) (ten : Nat) : State :=
  let t := s.ten ten
  if t.epochPend then s.tenErr ten errEpoch
  else if t.epochBlocked then s.modTen ten fun x => { x with epochPend := true, epochWait := none }
  else s.modTen ten fun x => { x with epoch := x.epoch + 1 }

/-- LED_EPOCH_ADV (R157). -/
def execLedEpochAdv (ten : Nat) (s : State) : Out :=
  if ten ≥ 8 then no "no such tenancy" else s.hostWrite (s.writeEpochAdv ten)

/-- R158: the coach whose `epoch.adv` was deferred takes the epoch before the advance; the others of the tenancy call again. -/
def State.epochGo (s : State) (ten : Nat) (prior : W32) (owner : Option CoachRef) : State :=
  let s := match owner with
    | none => s
    | some c => s.modCoach c fun k => match k.epochWait with
      | some (ud, d, act) => Coach.step (epochWrite { k with epochWait := none } ud d act prior)
      | none => k
  let mine := fun (h : Cohort) => (s.task? h.task).any (·.ten == ten)
  { s with cohorts := modWhere mine (fun h => { h with coaches := h.coaches.map fun k => { k with epochWait := none } }) s.cohorts }

/-- EPOCH_DEFERRED_ADVANCE (R158). -/
def execEpochDeferredAdvance (ten : Nat) (s : State) : Out :=
  let t := s.ten ten
  when (t.epochPend && !t.epochBlocked) "no advance is deferred, or its tickets are still out"
    ((s.modTen ten fun x => { x with epoch := x.epoch + 1, epochPend := false, epochWait := none }).epochGo ten t.epoch t.epochWait)

/-! ### SWAP_HINT (R421) -/

/-- SWAP_HINT (R421): advice; nothing else changes (log 73). -/
def execSwapHint (ten t : Nat) (s : State) : Out :=
  if !s.mayPass t then no "the tick is past, or something is due before it"
  else
    let s := s.atTick t
    let x := s.ten ten
    when (x.live && x.evrun != 0 && !x.hinted && !x.residents.isEmpty && x.allBlocked t) "no hint is due"
      ((s.event 0xA6 0 (tenCtx ten 0) 0 (maskOf x.residents) feWord).modTen ten fun y => { y with hinted := true })

/-! ### What a function still has to do (R289, R424) -/

/-- An engine read or transfer of an ended order or copy that is not yet home (R98, R219). -/
def State.leftReads (s : State) : Bool :=
  (List.range 8).any fun t => (s.busyClients t).any fun c => match c with
    | .gather o _ => (s.order? o).isNone
    | .xfer o _ => (s.order? o).isNone
    | .copy id => !s.copies.any (·.id == id)
    | _ => false

/-- The cluster of an order's unit. -/
def UnitRef.cluster : UnitRef → Nat
  | .gather e => e / 4
  | .mover m => m / 8
  | .arena c => c
  | .pool c => c
  | .scan c => c
  | .topk c => c
  | .ia c => c

/-- The tenancy a cluster is granted to. -/
def State.ownerOf (s : State) (c : Nat) : Option Nat := leastFrom (fun t => s.granted t c) 8

/-- R424: tasks with work in a cluster, at an engine, at a mover, or of a tenancy. -/
def State.tasksAt (s : State) (kind index : Nat) : List Task :=
  let onUnit := fun (u : UnitRef) (id : Nat) => s.orders.any fun o => o.task == id && o.unit == u
  s.tasks.filter fun k => match kind with
    | 0 => s.cohorts.any (fun h => h.task == k.id && h.cluster == index)
      || s.orders.any (fun o => o.task == k.id && o.unit.cluster == index) || s.copies.any fun c => c.task == k.id && c.cluster == index
    | 1 => onUnit (.gather index) k.id
    | 2 => s.orders.any (fun o => o.task == k.id && (o.unit == .mover index || s.trafficUnit o == .mover index)) || s.copies.any fun c => c.task == k.id && c.mover == index
    | 5 => k.ten == index
    | _ => false

/-- R289: the tenancy meets every clear condition but that of its books. -/
def State.clearIdle (s : State) (ten : Nat) : Bool :=
  let t := s.ten ten
  (match t.tt with
    | some x => (portsOf x.ports).all fun p => match (s.port p).st with
      | .armed | .running | .braking => false
      | _ => true
    | none => true)
    && (portsOf t.usedPorts).all (fun p => (s.port p).credit0 == 128 && (s.port p).credit1 == 128)
    && !s.xlt.wreqs.any (·.ten == ten) && t.hitches.all (·.allFree)
    && !(s.tasks.any fun k => k.ten == ten && (t.slotOf k.ctx).isSome) && !s.orders.any (·.ten == ten)
    && !s.copies.any (·.ten == ten) && t.ckpt.isNone && t.ckWait.isEmpty

/-- A command of the tenancy is in execution. -/
def State.busyCmds (s : State) (ten : Nat) : Bool :=
  let t := s.ten ten
  t.loading.isSome || t.ttLoading.isSome || t.invCmd.isSome || t.slots.any (·.move.isSome) || s.overlaps.any (·.cmd.ten == ten)
    || s.rings.any fun r => match r.hold with
      | .fence c _ => c.ten == ten
      | .command c => c.ten == ten
      | .none => false

/-- R424, R425: what the quiesce waits for is done. -/
def State.functionIdle (s : State) (kind index lane : Nat) (forced : Bool) : Bool :=
  let x := s.port index
  match kind with
  | 0 => (s.tasksAt 0 index).isEmpty && !s.leftReads
      && (match s.ownerOf index with
        | some t => (s.ten t).slots.all (·.move.isNone)
            && (s.ten t).hitches.all fun h => h.cluster != index || (forced && h.allFree)
        | none => true)
  | 1 => (s.tasksAt 1 index).isEmpty && !s.leftReads
  | 2 => (s.tasksAt 2 index).isEmpty && !s.leftReads
  | 3 => bitOf x.retired.toNat lane
  | 4 => x.st.untrained || (x.credit0 == 128 && x.credit1 == 128 && x.vc0.isEmpty && x.vc1.isEmpty)
  | _ =>
    let t := s.ten index
    t.st == .quiescing && s.clearIdle index && !s.busyCmds index && t.faults.isEmpty && !s.adds.any (·.ten == index)
      && (forced || (t.tables.isEmpty && t.hitches.isEmpty))

/-! ### QUIESCE (R424–R426) -/

/-- R444: the record of a host write that ends work. -/
def State.hostOrder (s : State) (addr value resp : Nat) : State := s.event 0xB0 0 {} resp (addr / 8 + value % 2 ^ 32 * 2 ^ 32) feWord

/-- R424: the function exists and is in service; a tenancy holds the block. -/
def State.inService (s : State) (kind index lane : Nat) : Bool :=
  match kind with
  | 0 => bitOf s.enCluster.toNat index
  | 1 => decide (index < 32) && bitOf s.enGather.toNat index
  | 2 => decide (index < 64) && bitOf s.enMover.toNat index
  | 3 => decide (index < 16 ∧ lane < 17) && bitOf s.fw.perPorts.toNat index
  | 4 => decide (index < 16) && bitOf s.enPort.toNat index
  | 5 => decide (index < 8) && (s.ten index).live
  | _ => false

/-- R425: no spare remains on the port. -/
def State.noSpare (s : State) (p : Nat) : Bool :=
  let x := s.port p
  if x.st.untrained then (x.retireReg ||| s.fw.perRetired.getD p 0) != 0
  else x.tx.held || x.tx.target.isSome || x.tx.jump

/-- R406, R425: a quiesce that is refused; one of a function not in service is too (log 74). -/
def State.quiesceRefused (s : State) (kind index lane : Nat) (force : Bool) : Bool :=
  !s.inService kind index lane || match kind with
    | 0 => (s.ownerOf index).any fun t => (s.ten t).timetabled
    | 2 => (List.range 8).all fun m => 8 * (index / 8) + m == index || !bitOf s.enMover.toNat (8 * (index / 8) + m)
    | 3 => s.noSpare index
    | 4 => match (s.port index).st with
      | .armed | .running | .braking => true
      | _ => false
    | 5 => !force && ((s.ten index).timetabled || (s.ten index).st == .halted)
    | _ => false

/-- R426: every cart of some hitches that no port holds is FREE, and counted as purged. -/
def State.purgeAll (s : State) (ten : Nat) (p : Hitch → Bool) : State :=
  let held := fun (c : Cart) => match c.holder with
    | .port _ => true
    | _ => false
  let gone := fun (c : Cart) => c.st != .free && !held c
  let n := (((s.ten ten).hitches.filter p).map fun h => (h.carts.filter gone).length).sum
  s.modTen ten fun t => { t with
    hitches := modWhere p (fun h => { h with
      carts := h.carts.map fun c => if gone c then { c with st := .free, len := 0, tag := 0, holder := .none, rows := none } else c
      queue := [], consumed := h.produced }) t.hitches
    ab := { t.ab with cartPurge := t.ab.cartPurge + BitVec.ofNat 32 n } }

/-- R424, R443: a task that a forced quiesce ends: no fault code orders it, so its REASON is a free value (log 71). -/
def State.forceTask (cause : W32) (s : State) (k : Task) : State :=
  let s : State := { s with quiesce := { s.quiesce with aborted := s.quiesce.aborted + 1 } }
  match s.task? k.id with
  | some k => s.fresh.2.abortTask k 1 cause (s.fresh.1.toNat % 256)
  | none => s

/-- R266, R424: the FREE buffers a port holds are discarded and counted, and their credits return. -/
def State.dropBuffers (s : State) (p : Nat) : State :=
  s.modPort p fun x => { x with
    vc0 := [], vc1 := [], give0 := x.give0 + x.vc0.length, give1 := x.give1 + x.vc1.length
    discarded := x.discarded + BitVec.ofNat 32 (x.vc0.length + x.vc1.length) }

/-- R424 step 2 with FORCE, R426: work in flight is discarded. -/
def State.forceQuiesce (s : State) (kind index : Nat) (value : Nat) : State :=
  let cause := s.ev.seq
  let s := s.hostOrder 0x58 value 0
  let s := if kind = 5 then s.fresh.2.ckEnd index (s.fresh.1.toNat % 256) else s
  let cs := if kind = 5 then s.openCmds index fun _ => true else []
  let s := if kind = 5 then s.dropCmds index fun _ => true else s
  let s := (s.tasksAt kind index).foldl (State.forceTask cause) s
  match kind with
  | 0 => match s.ownerOf index with
    | some t => s.purgeAll t (·.cluster == index)
    | none => s
  | 4 => s.dropBuffers index
  | 5 =>
    let s := ((s.discardAll cs).stopRings index fun _ => true).orderBrake index (BitVec.ofNat 64 s.tick)
    let s : State := { s with xlt := { s.xlt with stalls := s.xlt.stalls.filter fun x => match x.2 with
      | .walk t _ => t != index
      | .fault t _ => t != index } }
    ((s.unserveAll index).modTen index fun x => { x with faults := [] }).purgeAll index fun _ => true
  | _ => s

/-- R424 step 1: what the function stops at once. -/
def State.startQuiesce (s : State) (kind index lane : Nat) : State :=
  match kind with
  | 3 =>
    if (s.port index).st.untrained then
      s.modPort index fun x =>
        { x with retireReg := x.retireReg ||| BitVec.ofNat 17 (2 ^ lane), retired := x.retired ||| BitVec.ofNat 17 (2 ^ lane) }
    else s.retireLane index lane
  | 5 => s.moveTen index .quiescing
  | _ => s

/-- `CTL_QUIESCE` [23:0] and the whole value of a write. -/
def quiesceTarget (kind index lane : Nat) : Nat := kind + index * 2 ^ 8 + lane * 2 ^ 16

/-- R425: a write to `CTL_QUIESCE` with ENABLE = 0. -/
def State.writeQuiesce (s : State) (kind index lane : Nat) (force : Bool) : State :=
  let target := quiesceTarget kind index lane
  let value := target + b2n force * 2 ^ 24
  if s.quiesce.st = 1 then
    if force ∧ s.quiesce.target.toNat = target then
      let s : State := { s with quiesce := { s.quiesce with forced := true } }
      (if kind = 5 ∧ (s.ten index).st = .halted then s.moveTen index .quiescing else s).forceQuiesce kind index value
    else s.setIgn
  else if s.quiesceRefused kind index lane force then
    { s with quiesce := { s.quiesce with st := 3, forced := false, target := BitVec.ofNat 24 target } }
  else
    let s : State := { s with quiesce := { s.quiesce with st := 1, forced := force, target := BitVec.ofNat 24 target } }
    let s := s.startQuiesce kind index lane
    if force then s.forceQuiesce kind index value else s

/-- QUIESCE (R424). -/
def execQuiesce (kind : BitVec 3) (index : BitVec 8) (lane : BitVec 5) (force : Bool) (s : State) : Out :=
  .next (if s.st = .off ∨ s.st = .contained ∨ s.resetLow then s else s.writeQuiesce kind.toNat index.toNat lane.toNat force)

/-- R424, R456: the function is DISABLED and present. -/
def State.disabledFn (s : State) (kind index : Nat) : Bool :=
  match kind with
  | 0 => bitOf s.fw.perClusters.toNat index && !bitOf s.enCluster.toNat index
  | 1 => decide (index < 32) && bitOf s.fw.perClusters.toNat (index / 4) && !bitOf s.enGather.toNat index
  | 2 => decide (index < 64) && bitOf s.fw.perClusters.toNat (index / 8) && !bitOf s.enMover.toNat index
  | 4 => decide (index < 16) && bitOf s.fw.perPorts.toNat index && !bitOf s.enPort.toNat index
  | _ => false

/-- R424, R492: an enable bit changed. -/
def State.setEnable (s : State) (kind index : Nat) (b : Bool) : State :=
  match kind with
  | 0 => { s with enCluster := if b then s.enCluster ||| BitVec.ofNat 8 (2 ^ index) else s.enCluster &&& ~~~(BitVec.ofNat 8 (2 ^ index)) }
  | 1 => { s with enGather := if b then s.enGather ||| BitVec.ofNat 32 (2 ^ index) else s.enGather &&& ~~~(BitVec.ofNat 32 (2 ^ index)) }
  | 2 => { s with enMover := if b then s.enMover ||| BitVec.ofNat 64 (2 ^ index) else s.enMover &&& ~~~(BitVec.ofNat 64 (2 ^ index)) }
  | 4 => { s with enPort := if b then s.enPort ||| BitVec.ofNat 16 (2 ^ index) else s.enPort &&& ~~~(BitVec.ofNat 16 (2 ^ index)) }
  | _ => s

/-- R424, R425: a write to `CTL_QUIESCE` with ENABLE = 1; it is refused where the function is not DISABLED (log 74). -/
def State.writeEnable (s : State) (kind index lane : Nat) : State :=
  if s.quiesce.st = 1 then s.setIgn
  else
    let ok := s.disabledFn kind index
    let s : State := { s with quiesce := { s.quiesce with
      st := if ok then 0 else 3, forced := false, target := BitVec.ofNat 24 (quiesceTarget kind index lane) } }
    if ok then s.setEnable kind index true else s

/-- QUIESCE_ENABLE (R424). -/
def execQuiesceEnable (kind : BitVec 3) (index : BitVec 8) (lane : BitVec 5) (s : State) : Out :=
  .next (if s.st = .off ∨ s.st = .contained ∨ s.resetLow then s else s.writeEnable kind.toNat index.toNat lane.toNat)

/-! ### FUNCTION_DISABLED (R424, R426, R431, R432) -/

/-- R426: an arena bank closed by a forced quiesce; a broken book 9 is written off. -/
def State.forceClose (s : State) (ten table : Nat) (send : Bool) : State :=
  match (s.ten ten).table? table with
  | none => s
  | some t =>
    let b := t.bank send
    if b.st = .clear then s
    else
      let excess := s.bankExcess ten b
      let r : BankRef := ⟨table, send, b.step⟩
      let s := if excess = 0 then s else
        (s.modBank ten r fun b => { b with folded := 0, held := BitVec.ofNat 32 b.nslot }).modTen ten fun x =>
          { x with ab := { x.ab with loss := x.ab.loss + BitVec.ofNat 32 excess } }
      s.closeBank ten r

/-- R432: a broken book set to its balanced form, and the difference added to LOSS. -/
def State.writeOff (ten : Nat) (s : State) (b : Broken) : State :=
  let s := if b.bit ≠ 8 then s
    else s.modBank ten ⟨b.index / 2, b.index % 2 == 1, 0⟩ fun x => { x with added := x.added + b.short }
  s.modTen ten fun t =>
    let t := { t with ab := { t.ab with loss := t.ab.loss + b.short } }
    match b.bit with
    | 0 => { t with gtokRet := t.gtokRet + b.short }
    | 1 => { t with mtokRet := t.mtokRet + b.short }
    | 3 => { t with tickRet := t.tickRet + b.short }
    | 4 => { t with hitches := modWhere (·.num == b.index) (fun h => { h with consumed := h.consumed + b.short }) t.hitches }
    | 7 => { t with ab := { t.ab with pos := t.ab.pos + b.short } }
    | _ => t

/-- R426, R432: the banks of a tenancy closed and its broken books written off; the mask of the books (log 75). -/
def State.settleBooks (s : State) (ten : Nat) : State × Nat :=
  let ts := ((s.ten ten).tables.filter (·.desc.train)).map (·.num)
  let reached := ts.any fun n => (((s.ten ten).table? n).map fun t =>
    decide (s.bankExcess ten t.recv ≠ 0 ∨ s.bankExcess ten t.send ≠ 0)).getD false
  let s := ts.foldl (fun (s : State) n => (s.forceClose ten n false).forceClose ten n true) s
  let bs := (s.tenBooks ten).filter fun b => b.bit != 2
  (bs.foldl (State.writeOff ten) s, auditMask bs ||| (if reached then 2 ^ 9 else 0))

/-- R289, R505: the tenancy is reported clear. -/
def State.reportClear (s : State) (ten : Nat) : State :=
  if bitOf s.ledClear.toNat ten then s
  else
    let m := 2 ^ ten
    (State.event { s with ledClear := s.ledClear ||| BitVec.ofNat 8 m } 0xA4 0 {} 0 m feWord)

/-- R424, R499: everything the tenancy held is released; what the host has written to its registers stays (log 76). -/
def State.releaseTen (s : State) (ten : Nat) : State :=
  let s := s.dropTt ten
  let s : State := { s with
    tasks := s.tasks.filter (·.ten != ten)
    rings := s.rings.map fun r => if r.en ∧ r.ten.toNat = ten then { r with en := false, hold := .none } else r
    clusters := s.clusters.map fun c => { c with maps := c.maps.filter (·.ten != ten) } }
  s.modTen ten fun t => { t with
    slots := t.slots.map fun x =>
      { x with ctx := 0, st := .empty, xc := [], blockedSince := none, move := none, tcOpen := false }
    holder := none, holdLost := false, unitsUsed := [], tables := [], hitches := [], scwayRsv := 0, usedPorts := 0 }

/-- R448: the last tenancy has returned to FREE. -/
def State.restBlock (s : State) : State :=
  if (s.st = .serving ∨ s.st = .draining) ∧ s.tens.all (·.st == .free) then s.moveBlock .ready else s

/-- `CTL_QSTAT` [31:0]. -/
def State.qstatLow (s : State) : Nat :=
  s.quiesce.st.toNat + b2n s.quiesce.forced * 4 + b2n s.quiesce.ign * 8 + s.quiesce.target.toNat * 2 ^ 8

/-- R424 step 4: the quiesce has ended, with its record. -/
def State.endQuiesce (s : State) (st written : Nat) : State :=
  let s : State := { s with quiesce := { s.quiesce with st := BitVec.ofNat 2 st } }
  s.event 0xA8 0 {} 0 s.qstatLow (feWord + written * 2 ^ 16)

/-- R424, R425: the function out of service; a tenancy FREE. -/
def State.disableFn (s : State) (kind index : Nat) : State :=
  match kind with
  | 0 =>
    let s := s.setEnable 0 index false
    let s : State := { s with tens := s.tens.map fun t =>
      if t.st = .free then t else { t with clusters := t.clusters &&& ~~~(BitVec.ofNat 8 (2 ^ index)) } }
    s.endQuiesce 2 0
  | 4 => ((if (s.port index).st = .down then s else s.portDown index 8).setEnable 4 index false).endQuiesce 2 0
  | 5 =>
    let r := if s.quiesce.forced then s.settleBooks index else (s, 0)
    (((r.1.reportClear index).endQuiesce 0 r.2).releaseTen index).moveTen index .free |>.restBlock
  | k => (s.setEnable k index false).endQuiesce 2 0

/-- R431: the books that a function touches. -/
def State.touched (s : State) (kind index : Nat) : Option Nat :=
  match kind with
  | 5 => some index
  | 0 => s.ownerOf index
  | 1 => s.ownerOf (index / 4)
  | 2 => s.ownerOf (index / 8)
  | _ => none

/-- FUNCTION_DISABLED (R424 step 4, R431, R432): a broken book acts at its scope and the quiesce goes on; a forced quiesce of
a tenancy writes it off. -/
def execFunctionDisabled (s : State) : Out :=
  let n := s.quiesce.target.toNat
  let kind := bitsOf n 0 3
  let index := bitsOf n 8 8
  if s.quiesce.st ≠ 1 then no "no quiesce runs"
  else if !s.functionIdle kind index (bitsOf n 16 5) s.quiesce.forced then no "work of the function is still in flight"
  else if kind = 5 ∧ s.quiesce.forced then .next (s.disableFn kind index)
  else
    match s.touched kind index with
    | none => .next (s.disableFn kind index)
    | some t =>
      match s.tenBooks t with
      | [] => .next (s.disableFn kind index)
      | bs => .next (bs.foldl (fun (s : State) b => s.actBroken t b) s)

/-- TENANCY_CLEAR (R289, R505). -/
def execTenancyClear (ten : Nat) (s : State) : Out :=
  let t := s.ten ten
  when (decide (ten < 8) && s.opened && (t.st == .quiescing || t.st == .free) && !bitOf s.ledClear.toNat ten && s.clearIdle ten
      && (s.tenBooks ten).isEmpty) "the tenancy is not clear, or is reported already" (s.reportClear ten)

/-! ### Containment by the host (R439, R443, R444) -/

/-- R439: a write of BLOCK to `ERR_CONTAIN`. -/
def State.writeContain (s : State) (value : Nat) : State :=
  let cause := s.ev.seq
  (s.hostOrder 0xE008 value 4).contain 5 (some cause) 0

/-- R439: a write of TENANCY to `ERR_CONTAIN`; a tenancy that is FREE or HALTED has nothing to end (R440). -/
def State.writeHalt (s : State) (ten value : Nat) : State :=
  match (s.ten ten).st with
  | .free | .halted => s
  | _ =>
    let cause := s.ev.seq
    (s.hostOrder 0xE008 value 3).haltTen ten 3 cause 0

/-- R448: `ERR_CONTAIN` acts in every state that answers but CONTAINED. -/
def State.containable (s : State) : Bool := s.st != .off && s.st != .contained && !s.resetLow

/-- CONTAIN_BLOCK (R439). -/
def execContainBlock (s : State) : Out := .next (if s.containable then s.writeContain 1 else s)

/-- HALT_TENANCY (R439). -/
def execHaltTenancy (ten : Nat) (s : State) : Out :=
  if ten ≥ 8 then no "no such tenancy" else .next (if s.containable then s.writeHalt ten (2 + ten * 4) else s)

/-! ### HOLDOFF_END (R447) -/

/-- HOLDOFF_END (R447, R478): the message that records of the hold-off have earned. -/
def execHoldoffEnd (t : Nat) (s : State) : Out :=
  let due := s.ev.lastMsg.all fun n => decide (n + s.ev.holdoff.toNat ≤ t)
  when (s.ev.ien && s.ev.msgDue && due && s.mayPass t) "no message waits for the end of a hold-off" (s.atTick t).evSignal

end Sys2Proof.Machine
end

