-- ==== Sys2Proof/Machine/Power.lean ====
section
/-! DEFINITION. The power governor, its reports and the replica rate (R8–R11, R28–R30, R402, R483–R485). -/

namespace Sys2Proof.Machine

/-- R9, R509: some tenancy is a member of a running formation: from ARM until its ports are IDLE again. -/
def State.formationRuns (s : State) : Bool := s.tens.any (·.timetabled)

/-- R9, R483: the lowest code that binds: 0.65 V while a formation runs, else 0.55 V. -/
def State.vidFloor (s : State) : Nat := if s.formationRuns then 16 else 0
/-- R483: the highest code, 0.85 V. -/
def vidTop : Nat := 48
/-- R30: steps of one evaluation. -/
def vidSteps : Nat := 4

/-- R8, R484: block power calls for a reduction. -/
def Power.exceeds (p : Power) : Bool := p.stale || decide (p.limit.toNat < p.ptel.toNat)

/-- R11, R442: the thermal event: the target in mV, truncated, and the stacks over their threshold (log 77). -/
def State.thermal (s : State) : State :=
  s.event 0xA7 0 {} 0 (550 + s.pwr.vid * 25 / 4) (maskOf s.pwr.hot * 2 ^ 16)

/-- R30, R483: the VCORE target moved, and sent to the regulator. -/
def State.setVid (s : State) (v : Nat) : State :=
  if v = s.pwr.vid then s else { s with pwr := { s.pwr with vid := v, vidBusy := true } }

/-- R11: VCORE is held at a limit that binds it; the first evaluation that holds it raises the event. -/
def State.holdVid (s : State) (h : Bool) : State :=
  let was := s.pwr.held
  let s : State := { s with pwr := { s.pwr with held := h } }
  if h ∧ !was then s.thermal else s

/-- R30: the steps of an evaluation, down or up. Heat asks for four steps (R402); how many steps power asks for, and how many
the governor raises, is a free value (log 78). -/
def State.evalSteps (s : State) : State :=
  let lo := s.vidFloor
  let v := s.pwr.vid
  let n := s.fresh.1.toNat
  let s := s.fresh.2
  if v < lo then (s.setVid (min lo (v + vidSteps))).holdVid false
  else if !s.pwr.hot.isEmpty ∨ s.pwr.exceeds then
    let k := if s.pwr.hot.isEmpty then 1 + n % vidSteps else vidSteps
    (s.setVid (max lo (v - k))).holdVid (v == lo)
  else (s.setVid (min vidTop (v + n % (vidSteps + 1)))).holdVid false

/-- R484: the one record of a missing power report. -/
def State.staleRec (s : State) : State :=
  if s.pwr.stale ∧ !s.pwr.staleRecorded then State.thermal { s with pwr := { s.pwr with staleRecorded := true } } else s

/-- GOVERNOR_EVALUATION (R30): every 1,024 ticks from LOADED on (log 146); while the regulator has not acknowledged the last change none is sent (R483). -/
def execGovernorEvaluation (t : Nat) (s : State) : Out :=
  if !s.governed ∨ !s.mayPass t ∨ t < s.pwr.lastEval + 1024 then no "no evaluation is due"
  else
    let s := s.atTick t
    let s : State := { s with pwr := { s.pwr with lastEval := s.pwr.lastEval + 1024, floor := s.formationRuns } }
    .next ((if s.pwr.vidBusy then s else s.evalSteps).staleRec)

/-- RATE_REPORT (R29): 1,024 ticks after LOADED and every 1,024 ticks from then on. -/
def execRateReport (t mhz : Nat) (s : State) : Out :=
  when (s.governed && s.mayPass t && decide (s.pwr.lastRate + 1024 ≤ t)) "no measurement is due"
    (let s := s.atTick t
     { s with pwr := { s.pwr with rate := BitVec.ofNat 16 mhz, lastRate := s.pwr.lastRate + 1024 } })

/-- POWER_TELEMETRY (R484). -/
def execPowerTelemetry (p : W16) (s : State) : Out :=
  .next { s with pwr := { s.pwr with ptel := p, ptelTick := some s.tick, stale := false, staleRecorded := false } }

/-- POWER_REPORT_STALE (R484): 4,096 ticks since the last valid report, or since LOADED where none has arrived. -/
def execPowerReportStale (t : Nat) (s : State) : Out :=
  when (s.governed && !s.pwr.stale && s.mayPass t && decide (s.pwr.ptelTick.getD s.pwr.loadedTick + 4096 ≤ t))
    "the last power report is not stale"
    (let s := s.atTick t
     { s with pwr := { s.pwr with stale := true } })

/-- VID_ACK (R483). -/
def execVidAck (s : State) : Out :=
  when s.pwr.vidBusy "no change awaits its acknowledgement" { s with pwr := { s.pwr with vidBusy := false } }

/-- R402, R485: a stack is hot above 95 °C until it is at 92 °C or below. -/
def hotAfter (hot : List Nat) (stack temp : Nat) : List Nat :=
  if 190 < temp then insertNew hot stack else if temp ≤ 184 then hot.filter (· != stack) else hot

/-- THERMAL_REPORT (R402, R485). -/
def execThermalReport (stack : Nat) (temp : BitVec 9) (s : State) : Out :=
  when (decide (stack < 8)) "no such channel"
    { s with pwr := { s.pwr with
        temps := smSet 0 s.pwr.temps stack temp, hot := hotAfter s.pwr.hot stack temp.toNat } }

end Sys2Proof.Machine
end

