-- ==== Sys2Proof/Machine/Boot.lean ====
section
/-! DEFINITION. Supplies, reset, the boot check, the self-test, live update of firmware and test access (R286, R437,
R448–R462, R467–R470, R475, R486–R488, R492, R493). -/

namespace Sys2Proof.Machine

/-! ### Supplies and reset (R448–R453, R475) -/

/-- R452: every register at its reset value and every on-die array zero. What lies outside the block stays: the package's
memory with the save areas in it, the hall counter, the pins and test instructions, and the commands that wait (log 79). -/
def State.wiped (s : State) : State :=
  { State.reset with
    pending := s.pending, tick := s.tick, free := s.free, nextTask := s.nextTask, nextOrder := s.nextOrder, nextCopy := s.nextCopy
    saves := s.saves, mem := { pool := s.mem.pool, poison := s.mem.poison, bad := s.mem.bad }, ev := {}
    powered := s.powered, resetLow := s.resetLow, tap := s.tap, wrap := s.wrap
    st := if s.powered then .safe else .off }

/-- R37, R42: the tick of a reset or a supply loss is taken whole: what else was taken in it is discarded, nothing is stamped with
it, and the next item belongs to the next tick (log 159). -/
def State.nextTick (s : State) : State := { s with tick := s.tick + 1 }

/-- R448, R452: the block wiped, with the record of the move to SAFE where it was in another state. -/
def State.toSafe (s : State) : State :=
  let t := s.wiped
  if s.powered then State.moveBlock { t with st := s.st } .safe else t

/-- R452: a reset. -/
def State.doReset (s : State) : State := s.nextTick.toSafe

/-- POWER_GOOD (R450, R453): SAFE; the move into it is recorded. -/
def execPowerGood (s : State) : Out :=
  when (!s.powered) "every domain is good already" (State.toSafe { s with powered := true, st := .off })

/-- SUPPLY_LOSS (R451): as a reset; the block is OFF and records nothing. -/
def execSupplyLoss (s : State) : Out :=
  when s.powered "a domain is not good already" (State.wiped (State.nextTick { s with powered := false }))

/-- RESET (R452): `OLF_RESET_N` falls. -/
def execReset (s : State) : Out := .next (State.doReset { s with resetLow := true })

/-- RESET_RELEASE (R453, R486, R488): `OLF_RESET_N` rises: test mode is sampled, the wrapper returns to WS_BYPASS, and the
arrays stand zeroed. -/
def execResetRelease (testEn : Bool) (s : State) : Out :=
  when s.resetLow "the reset input is high" { s with resetLow := false, testMode := testEn, wrap := .wsBypass }

/-- CTL_RESET (R452): a write in any state that answers. -/
def execCtlReset (s : State) : Out := .next (if s.st = .off ∨ s.resetLow then s else s.doReset)

/-- CTL_DRAIN (R448). -/
def execCtlDrain (s : State) : Out := .next (if s.st = .serving ∧ !s.resetLow then s.moveBlock .draining else s)

/-! ### The boot check (R454–R459, R492, R493) -/

/-- R455: the fields of a personality image; a RETIRED entry per port. -/
structure Personality where
  format : W16
  len : Nat
  hwMin : Nat
  hwMax : Nat
  clusters : BitVec 8
  ports : W16
  portsw : W16
  haddr : BitVec 14
  ident : W32
  serial : W64
  retired : List (BitVec 17)

/-- R455: the image's first 256 bytes. -/
def personalityOf (bs : List Byte) : Personality :=
  { format := BitVec.ofNat 16 (leAt bs 0 2), len := leAt bs 4 4, hwMin := leAt bs 8 2, hwMax := leAt bs 10 2
    clusters := BitVec.ofNat 8 (leAt bs 12 1), ports := BitVec.ofNat 16 (leAt bs 14 2), portsw := BitVec.ofNat 16 (leAt bs 16 2)
    haddr := BitVec.ofNat 14 (leAt bs 0x18 2), ident := BitVec.ofNat 32 (leAt bs 0x1C 4), serial := BitVec.ofNat 64 (leAt bs 0x20 8)
    retired := (List.range 16).map fun p => BitVec.ofNat 17 (leAt bs (0x28 + 8 * p) 4) }

/-- R455: the fields that each eight bytes of a personality name; the rest is reserved (log 80). -/
def personalityMasks : List Nat :=
  [fm 0 16 + fm 32 32, fm 0 40 + fm 48 16, fm 0 16, fm 0 14 + fm 32 32, fm 0 64] ++ List.replicate 16 (fm 0 17) ++ List.replicate 11 0

/-- R456, R459: DETAIL 0x03. -/
def personalityOk (p : Personality) (bs : List Byte) : Bool :=
  p.len == 5472 && layoutOk bs personalityMasks && p.clusters != 0
    && p.retired.all fun r => decide ((setBits 17 r.toNat).length ≤ 1)

/-- R457: a firmware image's header. -/
structure FwHeader where
  kind : Nat
  image : FwImage
  hwMin : Nat
  hwMax : Nat
  perMin : Nat
  perMax : Nat

def fwHeaderOf (bs : List Byte) : FwHeader :=
  { kind := leAt bs 0 1
    image := ⟨BitVec.ofNat 32 (leAt bs 4 4), BitVec.ofNat 16 (leAt bs 8 2), BitVec.ofNat 16 (leAt bs 12 2), BitVec.ofNat 16 (leAt bs 14 2)⟩
    hwMin := leAt bs 0x10 2, hwMax := leAt bs 0x12 2, perMin := leAt bs 0x14 2, perMax := leAt bs 0x16 2 }

/-- A value within an inclusive range. -/
def within (v lo hi : Nat) : Bool := decide (lo ≤ v ∧ v ≤ hi)

/-- R458: the image accepts the interface the other provides. -/
def FwImage.accepts (x y : FwImage) : Bool := within y.ifprov.toNat x.accmin.toNat x.accmax.toNat

/-- The DETAIL of the first check that fails. -/
def firstFail : List (Bool × Nat) → Option Nat
  | [] => none
  | (ok, d) :: l => if ok then firstFail l else some d

/-- R459: the checks of one image alone; `base` is 0x10 for the front end and 0x20 for the line. -/
def FwHeader.signed (h : FwHeader) (kind : Nat) (sig : Bool) : Bool := sig && h.kind == kind
def FwHeader.fitsHw (h : FwHeader) : Bool := within Config.stepping h.hwMin h.hwMax
def FwHeader.fitsPer (h : FwHeader) (format : Nat) : Bool := within format h.perMin h.perMax

/-- R459: the boot check, in order. -/
def bootDetail (v : Verdicts) (bs : List Byte) (p : Personality) (f l : FwHeader) : Option Nat :=
  firstFail
    [(v.per, 0x01), (within Config.stepping p.hwMin p.hwMax, 0x02), (personalityOk p bs, 0x03),
     (f.signed 1 v.fe, 0x11), (l.signed 2 v.ln, 0x21), (f.fitsHw, 0x12), (l.fitsHw, 0x22),
     (f.fitsPer p.format.toNat, 0x13), (l.fitsPer p.format.toNat, 0x23),
     (f.image.accepts l.image, 0x31), (l.image.accepts f.image, 0x32)]

/-- R442, R459: FW_INCOMPAT, shown in `FW_STAT`: the paired interface version and the offered one. -/
def State.incompat (s : State) (detail paired offered : Nat) : State :=
  State.event { s with fw := { s.fw with detail := BitVec.ofNat 8 detail } } 0x80 detail {} 0 paired (feWord + offered * 2 ^ 16)

/-- R459: the paired and the offered interface of a boot check that fails (log 81). -/
def bootPair (detail : Nat) (f l : FwHeader) : Nat × Nat :=
  let fe := f.image.ifprov.toNat
  let ln := l.image.ifprov.toNat
  if detail < 0x10 then (0, 0) else if detail / 16 = 1 ∨ detail = 0x32 then (ln, fe) else (fe, ln)

/-- R492: enable bits of the units of some clusters, n per cluster. -/
def unitMask (clusters : BitVec 8) (n : Nat) : Nat := ((setBits 8 clusters.toNat).map fun c => (2 ^ n - 1) * 2 ^ (n * c)).sum

/-- R271, R456: a port as its RETIRED entry leaves it. -/
def Port.bootRetired (x : Port) (r : BitVec 17) : Port :=
  match setBits 17 r.toNat with
  | [] => x
  | l :: _ => { x with tx := { x.tx with pos := l, held := true }, rx := { x.rx with pos := l, held := true }, retired := r }

/-- R492, R493, R475: the check has passed: LOADED, with the personality's copies locked and everything present enabled. -/
def State.booted (s : State) (p : Personality) (f l : FwHeader) (grant : W32) (ways : W64) : State :=
  State.moveBlock
    { s with
      haddr := p.haddr, linkRst := false
      enCluster := p.clusters, enGather := BitVec.ofNat 32 (unitMask p.clusters 4), enMover := BitVec.ofNat 64 (unitMask p.clusters 8)
      enPort := p.ports
      fw := { s.fw with
        perFormat := p.format, perClusters := p.clusters, perPorts := p.ports, perPortsw := p.portsw, perIdent := p.ident
        perSerial := p.serial, perRetired := p.retired, locked := true, boot := 2, fe := f.image, ln := l.image }
      mem := { s.mem with grant := grant, wayGrant := ways }
      pwr := { s.pwr with loadedTick := s.tick, lastEval := s.tick, lastRate := s.tick }
      ports := s.ports.mapIdx fun i x => x.bootRetired (p.retired.getD i 0) } .loaded

/-- R459: a write of GO: the boot check in SAFE; in any other state it is ignored and sets LOCKVIO (R456). -/
def State.writeGo (s : State) (v : Verdicts) (grant : W32) (ways : W64) : State :=
  if s.st ≠ .safe then s.setLockvio
  else
    let bs := s.poolBytes (s.fw.perAddr.toNat * 4096) 256
    let p := personalityOf bs
    let f := fwHeaderOf (s.poolBytes (s.fw.addrFe.toNat * 4096) 64)
    let l := fwHeaderOf (s.poolBytes (s.fw.addrLn.toNat * 4096) 64)
    match bootDetail v bs p f l with
    | some d =>
      let x := bootPair d f l
      State.incompat { s with fw := { s.fw with boot := 3 } } d x.1 x.2
    | none => s.booted p f l grant ways

/-- R448: writes of `CTL_`, `PER_`, `FW_` and `ERR_` are answered in SAFE too. -/
def State.answering (s : State) : Bool := s.st != .off && s.st != .contained && !s.resetLow

/-- GO (R456, R459): the verdicts of the signatures, and the grants of the package controllers, are operands (logs 6, 8). -/
def execGo (v : Verdicts) (grant : W32) (ways : W64) (hm : HostMem) (s : State) : Out :=
  withHost s hm fun s => .next (if s.answering then s.writeGo v grant ways else s)

/-! ### The self-test (R460–R462) -/

/-- R460: the self-test region is cleared. -/
def State.clearTestRegion (s : State) : State :=
  let a := poolAddr (s.fw.stBase.toNat * 2 ^ 23)
  { s with mem := { s.mem with
      pool := memZero s.mem.pool a (2 ^ 23), poison := s.mem.poison.filter fun g => !covers a (2 ^ 23) g
      bad := s.mem.bad.filter fun g => !covers a (2 ^ 23) g } }

/-- SELF_TEST_DONE (R460, R461): READY with the clusters that passed, or CONTAINED (log 82). -/
def execSelfTestDone (pass : BitVec 8) (shared : Bool) (s : State) : Out :=
  if s.st ≠ .loaded ∨ s.resetLow then no "the block is not in LOADED"
  else
    let ok := pass &&& s.fw.perClusters
    let s := State.clearTestRegion { s with
      enCluster := s.enCluster &&& ok, fw := { s.fw with pass := ok, shared := shared } }
    .next (if ok = 0 ∨ !shared then s.contain 3 none 0 else s.moveBlock .ready)

/-- R462: REFUSED of `FW_SELFTEST`. -/
def State.setRefused (s : State) : State :=
  if s.fw.refused then s.markAgain 0x1830 14
  else
    let s := s.markSet 0x1830 14
    State.errRecord { s with fw := { s.fw with refused := true } } 0x1830 14

/-- R462: a write of RUN: it names a DISABLED cluster, the block serves, and no other test runs (log 83). -/
def State.writeSelftest (s : State) (cluster : BitVec 3) (run : Bool) : State :=
  let s : State := { s with fw := { s.fw with testCl := if s.fw.busy then s.fw.testCl else cluster } }
  if !run then s
  else if !s.fw.busy ∧ s.disabledFn 0 cluster.toNat ∧ s.opened ∧ s.st ≠ .loaded then { s with fw := { s.fw with busy := true } }
  else s.setRefused

/-- SELFTEST_RUN (R462). -/
def execSelftestRun (cluster : BitVec 3) (s : State) : Out :=
  .next (if s.answering then s.writeSelftest cluster true else s)

/-- CLUSTER_TEST_DONE (R462): the cluster stays DISABLED, marked good or not. -/
def execClusterTestDone (pass : Bool) (s : State) : Out :=
  let bit : BitVec 8 := BitVec.ofNat 8 (2 ^ s.fw.testCl.toNat)
  when s.fw.busy "no on-demand test runs"
    { s with fw := { s.fw with busy := false, pass := if pass then s.fw.pass ||| bit else s.fw.pass &&& ~~~bit } }

/-! ### Live update (R467–R469) -/

/-- R467: the checks of a new image against the hardware, the personality and the running image of the other kind. -/
def State.updateDetail (s : State) (kind : Nat) (sig : Bool) (h : FwHeader) : Option Nat :=
  let base := if kind = 1 then 0x10 else 0x20
  let f := if kind = 1 then h.image else s.fw.fe
  let l := if kind = 1 then s.fw.ln else h.image
  firstFail
    [(h.signed kind sig, base + 1), (h.fitsHw, base + 2), (h.fitsPer s.fw.perFormat.toNat, base + 3),
     (f.accepts l, 0x31), (l.accepts f, 0x32)]

/-- R467, R469: a write of UPDATE: ignored with LOCKVIO while one runs, before LOADED, or for a KIND of neither image
(log 84). -/
def State.writeUpdate (s : State) (kind : BitVec 2) (utmo : W32) (sig : Bool) : State :=
  let k := kind.toNat
  if s.fw.update.isSome ∨ !s.opened ∨ (k ≠ 1 ∧ k ≠ 2) then s.setLockvio
  else
    let addr := if k = 1 then s.fw.addrFe else s.fw.addrLn
    let h := fwHeaderOf (s.poolBytes (addr.toNat * 4096) 64)
    let other := if k = 1 then s.fw.ln else s.fw.fe
    match s.updateDetail k sig h with
    | some d => State.incompat { s with fw := { s.fw with upd := 5 } } d other.ifprov.toNat h.image.ifprov.toNat
    | none =>
      { s with fw := { s.fw with
          upd := 2, update := some ⟨k, h.image, s.tick, if utmo = 0 then utmoDefault else utmo.toNat⟩ } }

/-- UPDATE (R467, R469). -/
def execUpdate (kind : BitVec 2) (utmo : W32) (sig : Bool) (hm : HostMem) (s : State) : Out :=
  withHost s hm fun s => .next (if s.answering then s.writeUpdate kind utmo sig else s)

/-- FW_IMAGE_READY (R467). -/
def execFwImageReady (s : State) : Out :=
  when (s.opened && s.fw.upd == 2 && s.fw.update.isSome) "no new image starts" { s with fw := { s.fw with upd := 3 } }

/-- R468: the conditions of the switch. -/
def State.switchOk (s : State) (kind : Nat) : Bool :=
  if kind = 1 then
    s.quiesce.st != 1 && s.tens.all fun t => t.loading.isNone && t.ttLoading.isNone && t.slots.all (·.move.isNone)
      && t.hitches.all (·.dismantle.isEmpty)
  else s.ports.all fun p => p.tx.next.isNone && p.rx.next.isNone && match p.st with
    | .training | .armed | .braking => false
    | .down | .idle | .running => true

/-- FW_SWITCH (R468): the running interface version and UPD change, nothing else. -/
def execFwSwitch (s : State) : Out :=
  match s.fw.update with
  | none => no "no update runs"
  | some u =>
    when (s.opened && s.fw.upd == 3 && s.switchOk u.kind) "the new image is not ready, or a condition of the switch fails"
      { s with fw := { s.fw with
          upd := 4, update := none, fe := if u.kind = 1 then u.image else s.fw.fe, ln := if u.kind = 1 then s.fw.ln else u.image } }

/-- FW_UPDATE_TIMEOUT (R468): the standby bank is discarded. -/
def execFwUpdateTimeout (t : Nat) (s : State) : Out :=
  match s.fw.update with
  | none => no "no update runs"
  | some u =>
    when (s.mayPass t && (decide (u.start + u.utmo ≤ t) || (s.fw.upd == 2 && decide (u.start + readyLimit ≤ t))))
      "the update is within its time"
      (let s := s.atTick t
       { s with fw := { s.fw with upd := 5, update := none } })

/-- FW_WATCHDOG (R437, R439): the record, and block containment; an update's standby bank is discarded with it. -/
def execFwWatchdog (image : Nat) (s : State) : Out :=
  if !s.opened ∨ (image ≠ 1 ∧ image ≠ 2) then no "no such image runs"
  else
    let own := if image = 1 then s.fw.fe else s.fw.ln
    let offered := match s.fw.update with
      | some u => if u.kind = image then u.image.ifprov.toNat else 0
      | none => 0
    let cause := s.ev.seq
    let s := s.event 0x81 image {} 4 own.ifprov.toNat (feWord + offered * 2 ^ 16)
    let s : State := { s with fw := { s.fw with upd := if s.fw.update.isSome then 5 else s.fw.upd, update := none } }
    .next (s.contain 2 (some cause) 0x81)

/-! ### Test access (R487, R488) -/

/-- TAP_INSTRUCTION (R487): the instruction register is updated. -/
def execTapInstruction (op : TapOp) (s : State) : Out := .next { s with tap := op }

/-- R487: the instruction acts on the lanes: EXTEST, CLAMP and HIGHZ only while the reset input is low. -/
def State.tapDrives (s : State) : Bool := match s.tap with
  | .extest | .clamp | .highz => s.resetLow
  | .bypass | .idcode | .samplePreload => false

/-- WRAPPER_INSTRUCTION (R488): the instruction register is updated; but for WS_BYPASS it acts only in reset. -/
def execWrapperInstruction (op : WrapOp) (s : State) : Out := .next { s with wrap := op }

/-- R488: the wrapper may act on the boundary; `testEn` is the level of `OLF_TEST_EN`. -/
def State.wrapActs (s : State) (testEn : Bool) : Bool := s.wrap != .wsBypass && s.resetLow && testEn

end Sys2Proof.Machine
end

