-- ==== Sys2Proof/Machine/LaneFloat.lean ====
section
/-! DEFINITION. Classes 0x02 and 0x03: floating-point and conversion instructions (R313–R315). -/

namespace Sys2Proof.Machine

/-- R313: with I = 1, B is the FP32 value whose bits [31:8] are IMM24. -/
def opBF (k : Coach) (w : LaneWord) (j : Nat) : W32 := if w.i then immZ w <<< 8 else k.reg (fUB w) (fB w) j

def execFadd (c : CoachRef) (w : LaneWord) (s : State) : Out :=
  s.lane c 2 0x00 w (aluBody fun k w j => rn32 (fAdd (f32 (opA k w j)) (f32 (opBF k w j))))
def execFsub (c : CoachRef) (w : LaneWord) (s : State) : Out :=
  s.lane c 2 0x01 w (aluBody fun k w j => rn32 (fAdd (f32 (opA k w j)) (f32 (opBF k w j)).negate))
def execFmul (c : CoachRef) (w : LaneWord) (s : State) : Out :=
  s.lane c 2 0x02 w (aluBody fun k w j => rn32 (fMul (f32 (opA k w j)) (f32 (opBF k w j))))
def execFfma (c : CoachRef) (w : LaneWord) (s : State) : Out :=
  s.lane c 2 0x03 w (aluBody fun k w j =>
    rn32 (fAdd (fMul (f32 (opA k w j)) (f32 (opBF k w j))) (f32 (opC k w j))))
def execFdiv (c : CoachRef) (w : LaneWord) (s : State) : Out :=
  s.lane c 2 0x04 w (aluBody fun k w j => fDiv32 (f32 (opA k w j)) (f32 (opBF k w j)))
def execFsqrt (c : CoachRef) (w : LaneWord) (s : State) : Out :=
  s.lane c 2 0x05 w (aluBody fun k w j => fSqrt32 (f32 (opA k w j)))
def execFmin (c : CoachRef) (w : LaneWord) (s : State) : Out :=
  s.lane c 2 0x06 w (aluBody fun k w j => rn32 (fMin (f32 (opA k w j)) (f32 (opBF k w j))))
def execFmax (c : CoachRef) (w : LaneWord) (s : State) : Out :=
  s.lane c 2 0x07 w (aluBody fun k w j => rn32 (fMax (f32 (opA k w j)) (f32 (opBF k w j))))
def execFminNum (c : CoachRef) (w : LaneWord) (s : State) : Out :=
  s.lane c 2 0x08 w (aluBody fun k w j => rn32 (fMinNum (f32 (opA k w j)) (f32 (opBF k w j))))
def execFmaxNum (c : CoachRef) (w : LaneWord) (s : State) : Out :=
  s.lane c 2 0x09 w (aluBody fun k w j => rn32 (fMaxNum (f32 (opA k w j)) (f32 (opBF k w j))))
def execFabs (c : CoachRef) (w : LaneWord) (s : State) : Out :=
  s.lane c 2 0x0A w (aluBody fun k w j => rn32 (f32 (opA k w j)).abs)
def execFneg (c : CoachRef) (w : LaneWord) (s : State) : Out :=
  s.lane c 2 0x0B w (aluBody fun k w j => rn32 (f32 (opA k w j)).negate)
def execFex2 (c : CoachRef) (w : LaneWord) (s : State) : Out :=
  s.lane c 2 0x0C w (aluBody fun k w j => fex2Of (opA k w j))
def execFlg2 (c : CoachRef) (w : LaneWord) (s : State) : Out :=
  s.lane c 2 0x0D w (aluBody fun k w j => flg2Of (opA k w j))

/-- Conditions of `fcmp`: NaN makes 0–5 false except ne. -/
def floatCond (sub : Nat) (a b : FVal) : Bool :=
  let nan := a.isNan || b.isNan
  match sub % 8 with
  | 0 => fEq a b
  | 1 => nan || !fEq a b
  | 2 => !nan && fLt a b
  | 3 => !nan && !fLt b a
  | 4 => !nan && fLt b a
  | 5 => !nan && !fLt a b
  | 6 => !nan
  | _ => nan

def execFcmp (c : CoachRef) (w : LaneWord) (s : State) : Out :=
  s.lane c 2 0x0E w (predBody fun k w j => floatCond (fSub w) (f32 (opA k w j)) (f32 (opBF k w j)))

/-! ### Conversions (R315) -/

/-- What a conversion gives: the words of D and its counts. -/
structure CvtOut where
  words : List W32
  sat : Nat := 0
  nan : Nat := 0

/-- R315: a conversion: D written, and each saturation and NaN-to-integer counted in the lane's cluster. -/
def cvtBody (f : Coach → LaneWord → Nat → CvtOut) (s : State) (x : LaneCtx) : State :=
  let r := fun j => f x.k x.w j
  let s := s.count (cntCvtNan x.cohort.cluster) ((x.threads.map fun j => (r j).nan).sum)
  let s := s.count (cntCvtSat x.cohort.cluster) ((x.threads.map fun j => (r j).sat).sum)
  s.advance x (x.k.writeD x.w x.threads fun j => (r j).words)

/-- An exact or once-rounded result with no counts. -/
def cvt1 (v : W32) : CvtOut := ⟨[v], 0, 0⟩

/-- SUB[1:0] of an integer conversion. -/
def intRnd (sub : Nat) : IntRnd :=
  match sub % 4 with
  | 0 => .halfEven
  | 1 => .zero
  | 2 => .down
  | _ => .up

/-- FP32 to a 32-bit integer range. -/
def cvtInt (sub : Nat) (lo hi : Int) (a : W32) : CvtOut :=
  let r := toInt (intRnd sub) lo hi (f32 a)
  ⟨[wrap32 r.val], b2n r.sat, b2n r.nan⟩

/-- R315: narrow results of A, and of B beside it where SUB[1] packs. -/
def cvtNarrow (f : Fmt) (w : LaneWord) (a b : W32) : CvtOut :=
  let ra := fConv f (f32 a)
  if bitOf (fSub w) 1 then
    let rb := fConv f (f32 b)
    ⟨[BitVec.ofNat 32 (ra.code + rb.code * 2 ^ f.bits)], b2n ra.sat + b2n rb.sat, 0⟩
  else ⟨[BitVec.ofNat 32 ra.code], b2n ra.sat, 0⟩

/-- Part n of A in a narrow format, as FP32 (exact). -/
def cvtWiden (f : Fmt) (n : Nat) (a : W32) : CvtOut := cvt1 (rn32 (fDecode f (bitsOf a.toNat (n * f.bits) f.bits)))

def execCvtF32S32 (c : CoachRef) (w : LaneWord) (s : State) : Out :=
  s.lane c 3 0x00 w (cvtBody fun k w j => cvt1 (ofFixed (opA k w j).toInt 0))
def execCvtF32U32 (c : CoachRef) (w : LaneWord) (s : State) : Out :=
  s.lane c 3 0x01 w (cvtBody fun k w j => cvt1 (ofFixed (opA k w j).toNat 0))
def execCvtS32F32 (c : CoachRef) (w : LaneWord) (s : State) : Out :=
  s.lane c 3 0x02 w (cvtBody fun k w j => cvtInt (fSub w) (-(2 ^ 31)) (2 ^ 31 - 1) (opA k w j))
def execCvtU32F32 (c : CoachRef) (w : LaneWord) (s : State) : Out :=
  s.lane c 3 0x03 w (cvtBody fun k w j => cvtInt (fSub w) 0 (2 ^ 32 - 1) (opA k w j))
def execCvtBf16F32 (c : CoachRef) (w : LaneWord) (s : State) : Out :=
  s.lane c 3 0x04 w (cvtBody fun k w j => cvtNarrow bf16Fmt w (opA k w j) (opB k w j))
def execCvtF16F32 (c : CoachRef) (w : LaneWord) (s : State) : Out :=
  s.lane c 3 0x05 w (cvtBody fun k w j => cvtNarrow f16Fmt w (opA k w j) (opB k w j))
def execCvtE4m3F32 (c : CoachRef) (w : LaneWord) (s : State) : Out :=
  s.lane c 3 0x06 w (cvtBody fun k w j => cvtNarrow e4m3Fmt w (opA k w j) (opB k w j))
def execCvtE5m2F32 (c : CoachRef) (w : LaneWord) (s : State) : Out :=
  s.lane c 3 0x07 w (cvtBody fun k w j => cvtNarrow e5m2Fmt w (opA k w j) (opB k w j))
def execCvtF32Bf16 (c : CoachRef) (w : LaneWord) (s : State) : Out :=
  s.lane c 3 0x08 w (cvtBody fun k w j => cvtWiden bf16Fmt (fSub w % 2) (opA k w j))
def execCvtF32F16 (c : CoachRef) (w : LaneWord) (s : State) : Out :=
  s.lane c 3 0x09 w (cvtBody fun k w j => cvtWiden f16Fmt (fSub w % 2) (opA k w j))
def execCvtF32E4m3 (c : CoachRef) (w : LaneWord) (s : State) : Out :=
  s.lane c 3 0x0A w (cvtBody fun k w j => cvtWiden e4m3Fmt (fSub w % 4) (opA k w j))
def execCvtF32E5m2 (c : CoachRef) (w : LaneWord) (s : State) : Out :=
  s.lane c 3 0x0B w (cvtBody fun k w j => cvtWiden e5m2Fmt (fSub w % 4) (opA k w j))

/-- E of the fixed-point conversions: XMOD[15:8], signed. -/
def cvtExp (w : LaneWord) : Int := signedOf (fX w 8 8) 8

/-- E outside −96 to +31 raises code 0x08 for the lowest acting thread; else the conversion. -/
def cvtExpBody (f : Coach → LaneWord → Nat → CvtOut) (s : State) (x : LaneCtx) : State :=
  if cvtExp x.w < -96 ∨ 31 < cvtExp x.w then s.instrFault x 8 x.low else cvtBody f s x

def execCvtQ64F32 (c : CoachRef) (w : LaneWord) (s : State) : Out :=
  s.lane c 3 0x0C w (cvtExpBody fun k w j =>
    let r := toFixed (cvtExp w) (f32 (opA k w j))
    ⟨words64 (wrap64 r.val), b2n r.sat, b2n r.nan⟩)
def execCvtF32Q64 (c : CoachRef) (w : LaneWord) (s : State) : Out :=
  s.lane c 3 0x0D w (cvtExpBody fun k w j => cvt1 (ofFixed (opA64 k w j).toInt (cvtExp w)))

end Sys2Proof.Machine
end

