-- ==== Sys2Proof/Machine/LaneInt.lean ====
section
/-! DEFINITION. Class 0x01: integer, predicate and coach instructions (R303, R312). -/

namespace Sys2Proof.Machine

/-- R312: signed and unsigned division; division by zero and −2^31 ÷ −1 are stated results. -/
def divS (a b : W32) : W32 := if b = 0 then 0xFFFFFFFF else wrap32 (a.toInt.tdiv b.toInt)
def divU (a b : W32) : W32 := if b = 0 then 0xFFFFFFFF else a / b
def remS (a b : W32) : W32 := if b = 0 then a else wrap32 (a.toInt.tmod b.toInt)
def remU (a b : W32) : W32 := if b = 0 then a else a % b

/-- R312: shifts by the whole of B; a count of 32 or more shifts everything out. -/
def shlW (a b : W32) : W32 := if 32 ≤ b.toNat then 0 else a <<< b.toNat
def shrW (a b : W32) : W32 := if 32 ≤ b.toNat then 0 else a >>> b.toNat
def sarW (a b : W32) : W32 := a.sshiftRight (min b.toNat 32)

/-- `bfe`: position B[4:0] and length B[12:8], where 0 means 32. -/
def bfPos (b : W32) : Nat := bitsOf b.toNat 0 5
def bfLen (b : W32) : Nat := if bitsOf b.toNat 8 5 = 0 then 32 else bitsOf b.toNat 8 5

/-- The field of A, bits beyond bit 31 read as 0; sign-extended from its top bit where asked. -/
def bfe (a b : W32) (sx : Bool) : W32 :=
  let v := bitsOf a.toNat (bfPos b) (bfLen b)
  if sx then wrap32 (signedOf v (bfLen b)) else BitVec.ofNat 32 v

/-- `bfi`: the field of A replaced by the low bits of C. -/
def bfi (a b c : W32) : W32 :=
  let m : W32 := BitVec.ofNat 32 ((2 ^ bfLen b - 1) * 2 ^ bfPos b)
  (a &&& ~~~m) ||| ((c <<< bfPos b) &&& m)

/-- Leading zeros, 0–32. -/
def clz (a : W32) : W32 := if a = 0 then 32 else BitVec.ofNat 32 (31 - Nat.log2 a.toNat)

/-- Conditions of `cmp`: SUB[3] unsigned, SUB[2:0] the condition. -/
def intCond (sub : Nat) (a b : W32) : Bool :=
  let lt := if bitOf sub 3 then a.ult b else a.slt b
  let gt := if bitOf sub 3 then b.ult a else b.slt a
  match sub % 8 with
  | 0 => a == b
  | 1 => a != b
  | 2 => lt
  | 3 => !gt
  | 4 => gt
  | _ => !lt

/-- `pop`: SUB[2:0]. -/
def popFn (sub : Nat) (a b : Bool) : Bool :=
  match sub % 8 with
  | 0 => a && b
  | 1 => a || b
  | 2 => a != b
  | 3 => a && !b
  | 4 => !a
  | 5 => true
  | _ => false

/-- The thread whose A `cx.get` reads. -/
def cxSource (sub j b : Nat) : Nat :=
  match sub % 4 with
  | 0 => b
  | 1 => j ^^^ b
  | 2 => (j + b) % 32
  | _ => (j + 32 - b) % 32

/-- Bit j of a predicate. -/
def predBit (k : Coach) (p j : Nat) : Bool := (k.pred p).getLsbD j

def execAdd (c : CoachRef) (w : LaneWord) (s : State) : Out :=
  s.lane c 1 0x00 w (aluBody fun k w j => opA k w j + opB k w j)
def execSub (c : CoachRef) (w : LaneWord) (s : State) : Out :=
  s.lane c 1 0x01 w (aluBody fun k w j => opA k w j - opB k w j)
def execMulLo (c : CoachRef) (w : LaneWord) (s : State) : Out :=
  s.lane c 1 0x02 w (aluBody fun k w j => opA k w j * opB k w j)
def execMulHiS (c : CoachRef) (w : LaneWord) (s : State) : Out :=
  s.lane c 1 0x03 w (aluBody fun k w j => wrap32 ((opA k w j).toInt * (opB k w j).toInt / 2 ^ 32))
def execMulHiU (c : CoachRef) (w : LaneWord) (s : State) : Out :=
  s.lane c 1 0x04 w (aluBody fun k w j => BitVec.ofNat 32 ((opA k w j).toNat * (opB k w j).toNat / 2 ^ 32))
def execMad (c : CoachRef) (w : LaneWord) (s : State) : Out :=
  s.lane c 1 0x05 w (aluBody fun k w j => opA k w j * opB k w j + opC k w j)
def execDivS (c : CoachRef) (w : LaneWord) (s : State) : Out :=
  s.lane c 1 0x06 w (aluBody fun k w j => divS (opA k w j) (opB k w j))
def execDivU (c : CoachRef) (w : LaneWord) (s : State) : Out :=
  s.lane c 1 0x07 w (aluBody fun k w j => divU (opA k w j) (opB k w j))
def execRemS (c : CoachRef) (w : LaneWord) (s : State) : Out :=
  s.lane c 1 0x08 w (aluBody fun k w j => remS (opA k w j) (opB k w j))
def execRemU (c : CoachRef) (w : LaneWord) (s : State) : Out :=
  s.lane c 1 0x09 w (aluBody fun k w j => remU (opA k w j) (opB k w j))
def execAnd (c : CoachRef) (w : LaneWord) (s : State) : Out :=
  s.lane c 1 0x0A w (aluBody fun k w j => opA k w j &&& opB k w j)
def execOr (c : CoachRef) (w : LaneWord) (s : State) : Out :=
  s.lane c 1 0x0B w (aluBody fun k w j => opA k w j ||| opB k w j)
def execXor (c : CoachRef) (w : LaneWord) (s : State) : Out :=
  s.lane c 1 0x0C w (aluBody fun k w j => opA k w j ^^^ opB k w j)
def execNot (c : CoachRef) (w : LaneWord) (s : State) : Out :=
  s.lane c 1 0x0D w (aluBody fun k w j => ~~~opA k w j)
def execShl (c : CoachRef) (w : LaneWord) (s : State) : Out :=
  s.lane c 1 0x0E w (aluBody fun k w j => shlW (opA k w j) (opB k w j))
def execShr (c : CoachRef) (w : LaneWord) (s : State) : Out :=
  s.lane c 1 0x0F w (aluBody fun k w j => shrW (opA k w j) (opB k w j))
def execSar (c : CoachRef) (w : LaneWord) (s : State) : Out :=
  s.lane c 1 0x10 w (aluBody fun k w j => sarW (opA k w j) (opB k w j))
def execMinS (c : CoachRef) (w : LaneWord) (s : State) : Out :=
  s.lane c 1 0x11 w (aluBody fun k w j => if (opA k w j).slt (opB k w j) then opA k w j else opB k w j)
def execMinU (c : CoachRef) (w : LaneWord) (s : State) : Out :=
  s.lane c 1 0x12 w (aluBody fun k w j => if (opA k w j).ult (opB k w j) then opA k w j else opB k w j)
def execMaxS (c : CoachRef) (w : LaneWord) (s : State) : Out :=
  s.lane c 1 0x13 w (aluBody fun k w j => if (opA k w j).slt (opB k w j) then opB k w j else opA k w j)
def execMaxU (c : CoachRef) (w : LaneWord) (s : State) : Out :=
  s.lane c 1 0x14 w (aluBody fun k w j => if (opA k w j).ult (opB k w j) then opB k w j else opA k w j)
def execPopc (c : CoachRef) (w : LaneWord) (s : State) : Out :=
  s.lane c 1 0x15 w (aluBody fun k w j => BitVec.ofNat 32 (popcount 32 (opA k w j).toNat))
def execClz (c : CoachRef) (w : LaneWord) (s : State) : Out :=
  s.lane c 1 0x16 w (aluBody fun k w j => clz (opA k w j))
def execBfe (c : CoachRef) (w : LaneWord) (s : State) : Out :=
  s.lane c 1 0x17 w (aluBody fun k w j => bfe (opA k w j) (opB k w j) (bitOf (fSub w) 0))
def execBfi (c : CoachRef) (w : LaneWord) (s : State) : Out :=
  s.lane c 1 0x18 w (aluBody fun k w j => bfi (opA k w j) (opB k w j) (opC k w j))
def execSel (c : CoachRef) (w : LaneWord) (s : State) : Out :=
  s.lane c 1 0x19 w (aluBody fun k w j => if predBit k (fSub w % 8) j then opA k w j else opB k w j)
def execMov (c : CoachRef) (w : LaneWord) (s : State) : Out :=
  s.lane c 1 0x1A w (aluBody fun k w j => opB k w j)
def execMovh (c : CoachRef) (w : LaneWord) (s : State) : Out :=
  s.lane c 1 0x1B w (aluBody fun k w j => (opD k w j &&& 0x00FFFFFF) ||| (immZ w <<< 24))
def execCmp (c : CoachRef) (w : LaneWord) (s : State) : Out :=
  s.lane c 1 0x1C w (predBody fun k w j => intCond (fSub w) (opA k w j) (opB k w j))
def execPop (c : CoachRef) (w : LaneWord) (s : State) : Out :=
  s.lane c 1 0x1D w (predBody fun k w j => popFn (fSub w) (predBit k (fA w % 8) j) (predBit k (fB w % 8) j))
def execAddX64 (c : CoachRef) (w : LaneWord) (s : State) : Out :=
  s.lane c 1 0x1E w (aluBody64 fun k w j => opA64 k w j + opB64 k w j)
def execSubX64 (c : CoachRef) (w : LaneWord) (s : State) : Out :=
  s.lane c 1 0x1F w (aluBody64 fun k w j => opA64 k w j - opB64 k w j)
def execMulWideS (c : CoachRef) (w : LaneWord) (s : State) : Out :=
  s.lane c 1 0x20 w (aluBody64 fun k w j => wrap64 ((opA k w j).toInt * (opB k w j).toInt))
def execMulWideU (c : CoachRef) (w : LaneWord) (s : State) : Out :=
  s.lane c 1 0x21 w (aluBody64 fun k w j => BitVec.ofNat 64 ((opA k w j).toNat * (opB k w j).toNat))

/-- `cx.get`: A of thread s as it stood before the instruction; 0 where s is not running or has exited. -/
def cxGet (k : Coach) (w : LaneWord) (j : Nat) : W32 :=
  let src := cxSource (fSub w) j (bitsOf (opB k w j).toNat 0 5)
  if k.running.getLsbD src then opA k w src else 0

def execCxGet (c : CoachRef) (w : LaneWord) (s : State) : Out := s.lane c 1 0x22 w (aluBody cxGet)

/-- Acting threads in which pA holds. -/
def cqMaskOf (x : LaneCtx) : W32 := x.k.pred (fA x.w % 8) &&& x.act

/-- A predicate given one value in every acting thread. -/
def cqBody (f : LaneCtx → Bool) (s : State) (x : LaneCtx) : State := predBody (fun _ _ _ => f x) s x

def execCqAny (c : CoachRef) (w : LaneWord) (s : State) : Out :=
  s.lane c 1 0x23 w (cqBody fun x => decide (cqMaskOf x ≠ 0))
def execCqAll (c : CoachRef) (w : LaneWord) (s : State) : Out :=
  s.lane c 1 0x24 w (cqBody fun x => cqMaskOf x == x.act)
def execCqMask (c : CoachRef) (w : LaneWord) (s : State) : Out :=
  s.lane c 1 0x25 w fun s x => aluBody (fun _ _ _ => cqMaskOf x) s x

/-- R47: the global index of thread j. -/
def gtid (x : LaneCtx) (j : Nat) : Nat := x.cohort.num * (32 * x.task.k) + x.ref.coach * 32 + j

/-- R303: the special registers but the tick pair. -/
def specialReg (s : State) (x : LaneCtx) (n j : Nat) : Nat :=
  match n with
  | 0x00 => j
  | 0x01 => x.ref.coach
  | 0x02 => x.cohort.num
  | 0x03 => ceilDiv x.task.nthread (32 * x.task.k)
  | 0x04 => gtid x j
  | 0x05 => x.task.nthread
  | 0x06 => bitsOf x.task.seed.toNat 0 32
  | 0x07 => bitsOf x.task.seed.toNat 32 32
  | 0x08 => x.task.ctx
  | 0x09 => x.cohort.lane
  | 0x0A => x.cohort.cluster
  | 0x0B => x.task.k
  | 0x0C => x.task.nreg
  | 0x0D => x.task.llm
  | 0x0E => x.task.spext
  | 0x0F => x.task.ten
  | 0x10 => x.task.rank
  | 0x11 => x.task.fsize
  | 0x12 => x.k.running.toNat
  | 0x13 => s.tick % 2 ^ 32
  | _ => (smGet 0 x.k.latch j).toNat

/-- R303: a read of `sr.tick.lo` latches the high half of the same tick for its thread. -/
def latchTick (s : State) (x : LaneCtx) (k : Coach) : Coach :=
  if fImm x.w = 0x13 then
    { k with latch := x.threads.foldl (fun m j => smSet 0 m j (BitVec.ofNat 32 (s.tick / 2 ^ 32))) k.latch }
  else k

def execMovSr (c : CoachRef) (w : LaneWord) (s : State) : Out :=
  s.lane c 1 0x26 w fun s x =>
    s.advance x (latchTick s x (x.k.writeD x.w x.threads fun j => [BitVec.ofNat 32 (specialReg s x (fImm x.w) j)]))

/-- p7…p0 of thread j. -/
def packPreds (k : Coach) (j : Nat) : W32 := BitVec.ofNat 32 (maskOf ((List.range 8).filter fun p => predBit k p j))

def execPrPack (c : CoachRef) (w : LaneWord) (s : State) : Out :=
  s.lane c 1 0x27 w (aluBody fun k _ j => packPreds k j)
def execPrUnpack (c : CoachRef) (w : LaneWord) (s : State) : Out :=
  s.lane c 1 0x28 w fun s x =>
    s.advance x ((List.range 8).foldl (fun k p =>
      k.setPred p x.act (predMask x.threads fun j => (opA x.k x.w j).getLsbD p)) x.k)
def execCqCnt (c : CoachRef) (w : LaneWord) (s : State) : Out :=
  s.lane c 1 0x29 w fun s x => aluBody (fun _ _ _ => BitVec.ofNat 32 (popcount 32 (cqMaskOf x).toNat)) s x

end Sys2Proof.Machine
end

