-- ==== Sys2Proof/Machine/RegRead.lean ====
section
/-! DEFINITION. What a read of the control window returns (R13, R448, R489–R491 and the register maps of every chapter). -/

namespace Sys2Proof.Machine

/-- The sum of fields, each at its lowest bit. -/
def fields (l : List (Nat × Nat)) : Nat := (l.map fun x => x.1 * 2 ^ x.2).sum

/-- The number of the register at a among `count` registers `stride` bytes apart from `base` on. -/
def indexed (a base stride count : Nat) : Option Nat :=
  if base ≤ a ∧ a < base + stride * count ∧ (a - base) % stride = 0 then some ((a - base) / stride) else none

/-- A list of registers by their offset; 0 where none is named (R490). -/
def atOffset (a : Nat) : List (Nat × Nat) → Nat
  | [] => 0
  | (o, v) :: l => if o = a then v else atOffset a l

/-! ### CTL_, PER_, FW_ -/

/-- R492, *Identification and enable maps*. -/
def State.readCtl (s : State) (a : Nat) : Nat :=
  atOffset a
    [(0x000, fields [(0x4F1F, 0), (Config.stepping, 16), (0x01, 24)]), (0x008, blockCode s.st), (0x020, b2n s.testMode),
     (0x028, s.haddr.toNat), (0x030, s.tick), (0x038, fields [(s.fw.perClusters.toNat, 0), (s.enCluster.toNat, 8)]),
     (0x040, s.enGather.toNat), (0x048, s.enMover.toNat), (0x050, fields [(s.fw.perPorts.toNat, 0), (s.enPort.toNat, 16)]),
     (0x060, s.qstatLow + s.quiesce.aborted.toNat * 2 ^ 32)]

/-- *Personality copies*, *Boot and firmware registers*, `FW_SELFTEST`; a from 0x0_1000. -/
def State.readFw (s : State) (a : Nat) : Nat :=
  let f := s.fw
  match indexed a 0x080 8 16 with
  | some n => (f.perRetired.getD n 0).toNat
  | none =>
    atOffset a
      [(0x000, f.perAddr.toNat * 2 ^ 12), (0x008, f.perFormat.toNat), (0x010, f.perClusters.toNat),
       (0x018, fields [(f.perPorts.toNat, 0), (f.perPortsw.toNat, 16)]), (0x020, f.perIdent.toNat), (0x028, f.perSerial.toNat),
       (0x800, f.addrFe.toNat * 2 ^ 12), (0x808, f.addrLn.toNat * 2 ^ 12),
       (0x818, fields [(f.boot.toNat, 0), (f.detail.toNat, 8), (f.upd.toNat, 16)]),
       (0x820, fields [(f.fe.ifprov.toNat, 0), (f.ln.ifprov.toNat, 16)]), (0x828, f.stBase.toNat * 2 ^ 23),
       (0x830, fields [(f.pass.toNat, 0), (b2n f.shared, 8), (f.testCl.toNat, 9), (b2n f.busy, 13), (b2n f.refused, 14)])]

/-! ### TEN_ -/

/-- R409–R411, R498: the registers of slot n; a from the slot's own base. -/
def State.readSlot (s : State) (t n a : Nat) : Nat :=
  let x := (s.ten t).slot n
  let st := match x.st with
    | .empty => 0
    | .resident => if s.runnable t n then 1 else 2
    | .parking | .unparking => 3
  atOffset a
    [(0x00, x.lane.toNat), (0x08, x.sp.toNat),
     (0x10, fields [(x.ctx, 0), (st, 8), (b2n ((s.ten t).holder == some n), 10)]), (0x18, x.xwin.toNat)]

/-- R497: the registers of pinned range k. -/
def Pin.read (p : Pin) (a : Nat) : Nat :=
  atOffset a
    [(0x0, fields [(b2n p.en, 0), (p.base.toNat, 21), (p.size.toNat, 48)]),
     (0x8, fields [(p.st.toNat, 0), (b2n p.w, 2), (b2n p.limit, 3), (p.fault.toNat, 8), (p.faddr.toNat, 16)])]

/-- A tenancy's registers; a from the tenancy's block. -/
def State.readTen (s : State) (t a : Nat) : Nat :=
  let x := s.ten t
  if 0x100 ≤ a ∧ a < 0x180 then s.readSlot t ((a - 0x100) / 0x20) ((a - 0x100) % 0x20)
  else if 0x200 ≤ a then (x.pin ((a - 0x200) / 0x10)).read ((a - 0x200) % 0x10)
  else
    let res := maskOf ((List.range 4).filter fun n => (x.slot n).st != .empty)
    atOffset a
      [(0x008, fields [(tenCode x.st, 0), (b2n x.timetabled, 3), (res, 4)]), (0x010, x.clusters.toNat),
       (0x018, fields [(x.mode.toNat, 0), (b2n x.testPriv, 2)]), (0x020, x.jobTag.toNat), (0x028, x.chgrp.toNat),
       (0x030, x.scway.toNat), (0x038, x.scwayRsv.toNat), (0x040, (x.rcwayNew.getD x.rcway).toNat),
       (0x048, fields [(x.allotHitches.toNat, 0), (x.allotCarts.toNat, 16)]), (0x050, x.glimit.toNat), (0x058, x.mlimit.toNat),
       (0x060, x.nanPolicy.toNat), (0x068, x.statusBase.toNat * 2 ^ 6), (0x070, x.arenaBase.toNat * 2 ^ 12),
       (0x078, x.arenaSize.toNat * 2 ^ 12), (0x080, fields [(b2n x.xltEn, 0), (x.xltRoot.toNat, 20)]),
       (0x088, x.apbase.toNat * 2 ^ 30), (0x090, x.asid.toNat), (0x098, x.faultTmo.toNat), (0x0A0, x.faults.length),
       (0x0A8, x.winTmo.toNat), (0x0B0, x.invTaken.toNat), (0x0B8, x.invDone.toNat), (0x0C0, x.evrun.toNat),
       (0x0C8, fields [(x.hold.toNat, 0), (x.ptmo.toNat, 32)])]

/-! ### FE_, XLT_, MEM_ -/

/-- R499: a ring's registers. -/
def State.readRing (s : State) (r a : Nat) : Nat :=
  let x := s.ring r
  atOffset a
    [(0x00, fields [(b2n x.en, 0), (x.log2n.toNat, 1), (x.base.toNat, 12)]), (0x08, fields [(x.ten.toNat, 0), (x.ctx.toNat, 8)]),
     (0x10, x.tailAddr.toNat * 2 ^ 3), (0x18, x.head.toNat),
     (0x20, fields [(b2n x.stopped, 8), (b2n (s.watched x), 9), (x.reason.toNat, 16)])]

/-- R500, R55. -/
def State.readXlt (s : State) (a : Nat) : Nat :=
  let x := s.xlt
  atOffset a
    [(0x008, fields [(b2n x.podEn, 0), (x.podBase.toNat, 11)]), (0x010, x.sendBase.toNat * 2 ^ 12), (0x018, x.recvBase.toNat * 2 ^ 13),
     (0x028, (x.btlb.filter fun y => y.2.2.locked).length)]

/-- An entry of `MEM_ERRLOG`. -/
def ErrLog.read (e : ErrLog) : Nat := fields [(e.pa.toNat, 0), (e.ten.toNat, 52), (b2n e.valid, 63)]

/-- R384, R392, R397, R403, R501. -/
def State.readMem (s : State) (a : Nat) : Nat :=
  let m := s.mem
  match indexed a 0x100 8 16 with
  | some n => (m.errlog.getD n {}).read
  | none =>
    atOffset a
      [(0x000, m.grant.toNat), (0x008, m.svc.toNat), (0x010, m.wayGrant.toNat), (0x018, Config.wayCap),
       (0x020, fields [(b2n m.lost, 0), ((m.errlog.filter (·.valid)).length, 8)]), (0x028, m.margin.toNat), (0x030, m.marginBase.toNat)]

/-! ### LINE_, TT_, LED_ -/

/-- R502, R503: a port's registers. -/
def State.readLine (s : State) (p a : Nat) : Nat :=
  let x := s.port p
  match indexed a 0x030 8 8 with
  | some k => bitsOf x.rollMiss.toNat (64 * k) 64
  | none =>
    atOffset a
      [(0x008, fields [(portCode x.st, 0), (b2n (bitOf s.fence.toNat p), 3), (x.reason.toNat, 8)]),
       (0x010, fields [(x.lat.toNat, 0), (x.inverted.toNat, 8)]), (0x018, x.retireReg.toNat),
       (0x020, fields [(x.tx.pos, 0), (b2n x.rotating, 5), (x.retired.toNat, 8)]),
       (0x028, fields [(x.memb.getD 0, 0), (b2n x.memb.isSome, 3)]), (0x3C0, s.fence.toNat),
       (0x3C8, fields [(s.routeIdx.toNat, 0), ((smGet 0 s.route s.routeIdx.toNat).toNat, 16)])]

/-- `TT_INFO`. -/
def Timetable.info (x : Timetable) : Nat :=
  let st := match x.st with
    | .loaded => 1
    | .armed => 2
    | .running => 3
    | .braking => 4
  fields [(x.rank, 0), (x.fsize, 9), (st, 19), (b2n x.root, 22), (x.ports.toNat, 32)]

/-- R504: a membership's registers, and the timetable memory's; a from 0x0_C000. -/
def State.readTt (s : State) (a : Nat) : Nat :=
  if a = 0x200 then Config.ttCap
  else if a = 0x208 then s.ttFree
  else if 0x200 ≤ a then 0
  else
    let t := s.ten (a / 0x40)
    let of := fun (f : Timetable → Nat) => match t.tt with
      | some x => f x
      | none => 0
    atOffset (a % 0x40)
      [(0x00, of (·.stamp.toNat)), (0x08, of Timetable.info), (0x10, t.td.toNat), (0x18, t.brkt.toNat), (0x20, of (·.cycle))]

/-- Two ledger counters of one register. -/
def ledPair (lo hi : W32) : Nat := lo.toNat + hi.toNat * 2 ^ 32

/-- R505, *Ledgers*: a tenancy's books. -/
def Tenancy.readLed (x : Tenancy) (a : Nat) : Nat :=
  let b := x.ab
  atOffset a
    [(0x00, fields [(x.epoch.toNat, 0), (b2n x.epochPend, 32)]), (0x10, x.epochDone.toNat), (0x18, ledPair x.gtokIss x.gtokRet),
     (0x20, ledPair x.mtokIss x.mtokRet), (0x28, ledPair x.tickTaken x.tickRet), (0x30, b.tasks.toNat), (0x38, b.pos.toNat),
     (0x40, b.xfer.toNat), (0x48, b.cartRet.toNat), (0x50, b.cartPurge.toNat), (0x58, b.contrib.toNat), (0x60, b.late.toNat),
     (0x68, b.tcDisc.toNat), (0x70, b.loss.toNat)]

/-- *Port books*. -/
def Port.readLed (x : Port) (a : Nat) : Nat :=
  let t := x.sent
  let r := x.taken
  atOffset a
    [(0x00, ledPair t.data r.data), (0x08, ledPair t.vacant r.vacant), (0x10, ledPair t.roll r.roll),
     (0x18, ledPair t.control r.control), (0x20, ledPair t.free0 r.free0), (0x28, ledPair t.free1 r.free1),
     (0x30, ledPair t.audit r.audit), (0x38, ledPair t.bytes r.bytes), (0x40, ledPair t.vlate r.vlate),
     (0x48, ledPair t.cret0 t.cret1), (0x50, fields [(x.credit0, 0), (x.credit1, 32)]), (0x58, ledPair x.uncorr x.fenceDrop),
     (0x60, ledPair x.lateStages x.discarded), (0x68, x.m.toNat)]

/-- The ledgers; a from 0x0_D000. -/
def State.readLed (s : State) (a : Nat) : Nat :=
  if a < 0x600 then (s.ten (a / 0xC0)).readLed (a % 0xC0)
  else if a = 0x600 then s.ledClear.toNat
  else if 0x800 ≤ a then (s.port ((a - 0x800) / 0x80)).readLed ((a - 0x800) % 0x80)
  else
    match indexed a 0x640 8 16 with
    | some k => ledPair (smGet 0 s.rc.alloc k) (smGet 0 s.rc.freed k)
    | none => 0

/-! ### ERR_, INJ_, CAL_, PWR_, CNT_ -/

/-- R445–R447, R478 and the error bits; a from 0x0_E000. -/
def State.readErr (s : State) (a : Nat) : Nat :=
  let e := s.ev
  match indexed a 0x040 8 8 with
  | some t => (s.ten t).err.toNat
  | none =>
    atOffset a
      [(0x000, fields [(b2n s.lockvio, 0), (b2n s.fenceErr, 1), (b2n s.evrlost, 2), (b2n (s.st == .contained), 3), (s.cause.toNat, 4)]),
       (0x010, fields [(e.log2n.toNat, 0), (b2n e.en, 5), (b2n e.ien, 6), (b2n e.invrec, 7), (e.base.toNat, 12), (e.holdoff.toNat, 52)]),
       (0x018, e.prod.toNat), (0x020, e.cons.toNat), (0x028, e.lost.toNat), (0x030, e.msgAddr.toNat * 2 ^ 2), (0x038, e.msgData.toNat)]

/-- R506: a port's injector. -/
def Injector.read (i : Injector) (a : Nat) : Nat :=
  atOffset a
    [(0x00, fields [(b2n i.en, 0), (i.action.toNat, 1), (b2n i.random, 4), (i.log2r.toNat, 5), (i.cls.toNat, 11), (i.count.toNat, 32)]),
     (0x08, i.carno.toNat), (0x10, i.seed.toNat), (0x18, i.done.toNat)]

/-- `CAL_PORT_STAT`. -/
def Port.readCal (x : Port) : Nat :=
  fields [(x.tx.pos, 0), (b2n (x.tx.held || x.rx.held), 5), (x.calFail.toNat, 6), (x.calOk.toNat, 23), (b2n x.fechi, 40)]

/-- Calibration and power; a from 0x0_F000. -/
def State.readPwr (s : State) (a : Nat) : Nat :=
  let p := s.pwr
  match indexed a 0x000 8 16 with
  | some n => (s.port n).readCal
  | none =>
    atOffset a
      [(0x800, p.rate.toNat), (0x808, p.limit.toNat),
       (0x810, fields [(p.vid, 0), (b2n p.floor, 8), (b2n (!p.hot.isEmpty), 9), (b2n p.stale, 10), (b2n p.held, 11), (p.ptel.toNat, 16)])]

/-- R507: statistics counters and their overflow bits; a from 0x1_0000. -/
def State.readCnt (s : State) (a : Nat) : Nat :=
  match indexed a 0x0000 8 576, indexed a 0xF000 8 9 with
  | some k, _ => s.cntOf k
  | none, some w => maskOf ((s.cntOvf.filter fun k => k / 64 == w).map (· % 64))
  | none, none => 0

/-! ### The window -/

/-- The current value of the register at an offset of the window, WO fields reading 0 (R13, R490). -/
def State.regValue (s : State) (a : Nat) : Nat :=
  if a < 0x1000 then s.readCtl a
  else if a < 0x2000 then s.readFw (a - 0x1000)
  else if a < 0x4000 then s.readTen ((a - 0x2000) / 0x400) ((a - 0x2000) % 0x400)
  else if a < 0x4800 then s.readRing ((a - 0x4000) / 0x40) ((a - 0x4000) % 0x40)
  else if a < 0x5000 then 0
  else if a < 0x6000 then s.readXlt (a - 0x5000)
  else if a < 0x7000 then s.readMem (a - 0x6000)
  else if a < 0x8000 then 0
  else if a < 0xC000 then s.readLine ((a - 0x8000) / 0x400) ((a - 0x8000) % 0x400)
  else if a < 0xD000 then s.readTt (a - 0xC000)
  else if a < 0xE000 then s.readLed (a - 0xD000)
  else if a < 0xE800 then s.readErr (a - 0xE000)
  else if a < 0xEC00 then (s.port ((a - 0xE800) / 0x40)).inj.read ((a - 0xE800) % 0x40)
  else if a < 0xF000 then 0
  else if a < 0x10000 then s.readPwr (a - 0xF000)
  else s.readCnt (a - 0x10000)

/-- R448: `CTL_`, `PER_`, `FW_` and `ERR_`. -/
def safeRegion (a : Nat) : Bool := decide (a < 0x2000 ∨ (0xE000 ≤ a ∧ a < 0xE800))

/-- R36, R448, R450, R477: what a read with a valid byte enable returns, in the state that the handling of a whole tick has left (log 181);
none is NOT_READY. -/
def State.readReg (s : State) (addr : BitVec 17) : Option W64 :=
  let a := addr.toNat / 8 * 8
  if s.st = .off ∨ s.resetLow then none
  else if s.st = .safe ∧ !safeRegion a then some 0
  else some (BitVec.ofNat 64 (s.regValue a))

end Sys2Proof.Machine
end

