-- ==== Sys2Proof/Machine/Regs.lean ====
section
/-! DEFINITION. A host write of a register of the control window, under its access type and its own rule (R13, R38, R39, R448,
R450, R456, R477, R489–R507, and the register rules of every chapter). -/

namespace Sys2Proof.Machine

/-- A host write that meets a register: the value a RW or RWL field takes (bytes not covered keep what they hold), and the value a
WO or W1C field sees (bytes not covered are 0) (R489). -/
structure Wr where
  v : Nat
  d : Nat

/-- A field of the value written. -/
def Wr.fld (w : Wr) (lo : Nat) (n : Nat) : BitVec n := BitVec.ofNat n (bitsOf w.v lo n)
/-- A bit of what the write covers. -/
def Wr.bit (w : Wr) (n : Nat) : Bool := bitOf w.d n

/-- R13, R38: the bits of a W1C field of n bits at `lo` that a write clears: those written 1 and not set in this tick. -/
def State.cleared (s : State) (w : Wr) (offset lo n : Nat) : BitVec n :=
  BitVec.ofNat n (bitsOf w.d lo n) &&& ~~~(BitVec.ofNat n (bitsOf (s.heldBits offset) lo n))

/-! ### CTL_, PER_, FW_ -/

/-- R13: a RWL field: `t` until the personality is locked, then ignored with LOCKVIO. -/
def State.lockable (s t : State) : State := if s.fw.locked then s.setLockvio else t

/-- `CTL_QUIESCE` (R424, R425). -/
def State.regQuiesce (s : State) (w : Wr) : State :=
  let kind := bitsOf w.d 0 3
  let index := bitsOf w.d 8 8
  let lane := bitsOf w.d 16 5
  if w.bit 25 then s.writeEnable kind index lane else s.writeQuiesce kind index lane (w.bit 24)

/-- The CTL_ registers. -/
def State.writeCtl (s : State) (a : Nat) (w : Wr) : State :=
  if a = 0x010 then (if w.bit 0 then s.doReset else s)
  else if a = 0x018 then (if w.bit 0 ∧ s.st = .serving then s.moveBlock .draining else s)
  else if a = 0x028 then s.lockable { s with haddr := w.fld 0 14 }
  else if a = 0x058 then s.regQuiesce w
  else if a = 0x060 then
    State.ackBits { s with quiesce := { s.quiesce with ign := s.quiesce.ign && (s.cleared w 0x060 3 1) == 0 } } 0x060 w.d
  else s

/-- `PER_RETIREDn` and the other personality copies, all RWL (R493). -/
def Firmware.writePer (f : Firmware) (a : Nat) (w : Wr) : Firmware :=
  match indexed a 0x080 8 16 with
  | some n => { f with perRetired := f.perRetired.set n (w.fld 0 17) }
  | none =>
    if a = 0x008 then { f with perFormat := w.fld 0 16 }
    else if a = 0x010 then { f with perClusters := w.fld 0 8 }
    else if a = 0x018 then { f with perPorts := w.fld 0 16, perPortsw := w.fld 16 16 }
    else if a = 0x020 then { f with perIdent := w.fld 0 32 }
    else if a = 0x028 then { f with perSerial := w.fld 0 64 }
    else f

/-- The offsets of the personality copies. -/
def perCopy (a : Nat) : Bool :=
  (indexed a 0x080 8 16).isSome || a == 0x008 || a == 0x010 || a == 0x018 || a == 0x020 || a == 0x028

/-- `FW_SELFTEST` (R462): CL and RUN; REFUSED is cleared by a 1. -/
def State.regSelftest (s : State) (w : Wr) : State :=
  let s := State.ackBits { s with fw := { s.fw with refused := s.fw.refused && (s.cleared w 0x1830 14 1) == 0 } } 0x1830 w.d
  s.writeSelftest (w.fld 9 3) (w.bit 12)

/-- `FW_CTL` written through this row: GO, then UPDATE. The rows GO and UPDATE carry what the package answers (the signatures'
verdicts, the grants); here each of those is a free value (log 8). -/
def State.regFwCtl (s : State) (w : Wr) : State :=
  let (v, s) := if w.bit 0 ∨ w.bit 1 then s.fresh else (0, s)
  let s :=
    if w.bit 0 then
      let (g, s) := s.fresh
      let (lo, s) := s.fresh
      let (hi, s) := s.fresh
      s.writeGo ⟨bitOf v.toNat 0, bitOf v.toNat 1, bitOf v.toNat 2⟩ g (BitVec.ofNat 64 (lo.toNat + hi.toNat * 2 ^ 32))
    else s
  if w.bit 1 then s.writeUpdate (BitVec.ofNat 2 (bitsOf w.d 2 2)) (BitVec.ofNat 32 (bitsOf w.d 32 32)) (bitOf v.toNat 3) else s

/-- The PER_ and FW_ registers; a from 0x0_1000. -/
def State.writeFw (s : State) (a : Nat) (w : Wr) : State :=
  if perCopy a then s.lockable { s with fw := s.fw.writePer a w }
  else if a = 0x000 then (if s.st = .safe then { s with fw := { s.fw with perAddr := w.fld 12 40 } } else s.setLockvio)
  else if a = 0x800 then { s with fw := { s.fw with addrFe := w.fld 12 40 } }
  else if a = 0x808 then { s with fw := { s.fw with addrLn := w.fld 12 40 } }
  else if a = 0x810 then s.regFwCtl w
  else if a = 0x828 then { s with fw := { s.fw with stBase := w.fld 23 29 } }
  else if a = 0x830 then s.regSelftest w
  else s

/-! ### TEN_: masks, shares, and registers bound to a state (R113, R382, R384, R392, R407, R409, R410, R494, R498) -/

/-- FREE or LOADING. -/
def Tenancy.settable (t : Tenancy) : Bool := t.st == .free || t.st == .loading

/-- R382, R436, R494: a register that takes writes only where `ok` holds; elsewhere STATE is set. -/
def State.bound (s : State) (t : Nat) (ok : Bool) (f : Tenancy → Tenancy) : State :=
  if ok then s.modTen t f else s.tenErr t errState

/-- The tenancies but t. -/
def State.othersOf (s : State) (t : Nat) : List Tenancy := ((List.range 8).filter (· != t)).map s.ten

/-- R407: a cluster that holds the pool of a built hitch of the tenancy is removed. -/
def Tenancy.losesPool (t : Tenancy) (cl : BitVec 8) : Bool := t.hitches.any fun h => !bitOf cl.toNat h.cluster

/-- R407: a write to `TEN_CLUSTERS`. -/
def State.writeClusters (s : State) (t : Nat) (cl : BitVec 8) : State :=
  let take := s.modTen t fun x => { x with clusters := cl }
  match (s.ten t).st with
  | .free => take
  | .loading => if s.clustersOk t cl ∧ !(s.ten t).losesPool cl then take else s.tenErr t errMask
  | .running | .quiescing | .halted => s.tenErr t errState

/-- R494: a write to `TEN_MODE`. -/
def State.writeMode (s : State) (t : Nat) (idx : BitVec 2) (priv : Bool) : State :=
  let s' := s.modTen t fun x => { x with mode := idx }
  if (s.ten t).settable then s'.modTen t fun x => { x with testPriv := priv }
  else if priv = (s.ten t).testPriv then s' else s'.tenErr t errState

/-- R384, R392: a mask of the tenancy within a grant, disjoint from the other tenancies' masks. -/
def State.writeMask {n : Nat} (s : State) (t : Nat) (v grant : BitVec n) (get : Tenancy → BitVec n)
    (put : BitVec n → Tenancy → Tenancy) : State :=
  if !(s.ten t).settable then s.tenErr t errState
  else if (v &&& ~~~grant) ≠ 0 ∨ ((s.othersOf t).any fun x => (v &&& get x) != 0) then s.tenErr t errMask
  else s.modTen t (put v)

/-- R113: a write to `TEN_RCWAY`; the mask changes when the ways it adds or removes are clear. A write during a clear
replaces the mask that waits for it (log 160). -/
def State.writeRcway (s : State) (t : Nat) (v : W16) : State :=
  let x := s.ten t
  if (s.othersOf t).any fun y => (v &&& (y.rcway ||| y.rcwayNew.getD 0)) != 0 then s.tenErr t errMask
  else if v = x.rcway ∧ x.rcwayNew = none then s
  else s.modTen t fun y => { y with rcwayNew := some v }

/-- R494: a write to `TEN_CART_ALLOT`. -/
def State.writeAllot (s : State) (t : Nat) (hitches : BitVec 9) (carts : BitVec 15) : State :=
  let x := s.ten t
  let hs := ((s.othersOf t).map (·.allotHitches.toNat)).sum + hitches.toNat
  let cs := ((s.othersOf t).map (·.allotCarts.toNat)).sum + carts.toNat
  let built := (x.hitches.map (·.carts.length)).sum
  if !x.settable then s.tenErr t errState
  else if 2048 < hs ∨ 16384 < cs ∨ 256 < hitches.toNat ∨ 16384 < carts.toNat ∨ hitches.toNat < x.hitches.length
      ∨ carts.toNat < built then s.tenErr t errShare
  else s.modTen t fun y => { y with allotHitches := hitches, allotCarts := carts }

/-- R382: a write to `TEN_APERTURE`. -/
def State.writeAperture (s : State) (t : Nat) (apbase : BitVec 26) : State :=
  if !(s.ten t).settable then s.tenErr t errState
  else if 2 ^ 56 < apbase.toNat * 2 ^ 30 + 2 ^ 48 then s.tenErr t errValue
  else s.modTen t fun x => { x with apbase := apbase }

/-- R409: an occupied slot's shares are written only while the tenancy is LOADING. -/
def Tenancy.slotOpen (t : Tenancy) (n : Nat) : Bool := (t.slot n).st == .empty || t.st == .loading

/-- R51, R409: a write to `TEN_CTXn_LANE`; the shares of the occupied slots with this one must fit a lane. -/
def State.writeLane (s : State) (t n : Nat) (v : W32) : State :=
  let x := s.ten t
  let new : Slot := { x.slot n with lane := v }
  if x.slotOpen n ∧ lanesFit (new :: x.otherSlots n) then s.modSlot t n fun _ => new else s.tenErr t errShare

/-- R409: a write to the scratchpad share or window of an occupied slot is taken: context 0 has no hitch and no window. -/
def Tenancy.spOpen (t : Tenancy) (n : Nat) : Bool :=
  (t.slot n).st == .empty || (t.st == .loading && !t.hitches.any (·.ctx == (t.slot n).ctx) && (t.slot n).xwSize == 0)

/-- R409, R410, R498: a write to `TEN_CTXn_SP`. It holds the slot's exchange window (log 85); that of an occupied slot lies within 8 MiB
and overlaps no other occupied one's, and is zeroed, while OPEN and UNPARK check that of an empty slot. -/
def State.writeSp (s : State) (t n : Nat) (v : W32) : State :=
  let x := s.ten t
  let new : Slot := { x.slot n with sp := v }
  let put := s.modSlot t n fun _ => new
  if !x.spOpen n ∨ !new.windowFits then s.tenErr t errShare
  else if (x.slot n).st = .empty then put
  else if new.spFits ∧ !((x.otherSlots n).any new.overlaps) then put.zeroShare t n
  else s.tenErr t errShare

/-- R409, R498: a write to `TEN_CTXn_XWIN`. -/
def State.writeXwin (s : State) (t n : Nat) (v : W32) : State :=
  let x := s.ten t
  let new : Slot := { x.slot n with xwin := v }
  if x.spOpen n ∧ new.windowFits then s.modSlot t n fun _ => new else s.tenErr t errShare

/-- A slot's registers; a from the slot's own base. -/
def State.writeSlot (s : State) (t n a : Nat) (w : Wr) : State :=
  if a = 0x00 then s.writeLane t n (w.fld 0 30 |>.zeroExtend 32)
  else if a = 0x08 then s.writeSp t n (w.fld 0 24 |>.zeroExtend 32)
  else if a = 0x18 then s.writeXwin t n (w.fld 0 24 &&& 0xFF1F7F |>.zeroExtend 32)
  else s

/-- `TEN_CTL` (R406, R407): OPEN, then RUN. -/
def State.regTenCtl (s : State) (t : Nat) (w : Wr) : State :=
  let s := if w.bit 0 then s.writeOpen t else s
  if w.bit 1 then s.writeRun t else s

/-- A tenancy's registers; a from the tenancy's block. -/
def State.writeTen (s : State) (t a : Nat) (w : Wr) : State :=
  let x := s.ten t
  if 0x100 ≤ a ∧ a < 0x180 then s.writeSlot t ((a - 0x100) / 0x20) ((a - 0x100) % 0x20) w
  else if 0x200 ≤ a then
    (if (a - 0x200) % 0x10 = 0 then s.pinWriteReg t ((a - 0x200) / 0x10) (bitOf w.v 0) (w.fld 21 27) (w.fld 48 16) else s)
  else if a = 0x000 then s.regTenCtl t w
  else if a = 0x010 then s.writeClusters t (w.fld 0 8)
  else if a = 0x018 then s.writeMode t (w.fld 0 2) (bitOf w.v 2)
  else if a = 0x020 then s.bound t x.settable fun x => { x with jobTag := w.fld 0 32 }
  else if a = 0x028 then s.writeMask t (w.fld 0 32) s.mem.grant (·.chgrp) fun v x => { x with chgrp := v }
  else if a = 0x030 then s.writeMask t (w.fld 0 64) s.mem.wayGrant (·.scway) fun v x => { x with scway := v }
  else if a = 0x040 then s.writeRcway t (w.fld 0 16)
  else if a = 0x048 then s.writeAllot t (w.fld 0 9) (w.fld 16 15)
  else if a = 0x050 then s.modTen t fun x => { x with glimit := w.fld 0 64 &&& 0x03FF03FF03FF03FF }
  else if a = 0x058 then s.modTen t fun x => { x with mlimit := w.fld 0 32 }
  else if a = 0x060 then s.modTen t fun x => { x with nanPolicy := w.fld 0 5 }
  else if a = 0x068 then s.bound t x.tables.isEmpty fun x => { x with statusBase := w.fld 6 42 }
  else if a = 0x070 then s.bound t (!x.tables.any (·.desc.train)) fun x => { x with arenaBase := w.fld 12 36 }
  else if a = 0x078 then s.bound t (!x.tables.any (·.desc.train)) fun x => { x with arenaSize := w.fld 12 36 }
  else if a = 0x080 then s.bound t x.settable fun x => { x with xltEn := bitOf w.v 0, xltRoot := w.fld 20 32 }
  else if a = 0x088 then s.writeAperture t (w.fld 30 26)
  else if a = 0x090 then s.bound t x.settable fun x => { x with asid := w.fld 0 16 }
  else if a = 0x098 then s.modTen t fun x => { x with faultTmo := w.fld 0 32 }
  else if a = 0x0A8 then s.modTen t fun x => { x with winTmo := w.fld 0 32 }
  else if a = 0x0C0 then s.modTen t fun x => { x with evrun := w.fld 0 8 }
  else if a = 0x0C8 then s.modTen t fun x => { x with hold := w.fld 0 24, ptmo := w.fld 32 32 }
  else s

/-! ### FE_, XLT_, MEM_ -/

/-- R499: BIND and TAIL, only while EN is 0. -/
def State.ringBound (s : State) (r : Nat) (f : Ring → Ring) : State :=
  if (s.ring r).en then s.tenErr (s.ring r).ten.toNat errState else s.modRing r f

/-- A ring's registers. -/
def State.writeRing (s : State) (r a : Nat) (w : Wr) : State :=
  if a = 0x00 then s.writeRingBase r (bitOf w.v 0) (w.fld 1 5) (w.fld 12 36)
  else if a = 0x08 then s.ringBound r fun x => { x with ten := w.fld 0 3, ctx := w.fld 8 8 }
  else if a = 0x10 then s.ringBound r fun x => { x with tailAddr := w.fld 3 45 }
  else if a = 0x20 then (if w.bit 0 then s.resumeRing r else s)
  else s

/-- R373: a write of `XLT_FAULT_RESP`. -/
def State.writeFaultResp (s : State) (ten : Nat) (fid : W16) (abort : Bool) : State :=
  match s.pendingFault ten fid with
  | none => s.tenErr ten errFresp
  | some f => if abort then s.answerAbort ten f else s.answerRetry ten f

/-- R279, R500: a write of `XLT_WIN_COMMIT`; TABLE 3 is reserved. -/
def State.writeCommit (s : State) (table entry : Nat) : State :=
  match table with
  | 0 => s.commitSend entry
  | 1 => s.commitRecv entry
  | 2 => s.commitPod entry
  | _ => s

/-- The XLT_ registers. -/
def State.writeXlt (s : State) (a : Nat) (w : Wr) : State :=
  if a = 0x000 then s.writeFaultResp (bitsOf w.d 16 3) (BitVec.ofNat 16 (bitsOf w.d 0 16)) (w.bit 20)
  else if a = 0x008 then { s with xlt := { s.xlt with podEn := bitOf w.v 0, podBase := w.fld 11 41 } }
  else if a = 0x010 then { s with xlt := { s.xlt with sendBase := w.fld 12 40 } }
  else if a = 0x018 then { s with xlt := { s.xlt with recvBase := w.fld 13 39 } }
  else if a = 0x020 then s.writeCommit (bitsOf w.d 8 2) (bitsOf w.d 0 8)
  else s

/-- The MEM_ registers. -/
def State.writeMem (s : State) (a : Nat) (w : Wr) : State :=
  let m := s.mem
  match indexed a 0x100 8 16 with
  | some n =>
    if s.cleared w (0x6100 + 8 * n) 63 1 = 1 then
      { s with mem := { m with errlog := modAt m.errlog n fun e => { e with valid := false } } } else s
  | none =>
    if a = 0x008 then { s with mem := { m with svc := w.fld 0 32 } }
    else if a = 0x020 then State.ackBits { s with mem := { m with lost := m.lost && (s.cleared w 0x6020 0 1) == 0 } } 0x6020 w.d
    else if a = 0x028 then s.writeMargin (w.fld 0 64)
    else if a = 0x030 then
      (if s.marginAllowed (marginTen m.margin) (marginGrp m.margin) then
        { s with mem := { m with marginBase := w.fld 0 63 &&& 0x7FFFFFFFFFE00000 |>.zeroExtend 64 } } else s.setLockvio)
    else s

/-! ### LINE_, LED_ -/

/-- `LINE_CTL` (R502). -/
def State.regLineCtl (s : State) (p : Nat) (w : Wr) : State :=
  let s := if w.bit 0 then s.trainPort p else s
  if w.bit 1 then s.disablePort p else s

/-- A port's registers, and the two that every port's block shows (R503). -/
def State.writeLine (s : State) (p a : Nat) (w : Wr) : State :=
  if a = 0x000 then s.regLineCtl p w
  else if a = 0x018 then s.writeRetire p (w.fld 0 17)
  else if a = 0x3C0 then s.writeFence (w.fld 0 16)
  else if a = 0x3C8 then s.writeRoute (w.fld 0 9) (w.fld 16 16) (w.bit 32)
  else s

/-- R505: the ledger counters of a tenancy. -/
def Tenancy.writeLed (x : Tenancy) (a : Nat) (lo hi : W32) : Option Tenancy :=
  match a with
  | 0x18 => some { x with gtokIss := lo, gtokRet := hi }
  | 0x20 => some { x with mtokIss := lo, mtokRet := hi }
  | 0x28 => some { x with tickTaken := lo, tickRet := hi }
  | 0x30 => some { x with ab := { x.ab with tasks := lo } }
  | 0x38 => some { x with ab := { x.ab with pos := lo } }
  | 0x40 => some { x with ab := { x.ab with xfer := lo } }
  | 0x48 => some { x with ab := { x.ab with cartRet := lo } }
  | 0x50 => some { x with ab := { x.ab with cartPurge := lo } }
  | 0x58 => some { x with ab := { x.ab with contrib := lo } }
  | 0x60 => some { x with ab := { x.ab with late := lo } }
  | 0x68 => some { x with ab := { x.ab with tcDisc := lo } }
  | 0x70 => some { x with ab := { x.ab with loss := lo } }
  | _ => none

/-- R505: the ledger counters of a port. -/
def Port.writeLed (x : Port) (a : Nat) (lo hi : W32) : Option Port :=
  match a with
  | 0x00 => some { x with sent := { x.sent with data := lo }, taken := { x.taken with data := hi } }
  | 0x08 => some { x with sent := { x.sent with vacant := lo }, taken := { x.taken with vacant := hi } }
  | 0x10 => some { x with sent := { x.sent with roll := lo }, taken := { x.taken with roll := hi } }
  | 0x18 => some { x with sent := { x.sent with control := lo }, taken := { x.taken with control := hi } }
  | 0x20 => some { x with sent := { x.sent with free0 := lo }, taken := { x.taken with free0 := hi } }
  | 0x28 => some { x with sent := { x.sent with free1 := lo }, taken := { x.taken with free1 := hi } }
  | 0x30 => some { x with sent := { x.sent with audit := lo }, taken := { x.taken with audit := hi } }
  | 0x38 => some { x with sent := { x.sent with bytes := lo }, taken := { x.taken with bytes := hi } }
  | 0x40 => some { x with sent := { x.sent with vlate := lo }, taken := { x.taken with vlate := hi } }
  | 0x48 => some { x with sent := { x.sent with cret0 := lo, cret1 := hi } }
  | 0x58 => some { x with uncorr := lo, fenceDrop := hi }
  | 0x60 => some { x with lateStages := lo, discarded := hi }
  | _ => none

/-- R39: what a ledger counter has gained since the tick began. -/
def AbortLedger.since (x y : AbortLedger) : AbortLedger :=
  { tasks := x.tasks - y.tasks, pos := x.pos - y.pos, xfer := x.xfer - y.xfer, cartRet := x.cartRet - y.cartRet
    cartPurge := x.cartPurge - y.cartPurge, contrib := x.contrib - y.contrib, late := x.late - y.late
    tcDisc := x.tcDisc - y.tcDisc, loss := x.loss - y.loss }
def AbortLedger.plus (x y : AbortLedger) : AbortLedger :=
  { tasks := x.tasks + y.tasks, pos := x.pos + y.pos, xfer := x.xfer + y.xfer, cartRet := x.cartRet + y.cartRet
    cartPurge := x.cartPurge + y.cartPurge, contrib := x.contrib + y.contrib, late := x.late + y.late
    tcDisc := x.tcDisc + y.tcDisc, loss := x.loss + y.loss }
def Books.since (x y : Books) : Books :=
  { data := x.data - y.data, vacant := x.vacant - y.vacant, roll := x.roll - y.roll, control := x.control - y.control
    free0 := x.free0 - y.free0, free1 := x.free1 - y.free1, audit := x.audit - y.audit, bytes := x.bytes - y.bytes
    vlate := x.vlate - y.vlate, cret0 := x.cret0 - y.cret0, cret1 := x.cret1 - y.cret1 }
def Books.plus (x y : Books) : Books :=
  { data := x.data + y.data, vacant := x.vacant + y.vacant, roll := x.roll + y.roll, control := x.control + y.control
    free0 := x.free0 + y.free0, free1 := x.free1 + y.free1, audit := x.audit + y.audit, bytes := x.bytes + y.bytes
    vlate := x.vlate + y.vlate, cret0 := x.cret0 + y.cret0, cret1 := x.cret1 + y.cret1 }

/-- R39: a tenancy's counters in which only what they gained in this tick stands, and the counters with a gain added. -/
def Tenancy.gained (x : Tenancy) (b : TenLed) : TenLed :=
  ⟨x.gtokIss - b.gtokIss, x.gtokRet - b.gtokRet, x.mtokIss - b.mtokIss, x.mtokRet - b.mtokRet, x.tickTaken - b.tickTaken,
    x.tickRet - b.tickRet, x.ab.since b.ab⟩
def Tenancy.gain (x : Tenancy) (g : TenLed) : Tenancy :=
  { x with
    gtokIss := x.gtokIss + g.gtokIss, gtokRet := x.gtokRet + g.gtokRet, mtokIss := x.mtokIss + g.mtokIss
    mtokRet := x.mtokRet + g.mtokRet, tickTaken := x.tickTaken + g.tickTaken, tickRet := x.tickRet + g.tickRet, ab := x.ab.plus g.ab }
def Port.gained (x : Port) (b : PortLed) : PortLed :=
  ⟨x.sent.since b.sent, x.taken.since b.taken, x.uncorr - b.uncorr, x.fenceDrop - b.fenceDrop, x.lateStages - b.lateStages,
    x.discarded - b.discarded⟩
def Port.gain (x : Port) (g : PortLed) : Port :=
  { x with
    sent := x.sent.plus g.sent, taken := x.taken.plus g.taken, uncorr := x.uncorr + g.uncorr
    fenceDrop := x.fenceDrop + g.fenceDrop, lateStages := x.lateStages + g.lateStages, discarded := x.discarded + g.discarded }

/-- R39: a tenancy's counters as the tick began, with a host write over them: what they gained in the tick is added after it. -/
def State.ledTen (s : State) (t a : Nat) (w : Wr) : Option State :=
  let x := s.ten t
  let b := x.led0
  let base : Tenancy := { x with
    gtokIss := b.gtokIss, gtokRet := b.gtokRet, mtokIss := b.mtokIss, mtokRet := b.mtokRet, tickTaken := b.tickTaken
    tickRet := b.tickRet, ab := b.ab }
  (base.writeLed a (w.fld 0 32) (w.fld 32 32)).map fun y =>
    s.modTen t fun _ => { y.gain (x.gained b) with led0 := y.led }

/-- R39: a port's counters, as `ledTen`. -/
def State.ledPort (s : State) (p a : Nat) (w : Wr) : Option State :=
  let x := s.port p
  let b := x.led0
  let base : Port := { x with
    sent := b.sent, taken := b.taken, uncorr := b.uncorr, fenceDrop := b.fenceDrop, lateStages := b.lateStages, discarded := b.discarded }
  (base.writeLed a (w.fld 0 32) (w.fld 32 32)).map fun y =>
    s.modPort p fun _ => { y.gain (x.gained b) with led0 := y.led }

/-- R39, R436: a tenancy's books take writes while it is FREE or LOADING. -/
def State.writeTenLed (s : State) (t a : Nat) (w : Wr) : State :=
  if a = 0x08 then (if w.bit 0 then s.writeEpochAdv t else s)
  else
    match s.ledTen t a w with
    | some s' => if (s.ten t).settable then s' else s.tenErr t errState
    | none => s

/-- R39, R436: a port's books take writes while it is DOWN; else STATE of the tenancy whose membership it carries. -/
def State.writePortLed (s : State) (p a : Nat) (w : Wr) : State :=
  match s.ledPort p a w with
  | none => s
  | some s' =>
    if (s.port p).st = .down then s'
    else
      match (s.port p).memb with
      | some t => s.tenErr t errState
      | none => s

/-- The ledgers; a from 0x0_D000. -/
def State.writeLed (s : State) (a : Nat) (w : Wr) : State :=
  if a < 0x600 then s.writeTenLed (a / 0xC0) (a % 0xC0) w
  else if 0x800 ≤ a then s.writePortLed ((a - 0x800) / 0x80) ((a - 0x800) % 0x80) w
  else s

/-! ### ERR_, INJ_, CAL_, PWR_, CNT_ -/

/-- `ERR_BLK_STAT`. -/
def State.writeBlkStat (s : State) (w : Wr) : State :=
  let c := s.cleared w 0xE000 0 3
  State.ackBits
    { s with lockvio := s.lockvio && !bitOf c.toNat 0, fenceErr := s.fenceErr && !bitOf c.toNat 1, evrlost := s.evrlost && !bitOf c.toNat 2 }
    0xE000 w.d

/-- `ERR_CONTAIN` (R439): with both bits set the block is contained. -/
def State.regContain (s : State) (w : Wr) : State :=
  if !s.containable then s
  else if w.bit 0 then s.writeContain w.d
  else if w.bit 1 then s.writeHalt (bitsOf w.d 2 3) w.d
  else s

/-- `ERR_EVR_CFG` (R445–R447). -/
def State.writeEvrCfg (s : State) (w : Wr) : State :=
  let e := s.ev
  let n : BitVec 5 := w.fld 0 5
  let base : BitVec 40 := w.fld 12 40
  let bad := decide (n.toNat < 8 ∨ 20 < n.toNat)
  let fixed := e.en && (decide (n ≠ e.log2n) || decide (base ≠ e.base))
  let s' : State := { s with ev := { e with
    log2n := if bad || fixed then e.log2n else n, base := if fixed then e.base else base
    en := bitOf w.v 5, ien := bitOf w.v 6, invrec := bitOf w.v 7, holdoff := w.fld 52 12 } }
  (if bad || fixed then s'.setLockvio else s').evFlush

/-- `ERR_TEN_ERR`. -/
def State.writeTenErr (s : State) (t : Nat) (w : Wr) : State :=
  let c := s.cleared w (0xE040 + 8 * t) 0 6
  (s.modTen t fun x => { x with err := x.err &&& ~~~c }).ackBits (0xE040 + 8 * t) w.d

/-- The ERR_ registers. -/
def State.writeErr (s : State) (a : Nat) (w : Wr) : State :=
  match indexed a 0x040 8 8 with
  | some t => s.writeTenErr t w
  | none =>
    if a = 0x000 then s.writeBlkStat w
    else if a = 0x008 then s.regContain w
    else if a = 0x010 then s.writeEvrCfg w
    else if a = 0x020 then State.evFlush { s with ev := { s.ev with cons := w.fld 0 32 } }
    else if a = 0x030 then { s with ev := { s.ev with msgAddr := w.fld 2 50 } }
    else if a = 0x038 then { s with ev := { s.ev with msgData := w.fld 0 32 } }
    else s

/-- R274, R506: a port's injector. -/
def State.regInj (s : State) (p a : Nat) (w : Wr) : State :=
  if a = 0x00 then s.writeInj p fun i => i.load (w.fld 0 64) s.tick
  else if a = 0x08 then s.writeInj p fun i => { i with carno := w.fld 0 64 }
  else if a = 0x10 then s.writeInj p fun i => { i with seed := w.fld 0 64 }
  else s

/-- R30, R483: `PWR_LIMIT`, at most 0x1C20; and `CAL_PORT_STAT`'s FECHI. -/
def State.writePwr (s : State) (a : Nat) (w : Wr) : State :=
  match indexed a 0x000 8 16 with
  | some p => (s.modPort p fun x => { x with fechi := x.fechi && (s.cleared w (0xF000 + 8 * p) 40 1) == 0 }).ackBits (0xF000 + 8 * p) w.d
  | none =>
    if a = 0x808 then
      let v : BitVec 14 := w.fld 0 14
      { s with pwr := { s.pwr with limit := if 0x1C20 < v.toNat then 0x1C20 else v } }
    else s

/-- R39, R433, R507: a statistics counter, or a word of overflow bits. -/
def State.regCnt (s : State) (a : Nat) (w : Wr) : State :=
  match indexed a 0x0000 8 576, indexed a 0xF000 8 9 with
  | some k, _ => if cntNamed k then s.writeCnt k w.v else s
  | none, some n =>
    let c := s.cleared w (0x1F000 + 8 * n) 0 64
    State.ackBits { s with cntOvf := s.cntOvf.filter fun k => !(k / 64 == n && bitOf c.toNat (k % 64)) } (0x1F000 + 8 * n) w.d
  | none, none => s

/-! ### The window -/

/-- A write that the block answers, by region. -/
def State.regWrite (s : State) (a : Nat) (w : Wr) : State :=
  if a < 0x1000 then s.writeCtl a w
  else if a < 0x2000 then s.writeFw (a - 0x1000) w
  else if a < 0x4000 then s.writeTen ((a - 0x2000) / 0x400) ((a - 0x2000) % 0x400) w
  else if a < 0x4800 then s.writeRing ((a - 0x4000) / 0x40) ((a - 0x4000) % 0x40) w
  else if a < 0x5000 then s
  else if a < 0x6000 then s.writeXlt (a - 0x5000) w
  else if a < 0x7000 then s.writeMem (a - 0x6000) w
  else if a < 0x8000 then s
  else if a < 0xC000 then s.writeLine ((a - 0x8000) / 0x400) ((a - 0x8000) % 0x400) w
  else if a < 0xD000 then s
  else if a < 0xE000 then s.writeLed (a - 0xD000) w
  else if a < 0xE800 then s.writeErr (a - 0xE000) w
  else if a < 0xEC00 then s.regInj ((a - 0xE800) / 0x40) ((a - 0xE800) % 0x40) w
  else if a < 0xF000 then s
  else if a < 0x10000 then s.writePwr (a - 0xF000) w
  else s.regCnt (a - 0x10000) w

/-- R477, R489: the bits a byte enable covers; the port takes 0x0F, 0xF0 and 0xFF. -/
def byteMask (be : BitVec 8) : Option Nat :=
  if be = 0xFF then some (2 ^ 64 - 1) else if be = 0x0F then some (2 ^ 32 - 1) else if be = 0xF0 then some (2 ^ 64 - 2 ^ 32) else none

/-- R489: a write of the register at a, whose value now is `old`. -/
def mergeWrite (old data mask : Nat) : Wr := { v := (old - (old &&& mask)) + (data &&& mask), d := data &&& mask }

/-- R448: what the state of the block lets a write reach: CONTAINED answers reads and `CTL_RESET` alone, SAFE the regions
of R448. -/
def State.reaches (s : State) (a : Nat) : Bool :=
  match s.st with
  | .off => false
  | .contained => a == 0x010
  | .safe => safeRegion a
  | .loaded | .ready | .serving | .draining => true

/-- REGISTER_WRITE (R13, R448, R477, R489, R490): a byte enable the port does not take is ignored with LOCKVIO. A register with
rows of its own takes the same write here. -/
def execRegisterWrite (addr : BitVec 17) (be : BitVec 8) (data : W64) (s : State) : Out :=
  let a := addr.toNat / 8 * 8
  if s.resetLow ∨ !s.reaches a then .next s
  else
    match byteMask be with
    | none => .next (if s.st = .contained then s else s.setLockvio)
    | some m => .next (s.regWrite a (mergeWrite (s.regValue a) data.toNat m))

end Sys2Proof.Machine
end

