-- ==== Sys2Proof/Machine/Dispatch.lean ====
section
/-! DEFINITION. One arm per command: a direct call of its meaning. -/

namespace Sys2Proof.Machine

def exec (i : Instr) (s : State) : Host.Outcome State Fault Refusal :=
  match i with
  | .dispatch r e => Sys2Proof.Machine.execDispatch r e s
  | .fenceFull r e => Sys2Proof.Machine.execFenceFull r e s
  | .fenceOverlap r e => Sys2Proof.Machine.execFenceOverlap r e s
  | .tableLoad r e => Sys2Proof.Machine.execTableLoad r e s
  | .tableReplace r e => Sys2Proof.Machine.execTableReplace r e s
  | .tableRelease r e => Sys2Proof.Machine.execTableRelease r e s
  | .timetableLoad r e => Sys2Proof.Machine.execTimetableLoad r e s
  | .timetableUnload r e => Sys2Proof.Machine.execTimetableUnload r e s
  | .hitchBuild r e => Sys2Proof.Machine.execHitchBuild r e s
  | .hitchDismantle r e => Sys2Proof.Machine.execHitchDismantle r e s
  | .dismantleComplete ten hitch => Sys2Proof.Machine.execDismantleComplete ten hitch s
  | .invalidateAll r e => Sys2Proof.Machine.execInvalidateAll r e s
  | .invalidateAllDone ten => Sys2Proof.Machine.execInvalidateAllDone ten s
  | .arm r e => Sys2Proof.Machine.execArm r e s
  | .brake r e => Sys2Proof.Machine.execBrake r e s
  | .checkpoint r e => Sys2Proof.Machine.execCheckpoint r e s
  | .checkpointDone ten => Sys2Proof.Machine.execCheckpointDone ten s
  | .park r e => Sys2Proof.Machine.execPark r e s
  | .parkDone ten slot => Sys2Proof.Machine.execParkDone ten slot s
  | .parkTimeout ten slot t => Sys2Proof.Machine.execParkTimeout ten slot t s
  | .unpark r e => Sys2Proof.Machine.execUnpark r e s
  | .audit r e => Sys2Proof.Machine.execAudit r e s
  | .ringWake r tail hm => Sys2Proof.Machine.execRingWake r tail hm s
  | .ringResume r => Sys2Proof.Machine.execRingResume r s
  | .ringEnable r log2n base => Sys2Proof.Machine.execRingEnable r log2n base s
  | .cohortPlacement task cluster lane => Sys2Proof.Machine.execCohortPlacement task cluster lane s
  | .cohortEnd task cohort => Sys2Proof.Machine.execCohortEnd task cohort s
  | .cohortStuck task cohort => Sys2Proof.Machine.execCohortStuck task cohort s
  | .sharedWaitLimit c t => Sys2Proof.Machine.execSharedWaitLimit c t s
  | .add c w => Sys2Proof.Machine.execAdd c w s
  | .sub c w => Sys2Proof.Machine.execSub c w s
  | .mulLo c w => Sys2Proof.Machine.execMulLo c w s
  | .mulHiS c w => Sys2Proof.Machine.execMulHiS c w s
  | .mulHiU c w => Sys2Proof.Machine.execMulHiU c w s
  | .mad c w => Sys2Proof.Machine.execMad c w s
  | .divS c w => Sys2Proof.Machine.execDivS c w s
  | .divU c w => Sys2Proof.Machine.execDivU c w s
  | .remS c w => Sys2Proof.Machine.execRemS c w s
  | .remU c w => Sys2Proof.Machine.execRemU c w s
  | .and c w => Sys2Proof.Machine.execAnd c w s
  | .or c w => Sys2Proof.Machine.execOr c w s
  | .xor c w => Sys2Proof.Machine.execXor c w s
  | .not c w => Sys2Proof.Machine.execNot c w s
  | .shl c w => Sys2Proof.Machine.execShl c w s
  | .shr c w => Sys2Proof.Machine.execShr c w s
  | .sar c w => Sys2Proof.Machine.execSar c w s
  | .minS c w => Sys2Proof.Machine.execMinS c w s
  | .minU c w => Sys2Proof.Machine.execMinU c w s
  | .maxS c w => Sys2Proof.Machine.execMaxS c w s
  | .maxU c w => Sys2Proof.Machine.execMaxU c w s
  | .popc c w => Sys2Proof.Machine.execPopc c w s
  | .clz c w => Sys2Proof.Machine.execClz c w s
  | .bfe c w => Sys2Proof.Machine.execBfe c w s
  | .bfi c w => Sys2Proof.Machine.execBfi c w s
  | .sel c w => Sys2Proof.Machine.execSel c w s
  | .mov c w => Sys2Proof.Machine.execMov c w s
  | .movh c w => Sys2Proof.Machine.execMovh c w s
  | .cmp c w => Sys2Proof.Machine.execCmp c w s
  | .pop c w => Sys2Proof.Machine.execPop c w s
  | .addX64 c w => Sys2Proof.Machine.execAddX64 c w s
  | .subX64 c w => Sys2Proof.Machine.execSubX64 c w s
  | .mulWideS c w => Sys2Proof.Machine.execMulWideS c w s
  | .mulWideU c w => Sys2Proof.Machine.execMulWideU c w s
  | .cxGet c w => Sys2Proof.Machine.execCxGet c w s
  | .cqAny c w => Sys2Proof.Machine.execCqAny c w s
  | .cqAll c w => Sys2Proof.Machine.execCqAll c w s
  | .cqMask c w => Sys2Proof.Machine.execCqMask c w s
  | .movSr c w => Sys2Proof.Machine.execMovSr c w s
  | .prPack c w => Sys2Proof.Machine.execPrPack c w s
  | .prUnpack c w => Sys2Proof.Machine.execPrUnpack c w s
  | .cqCnt c w => Sys2Proof.Machine.execCqCnt c w s
  | .fadd c w => Sys2Proof.Machine.execFadd c w s
  | .fsub c w => Sys2Proof.Machine.execFsub c w s
  | .fmul c w => Sys2Proof.Machine.execFmul c w s
  | .ffma c w => Sys2Proof.Machine.execFfma c w s
  | .fdiv c w => Sys2Proof.Machine.execFdiv c w s
  | .fsqrt c w => Sys2Proof.Machine.execFsqrt c w s
  | .fmin c w => Sys2Proof.Machine.execFmin c w s
  | .fmax c w => Sys2Proof.Machine.execFmax c w s
  | .fminNum c w => Sys2Proof.Machine.execFminNum c w s
  | .fmaxNum c w => Sys2Proof.Machine.execFmaxNum c w s
  | .fabs c w => Sys2Proof.Machine.execFabs c w s
  | .fneg c w => Sys2Proof.Machine.execFneg c w s
  | .fex2 c w => Sys2Proof.Machine.execFex2 c w s
  | .flg2 c w => Sys2Proof.Machine.execFlg2 c w s
  | .fcmp c w => Sys2Proof.Machine.execFcmp c w s
  | .cvtF32S32 c w => Sys2Proof.Machine.execCvtF32S32 c w s
  | .cvtF32U32 c w => Sys2Proof.Machine.execCvtF32U32 c w s
  | .cvtS32F32 c w => Sys2Proof.Machine.execCvtS32F32 c w s
  | .cvtU32F32 c w => Sys2Proof.Machine.execCvtU32F32 c w s
  | .cvtBf16F32 c w => Sys2Proof.Machine.execCvtBf16F32 c w s
  | .cvtF16F32 c w => Sys2Proof.Machine.execCvtF16F32 c w s
  | .cvtE4m3F32 c w => Sys2Proof.Machine.execCvtE4m3F32 c w s
  | .cvtE5m2F32 c w => Sys2Proof.Machine.execCvtE5m2F32 c w s
  | .cvtF32Bf16 c w => Sys2Proof.Machine.execCvtF32Bf16 c w s
  | .cvtF32F16 c w => Sys2Proof.Machine.execCvtF32F16 c w s
  | .cvtF32E4m3 c w => Sys2Proof.Machine.execCvtF32E4m3 c w s
  | .cvtF32E5m2 c w => Sys2Proof.Machine.execCvtF32E5m2 c w s
  | .cvtQ64F32 c w => Sys2Proof.Machine.execCvtQ64F32 c w s
  | .cvtF32Q64 c w => Sys2Proof.Machine.execCvtF32Q64 c w s
  | .llLd c w => Sys2Proof.Machine.execLlLd c w s
  | .llSt c w => Sys2Proof.Machine.execLlSt c w s
  | .spLd c w => Sys2Proof.Machine.execSpLd c w s
  | .spSt c w => Sys2Proof.Machine.execSpSt c w s
  | .pmLd c w => Sys2Proof.Machine.execPmLd c w s
  | .pmSt c w => Sys2Proof.Machine.execPmSt c w s
  | .pmAddU32 c w => Sys2Proof.Machine.execPmAddU32 c w s
  | .pmAddS64 c w => Sys2Proof.Machine.execPmAddS64 c w s
  | .pmCasB64 c w => Sys2Proof.Machine.execPmCasB64 c w s
  | .pinnedAccessReturn c => Sys2Proof.Machine.execPinnedAccessReturn c s
  | .cpU c w => Sys2Proof.Machine.execCpU c w s
  | .cpT c w => Sys2Proof.Machine.execCpT c w s
  | .copyComplete id => Sys2Proof.Machine.execCopyComplete id s
  | .barSync c w => Sys2Proof.Machine.execBarSync c w s
  | .acWait c w => Sys2Proof.Machine.execAcWait c w s
  | .acAdd c w => Sys2Proof.Machine.execAcAdd c w s
  | .acMode c w => Sys2Proof.Machine.execAcMode c w s
  | .fencePm c w => Sys2Proof.Machine.execFencePm c w s
  | .fenceSp c w => Sys2Proof.Machine.execFenceSp c w s
  | .epochAdv c w => Sys2Proof.Machine.execEpochAdv c w s
  | .hcGet c w => Sys2Proof.Machine.execHcGet c w s
  | .hcPut c w => Sys2Proof.Machine.execHcPut c w s
  | .hcTake c w => Sys2Proof.Machine.execHcTake c w s
  | .hcRet c w => Sys2Proof.Machine.execHcRet c w s
  | .nop c w => Sys2Proof.Machine.execNop c w s
  | .br c w => Sys2Proof.Machine.execBr c w s
  | .call c w => Sys2Proof.Machine.execCall c w s
  | .ret c w => Sys2Proof.Machine.execRet c w s
  | .jmpR c w => Sys2Proof.Machine.execJmpR c w s
  | .exit c w => Sys2Proof.Machine.execExit c w s
  | .gathQ c w => Sys2Proof.Machine.execGathQ c w s
  | .gathBk c w => Sys2Proof.Machine.execGathBk c w s
  | .gathOvf c w => Sys2Proof.Machine.execGathOvf c w s
  | .saddOpen c w => Sys2Proof.Machine.execSaddOpen c w s
  | .saddX64 c w => Sys2Proof.Machine.execSaddX64 c w s
  | .saddQ64 c w => Sys2Proof.Machine.execSaddQ64 c w s
  | .saddSeal c w => Sys2Proof.Machine.execSaddSeal c w s
  | .sealTakesEffect ten table send => Sys2Proof.Machine.execSealTakesEffect ten table send s
  | .saddClose c w => Sys2Proof.Machine.execSaddClose c w s
  | .arenaAddComplete n => Sys2Proof.Machine.execArenaAddComplete n s
  | .stRun c w => Sys2Proof.Machine.execStRun c w s
  | .streamTransferLands mover queue n => Sys2Proof.Machine.execStreamTransferLands mover queue n s
  | .plBag c w => Sys2Proof.Machine.execPlBag c w s
  | .poolingPass cluster => Sys2Proof.Machine.execPoolingPass cluster s
  | .gatherRowLands engine queue pos => Sys2Proof.Machine.execGatherRowLands engine queue pos s
  | .scanLd c w => Sys2Proof.Machine.execScanLd c w s
  | .scanB1 c w => Sys2Proof.Machine.execScanB1 c w s
  | .tkRd c w => Sys2Proof.Machine.execTkRd c w s
  | .tkMerge c w => Sys2Proof.Machine.execTkMerge c w s
  | .tkClr c w => Sys2Proof.Machine.execTkClr c w s
  | .iaMma c w => Sys2Proof.Machine.execIaMma c w s
  | .iaSt c w => Sys2Proof.Machine.execIaSt c w s
  | .iaLd c w => Sys2Proof.Machine.execIaLd c w s
  | .iaZero c w => Sys2Proof.Machine.execIaZero c w s
  | .epCvt c w => Sys2Proof.Machine.execEpCvt c w s
  | .chainLinkCopy ten hitch cart => Sys2Proof.Machine.execChainLinkCopy ten hitch cart s
  | .lnPut c w => Sys2Proof.Machine.execLnPut c w s
  | .lnTake c w => Sys2Proof.Machine.execLnTake c w s
  | .lnOvf c w => Sys2Proof.Machine.execLnOvf c w s
  | .foldSgd c w => Sys2Proof.Machine.execFoldSgd c w s
  | .foldAdagrad c w => Sys2Proof.Machine.execFoldAdagrad c w s
  | .foldAdam c w => Sys2Proof.Machine.execFoldAdam c w s
  | .foldGet c w => Sys2Proof.Machine.execFoldGet c w s
  | .orderAccept c => Sys2Proof.Machine.execOrderAccept c s
  | .orderComplete id => Sys2Proof.Machine.execOrderComplete id s
  | .bulkPromotion id t => Sys2Proof.Machine.execBulkPromotion id t s
  | .memoryResponse link tag umask pmask sat ce mis => Sys2Proof.Machine.execMemoryResponse link tag umask pmask sat ce mis s
  | .rowCacheFill slice n => Sys2Proof.Machine.execRowCacheFill slice n s
  | .rcwayClearDone ten => Sys2Proof.Machine.execRcwayClearDone ten s
  | .walkComplete n => Sys2Proof.Machine.execWalkComplete n s
  | .pin ten k base size hm => Sys2Proof.Machine.execPin ten k base size hm s
  | .unpin ten k => Sys2Proof.Machine.execUnpin ten k s
  | .pinWalkDone ten k => Sys2Proof.Machine.execPinWalkDone ten k s
  | .faultRetry ten fid hm => Sys2Proof.Machine.execFaultRetry ten fid hm s
  | .faultAbort ten fid => Sys2Proof.Machine.execFaultAbort ten fid s
  | .faultTimeout ten fid t => Sys2Proof.Machine.execFaultTimeout ten fid t s
  | .invalidationRange asid va pages => Sys2Proof.Machine.execInvalidationRange asid va pages s
  | .invalidationSpace asid => Sys2Proof.Machine.execInvalidationSpace asid s
  | .invalidationAll => Sys2Proof.Machine.execInvalidationAll  s
  | .invalidationAck t => Sys2Proof.Machine.execInvalidationAck t s
  | .winCommitSend entry hm => Sys2Proof.Machine.execWinCommitSend entry hm s
  | .winCommitRecv entry hm => Sys2Proof.Machine.execWinCommitRecv entry hm s
  | .podexpCommit entry hm => Sys2Proof.Machine.execPodexpCommit entry hm s
  | .windowReleased entry => Sys2Proof.Machine.execWindowReleased entry s
  | .read port => Sys2Proof.Machine.execRead port s
  | .write port => Sys2Proof.Machine.execWrite port s
  | .add64 port => Sys2Proof.Machine.execAdd64 port s
  | .add32 port => Sys2Proof.Machine.execAdd32 port s
  | .cas64 port => Sys2Proof.Machine.execCas64 port s
  | .resp port => Sys2Proof.Machine.execResp port s
  | .windowTimeout rtag t => Sys2Proof.Machine.execWindowTimeout rtag t s
  | .tensorCoreAccess ten slot cluster op => Sys2Proof.Machine.execTensorCoreAccess ten slot cluster op s
  | .carriageDeparture port t => Sys2Proof.Machine.execCarriageDeparture port t s
  | .dataCarriage port c => Sys2Proof.Machine.execDataCarriage port c s
  | .vacantCarriage port c => Sys2Proof.Machine.execVacantCarriage port c s
  | .rollCarriage port c => Sys2Proof.Machine.execRollCarriage port c s
  | .auditCarriage port c => Sys2Proof.Machine.execAuditCarriage port c s
  | .freeCarriage port c => Sys2Proof.Machine.execFreeCarriage port c s
  | .carriageTimeout port n t => Sys2Proof.Machine.execCarriageTimeout port n t s
  | .armControl port c => Sys2Proof.Machine.execArmControl port c s
  | .ack port c => Sys2Proof.Machine.execAck port c s
  | .nak port c => Sys2Proof.Machine.execNak port c s
  | .confirm port c => Sys2Proof.Machine.execConfirm port c s
  | .disarm port c => Sys2Proof.Machine.execDisarm port c s
  | .link port c => Sys2Proof.Machine.execLink port c s
  | .departure ten t => Sys2Proof.Machine.execDeparture ten t s
  | .rollCallCheck ten t => Sys2Proof.Machine.execRollCallCheck ten t s
  | .stopCarriage ten t => Sys2Proof.Machine.execStopCarriage ten t s
  | .brakeIdle ten t => Sys2Proof.Machine.execBrakeIdle ten t s
  | .lineTrain port => Sys2Proof.Machine.execLineTrain port s
  | .trainingComplete port r => Sys2Proof.Machine.execTrainingComplete port r s
  | .trainingSignalTimeout port t => Sys2Proof.Machine.execTrainingSignalTimeout port t s
  | .lineDown port => Sys2Proof.Machine.execLineDown port s
  | .lineRetire port lanes => Sys2Proof.Machine.execLineRetire port lanes s
  | .lineFence fence => Sys2Proof.Machine.execLineFence fence s
  | .routeWrite index mask => Sys2Proof.Machine.execRouteWrite index mask s
  | .rotationStep port t => Sys2Proof.Machine.execRotationStep port t s
  | .rotationSwitch port t => Sys2Proof.Machine.execRotationSwitch port t s
  | .calibrationVisit port v => Sys2Proof.Machine.execCalibrationVisit port v s
  | .retirementStep port t => Sys2Proof.Machine.execRetirementStep port t s
  | .laneLost port lane => Sys2Proof.Machine.execLaneLost port lane s
  | .spareJump port t => Sys2Proof.Machine.execSpareJump port t s
  | .injectorArm port v => Sys2Proof.Machine.execInjectorArm port v s
  | .hallCounterSlip => Sys2Proof.Machine.execHallCounterSlip  s
  | .governorEvaluation t => Sys2Proof.Machine.execGovernorEvaluation t s
  | .rateReport t mhz => Sys2Proof.Machine.execRateReport t mhz s
  | .powerTelemetry p => Sys2Proof.Machine.execPowerTelemetry p s
  | .powerReportStale t => Sys2Proof.Machine.execPowerReportStale t s
  | .vidAck => Sys2Proof.Machine.execVidAck  s
  | .thermalReport stack temp => Sys2Proof.Machine.execThermalReport stack temp s
  | .openTenancy ten => Sys2Proof.Machine.execOpenTenancy ten s
  | .runTenancy ten => Sys2Proof.Machine.execRunTenancy ten s
  | .ledEpochAdv ten => Sys2Proof.Machine.execLedEpochAdv ten s
  | .epochDeferredAdvance ten => Sys2Proof.Machine.execEpochDeferredAdvance ten s
  | .holderSwitch ten => Sys2Proof.Machine.execHolderSwitch ten s
  | .holdTimeout ten t => Sys2Proof.Machine.execHoldTimeout ten t s
  | .swapHint ten t => Sys2Proof.Machine.execSwapHint ten t s
  | .quiesce kind index lane force => Sys2Proof.Machine.execQuiesce kind index lane force s
  | .quiesceEnable kind index lane => Sys2Proof.Machine.execQuiesceEnable kind index lane s
  | .functionDisabled => Sys2Proof.Machine.execFunctionDisabled  s
  | .tenancyClear ten => Sys2Proof.Machine.execTenancyClear ten s
  | .containBlock => Sys2Proof.Machine.execContainBlock  s
  | .haltTenancy ten => Sys2Proof.Machine.execHaltTenancy ten s
  | .holdoffEnd t => Sys2Proof.Machine.execHoldoffEnd t s
  | .powerGood => Sys2Proof.Machine.execPowerGood  s
  | .supplyLoss => Sys2Proof.Machine.execSupplyLoss  s
  | .reset => Sys2Proof.Machine.execReset  s
  | .ctlReset => Sys2Proof.Machine.execCtlReset  s
  | .ctlDrain => Sys2Proof.Machine.execCtlDrain  s
  | .go v grant ways hm => Sys2Proof.Machine.execGo v grant ways hm s
  | .selfTestDone pass shared => Sys2Proof.Machine.execSelfTestDone pass shared s
  | .selftestRun cluster => Sys2Proof.Machine.execSelftestRun cluster s
  | .update kind utmo sig hm => Sys2Proof.Machine.execUpdate kind utmo sig hm s
  | .fwImageReady => Sys2Proof.Machine.execFwImageReady  s
  | .fwSwitch => Sys2Proof.Machine.execFwSwitch  s
  | .fwUpdateTimeout t => Sys2Proof.Machine.execFwUpdateTimeout t s
  | .fwWatchdog image => Sys2Proof.Machine.execFwWatchdog image s
  | .memMargin v => Sys2Proof.Machine.execMemMargin v s
  | .registerWrite addr be data => Sys2Proof.Machine.execRegisterWrite addr be data s
  | .discardedCarriage port carno fec => Sys2Proof.Machine.execDiscardedCarriage port carno fec s
  | .unparkDone ten slot => Sys2Proof.Machine.execUnparkDone ten slot s
  | .tableLoadDone ten => Sys2Proof.Machine.execTableLoadDone ten s
  | .timetableLoadDone ten => Sys2Proof.Machine.execTimetableLoadDone ten s
  | .clusterTestDone pass => Sys2Proof.Machine.execClusterTestDone pass s
  | .resetRelease testEn => Sys2Proof.Machine.execResetRelease testEn s
  | .tapInstruction op => Sys2Proof.Machine.execTapInstruction op s
  | .wrapperInstruction op => Sys2Proof.Machine.execWrapperInstruction op s

end Sys2Proof.Machine
end

