-- ==== Sys2Proof/Machine/Step.lean ====
section
/-! DEFINITION. One step: the command at the front of the queue, or, with none waiting, one idle tick (log 5). -/

namespace Sys2Proof.Machine

/-- The front command runs on the state with the queue's rest; on an empty queue the hall counter advances (R32), but not past
a tick in which something is due (R33): the block waits for that command. -/
def step (s : State) : Host.Outcome State Fault Refusal :=
  match s.pending with
  | c :: cs => exec c { s with pending := cs }
  | [] => .next (if s.mayPass (s.tick + 1) then s.atTick (s.tick + 1) else s)

/-- The state with the command a table word spells put at the front of its queue (none: unchanged). -/
def State.withFetchWord (s : State) (nbits w : Nat) : State :=
  match decodeTableWord nbits w with
  | some c => { s with pending := c :: s.pending }
  | none => s

end Sys2Proof.Machine
end

