-- ==== Sys2Proof/WellFormed.lean ====
section
/-! DEFINITION. Which commands are well formed: every number an operand carries lies in the range the spec gives what it
names (R12, R300, R351, R405, R303, R46, R55, R425). -/

namespace Sys2Proof

/-- R47, R303: a coach is one of at most 16 of its cohort; cohort numbers have 30 bits. -/
def CoachRef.wf (c : CoachRef) : Bool := decide (c.cohort < 2 ^ 30) && decide (c.coach < 16)

/-- R300, R312, R313, R315, R318, R319, R331, R346, R350: the operations a class has. -/
def opDefined (cls op : Nat) : Bool :=
  match cls with
  | 1 => decide (op ≤ 0x29)
  | 2 => decide (op ≤ 0x0E)
  | 3 => decide (op ≤ 0x0D)
  | 4 => decide (op ≤ 0x08)
  | 5 => decide (op ≤ 0x01)
  | 6 => decide (op ≤ 0x0A)
  | 7 => decide (op ≤ 0x05)
  | 8 => [0x00, 0x01, 0x02, 0x08, 0x09, 0x0A, 0x0B, 0x0C, 0x10, 0x14, 0x18, 0x19, 0x1C, 0x1D, 0x1E, 0x20, 0x21, 0x22, 0x23,
      0x24].contains op
  | 9 => decide (op ≤ 0x02)
  | 10 => decide (op ≤ 0x03)
  | _ => false

/-- R300: what a row's word names as its own CLASS and OP is reserved: of an order row, an OP of classes 0x08–0x0A; of any other
row, an OP of classes 0x01–0x07 or a class. -/
def LaneWord.wf (order : Bool) (w : LaneWord) : Bool :=
  match w.other with
  | none => true
  | some (cls, op) => !opDefined cls.toNat op.toNat && (decide (8 ≤ cls.toNat ∧ cls.toNat ≤ 10) == order)

/-- R245, R248: a payload has at most 1,856 bytes. -/
def Carriage.wf (c : Carriage) : Bool := decide (c.payload.length ≤ 1856)

/-- R351: one of the 32 rings. -/
def ringOk (r : Nat) : Bool := decide (r < 32)
/-- R405: one of the eight tenancies. -/
def tenOk (t : Nat) : Bool := decide (t < 8)
/-- R240: one of the sixteen ports. -/
def portOk (p : Nat) : Bool := decide (p < 16)
/-- R408: one of four resident slots. -/
def slotOk (n : Nat) : Bool := decide (n < 4)
/-- R12: one of eight clusters. -/
def clusterOk (c : Nat) : Bool := decide (c < 8)

/-- The check of a command's operands. -/
def Instr.wf : Instr → Bool
  | .dispatch r _ | .fenceFull r _ | .fenceOverlap r _ | .tableLoad r _ | .tableReplace r _ | .tableRelease r _
  | .timetableLoad r _ | .timetableUnload r _ | .hitchBuild r _ | .hitchDismantle r _ | .invalidateAll r _ | .arm r _
  | .brake r _ | .checkpoint r _ | .park r _ | .unpark r _ | .audit r _ | .ringWake r _ _ | .ringResume r
  | .ringEnable r _ _ => ringOk r
  | .dismantleComplete t h => tenOk t && decide (h < 256)
  | .invalidateAllDone t | .checkpointDone t | .openTenancy t | .runTenancy t | .ledEpochAdv t | .epochDeferredAdvance t
  | .holderSwitch t | .tenancyClear t | .haltTenancy t | .tableLoadDone t | .timetableLoadDone t | .rcwayClearDone t => tenOk t
  | .parkDone t n | .unparkDone t n => tenOk t && slotOk n
  | .parkTimeout t n _ => tenOk t && slotOk n
  | .departure t _ | .rollCallCheck t _ | .stopCarriage t _ | .brakeIdle t _ | .holdTimeout t _ | .swapHint t _ => tenOk t
  | .sealTakesEffect t n _ => tenOk t && decide (n < 4096)
  | .pin t k _ _ _ | .unpin t k | .pinWalkDone t k => tenOk t && decide (k < 32)
  | .faultRetry t _ _ | .faultAbort t _ | .faultTimeout t _ _ => tenOk t
  | .chainLinkCopy t h c => tenOk t && decide (h < 256) && decide (c < 256)
  | .tensorCoreAccess t n c _ => tenOk t && slotOk n && clusterOk c
  | .cohortPlacement _ c l => clusterOk c && decide (l < 16)
  | .streamTransferLands m q _ => decide (m < 64) && decide (q < 4)
  | .gatherRowLands e q _ => decide (e < 32) && decide (q < 4)
  | .poolingPass c => clusterOk c
  | .rowCacheFill sl n => decide (sl < 16) && decide (n < 192)
  | .memoryResponse l t _ _ _ _ _ => decide (l < 32) && decide (t < 65536)
  | .read p | .write p | .add64 p | .add32 p | .cas64 p | .resp p | .lineTrain p | .lineDown p => portOk p
  | .trainingComplete p _ | .lineRetire p _ | .injectorArm p _ | .calibrationVisit p _ | .discardedCarriage p _ _ => portOk p
  | .carriageDeparture p _ | .trainingSignalTimeout p _ | .rotationStep p _ | .rotationSwitch p _ | .retirementStep p _
  | .spareJump p _ => portOk p
  | .carriageTimeout p _ _ => portOk p
  | .laneLost p l => portOk p && decide (l < 17)
  | .dataCarriage p c | .vacantCarriage p c | .rollCarriage p c | .auditCarriage p c | .freeCarriage p c | .armControl p c
  | .ack p c | .nak p c | .confirm p c | .disarm p c | .link p c => portOk p && c.wf
  | .windowReleased e => decide (e < 256)
  | .thermalReport st _ => decide (st < 8)
  | .fwWatchdog i => decide (i < 3)
  | .cohortEnd _ _ | .cohortStuck _ _ | .copyComplete _ | .arenaAddComplete _ | .orderComplete _ | .bulkPromotion _ _
  | .walkComplete _ | .invalidationRange _ _ _ | .invalidationSpace _ | .invalidationAll | .invalidationAck _
  | .winCommitSend _ _ | .winCommitRecv _ _ | .podexpCommit _ _ | .windowTimeout _ _ | .lineFence _ | .hallCounterSlip
  | .governorEvaluation _ | .rateReport _ _ | .powerTelemetry _ | .powerReportStale _ | .vidAck | .quiesce _ _ _ _
  | .quiesceEnable _ _ _ | .functionDisabled | .containBlock | .holdoffEnd _ | .powerGood | .supplyLoss | .reset | .ctlReset
  | .ctlDrain | .go _ _ _ _ | .selfTestDone _ _ | .selftestRun _ | .update _ _ _ _ | .fwImageReady | .fwSwitch
  | .fwUpdateTimeout _ | .memMargin _ | .registerWrite _ _ _ | .clusterTestDone _ | .resetRelease _ | .tapInstruction _
  | .wrapperInstruction _ => true
  | .routeWrite i _ => decide (i.toNat < 288)
  | .sharedWaitLimit c _ | .pinnedAccessReturn c | .orderAccept c => c.wf
  | .add c w | .sub c w | .mulLo c w | .mulHiS c w | .mulHiU c w | .mad c w | .divS c w | .divU c w | .remS c w | .remU c w
  | .and c w | .or c w | .xor c w | .not c w | .shl c w | .shr c w | .sar c w | .minS c w | .minU c w | .maxS c w | .maxU c w
  | .popc c w | .clz c w | .bfe c w | .bfi c w | .sel c w | .mov c w | .movh c w | .cmp c w | .pop c w | .addX64 c w
  | .subX64 c w | .mulWideS c w | .mulWideU c w | .cxGet c w | .cqAny c w | .cqAll c w | .cqMask c w | .movSr c w
  | .prPack c w | .prUnpack c w | .cqCnt c w | .fadd c w | .fsub c w | .fmul c w | .ffma c w | .fdiv c w | .fsqrt c w
  | .fmin c w | .fmax c w | .fminNum c w | .fmaxNum c w | .fabs c w | .fneg c w | .fex2 c w | .flg2 c w | .fcmp c w
  | .cvtF32S32 c w | .cvtF32U32 c w | .cvtS32F32 c w | .cvtU32F32 c w | .cvtBf16F32 c w | .cvtF16F32 c w | .cvtE4m3F32 c w
  | .cvtE5m2F32 c w | .cvtF32Bf16 c w | .cvtF32F16 c w | .cvtF32E4m3 c w | .cvtF32E5m2 c w | .cvtQ64F32 c w | .cvtF32Q64 c w
  | .llLd c w | .llSt c w | .spLd c w | .spSt c w | .pmLd c w | .pmSt c w | .pmAddU32 c w | .pmAddS64 c w | .pmCasB64 c w
  | .cpU c w | .cpT c w | .barSync c w | .acWait c w | .acAdd c w | .acMode c w | .fencePm c w | .fenceSp c w | .epochAdv c w
  | .hcGet c w | .hcPut c w | .hcTake c w | .hcRet c w | .nop c w | .br c w | .call c w | .ret c w | .jmpR c w | .exit c w => c.wf && w.wf false
  | .gathQ c w | .gathBk c w | .gathOvf c w | .saddOpen c w | .saddX64 c w | .saddQ64 c w | .saddSeal c w | .saddClose c w
  | .stRun c w | .plBag c w | .scanLd c w | .scanB1 c w | .tkRd c w | .tkMerge c w | .tkClr c w | .iaMma c w | .iaSt c w
  | .iaLd c w | .iaZero c w | .epCvt c w | .lnPut c w | .lnTake c w | .lnOvf c w | .foldSgd c w | .foldAdagrad c w
  | .foldAdam c w | .foldGet c w => c.wf && w.wf true

end Sys2Proof
end

