-- ==== Sys2Proof/Certificates/Slice0/Obligations.lean ====
section
/-! DEFINITION. The statements for the provers. First what they speak of, then the statements by family. -/

namespace Sys2Proof.Machine

/-! ### What the statements speak of -/

/-- A coach's registers and predicates, and a cohort's local memory and counters, in canonical form. -/
def Coach.Canonical (k : Coach) : Prop := smOk 0 0 k.g = true ∧ smOk 0 0 k.u = true ∧ smOk 0 0 k.p = true
def Cohort.Canonical (h : Cohort) : Prop :=
  Memory.wf h.llm = true ∧ smOk 0 0 h.ac = true ∧ smOk 0 0 h.arrived = true ∧ ∀ k ∈ h.coaches, k.Canonical

/-- The sizes of the block's tables (R12, R351, R405), the canonical form of every memory and register file, and the highest VCORE
code (R483). -/
def State.Shape (s : State) : Prop :=
  Memory.wf s.mem.pool = true ∧ s.tens.length = 8 ∧ s.rings.length = 32 ∧ s.ports.length = 16 ∧ s.clusters.length = 8
    ∧ (∀ c ∈ s.clusters, Memory.wf c.sp = true) ∧ (∀ h ∈ s.cohorts, h.Canonical)
    ∧ (∀ im ∈ s.saves, ∀ h ∈ im.cohorts, h.Canonical) ∧ smOk 0 0 s.pwr.temps = true ∧ s.pwr.vid ≤ 48

/-- The reset value of the register at an offset of the control window, from the register maps (R491). -/
def resetValue (a : Nat) : Nat :=
  if a = 0x000 then 0x4F1F + Config.stepping * 2 ^ 16 + 0x01000000
  else if 0x2000 ≤ a ∧ a < 0x4000 then
    match a % 0x400 with
    | 0x050 => 0x03FF03FF03FF03FF
    | 0x058 => 0xFFFFFFFF
    | 0x098 => 0x01000000
    | 0x0A8 => 0x00020000
    | 0x0C8 => 0x0001E84800003E80
    | _ => 0
  else if 0x4000 ≤ a ∧ a < 0x4800 then (if a % 0x40 = 0 then 4 * 2 else 0)
  else if a = 0x6018 then Config.wayCap
  else if 0x8000 ≤ a ∧ a < 0xC000 then (if a % 0x400 = 0x20 then 16 else 0)
  else if a = 0xC200 ∨ a = 0xC208 then 1052672
  else if 0xD000 ≤ a ∧ a < 0xD600 then (if (a - 0xD000) % 0xC0 = 0x10 then 0xFFFFFFFF else 0)
  else if a = 0xE010 then 8
  else if 0xE800 ≤ a ∧ a < 0xEC00 then (if a % 0x40 = 0 then 4 * 2 ^ 5 else 0)
  else if 0xF000 ≤ a ∧ a < 0xF080 then 16
  else if a = 0xF808 then 0x1C20
  else if a = 0xF810 then 32
  else 0

/-- The coach's next instruction in the state in which it issues. -/
def State.issueOf (s : State) (c : CoachRef) (cls op : Nat) (w : LaneWord) : Option (State × LaneCtx) :=
  match s.task? c.task, s.cohort? c.task c.cohort with
  | some t, some h0 =>
    let s1 := s.laneStart t c h0.cluster (wordBits w cls op)
    match s1.cohort? c.task c.cohort, s1.coach? c with
    | some h, some k => some (s1, ⟨c, t, h, k, w, k.acting w⟩)
    | _, _ => none
  | _, _ => none

/-- The coach is ready, and its instruction w is the word its lane fetches and issues in s1, at a pc that is pinned, within the tenancy's
groups, and whose data the instruction cache or memory delivers (R297, R299). -/
def Fetches (s : State) (c : CoachRef) (cls op : Nat) (w : LaneWord) (s1 : State) (x : LaneCtx) : Prop :=
  s.laneReady c = true ∧ s.laneGets c (wordBits w cls op) = true ∧ s.issueOf c cls op w = some (s1, x)
    ∧ s1.pinnedRange x.task.ten x.k.pc 8 = true ∧ s1.fetchBarred x.task.ten x.k.pc = none
    ∧ s1.fetchLost x.cohort.cluster x.task.ten x.k.pc = false

/-- The same, defined (R300–R302) and with at least one acting thread (R304). -/
def Issues (s : State) (c : CoachRef) (cls op : Nat) (w : LaneWord) (s1 : State) (x : LaneCtx) : Prop :=
  Fetches s c cls op w s1 x ∧ encFault (opSpec cls op w) w x.task.nreg = none ∧ x.act ≠ 0

/-- The class, operation, coach and word of a lane instruction. -/
def laneRow : Instr → Option (Nat × Nat × CoachRef × LaneWord)
  | .add c w => some (1, 0x00, c, w) | .sub c w => some (1, 0x01, c, w) | .mulLo c w => some (1, 0x02, c, w)
  | .mulHiS c w => some (1, 0x03, c, w) | .mulHiU c w => some (1, 0x04, c, w) | .mad c w => some (1, 0x05, c, w)
  | .divS c w => some (1, 0x06, c, w) | .divU c w => some (1, 0x07, c, w) | .remS c w => some (1, 0x08, c, w)
  | .remU c w => some (1, 0x09, c, w) | .and c w => some (1, 0x0A, c, w) | .or c w => some (1, 0x0B, c, w)
  | .xor c w => some (1, 0x0C, c, w) | .not c w => some (1, 0x0D, c, w) | .shl c w => some (1, 0x0E, c, w)
  | .shr c w => some (1, 0x0F, c, w) | .sar c w => some (1, 0x10, c, w) | .minS c w => some (1, 0x11, c, w)
  | .minU c w => some (1, 0x12, c, w) | .maxS c w => some (1, 0x13, c, w) | .maxU c w => some (1, 0x14, c, w)
  | .popc c w => some (1, 0x15, c, w) | .clz c w => some (1, 0x16, c, w) | .bfe c w => some (1, 0x17, c, w)
  | .bfi c w => some (1, 0x18, c, w) | .sel c w => some (1, 0x19, c, w) | .mov c w => some (1, 0x1A, c, w)
  | .movh c w => some (1, 0x1B, c, w) | .cmp c w => some (1, 0x1C, c, w) | .pop c w => some (1, 0x1D, c, w)
  | .addX64 c w => some (1, 0x1E, c, w) | .subX64 c w => some (1, 0x1F, c, w) | .mulWideS c w => some (1, 0x20, c, w)
  | .mulWideU c w => some (1, 0x21, c, w) | .cxGet c w => some (1, 0x22, c, w) | .cqAny c w => some (1, 0x23, c, w)
  | .cqAll c w => some (1, 0x24, c, w) | .cqMask c w => some (1, 0x25, c, w) | .movSr c w => some (1, 0x26, c, w)
  | .prPack c w => some (1, 0x27, c, w) | .prUnpack c w => some (1, 0x28, c, w) | .cqCnt c w => some (1, 0x29, c, w)
  | .fadd c w => some (2, 0x00, c, w) | .fsub c w => some (2, 0x01, c, w) | .fmul c w => some (2, 0x02, c, w)
  | .ffma c w => some (2, 0x03, c, w) | .fdiv c w => some (2, 0x04, c, w) | .fsqrt c w => some (2, 0x05, c, w)
  | .fmin c w => some (2, 0x06, c, w) | .fmax c w => some (2, 0x07, c, w) | .fminNum c w => some (2, 0x08, c, w)
  | .fmaxNum c w => some (2, 0x09, c, w) | .fabs c w => some (2, 0x0A, c, w) | .fneg c w => some (2, 0x0B, c, w)
  | .fex2 c w => some (2, 0x0C, c, w) | .flg2 c w => some (2, 0x0D, c, w) | .fcmp c w => some (2, 0x0E, c, w)
  | .cvtF32S32 c w => some (3, 0x00, c, w) | .cvtF32U32 c w => some (3, 0x01, c, w) | .cvtS32F32 c w => some (3, 0x02, c, w)
  | .cvtU32F32 c w => some (3, 0x03, c, w) | .cvtBf16F32 c w => some (3, 0x04, c, w) | .cvtF16F32 c w => some (3, 0x05, c, w)
  | .cvtE4m3F32 c w => some (3, 0x06, c, w) | .cvtE5m2F32 c w => some (3, 0x07, c, w) | .cvtF32Bf16 c w => some (3, 0x08, c, w)
  | .cvtF32F16 c w => some (3, 0x09, c, w) | .cvtF32E4m3 c w => some (3, 0x0A, c, w) | .cvtF32E5m2 c w => some (3, 0x0B, c, w)
  | .cvtQ64F32 c w => some (3, 0x0C, c, w) | .cvtF32Q64 c w => some (3, 0x0D, c, w)
  | .llLd c w => some (4, 0x00, c, w) | .llSt c w => some (4, 0x01, c, w) | .spLd c w => some (4, 0x02, c, w)
  | .spSt c w => some (4, 0x03, c, w) | .pmLd c w => some (4, 0x04, c, w) | .pmSt c w => some (4, 0x05, c, w)
  | .pmAddU32 c w => some (4, 0x06, c, w) | .pmAddS64 c w => some (4, 0x07, c, w) | .pmCasB64 c w => some (4, 0x08, c, w)
  | .cpU c w => some (5, 0x00, c, w) | .cpT c w => some (5, 0x01, c, w)
  | .barSync c w => some (6, 0x00, c, w) | .acWait c w => some (6, 0x01, c, w) | .acAdd c w => some (6, 0x02, c, w)
  | .acMode c w => some (6, 0x03, c, w) | .fencePm c w => some (6, 0x04, c, w) | .fenceSp c w => some (6, 0x05, c, w)
  | .epochAdv c w => some (6, 0x06, c, w) | .hcGet c w => some (6, 0x07, c, w) | .hcPut c w => some (6, 0x08, c, w)
  | .hcTake c w => some (6, 0x09, c, w) | .hcRet c w => some (6, 0x0A, c, w)
  | .nop c w => some (7, 0x00, c, w) | .br c w => some (7, 0x01, c, w) | .call c w => some (7, 0x02, c, w)
  | .ret c w => some (7, 0x03, c, w) | .jmpR c w => some (7, 0x04, c, w) | .exit c w => some (7, 0x05, c, w)
  | _ => none

/-- The class, operation, coach and word of an order (classes 0x08–0x0A). -/
def orderRow : Instr → Option (Nat × Nat × CoachRef × LaneWord)
  | .gathQ c w => some (8, 0x00, c, w) | .gathBk c w => some (8, 0x01, c, w) | .gathOvf c w => some (8, 0x02, c, w)
  | .saddOpen c w => some (8, 0x08, c, w) | .saddX64 c w => some (8, 0x09, c, w) | .saddQ64 c w => some (8, 0x0A, c, w)
  | .saddSeal c w => some (8, 0x0B, c, w) | .saddClose c w => some (8, 0x0C, c, w) | .stRun c w => some (8, 0x10, c, w)
  | .plBag c w => some (8, 0x14, c, w) | .scanLd c w => some (8, 0x18, c, w) | .scanB1 c w => some (8, 0x19, c, w)
  | .tkRd c w => some (8, 0x1C, c, w) | .tkMerge c w => some (8, 0x1D, c, w) | .tkClr c w => some (8, 0x1E, c, w)
  | .iaMma c w => some (8, 0x20, c, w) | .iaSt c w => some (8, 0x21, c, w) | .iaLd c w => some (8, 0x22, c, w)
  | .iaZero c w => some (8, 0x23, c, w) | .epCvt c w => some (8, 0x24, c, w) | .lnPut c w => some (9, 0x00, c, w)
  | .lnTake c w => some (9, 0x01, c, w) | .lnOvf c w => some (9, 0x02, c, w) | .foldSgd c w => some (10, 0x00, c, w)
  | .foldAdagrad c w => some (10, 0x01, c, w) | .foldAdam c w => some (10, 0x02, c, w) | .foldGet c w => some (10, 0x03, c, w)
  | _ => none

/-- What a thread's operation sees: the word, A, B, C, the old D, and predicate SUB[2:0]. -/
structure Operands where
  w : LaneWord
  a : W32
  b : W32
  c : W32
  d : W32
  p : Bool

/-- The operands of thread j. -/
def LaneCtx.operands (x : LaneCtx) (j : Nat) : Operands :=
  ⟨x.w, opA x.k x.w j, opB x.k x.w j, opC x.k x.w j, opD x.k x.w j, predBit x.k (fSub x.w % 8) j⟩

/-- R312, `bfe`: the length of a field, 0 meaning 32. -/
def fieldLen (b : W32) : Nat := if (b >>> 8) &&& 31 = 0 then 32 else ((b >>> 8) &&& 31).toNat
/-- R312: the bits of a field at its position. -/
def fieldMask (b : W32) : W32 := (BitVec.allOnes 32 >>> (32 - fieldLen b)) <<< (b &&& 31).toNat

/-- R312: the one-register results of class 0x01 as its table gives them. -/
def intResult : Instr → Option (Operands → W32)
  | .add _ _ => some fun o => o.a + o.b
  | .sub _ _ => some fun o => o.a - o.b
  | .mulLo _ _ => some fun o => o.a * o.b
  | .mulHiS _ _ => some fun o => BitVec.ofInt 32 (o.a.toInt * o.b.toInt / 2 ^ 32)
  | .mulHiU _ _ => some fun o => BitVec.ofNat 32 (o.a.toNat * o.b.toNat / 2 ^ 32)
  | .mad _ _ => some fun o => o.a * o.b + o.c
  | .divS _ _ => some fun o => if o.b = 0 then -1 else o.a.sdiv o.b
  | .divU _ _ => some fun o => if o.b = 0 then 0xFFFFFFFF else o.a.udiv o.b
  | .remS _ _ => some fun o => if o.b = 0 then o.a else o.a.srem o.b
  | .remU _ _ => some fun o => if o.b = 0 then o.a else o.a.umod o.b
  | .and _ _ => some fun o => o.a &&& o.b
  | .or _ _ => some fun o => o.a ||| o.b
  | .xor _ _ => some fun o => o.a ^^^ o.b
  | .not _ _ => some fun o => ~~~o.a
  | .shl _ _ => some fun o => if 32 ≤ o.b.toNat then 0 else o.a <<< o.b
  | .shr _ _ => some fun o => if 32 ≤ o.b.toNat then 0 else o.a >>> o.b
  | .sar _ _ => some fun o => if 32 ≤ o.b.toNat then (if o.a.msb then 0xFFFFFFFF else 0) else o.a.sshiftRight o.b.toNat
  | .minS _ _ => some fun o => if o.a.sle o.b then o.a else o.b
  | .minU _ _ => some fun o => if o.a ≤ o.b then o.a else o.b
  | .maxS _ _ => some fun o => if o.a.sle o.b then o.b else o.a
  | .maxU _ _ => some fun o => if o.a ≤ o.b then o.b else o.a
  | .popc _ _ => some fun o => BitVec.ofNat 32 (((List.range 32).filter o.a.getLsbD).length)
  | .clz _ _ => some fun o => o.a.clz
  | .bfe _ _ => some fun o =>
      let v := (o.a >>> (o.b &&& 31).toNat) &&& (BitVec.allOnes 32 >>> (32 - fieldLen o.b))
      if o.w.lo.getLsbD 0 then (v <<< (32 - fieldLen o.b)).sshiftRight (32 - fieldLen o.b) else v
  | .bfi _ _ => some fun o => (o.a &&& ~~~fieldMask o.b) ||| ((o.c <<< (o.b &&& 31).toNat) &&& fieldMask o.b)
  | .sel _ _ => some fun o => if o.p then o.a else o.b
  | .mov _ _ => some fun o => o.b
  | .movh _ _ => some fun o => (o.d &&& 0x00FFFFFF) ||| ((o.w.lo >>> 8) <<< 24)
  | _ => none

/-- R312: the results of class 0x01 that are a pair. -/
def intResult64 : Instr → Option (LaneCtx → Nat → W64)
  | .addX64 _ _ => some fun x j => opA64 x.k x.w j + opB64 x.k x.w j
  | .subX64 _ _ => some fun x j => opA64 x.k x.w j - opB64 x.k x.w j
  | .mulWideS _ _ => some fun x j => (opA x.k x.w j).signExtend 64 * (opB x.k x.w j).signExtend 64
  | .mulWideU _ _ => some fun x j => (opA x.k x.w j).setWidth 64 * (opB x.k x.w j).setWidth 64
  | _ => none

/-- R312: the conditions of `cmp`, SUB[3] unsigned. -/
def cmpHolds (sub : Nat) (a b : W32) : Prop :=
  if bitOf sub 3 then
    match sub % 8 with
    | 0 => a = b
    | 1 => a ≠ b
    | 2 => a.toNat < b.toNat
    | 3 => a.toNat ≤ b.toNat
    | 4 => b.toNat < a.toNat
    | _ => b.toNat ≤ a.toNat
  else
    match sub % 8 with
    | 0 => a = b
    | 1 => a ≠ b
    | 2 => a.toInt < b.toInt
    | 3 => a.toInt ≤ b.toInt
    | 4 => b.toInt < a.toInt
    | _ => b.toInt ≤ a.toInt

/-- R312: the predicate results of class 0x01 for an acting thread j. -/
def predResult : Instr → Option (LaneCtx → Nat → Prop)
  | .cmp _ _ => some fun x j => cmpHolds (fSub x.w) (opA x.k x.w j) (opB x.k x.w j)
  | .pop _ _ => some fun x j =>
      let a := predBit x.k (fA x.w % 8) j = true
      let b := predBit x.k (fB x.w % 8) j = true
      match fSub x.w % 8 with
      | 0 => a ∧ b
      | 1 => a ∨ b
      | 2 => ¬(a ↔ b)
      | 3 => a ∧ ¬b
      | 4 => ¬a
      | 5 => True
      | _ => False
  | .cqAny _ _ => some fun x _ => ∃ i, i < 32 ∧ x.act.getLsbD i = true ∧ predBit x.k (fA x.w % 8) i = true
  | .cqAll _ _ => some fun x _ => ∀ i, i < 32 → x.act.getLsbD i = true → predBit x.k (fA x.w % 8) i = true
  | _ => none

/-- R303, R312: the results that read other threads, predicates or special registers. -/
def coachResult : Instr → Option (State → LaneCtx → Nat → W32)
  | .cxGet _ _ => some fun _ x j =>
      let src := cxSource (fSub x.w) j ((opB x.k x.w j).toNat % 32)
      if x.k.running.getLsbD src then opA x.k x.w src else 0
  | .cqMask _ _ => some fun _ x _ => x.k.pred (fA x.w % 8) &&& x.act
  | .cqCnt _ _ => some fun _ x _ =>
      BitVec.ofNat 32 (((List.range 32).filter fun i => x.act.getLsbD i && predBit x.k (fA x.w % 8) i).length)
  | .prPack _ _ => some fun _ x j => BitVec.ofNat 32 (maskOf ((List.range 8).filter fun p => predBit x.k p j))
  | _ => none

/-- R313, R314: the one-register results of class 0x02. -/
def floatResult : Instr → Option (W32 → W32 → W32 → W32)
  | .fadd _ _ => some fun a b _ => rn32 (fAdd (f32 a) (f32 b))
  | .fsub _ _ => some fun a b _ => rn32 (fAdd (f32 a) (f32 b).negate)
  | .fmul _ _ => some fun a b _ => rn32 (fMul (f32 a) (f32 b))
  | .ffma _ _ => some fun a b c => rn32 (fAdd (fMul (f32 a) (f32 b)) (f32 c))
  | .fdiv _ _ => some fun a b _ => fDiv32 (f32 a) (f32 b)
  | .fsqrt _ _ => some fun a _ _ => fSqrt32 (f32 a)
  | .fmin _ _ => some fun a b _ => rn32 (fMin (f32 a) (f32 b))
  | .fmax _ _ => some fun a b _ => rn32 (fMax (f32 a) (f32 b))
  | .fminNum _ _ => some fun a b _ => rn32 (fMinNum (f32 a) (f32 b))
  | .fmaxNum _ _ => some fun a b _ => rn32 (fMaxNum (f32 a) (f32 b))
  | .fabs _ _ => some fun a _ _ => rn32 (f32 a).abs
  | .fneg _ _ => some fun a _ _ => rn32 (f32 a).negate
  | .fex2 _ _ => some fun a _ _ => fex2Of a
  | .flg2 _ _ => some fun a _ _ => flg2Of a
  | _ => none

/-- R315: the conversions: each thread's words and counts. -/
def cvtResult : Instr → Option (LaneCtx → Nat → CvtOut)
  | .cvtF32S32 _ _ => some fun x j => cvt1 (ofFixed (opA x.k x.w j).toInt 0)
  | .cvtF32U32 _ _ => some fun x j => cvt1 (ofFixed (opA x.k x.w j).toNat 0)
  | .cvtS32F32 _ _ => some fun x j => cvtInt (fSub x.w) (-(2 ^ 31)) (2 ^ 31 - 1) (opA x.k x.w j)
  | .cvtU32F32 _ _ => some fun x j => cvtInt (fSub x.w) 0 (2 ^ 32 - 1) (opA x.k x.w j)
  | .cvtBf16F32 _ _ => some fun x j => cvtNarrow bf16Fmt x.w (opA x.k x.w j) (opB x.k x.w j)
  | .cvtF16F32 _ _ => some fun x j => cvtNarrow f16Fmt x.w (opA x.k x.w j) (opB x.k x.w j)
  | .cvtE4m3F32 _ _ => some fun x j => cvtNarrow e4m3Fmt x.w (opA x.k x.w j) (opB x.k x.w j)
  | .cvtE5m2F32 _ _ => some fun x j => cvtNarrow e5m2Fmt x.w (opA x.k x.w j) (opB x.k x.w j)
  | .cvtF32Bf16 _ _ => some fun x j => cvtWiden bf16Fmt (fSub x.w % 2) (opA x.k x.w j)
  | .cvtF32F16 _ _ => some fun x j => cvtWiden f16Fmt (fSub x.w % 2) (opA x.k x.w j)
  | .cvtF32E4m3 _ _ => some fun x j => cvtWiden e4m3Fmt (fSub x.w % 4) (opA x.k x.w j)
  | .cvtF32E5m2 _ _ => some fun x j => cvtWiden e5m2Fmt (fSub x.w % 4) (opA x.k x.w j)
  | _ => none

/-- All of it lies in the pool (R277). -/
def InPool (hm : HostMem) : Prop := (∀ c ∈ hm.cells, c.1 < 2 ^ 46) ∧ ∀ g ∈ hm.bad, 64 * g < 2 ^ 46

/-- The host's writes that come with a command. -/
def hostMem : Instr → Option HostMem
  | .ringWake _ _ hm => some hm | .pin _ _ _ _ hm => some hm | .faultRetry _ _ hm => some hm
  | .winCommitSend _ hm => some hm | .winCommitRecv _ hm => some hm | .podexpCommit _ hm => some hm
  | .go _ _ _ hm => some hm | .update _ _ _ hm => some hm
  | _ => none

/-- The front end may take the command at the head of ring r: its entry is e under opcode op, readable, with its reserved bits 0, and
one that the tenancy's state admits (R76, R351, R352, R406). -/
def Heads (s : State) (r op : Nat) (e : CmdEntry) : Prop :=
  s.ringReady r = true
    ∧ (∃ bs, s.pinRead (s.ring r).ten.toNat (s.ring r).slotVa 32 true = .bytes bs ∧ cmdOf bs = (op, e))
    ∧ ((s.ten (s.ring r).ten.toNat).st ≠ .loading ∨ loadingOp op = true) ∧ cmdForm op e = true

/-- The ring and the entry of a row by which the front end takes a command. -/
def frontRow : Instr → Option (Nat × CmdEntry)
  | .dispatch r e => some (r, e) | .fenceFull r e => some (r, e) | .fenceOverlap r e => some (r, e)
  | .tableLoad r e => some (r, e) | .tableReplace r e => some (r, e) | .tableRelease r e => some (r, e)
  | .timetableLoad r e => some (r, e) | .timetableUnload r e => some (r, e) | .hitchBuild r e => some (r, e)
  | .hitchDismantle r e => some (r, e) | .invalidateAll r e => some (r, e) | .arm r e => some (r, e) | .brake r e => some (r, e)
  | .checkpoint r e => some (r, e) | .park r e => some (r, e) | .unpark r e => some (r, e) | .audit r e => some (r, e)
  | _ => none

/-- The opcode under which a row takes its entry (R354). -/
def frontTakes : Instr → Option Nat
  | .dispatch _ _ => some 1
  | .fenceFull _ e => if bitOf e.arg0.toNat 0 then none else some 2
  | .fenceOverlap _ e => if bitOf e.arg0.toNat 0 then some 2 else none
  | .tableLoad _ e => if isReplace e then none else some 3
  | .tableReplace _ e => if isReplace e ∧ e.arg0 ≠ 0 then some 3 else none
  | .tableRelease _ e => if isReplace e ∧ e.arg0 = 0 then some 3 else none
  | .timetableLoad _ e => if isUnload e then none else some 4
  | .timetableUnload _ e => if isUnload e then some 4 else none
  | .hitchBuild _ e => if isDismantle e then none else some 5
  | .hitchDismantle _ e => if isDismantle e then some 5 else none
  | .invalidateAll _ _ => some 6
  | .arm _ _ => some 7
  | .brake _ _ => some 8
  | .checkpoint _ _ => some 9
  | .park _ _ => some 10
  | .unpark _ _ => some 11
  | .audit _ _ => some 12
  | _ => none

/-- How a command's checks fail: the REASON, and the state with what the checks recorded. -/
def CM.fails {α : Type} (m : CM α) (s : State) : Option (Nat × State) :=
  match m.go s with
  | (.error n, s') => some (n, s')
  | (.ok _, _) => none

/-- The first check of a row's command that fails. -/
def frontFails (i : Instr) (c : CmdRef) (s : State) : Option (Nat × State) :=
  match i with
  | .dispatch _ _ => (chkDispatch c).fails s
  | .tableLoad _ _ => (chkTableLoad c).fails s
  | .tableReplace _ _ => (chkTableReplace c).fails s
  | .tableRelease _ _ => (chkHeld c).fails s
  | .timetableLoad _ _ => (chkTimetable c).fails s
  | .timetableUnload _ _ => (chkUnload c).fails s
  | .hitchBuild _ _ => (chkHitchBuild c).fails s
  | .hitchDismantle _ _ => (chkDismantle c).fails s
  | .arm _ _ => (chkArm c).fails s
  | .checkpoint _ _ => (chkCheckpoint c).fails s
  | .park _ _ => (chkPark c).fails s
  | .unpark _ _ => (chkUnpark c).fails s
  | _ => none

/-- The port and the operation of a row that takes a request from a port. -/
def requestRow : Instr → Option (Nat × Nat)
  | .read p => some (p, 1) | .write p => some (p, 2) | .add64 p => some (p, 3) | .add32 p => some (p, 4) | .cas64 p => some (p, 5)
  | _ => none

/-- The port and the carriage of a row that takes one, where the carriage is of the row's class and type. -/
def carriageRow : Instr → Option (Nat × Carriage)
  | .dataCarriage p c => if c.cls.toNat = 1 then some (p, c) else none
  | .vacantCarriage p c => if c.cls.toNat = 0 then some (p, c) else none
  | .rollCarriage p c => if c.cls.toNat = 2 then some (p, c) else none
  | .auditCarriage p c => if c.cls.toNat = 3 then some (p, c) else none
  | .freeCarriage p c => if c.cls.toNat = 5 then some (p, c) else none
  | .armControl p c => if c.cls.toNat = 4 ∧ c.ctype.toNat = 1 then some (p, c) else none
  | .ack p c => if c.cls.toNat = 4 ∧ c.ctype.toNat = 2 then some (p, c) else none
  | .nak p c => if c.cls.toNat = 4 ∧ c.ctype.toNat = 3 then some (p, c) else none
  | .confirm p c => if c.cls.toNat = 4 ∧ c.ctype.toNat = 4 then some (p, c) else none
  | .disarm p c => if c.cls.toNat = 4 ∧ c.ctype.toNat = 5 then some (p, c) else none
  | .link p c => if c.cls.toNat = 4 ∧ c.ctype.toNat = 6 then some (p, c) else none
  | _ => none

/-- What a carriage of a row does outside a run, and in one, for its membership and entry. -/
def carriageActs (i : Instr) (s : State) : Option ((State → State) × (State → Nat → W64 → State)) :=
  let ctl : (State → State) → Option ((State → State) × (State → Nat → W64 → State)) := fun f => some (f, fun s _ _ => f s)
  let drop : Nat → State → State := fun p s => s.modPort p fun x => { x with discarded := x.discarded + 1 }
  match i with
  | .dataCarriage p c => some (drop p, fun s t e => s.landData p c t e)
  | .vacantCarriage _ _ => some (id, fun s _ _ => s)
  | .rollCarriage p c => some (drop p, fun s t _ => s.modTt t fun x =>
      { x with records := (rollOf (c.payload.take c.len.toNat)).foldl (fun l r => if l.contains r then l else l ++ [r]) x.records })
  | .auditCarriage p c => ctl fun u =>
      let x := (s.port p).startRx c.carno.toNat
      (if x.rxDue || x.auditOk c.payload then u else u.auditFails p c.carno.toNat).auditFec p
  | .freeCarriage p c => ctl (·.takeFree p c)
  | .armControl p c => ctl (·.takeArm p c.payload)
  | .ack p c => ctl (·.takeAck p c.payload)
  | .nak p c => ctl (·.takeNak p c.payload)
  | .confirm p c => ctl (·.takeConfirm p c.payload)
  | .disarm p c => ctl (·.takeDisarm p c.payload)
  | .link p c => ctl (·.takeLink p c.payload)
  | _ => none

end Sys2Proof.Machine

open Sys2Proof Sys2Proof.Machine

/-! ### The whole machine -/

/-- A step takes the command at the front of the queue and runs it with the queue's rest. -/
def Obligations.StepRunsFront : Prop :=
  ∀ (c : Instr) (cs : List Instr) (s : State), s.pending = c :: cs → step s = exec c { s with pending := cs }

/-- With no command waiting a tick passes, or, where something is due, the block waits for its command (R33; the model's choice, log 5).
A tick that passes starts no task, command or order and changes no byte of memory. -/
def Obligations.IdleTick : Prop :=
  ∀ s : State, s.pending = [] →
    (s.mayPass (s.tick + 1) = false → step s = .next s)
      ∧ (s.mayPass (s.tick + 1) = true →
        ∃ t, step s = .next t ∧ t.tick = s.tick + 1 ∧ t.pending = [] ∧ t.st = s.st ∧ t.rings = s.rings ∧ t.tasks = s.tasks
          ∧ t.cohorts = s.cohorts ∧ t.orders = s.orders ∧ t.copies = s.copies ∧ t.clusters = s.clusters ∧ t.rc = s.rc
          ∧ t.mem.pool = s.mem.pool ∧ t.tens.length = s.tens.length
          ∧ ∀ n, (t.ten n).st = (s.ten n).st ∧ (t.ten n).tables = (s.ten n).tables ∧ (t.ten n).hitches = (s.ten n).hitches
            ∧ (t.ten n).tt = (s.ten n).tt)

/-- The instruction word of a row keeps its class, its operation and every field, both ways (R297). -/
def Obligations.LaneWordRoundTrip : Prop :=
  (∀ (cls : BitVec 6) (op : BitVec 7) (w : LaneWord), w.other = none →
      wordClass (w.toWord cls op) = cls ∧ wordOp (w.toWord cls op) = op ∧ LaneWord.ofWord (w.toWord cls op) = w)
    ∧ ∀ x : W64, (LaneWord.ofWord x).toWord (wordClass x) (wordOp x) = x

/-- A command entry laid out in memory is read back whole by the front end (R352). -/
def Obligations.CmdEntryRoundTrip : Prop :=
  (∀ (op : BitVec 8) (e : CmdEntry),
      entryOpcode (e.toBits op) = op ∧ CmdEntry.ofBits (e.toBits op) = e
        ∧ cmdOf (toLe 32 (e.toBits op).toNat) = (op.toNat, e))
    ∧ ∀ x : BitVec 256, (CmdEntry.ofBits x).toBits (entryOpcode x) = x

/-- Words the spec's encodings give, written out bit by bit, decode to the instructions they stand for (R297, R312, R326). -/
def Obligations.WordsDecode : Prop :=
  (wordClass 0x0400214300000C00 = 1 ∧ wordOp 0x0400214300000C00 = 0
      ∧ LaneWord.ofWord 0x0400214300000C00 = { i := true, d := 5, a := 3, lo := 0x00000C00 })
    ∧ (wordClass 0x20A0008400034000 = 8 ∧ wordOp 0x20A0008400034000 = 0x14
      ∧ LaneWord.ofWord 0x20A0008400034000 = { d := 2, a := 4, lo := 0x00034000 })

/-- No command breaks the canonical form of a memory or register file, the sizes of the block's tables or the highest VCORE code. -/
def Obligations.StepKeepsShape : Prop := ∀ s t : State, s.Shape → step s = .next t → t.Shape

/-- The machine right after reset has that shape. -/
def Obligations.ResetShape : Prop := State.reset.Shape

/-- After reset every register of the control window reads its reset value, and every offset no map names reads 0 (R490,
R491). -/
def Obligations.ResetValues : Prop :=
  ∀ n : Nat, n < 16384 → State.reset.regValue (8 * n) = if n = 1 then 1 else resetValue (8 * n)

/-- Every reset has the same effect on the registers (R451–R453): each takes its reset value, but for `CTL_STATE`, which shows the
state entered, and `CTL_TICK`, which goes on (log 79). -/
def Obligations.EveryResetIsTheSame : Prop :=
  ∀ (i : Instr) (s : State),
    (i = .reset ∨ (i = .ctlReset ∧ s.st ≠ .off ∧ s.resetLow = false) ∨ (i = .supplyLoss ∧ s.powered = true)
      ∨ (i = .powerGood ∧ s.powered = false)) →
    ∃ t, exec i s = .next t ∧ (∀ n, n < 16384 → n ≠ 1 → n ≠ 6 → t.regValue (8 * n) = resetValue (8 * n))
      ∧ t.tasks = [] ∧ t.cohorts = [] ∧ t.orders = [] ∧ t.copies = [] ∧ t.clusters = List.replicate 8 {}
      ∧ t.rc = {} ∧ t.xlt = {} ∧ t.tens = List.replicate 8 {} ∧ t.ports = List.replicate 16 {}
      ∧ t.mem.pool = s.mem.pool ∧ t.pending = s.pending

/-! ### Lanes: issue (R15, R297–R306) -/

/-- With G = 0 an instruction acts for every thread of the running path, with G = 1 for those of it in which p[GP] XOR GN is 1. One
with no acting thread only moves its coach past it, its issue counted. A fault of encoding is raised whatever the guard, and whether or
not a thread acts (R304). -/
def Obligations.ActingThreads : Prop :=
  (∀ (k : Coach) (w : LaneWord) (j : Nat), j < 32 →
      ((k.acting w).getLsbD j = true ↔
        k.running.getLsbD j = true ∧ (w.g = false ∨ (predBit k w.gp.toNat j ^^ w.gn) = true)))
    ∧ ∀ (i : Instr) (cls op : Nat) (c : CoachRef) (w : LaneWord) (s s1 : State) (x : LaneCtx),
      (laneRow i = some (cls, op, c, w) ∨ orderRow i = some (cls, op, c, w)) → Fetches s c cls op w s1 x →
      x.act = x.k.acting w
        ∧ (encFault (opSpec cls op w) w x.task.nreg = none → x.act = 0 →
          exec i s = .next (s1.setCoach c { x.k with pc := nextPc x.k.pc }))
        ∧ (encFault (opSpec cls op w) w x.task.nreg ≠ none → ∃ t, exec i s = .next t ∧ t.task? x.task.id = none)

/-- An encoding that R300–R302 forbid aborts the task under the sub-code of R324, before the guard is read: the task, its cohorts
and its orders are gone, with INSTR_FAULT, sub-code, pc and coach in the record. -/
def Obligations.LaneBadEncodingFaults : Prop :=
  ∀ (i : Instr) (cls op n : Nat) (c : CoachRef) (w : LaneWord) (s s1 : State) (x : LaneCtx),
    laneRow i = some (cls, op, c, w) → Fetches s c cls op w s1 x → encFault (opSpec cls op w) w x.task.nreg = some n →
    ∃ t, exec i s = .next t ∧ t = s1.instrFault x n x.low ∧ t.task? x.task.id = none
      ∧ (∀ h ∈ t.cohorts, h.task ≠ x.task.id) ∧ ∀ o ∈ t.orders, o.task ≠ x.task.id

/-- The same of an order word: an undefined encoding is an order fault, sub-code 0x10 (R326, R330). -/
def Obligations.OrderBadEncodingFaults : Prop :=
  ∀ (i : Instr) (cls op : Nat) (c : CoachRef) (w : LaneWord) (s s1 : State) (x : LaneCtx),
    orderRow i = some (cls, op, c, w) → Fetches s c cls op w s1 x → encFault (opSpec cls op w) w x.task.nreg = some 1 →
    ∃ t, exec i s = .next t ∧ t = orderUndef cls op s1 x ∧ t.task? x.task.id = none

/-- An instruction at a pc outside every pinned range raises XLT_UNPINNED for the fetch and aborts the task (R56, R297). At one whose leaf
lies in a reserved region it raises XLT_NOT_PRESENT, and outside the own pool or the tenancy's groups XLT_PERMISSION (R277, R369, R385). At
one whose data neither the instruction cache nor memory delivers, it raises MEM_UNCORRECTABLE or MEM_POISON for the lane and aborts the
task (R299, R397, R398). -/
def Obligations.LaneFetchFaults : Prop :=
  ∀ (i : Instr) (cls op : Nat) (c : CoachRef) (w : LaneWord) (s s1 : State) (x : LaneCtx),
    (laneRow i = some (cls, op, c, w) ∨ orderRow i = some (cls, op, c, w)) → s.laneReady c = true →
    s.issueOf c cls op w = some (s1, x) →
    (s1.pinnedRange x.task.ten x.k.pc 8 = false →
      ∃ t, exec i s = .next t ∧ t = s1.laneXlt x 0x24 x.k.pc .fetch ∧ t.task? x.task.id = none)
    ∧ (∀ code d, s1.pinnedRange x.task.ten x.k.pc 8 = true → s1.fetchBarred x.task.ten x.k.pc = some (code, d) →
      ∃ t, exec i s = .next t ∧ t = s1.laneBarred x code d x.k.pc .fetch ∧ t.task? x.task.id = none)
    ∧ (s1.pinnedRange x.task.ten x.k.pc 8 = true → s1.fetchBarred x.task.ten x.k.pc = none →
      s1.fetchLost x.cohort.cluster x.task.ten x.k.pc = true →
      ∃ t, exec i s = .next t ∧ t = s1.laneLost x ∧ t.task? x.task.id = none)

/-- Where the coach has nothing to bring up to date (no wait, a running path not at its join) and the issue counter is below its
maximum, issuing changes nothing but that counter (R308, R507) and the cluster's instruction cache, which then holds the word (R299). -/
def Obligations.IssueOnlyCounts : Prop :=
  ∀ (s : State) (t : Task) (c : CoachRef) (k : Coach) (cl : Nat) (word : W64),
    s.coach? c = some k → k.wait = .none → k.running ≠ 0 → k.joinPc ≠ some k.pc →
    s.cntOf (cntLaneIssue cl) < Config.cntMax →
    (∃ l, s.laneStart t c cl word = { s.setCoach c k with
      cnt := smSet 0 s.cnt (cntLaneIssue cl) (s.cntOf (cntLaneIssue cl) + 1), cntTick := s.tick
      cntNow := (s.laneStart t c cl word).cntNow
      clusters := modAt s.clusters cl fun y => { y with icache := l } })
    ∧ (cl < s.clusters.length → s.pinnedRange t.ten k.pc 8 = true → s.fetchBarred t.ten k.pc = none → s.fetchLost cl t.ten k.pc = false →
      (s.laneStart t c cl word).keptWord cl t.ten k.pc = some word)

/-- A coach written is the coach read back, and every other coach, cohort field and state field is as before. -/
def Obligations.CoachFrame : Prop :=
  ∀ (s : State) (c : CoachRef) (k k0 : Coach), s.coach? c = some k0 →
    (s.setCoach c k).coach? c = some k
      ∧ (∀ d, (d.task ≠ c.task ∨ d.cohort ≠ c.cohort ∨ d.coach ≠ c.coach) → (s.setCoach c k).coach? d = s.coach? d)
      ∧ s.setCoach c k = { s with cohorts := (s.setCoach c k).cohorts }
      ∧ ∀ a b h, s.cohort? a b = some h → ∃ h', (s.setCoach c k).cohort? a b = some h' ∧ h' = { h with coaches := h'.coaches }

/-- Where the registers are in canonical form, a result per acting thread lands in its D and nowhere else; with UD the lowest acting
thread's lands in the u register (R304–R306). -/
def Obligations.WriteDFrame : Prop :=
  ∀ (k : Coach) (w : LaneWord) (act : W32) (f : Nat → W32), smOk 0 0 k.g = true → smOk 0 0 k.u = true →
    let k' := k.writeD w (threadsOf act) fun j => [f j]
    k' = { k with g := k'.g, u := k'.u }
      ∧ (fUD w = false → ∀ j, j < 32 → act.getLsbD j = true → k'.reg false (fD w) j = f j)
      ∧ (fUD w = false → ∀ j n, j < 32 → n < 64 → (act.getLsbD j = false ∨ n ≠ fD w) → k'.reg false n j = k.reg false n j)
      ∧ (fUD w = false → k'.u = k.u)
      ∧ (fUD w = true → act ≠ 0 → k'.reg true (fD w) 0 = f ((threadsOf act).headD 0))
      ∧ (fUD w = true → k'.g = k.g ∧ ∀ n, n ≠ fD w → k'.reg true n 0 = k.reg true n 0)

/-! ### Lanes: results (R303, R307, R312–R318) -/

/-- Class 0x01, one-register results: add, sub, the products, both divisions and remainders, logic, shifts, minima and maxima,
popc, clz, the bit fields, sel, mov and movh (R312). The state is the issuing state with coach c alone changed. -/
def Obligations.LaneIntegerResults : Prop :=
  ∀ (i : Instr) (op : Nat) (c : CoachRef) (w : LaneWord) (f : Operands → W32) (s s1 : State) (x : LaneCtx),
    laneRow i = some (1, op, c, w) → intResult i = some f → Issues s c 1 op w s1 x →
    exec i s = .next (s1.setCoach c (x.k.writeD w x.threads fun j => [f (x.operands j)]).step)

/-- Class 0x01, results that are a pair: add.x64, sub.x64 and both wide products (R312). -/
def Obligations.LaneIntegerPairResults : Prop :=
  ∀ (i : Instr) (op : Nat) (c : CoachRef) (w : LaneWord) (f : LaneCtx → Nat → W64) (s s1 : State) (x : LaneCtx),
    laneRow i = some (1, op, c, w) → intResult64 i = some f → Issues s c 1 op w s1 x →
    exec i s = .next (s1.setCoach c
      (x.k.writeD w x.threads fun j => [(f x j).extractLsb' 0 32, (f x j).extractLsb' 32 32]).step)

/-- Class 0x01, predicate results: cmp, pop, cq.any, cq.all write predicate D for the acting threads and for no other; pr.unpack writes
bit p of A into predicate p, for p from 0 to 7 and the acting threads (R312). -/
def Obligations.LanePredicateResults : Prop :=
  (∀ (i : Instr) (op : Nat) (c : CoachRef) (w : LaneWord) (p : LaneCtx → Nat → Prop) (s s1 : State) (x : LaneCtx),
      laneRow i = some (1, op, c, w) → predResult i = some p → Issues s c 1 op w s1 x → smOk 0 0 x.k.p = true →
      ∃ k' : Coach, exec i s = .next (s1.setCoach c k') ∧ k' = { x.k with p := k'.p, pc := nextPc x.k.pc }
        ∧ (∀ j, j < 32 → x.act.getLsbD j = true → (predBit k' (fD w % 8) j = true ↔ p x j))
        ∧ (∀ j, x.act.getLsbD j = false → predBit k' (fD w % 8) j = predBit x.k (fD w % 8) j)
        ∧ ∀ n, n ≠ fD w % 8 → k'.pred n = x.k.pred n)
    ∧ ∀ (c : CoachRef) (w : LaneWord) (s s1 : State) (x : LaneCtx), Issues s c 1 0x28 w s1 x → smOk 0 0 x.k.p = true →
      ∃ k' : Coach, exec (.prUnpack c w) s = .next (s1.setCoach c k') ∧ k' = { x.k with p := k'.p, pc := nextPc x.k.pc }
        ∧ ∀ j p, j < 32 → p < 8 →
          predBit k' p j = if x.act.getLsbD j then (opA x.k w j).getLsbD p else predBit x.k p j

/-- Class 0x01 across threads and predicates: cx.get, cq.mask, cq.cnt, pr.pack; and mov.sr, which reads a special register and
latches the tick (R303, R312). -/
def Obligations.LaneCoachResults : Prop :=
  (∀ (i : Instr) (op : Nat) (c : CoachRef) (w : LaneWord) (f : State → LaneCtx → Nat → W32) (s s1 : State) (x : LaneCtx),
      laneRow i = some (1, op, c, w) → coachResult i = some f → Issues s c 1 op w s1 x →
      exec i s = .next (s1.setCoach c (x.k.writeD w x.threads fun j => [f s1 x j]).step))
    ∧ ∀ (c : CoachRef) (w : LaneWord) (s s1 : State) (x : LaneCtx), Issues s c 1 0x26 w s1 x →
      exec (.movSr c w) s = .next (s1.setCoach c
        (latchTick s1 x (x.k.writeD w x.threads fun j => [BitVec.ofNat 32 (specialReg s1 x (fImm w) j)])).step)

/-- Class 0x02: every floating-point instruction writes the rounded result of R313 and R314, and fcmp its condition. -/
def Obligations.LaneFloatResults : Prop :=
  (∀ (i : Instr) (op : Nat) (c : CoachRef) (w : LaneWord) (f : W32 → W32 → W32 → W32) (s s1 : State) (x : LaneCtx),
      laneRow i = some (2, op, c, w) → floatResult i = some f → Issues s c 2 op w s1 x →
      exec i s = .next (s1.setCoach c
        (x.k.writeD w x.threads fun j => [f (opA x.k w j) (opBF x.k w j) (opC x.k w j)]).step))
    ∧ ∀ (c : CoachRef) (w : LaneWord) (s s1 : State) (x : LaneCtx), Issues s c 2 0x0E w s1 x →
      exec (.fcmp c w) s = .next (s1.setCoach c
        (x.k.setPred (fD w % 8) x.act (predMask x.threads fun j =>
          floatCond (fSub w) (f32 (opA x.k w j)) (f32 (opBF x.k w j)))).step)

/-- Class 0x03: every conversion writes its words for the acting threads and counts its saturations and NaNs in the coach's cluster; an
exponent E outside −96 to +31 is an instruction fault of sub-code 8 (R315). -/
def Obligations.LaneConversionResults : Prop :=
  ∀ (c : CoachRef) (w : LaneWord) (s s1 : State) (x : LaneCtx),
    let writes := fun (f : Nat → CvtOut) =>
      (((s1.count (cntCvtNan x.cohort.cluster) ((x.threads.map fun j => (f j).nan).sum)).count (cntCvtSat x.cohort.cluster)
          ((x.threads.map fun j => (f j).sat).sum)).setCoach c (x.k.writeD w x.threads fun j => (f j).words).step)
    (∀ (i : Instr) (op : Nat) (f : LaneCtx → Nat → CvtOut), laneRow i = some (3, op, c, w) → cvtResult i = some f →
        Issues s c 3 op w s1 x → exec i s = .next (writes (f x)))
      ∧ (Issues s c 3 0x0C w s1 x → -96 ≤ cvtExp w → cvtExp w ≤ 31 → exec (.cvtQ64F32 c w) s = .next (writes fun j =>
          let r := toFixed (cvtExp w) (f32 (opA x.k w j))
          ⟨[(BitVec.ofInt 64 r.val).extractLsb' 0 32, (BitVec.ofInt 64 r.val).extractLsb' 32 32], b2n r.sat, b2n r.nan⟩))
      ∧ (Issues s c 3 0x0D w s1 x → -96 ≤ cvtExp w → cvtExp w ≤ 31 → exec (.cvtF32Q64 c w) s = .next (writes fun j =>
          ⟨[ofFixed (opA64 x.k w j).toInt (cvtExp w)], 0, 0⟩))
      ∧ ((cvtExp w < -96 ∨ 31 < cvtExp w) →
        (Issues s c 3 0x0C w s1 x → exec (.cvtQ64F32 c w) s = .next (s1.instrFault x 8 x.low))
          ∧ (Issues s c 3 0x0D w s1 x → exec (.cvtF32Q64 c w) s = .next (s1.instrFault x 8 x.low)))

/-- A number read as FP32 and rounded back is itself, a NaN becomes the one NaN; and fabs and fneg of a number change only its sign bit
(R313). -/
def Obligations.FloatReadsBack : Prop :=
  ∀ a : W32, (rn32 (f32 a) = if (f32 a).isNan then 0x7FC00000 else a)
    ∧ ((f32 a).isNan = false → rn32 (f32 a).abs = a &&& 0x7FFFFFFF ∧ rn32 (f32 a).negate = a ^^^ 0x80000000)

/-- ll.ld, ll.st, sp.ld, sp.st with every acting thread aligned and within its bound: a load writes D from the bytes at A + B; a
store writes its bytes there, in rising order of thread, and changes no other memory (R54, R307, R316). -/
def Obligations.LaneLocalMemory : Prop :=
  ∀ (c : CoachRef) (w : LaneWord) (s s1 : State) (x : LaneCtx),
    let n := widthBytes (fSub w)
    let fits := fun (limit : Nat) => ∀ j ∈ x.threads, spOffset x j % n = 0 ∧ spOffset x j + n ≤ limit
    (Issues s c 4 0x00 w s1 x → fits x.task.llm →
        exec (.llLd c w) s = .next (s1.setCoach c (x.k.writeD w x.threads fun j =>
          loadWords (fSub w) (memBytes x.cohort.llm (spOffset x j) n)).step))
      ∧ (Issues s c 4 0x01 w s1 x → fits x.task.llm →
        exec (.llSt c w) s = .next
          ((s1.modCohort x.task.id x.cohort.num fun h => { h with llm := storeAll x (spOffset x) h.llm }).setCoach c x.k.step))
      ∧ (Issues s c 4 0x02 w s1 x → fits x.task.spext →
        exec (.spLd c w) s = .next (s1.setCoach c (x.k.writeD w x.threads fun j =>
          loadWords (fSub w) (s1.spBytes x.cohort.cluster (s1.spShare x.task + spOffset x j) n)).step))
      ∧ (Issues s c 4 0x03 w s1 x → fits x.task.spext →
        exec (.spSt c w) s = .next
          ((s1.modCluster x.cohort.cluster fun y =>
            { y with sp := storeAll x (fun j => s1.spShare x.task + spOffset x j) y.sp }).setCoach c x.k.step))

/-- Bytes stored are the bytes read back, and a byte outside them reads as before (R307). -/
def Obligations.StoreReadsBack : Prop :=
  ∀ (m : List Host.Cell) (a : Nat) (bs : List Byte), Memory.wf m = true →
    memBytes (memPut m a bs) a bs.length = bs
      ∧ ∀ b, (b < a ∨ a + bs.length ≤ b) → memGet (memPut m a bs) b = memGet m b

/-- Of several threads that store to one byte, the highest-numbered one's byte stays (R307). -/
def Obligations.HighestThreadWins : Prop :=
  ∀ (x : LaneCtx) (addr : Nat → Nat) (m : List Host.Cell) (j i : Nat), Memory.wf m = true →
    j ∈ x.threads → i < (storeBytes x j).length →
    (∀ j' ∈ x.threads, j < j' →
      addr j + i < addr j' ∨ addr j' + (storeBytes x j').length ≤ addr j + i) →
    memGet (storeAll x addr m) (addr j + i) = (storeBytes x j).getD i 0

/-- Pinned accesses without a fault: pm.st writes each thread's bytes at its physical address, after the accesses ordered before it; a
load or an atomic sends one request per acting thread and parks the coach, memory unchanged (R317, R318, R391). -/
def Obligations.LanePinnedMemory : Prop :=
  ∀ (c : CoachRef) (w : LaneWord) (s s1 : State) (x : LaneCtx),
    let clean := fun (op : Nat) (k : Access) => ∀ j ∈ x.threads, pmCheck op k x s1 j = none
    let parks := fun (op : Nat) (t : State) =>
      t.mem.pool = s1.mem.pool ∧ t.mem.reqs.length = s1.mem.reqs.length + x.threads.length ∧ t.tens = s1.tens
        ∧ ∃ reqs : List PinnedReq, reqs.map (·.thread) = x.threads ∧ (∀ q ∈ reqs, q.pa = pmPa s1 x q.thread)
          ∧ t.coach? c = some { x.k with access := some ⟨op, fSub w, fUD w, fD w, reqs, []⟩ }
    (Issues s c 4 0x04 w s1 x → clean 4 .read → ∃ t, exec (.pmLd c w) s = .next t ∧ parks 4 t)
      ∧ (Issues s c 4 0x05 w s1 x → clean 5 .write →
        exec (.pmSt c w) s = .next
          ((x.threads.foldl (fun (s : State) j => s.laneWrite (pmPa s1 x j) (storeBytes x j)) s1).setCoach c x.k.step))
      ∧ (Issues s c 4 0x06 w s1 x → clean 6 .atomic → ∃ t, exec (.pmAddU32 c w) s = .next t ∧ parks 6 t)
      ∧ (Issues s c 4 0x07 w s1 x → clean 7 .atomic → ∃ t, exec (.pmAddS64 c w) s = .next t ∧ parks 7 t)
      ∧ (Issues s c 4 0x08 w s1 x → clean 8 .atomic → ∃ t, exec (.pmCasB64 c w) s = .next t ∧ parks 8 t)

/-- PINNED_ACCESS_RETURN: with every thread answered, D takes what came back, the registers after it as the width needs, and the coach
goes on: for each thread its own bytes, or with UD the lowest thread's. A load's bytes are extended by its width, an atomic's are the old
value; nothing else of the coach, and of the state, changes (R306, R317, R318). -/
def Obligations.PinnedAccessReturns : Prop :=
  ∀ (c : CoachRef) (s : State) (k : Coach) (a : PinnedAccess), s.coach? c = some k → k.access = some a → a.home = true →
    smOk 0 0 k.g = true → smOk 0 0 k.u = true →
    let js := a.reqs.map (·.thread)
    let came := fun (j : Nat) => loadWords (if a.op ≤ 5 then a.sub else if a.op = 6 then 4 else 5) (((a.got.find? (·.1 == j)).map (·.2)).getD [])
    ∃ k' : Coach, exec (.pinnedAccessReturn c) s = .next (s.setCoach c k')
      ∧ k' = { k with access := none, pc := nextPc k.pc, g := k'.g, u := k'.u }
      ∧ (a.ud = false → k'.u = k.u)
      ∧ (a.ud = false → js.Nodup → ∀ j m, m < 64 → (∀ i ∈ js, a.d + (came i).length ≤ 64) →
        k'.reg false m j = if j ∈ js ∧ a.d ≤ m ∧ m < a.d + (came j).length then (came j).getD (m - a.d) 0 else k.reg false m j)
      ∧ (a.ud = true → k'.g = k.g ∧ ∀ m j, k'.reg true m j =
        if a.d ≤ m ∧ m < a.d + (came (js.headD 0)).length then (came (js.headD 0)).getD (m - a.d) 0 else k.reg true m j)

/-- What the shared cache does for one request of a pinned atomic: it answers the old bytes; pm.add.u32 adds modulo 2^32, pm.cas.b64
stores C where the old value is B (R318). -/
def Obligations.PinnedAtomicEffects : Prop :=
  ∀ (s : State) (a : PinnedAccess) (q : PinnedReq) (cluster : Nat),
    (a.op = 6 → ∃ t, s.pinnedApply a q cluster = (s.poolBytes q.pa 4, t)
        ∧ t = s.poolWrite q.pa (toLe 4 ((leNat (s.poolBytes q.pa 4) + q.b.toNat) % 2 ^ 32)))
      ∧ (a.op = 8 → ∃ t, s.pinnedApply a q cluster = (s.poolBytes q.pa 8, t)
        ∧ t = if leNat (s.poolBytes q.pa 8) = q.b.toNat then s.poolWrite q.pa (toLe 8 q.c.toNat) else s)

/-- An access of classes' 0x04 lane-local and scratchpad forms whose lowest faulting thread j is misaligned is an instruction fault of
sub-code 7, and one past its bound raises XLT_APERTURE, code 0x23; either aborts the task, and the access does not take place (R54, R316, R324,
R325). -/
def Obligations.LaneMemoryFaults : Prop :=
  ∀ (c : CoachRef) (w : LaneWord) (s s1 : State) (x : LaneCtx) (j : Nat),
    let n := widthBytes (fSub w)
    let first := fun (limit : Nat) => j ∈ x.threads ∧ (spOffset x j % n ≠ 0 ∨ limit < spOffset x j + n)
      ∧ ∀ j' ∈ x.threads, j' < j → spOffset x j' % n = 0 ∧ spOffset x j' + n ≤ limit
    let faults := fun (k : Access) => if spOffset x j % n ≠ 0 then s1.instrFault x 7 j else s1.laneXlt x 0x23 (spOffset x j) k
    (Issues s c 4 0x00 w s1 x → first x.task.llm → exec (.llLd c w) s = .next (faults .read))
      ∧ (Issues s c 4 0x01 w s1 x → first x.task.llm → exec (.llSt c w) s = .next (faults .write))
      ∧ (Issues s c 4 0x02 w s1 x → first x.task.spext → exec (.spLd c w) s = .next (faults .read))
      ∧ (Issues s c 4 0x03 w s1 x → first x.task.spext → exec (.spSt c w) s = .next (faults .write))
      ∧ ∀ op k, Issues s c 4 op w s1 x →
        (faults k).task? x.task.id = none ∧ (faults k).clusters.map (·.sp) = s1.clusters.map (·.sp)
          ∧ ∀ h ∈ (faults k).cohorts, h.task ≠ x.task.id ∧ h ∈ s1.cohorts

/-- cp.u and cp.t: with every side within its bound and no length above 4,194,303, each copying thread's copy is issued in rising order
of thread; one of a length other than 0 stands at a mover of the cluster with its source, destination and contribution (R319, R320). -/
def Obligations.LaneCopiesIssue : Prop :=
  ∀ (c : CoachRef) (w : LaneWord) (s s1 : State) (x : LaneCtx),
    let ac := fX w 16 4
    let ok := fun (js : List Nat) => ((x.task.bound ac).isSome = true ∨ bitOf x.cohort.acCarts.toNat ac = false)
      ∧ ∀ j ∈ js, (copyReq x j).len ≤ 4194303
        ∧ ((copyReq x j).len = 0 ∨ (sideOk x.task (copyReq x j).src (copyReq x j).len = true
            ∧ sideOk x.task (copyReq x j).dst (copyReq x j).len = true))
    (Issues s c 5 0x00 w s1 x → ok [x.low] → (copyReq x x.low).len ≠ 0 →
        ∃ (y : Copy) (t : State), exec (.cpU c w) s = .next t
          ∧ t = { s1.setCoach c x.k.step with nextCopy := s1.nextCopy + 1, copies := s1.copies ++ [y] }
          ∧ y.src = (copyReq x x.low).src ∧ y.dst = (copyReq x x.low).dst ∧ y.len = (copyReq x x.low).len ∧ y.ac = ac
          ∧ y.task = x.task.id ∧ y.cohort = x.cohort.num ∧ y.amount = BitVec.ofNat 32 y.len ∧ y.mover / 8 = x.cohort.cluster)
      ∧ (Issues s c 5 0x01 w s1 x → ok x.threads →
        exec (.cpT c w) s = .next (x.threads.foldl (fun (s : State) j => s.issueCopy x ac (copyReq x j)) (s1.setCoach c x.k.step)))

/-! ### Lanes: synchronisation and control (R58–R62, R70, R157, R308, R311, R321, R322) -/

/-- bar.sync: the acting threads arrive; the path waits until every thread of the cohort has arrived or exited, and then goes on
(R70, R71). -/
def Obligations.BarrierWaitsForAll : Prop :=
  ∀ (c : CoachRef) (w : LaneWord) (s s1 : State) (x : LaneCtx), Issues s c 6 0x00 w s1 x → smOk 0 0 x.cohort.arrived = true →
    let b := fD w % 4
    let h : Cohort := { x.cohort with
      coaches := modAt x.cohort.coaches c.coach fun k => { k with wait := .barrier b }
      arrived := smSet 0 x.cohort.arrived (4 * c.coach + b) (smGet 0 x.cohort.arrived (4 * c.coach + b) ||| x.act) }
    ∃ t k', exec (.barSync c w) s = .next t ∧ t = { s1 with cohorts := t.cohorts } ∧ t.coach? c = some k'
      ∧ k'.g = x.k.g ∧ k'.u = x.k.u ∧ k'.p = x.k.p ∧ k'.m = x.k.m
      ∧ if h.complete b then k'.wait = .none ∧ k'.pc = nextPc x.k.pc else k'.wait = .barrier b ∧ k'.pc = x.k.pc

/-- ac.wait passes where every acting thread's target is reached, and waits for those that are not; ac.add adds its amount to an unbound
counter; ac.mode sets its mode (R59, R60, R62). -/
def Obligations.ArrivalCounters : Prop :=
  ∀ (c : CoachRef) (w : LaneWord) (s s1 : State) (x : LaneCtx),
    let ac := fD w % 16
    (Issues s c 6 0x01 w s1 x →
        let v := s1.acValue x.task x.cohort ac
        let ts := (x.threads.map fun j => (j, acTarget x j)).filter fun p => decide ((v - p.2).toInt < 0)
        exec (.acWait c w) s = .next (s1.setCoach c (if ts = [] then x.k.step else { x.k with wait := .counter ac ts s1.tick })))
      ∧ (Issues s c 6 0x02 w s1 x → x.task.bound ac = none → smOk 0 0 x.cohort.ac = true →
        ∃ t h, exec (.acAdd c w) s = .next t ∧ t.cohort? c.task c.cohort = some h ∧ t = { s1 with cohorts := t.cohorts }
          ∧ smGet 0 h.ac ac = smGet 0 x.cohort.ac ac + (if w.i then immZ w else x.k.reg (fUB w) (fB w) x.low)
          ∧ ∀ n, n ≠ ac → smGet 0 h.ac n = smGet 0 x.cohort.ac n)
      ∧ (Issues s c 6 0x03 w s1 x → x.task.bound ac = none → s1.acOutstanding x.task.id x.cohort.num ac = false →
        ∃ t h, exec (.acMode c w) s = .next t ∧ t.cohort? c.task c.cohort = some h ∧ t = { s1 with cohorts := t.cohorts }
          ∧ ∀ n, n < 16 → h.acCarts.getLsbD n = if n = ac then bitOf (fSub w) 0 else x.cohort.acCarts.getLsbD n)
      ∧ (Issues s c 6 0x02 w s1 x → (x.task.bound ac).isSome = true → exec (.acAdd c w) s = .next (s1.counterFault x ac))
      ∧ (Issues s c 6 0x03 w s1 x → ((x.task.bound ac).isSome = true ∨ s1.acOutstanding x.task.id x.cohort.num ac = true) →
        exec (.acMode c w) s = .next (s1.counterFault x ac))

/-- fence.pm and fence.sp only pass, stores being visible at once (log 15). epoch.adv advances the tenancy's epoch by one and gives the
epoch before; where the advance would meet the tracking of an older epoch it is deferred, and its coach waits (R157, R158). -/
def Obligations.FencesAndEpochs : Prop :=
  ∀ (c : CoachRef) (w : LaneWord) (s s1 : State) (x : LaneCtx),
    (Issues s c 6 0x04 w s1 x → exec (.fencePm c w) s = .next (s1.setCoach c x.k.step))
      ∧ (Issues s c 6 0x05 w s1 x → exec (.fenceSp c w) s = .next (s1.setCoach c x.k.step))
      ∧ (Issues s c 6 0x06 w s1 x →
    let t := s1.ten x.task.ten
    (t.epochPend = false → t.epochBlocked = false →
        exec (.epochAdv c w) s = .next ((s1.modTen x.task.ten fun t => { t with epoch := t.epoch + 1 }).setCoach c
          (x.k.writeD w x.threads fun _ => [t.epoch]).step))
      ∧ (t.epochPend = false → t.epochBlocked = true →
        exec (.epochAdv c w) s = .next ((s1.setCoach c { x.k with epochWait := some (fUD w, fD w, x.act) }).modTen x.task.ten
          fun t => { t with epochPend := true, epochWait := some c }))
      ∧ (t.epochPend = true → exec (.epochAdv c w) s = .next (s1.setCoach c { x.k with epochWait := some (fUD w, fD w, x.act) })))

/-- hc.get, hc.put, hc.take and hc.ret on a hitch whose LANE end the coach may use: a FREE cart is filled, a filled cart is queued with
its length and tag, the oldest queued cart is held, a held cart is freed, each by this coach and with the hitch's other carts as they
were; with no cart there hc.get and hc.take wait (R229, R230, R321). -/
def Obligations.HitchInstructions : Prop :=
  ∀ (c : CoachRef) (w : LaneWord) (s s1 : State) (x : LaneCtx) (h : Hitch),
    let ten := x.task.ten
    let s2 := s1.useHitch ten h.num x.task.id
    let only := fun (i : Nat) (y : Cart) (h' : Hitch) => h'.cart i = y ∧ ∀ j, j ≠ i → h'.cart j = h.cart j
    (Issues s c 6 0x07 w s1 x → laneHitch s1 x true = some h → h.heldBy .filling c = none →
        (∀ i, h.freeCart = some i →
          exec (.hcGet c w) s = .next ((s2.modHitch ten h.num (·.fill i (.coach c))).setCoach c
              (x.k.setU (fD w) (BitVec.ofNat 32 (h.base + i * h.size))).step)
            ∧ (h.cart i).st = .free ∧ only i { h.cart i with st := .filling, len := 0, tag := 0, holder := .coach c, rows := none }
              (h.fill i (.coach c)))
          ∧ (h.freeCart = none → exec (.hcGet c w) s = .next (s2.setCoach c { x.k with wait := .hitchGet h.num (fD w) })))
      ∧ (∀ i, Issues s c 6 0x08 w s1 x → laneHitch s1 x true = some h → h.heldBy .filling c = some i →
        0 < (opA x.k w x.low).toNat → (opA x.k w x.low).toNat ≤ h.size →
        let h' := h.put i (opA x.k w x.low).toNat (opB x.k w x.low) h.cluster
        exec (.hcPut c w) s = .next ((s2.modHitch ten h.num
            (·.put i (opA x.k w x.low).toNat (opB x.k w x.low) h.cluster)).setCoach c x.k.step)
          ∧ h'.queue = h.queue ++ [i] ∧ h'.produced = h.produced + 1
          ∧ (h.cons ≠ 6 → only i { h.cart i with st := .queued, len := (opA x.k w x.low).toNat, tag := opB x.k w x.low, holder := .none } h'))
      ∧ (Issues s c 6 0x09 w s1 x → laneHitch s1 x false = some h → h.heldBy .held c = none →
        (∀ i q, h.queue = i :: q → ∃ h' : Hitch,
          exec (.hcTake c w) s = .next ((s2.modHitch ten h.num fun y => { h' with users := y.users }).setCoach c
              (x.k.setRegs true (fD w) 0
                [BitVec.ofNat 32 (h.base + i * h.size), BitVec.ofNat 32 (h.cart i).len, (h.cart i).tag]).step)
            ∧ h'.queue = q ∧ h'.consumed = h.consumed + 1 ∧ (i < h.carts.length → only i { h.cart i with st := .held, holder := .coach c } h'))
          ∧ (h.queue = [] → exec (.hcTake c w) s = .next (s2.setCoach c { x.k with wait := .hitchTake h.num (fD w) })))
      ∧ (∀ i, Issues s c 6 0x0A w s1 x → laneHitch s1 x false = some h → h.heldBy .held c = some i →
        exec (.hcRet c w) s = .next ((s2.modHitch ten h.num (·.free i)).setCoach c x.k.step)
          ∧ only i { h.cart i with st := .free, holder := .none, len := 0, tag := 0, rows := none } (h.free i))

/-- nop only passes; a branch taken by the whole running path goes to its target, and one that divides it pushes the taken path under
the join and lets the other run first; call, ret and jmp.r move the whole path; exit ends the acting threads (R308, R311, R322). -/
def Obligations.ControlFlow : Prop :=
  ∀ (c : CoachRef) (w : LaneWord) (s s1 : State) (x : LaneCtx),
    let live := x.k.running
    let target := pcPlus x.k.pc (signedOf (fImm w) 24)
    let join := pcPlus x.k.pc (jofs w)
    let fits := decide (if x.k.joinPc = some join then x.k.stack.length + 1 ≤ 32 else x.k.stack.length + 2 ≤ 32 ∧ x.k.joins < 16)
    (Issues s c 7 0x00 w s1 x → exec (.nop c w) s = .next (s1.setCoach c { x.k with pc := nextPc x.k.pc }))
      ∧ (Issues s c 7 0x01 w s1 x → x.act = live → exec (.br c w) s = .next (s1.setCoach c { x.k with pc := target }))
      ∧ (Issues s c 7 0x01 w s1 x → x.act ≠ live → jofs w ≠ 0 → fits = true →
        exec (.br c w) s = .next (s1.setCoach c { x.k with
          stack := .path target x.act :: (if x.k.joinPc = some join then x.k.stack else .join join x.k.m :: x.k.stack)
          m := live &&& ~~~x.act, pc := nextPc x.k.pc }))
      ∧ (Issues s c 7 0x02 w s1 x → x.act = live → x.k.calls.length < 8 →
        exec (.call c w) s = .next (s1.setCoach c { x.k with calls := (nextPc x.k.pc, x.k.joins) :: x.k.calls, pc := target }))
      ∧ (∀ pc r, Issues s c 7 0x03 w s1 x → x.act = live → x.k.calls = (pc, x.k.joins) :: r →
        exec (.ret c w) s = .next (s1.setCoach c { x.k with calls := r, pc := pc }))
      ∧ (Issues s c 7 0x04 w s1 x → x.act = live → (opA64 x.k w x.low).toNat % 8 = 0 →
        exec (.jmpR c w) s = .next (s1.setCoach c { x.k with pc := (opA64 x.k w x.low).toNat % 2 ^ 48 }))
      ∧ (Issues s c 7 0x05 w s1 x → ∃ t k', exec (.exit c w) s = .next t ∧ t = { s1 with cohorts := t.cohorts }
        ∧ t.coach? c = some k' ∧ k'.x = x.k.x ||| x.act ∧ k'.pc = nextPc x.k.pc ∧ k'.g = x.k.g)

/-- The faults of control and hitch instructions: a divided branch without a join, and call, ret or jmp.r by a part of the running path,
are sub-code 4; a full reconvergence stack is 5; a ninth call, or a ret without its call, is 6; a misaligned target is 7; a hitch
without a usable LANE end is SYNC_HITCH (R308, R311, R321, R322, R324). -/
def Obligations.ControlAndHitchFaults : Prop :=
  ∀ (c : CoachRef) (w : LaneWord) (s s1 : State) (x : LaneCtx),
    let live := x.k.running
    let join := pcPlus x.k.pc (jofs w)
    let fits := decide (if x.k.joinPc = some join then x.k.stack.length + 1 ≤ 32 else x.k.stack.length + 2 ≤ 32 ∧ x.k.joins < 16)
    let bad := fun (n : Nat) => Host.Outcome.next (s1.instrFault x n x.low)
    (Issues s c 7 0x01 w s1 x → x.act ≠ live → jofs w = 0 → exec (.br c w) s = bad 4)
      ∧ (Issues s c 7 0x01 w s1 x → x.act ≠ live → jofs w ≠ 0 → fits = false → exec (.br c w) s = bad 5)
      ∧ (Issues s c 7 0x02 w s1 x → x.act ≠ live → exec (.call c w) s = bad 4)
      ∧ (Issues s c 7 0x02 w s1 x → x.act = live → 8 ≤ x.k.calls.length → exec (.call c w) s = bad 6)
      ∧ (Issues s c 7 0x03 w s1 x → x.act ≠ live → exec (.ret c w) s = bad 4)
      ∧ (Issues s c 7 0x03 w s1 x → x.act = live → (∀ pc r, x.k.calls ≠ (pc, x.k.joins) :: r) → exec (.ret c w) s = bad 6)
      ∧ (Issues s c 7 0x04 w s1 x → x.act ≠ live → exec (.jmpR c w) s = bad 4)
      ∧ (Issues s c 7 0x04 w s1 x → x.act = live → (opA64 x.k w x.low).toNat % 8 ≠ 0 → exec (.jmpR c w) s = bad 7)
      ∧ (Issues s c 6 0x07 w s1 x → laneHitch s1 x true = none → exec (.hcGet c w) s = .next (s1.hitchFault x (hitchOf x)))
      ∧ (Issues s c 6 0x08 w s1 x → laneHitch s1 x true = none → exec (.hcPut c w) s = .next (s1.hitchFault x (hitchOf x)))
      ∧ (Issues s c 6 0x09 w s1 x → laneHitch s1 x false = none → exec (.hcTake c w) s = .next (s1.hitchFault x (hitchOf x)))
      ∧ (Issues s c 6 0x0A w s1 x → laneHitch s1 x false = none → exec (.hcRet c w) s = .next (s1.hitchFault x (hitchOf x)))

/-! ### Orders (R326–R330) -/

/-- An order issued whose unit can take it is accepted: it stands last among the block's orders with its coach's task and cohort, its
address and its operation, and the coach goes on (R328). -/
def Obligations.OrdersAreAccepted : Prop :=
  ∀ (i : Instr) (cls op : Nat) (c : CoachRef) (w : LaneWord) (s s1 s2 : State) (x : LaneCtx),
    orderRow i = some (cls, op, c, w) → Issues s c cls op w s1 x →
    let a := s1.accOf x.task x.cohort c x.k.pc (orderWordOf x cls op)
    a.ready s1 = true → a.accept.go s1 = (.ok (), s2) →
    exec i s = .next ((s2.farDrop (.coach c)).setCoach c x.k.step)
      ∧ ∃ (o : Order) (l : List Order), s2.orders = l ++ [o] ∧ o.task = x.task.id ∧ o.cohort = x.cohort.num
        ∧ o.ten = x.task.ten ∧ o.ctx = x.task.ctx ∧ o.addr = x.k.pc ∧ o.unit = a.name.unit
        ∧ o.op = (orderWordOf x cls op).op

/-- An order issued whose unit cannot take it yet parks its coach, with the order's operands as read at issue (R326, R328). -/
def Obligations.OrdersPark : Prop :=
  ∀ (i : Instr) (cls op : Nat) (c : CoachRef) (w : LaneWord) (s s1 : State) (x : LaneCtx),
    orderRow i = some (cls, op, c, w) → Issues s c cls op w s1 x →
    (s1.accOf x.task x.cohort c x.k.pc (orderWordOf x cls op)).ready s1 = false →
    exec i s = .next (s1.setCoach c { x.k with order := some (orderWordOf x cls op) })

/-- ORDER_ACCEPT: an order at which a coach is parked is accepted once its unit can take it, and the coach goes on (R328). -/
def Obligations.ParkedOrdersAreAccepted : Prop :=
  ∀ (c : CoachRef) (s s2 : State) (k : Task) (h : Cohort) (y : Coach) (w : OrderWord),
    s.task? c.task = some k → s.cohort? c.task c.cohort = some h → s.coach? c = some y → y.order = some w →
    (s.accOf k h c y.pc w).ready s = true → (s.accOf k h c y.pc w).accept.go s = (.ok (), s2) →
    exec (.orderAccept c) s = .next ((s2.farDrop (.coach c)).setCoach c { y with order := none, pc := nextPc y.pc })

/-- ORDER_COMPLETE: an order in its turn whose unit is not stalled takes its effect; finished, it is gone, its ticket is back and its
amount is contributed, at once or, where it wrote beyond the own pool, when its writes are answered; an order with work left goes on
(R156, R283, R329). -/
def Obligations.OrdersComplete : Prop :=
  ∀ (id : Nat) (s s2 : State) (o : Order) (n : W32),
    s.order? id = some o → (o.body.free = true ∨ s.turnOf o = true) → s.stalled (s.trafficUnit o) = false →
    let t := s2.farDrop (.order id)
    ((runOrder o).go s = (.ok (.done n), s2) →
        (t.farBusy (.order id) = false → exec (.orderComplete id) s = .next (t.retire o n) ∧ (t.retire o n).order? id = none)
          ∧ (t.farBusy (.order id) = true → exec (.orderComplete id) s = .next (t.setBody id (.sent n))))
      ∧ (∀ b, (runOrder o).go s = (.ok (.more b), s2) → exec (.orderComplete id) s = .next (t.setBody id b))
      ∧ (o.body = .sent n → s.farBusy (.order id) = false → ∃ u, exec (.orderComplete id) s = .next u ∧ u.order? id = none)

/-! ### The front end and its commands (R24, R25, R46, R75–R84, R116, R224–R232, R249–R261, R291–R293, R351–R356, R416–R419, R431) -/

/-- DISPATCH: the checks of R75 in their order. The first that fails refuses the command with its REASON; where all hold the task is
admitted with the descriptor's parameters, no cohort placed yet, and the instruction caches hold no word of the tenancy (R46, R299,
R355). -/
def Obligations.DispatchChecks : Prop :=
  ∀ (r : Nat) (e : CmdEntry) (s : State) (bs : List Byte),
    Heads s r 1 e → s.pinRead (s.ring r).ten.toNat e.arg0.toNat 64 = .bytes bs →
    let c := s.cmdAt r 1 e
    let d := dispDesc bs
    let x := (s.ten c.ten).slot (((s.ten c.ten).slotOf c.ctx).getD 0)
    let checks : List (Nat × Bool) :=
      [(0x1B, layoutOk bs dispMasks), (0x01, decide (0 < d.nthread ∧ d.nthread ≤ 2 ^ 30 ∧ 0 < d.k ∧ d.k ≤ 16)),
       (0x02, decide (8 ≤ d.nreg ∧ d.nreg ≤ 64 ∧ d.nreg % 8 = 0)), (0x03, decide (d.cmask ≠ 0) && (setBits 8 d.cmask).all (s.admits c.ten)),
       (0x04, decide (0 < x.cohortSlots)), (0x05, decide (d.k ≤ x.coachSlots)), (0x06, decide (32 * d.k * d.nreg ≤ x.regs)),
       (0x07, decide (d.llm ≤ x.llmBytes ∧ d.llm ≤ 262144)), (0x08, decide (d.spext ≤ x.spLimit)),
       (0x09, decide ((d.binds.map (·.1)).eraseDups.length = d.binds.length) && (d.binds.isEmpty || x.windowsIn d.cmask)),
       (0x0A, s.pinnedRange c.ten d.entry 8 && s.pinnedRange c.ten d.args 8)]
    match checks.find? fun p => !p.2 with
    | some p => exec (.dispatch r e) s = .next (s.refuseAt r p.1 (some c))
    | none => ∃ k : Task,
        exec (.dispatch r e) s = .next { s.moveHead r with
          clusters := s.clusters.map fun y => { y with icache := y.icache.filter (·.ten != c.ten) }
          tasks := s.tasks ++ [k], nextTask := s.nextTask + 1 }
        ∧ k.id = s.nextTask ∧ k.ten = c.ten ∧ k.ctx = c.ctx ∧ k.cmd = c ∧ k.cmask.toNat = d.cmask ∧ k.k = d.k ∧ k.nreg = d.nreg
        ∧ k.llm = d.llm ∧ k.nthread = d.nthread ∧ k.spext = d.spext ∧ k.swlim = d.swlim ∧ k.seed = d.seed ∧ k.entry = d.entry
        ∧ k.args = d.args ∧ k.binds = d.binds ∧ k.next = 0 ∧ k.held = s.fenceTasks r

/-- FENCE, TABLE_LOAD in its three forms, HITCH_BUILD in both and INVALIDATE_ALL, where their checks pass: the head moves past the
command, which takes effect at once or holds its ring until its own completion (R79–R81, R116, R224, R226, R232, R354). -/
def Obligations.FrontCommandsTaken : Prop :=
  ∀ (r : Nat) (e : CmdEntry) (s s' : State),
    let c := fun (op : Nat) => s.cmdAt r op e
    let ten := (s.ring r).ten.toNat
    let m := s'.moveHead r
    (Heads s r 2 e → bitOf e.arg0.toNat 0 = false →
        exec (.fenceFull r e) s = .next (if s.ringTasks r = [] then (s.moveHead r).finish (c 2) stDone 0 0 0
          else (s.moveHead r).modRing r fun x => { x with hold := .fence (c 2) (s.ringTasks r) }))
      ∧ (Heads s r 2 e → bitOf e.arg0.toNat 0 = true →
        exec (.fenceOverlap r e) s = .next (if s.ringTasks r = [] then (s.moveHead r).finish (c 2) stDone 0 0 0
          else { s.moveHead r with overlaps := (s.moveHead r).overlaps ++ [⟨c 2, s.ringTasks r⟩] }))
      ∧ (∀ x, Heads s r 3 e → isReplace e = false → (s.ten ten).loading = none → (chkTableLoad (c 3)).go s = (.ok x, s') →
        (s.ten ten).table? x.num = none ∧ x.num < 4096 ∧ x.desc.ok = true
          ∧ exec (.tableLoad r e) s = .next ((m.holdRing (c 3)).modTen ten fun t => { t with loading := some (c 3, x, false) }))
      ∧ (∀ x, Heads s r 3 e → isReplace e = true → e.arg0 ≠ 0 → (s.ten ten).loading = none →
        (chkTableReplace (c 3)).go s = (.ok x, s') →
        ((s.ten ten).table? x.num).isSome = true ∧ x.desc.ok = true
          ∧ exec (.tableReplace r e) s = .next ((m.holdRing (c 3)).modTen ten fun t => { t with loading := some (c 3, x, true) }))
      ∧ (∀ x, Heads s r 3 e → isReplace e = true → e.arg0 = 0 → (s.ten ten).loading = none → (chkHeld (c 3)).go s = (.ok x, s') →
        exec (.tableRelease r e) s = .next ((m.modTen ten fun t => { t with
          tables := t.tables.filter (·.num != x.num), scwayRsv := t.scwayRsv &&& ~~~x.ways }).finish (c 3) stDone 0 x.num 0))
      ∧ (∀ p, Heads s r 5 e → isDismantle e = false → (chkHitchBuild (c 5)).go s = (.ok p, s') →
        ∃ h : Hitch, exec (.hitchBuild r e) s = .next ((m.modTen ten fun t =>
            { t with hitches := t.hitches ++ [h] }).finish (c 5) stDone 0 0 0)
          ∧ h.num = p.num ∧ h.prod = p.prod ∧ h.cons = p.cons ∧ h.base = p.base ∧ h.size = p.size ∧ h.carts.length = p.count
          ∧ h.allFree = true ∧ h.queue = [])
      ∧ (∀ n h, Heads s r 5 e → isDismantle e = true → (chkDismantle (c 5)).go s = (.ok n, s') → m.hitch? ten n = some h →
        exec (.hitchDismantle r e) s = .next (
          let h := { h with dismantle := h.dismantle ++ [c 5] }
          if h.allFree then m.finishDismantle ten h else (m.holdRing (c 5)).modHitch ten n fun _ => h))
      ∧ (Heads s r 6 e → (s.ten ten).invTaken = (s.ten ten).invDone →
        exec (.invalidateAll r e) s = .next (((s.moveHead r).holdRing (c 6)).modTen ten fun t =>
          { t with invTaken := t.invTaken + 1, invCmd := some (c 6) }))

/-- TIMETABLE_LOAD in both forms, ARM, BRAKE, CHECKPOINT, PARK, UNPARK and AUDIT, where their checks pass (R255, R258, R261, R293,
R354, R416, R418, R431). -/
def Obligations.MembershipCommandsTaken : Prop :=
  ∀ (r : Nat) (e : CmdEntry) (s s' : State),
    let c := fun (op : Nat) => s.cmdAt r op e
    let ten := (s.ring r).ten.toNat
    let m := s'.moveHead r
    (∀ x, Heads s r 4 e → isUnload e = false → (chkTimetable (c 4)).go s = (.ok x, s') →
        x.stamp ≠ 0 ∧ x.rank < x.fsize ∧ (s.ten ten).tt = none
          ∧ exec (.timetableLoad r e) s = .next ((m.holdRing (c 4)).modTen ten fun t => { t with ttLoading := some (c 4, x) }))
      ∧ (∀ x, Heads s r 4 e → isUnload e = true → (chkUnload (c 4)).go s = (.ok x, s') →
        exec (.timetableUnload r e) s = .next ((m.dropTt ten).finish (c 4) stDone 0 x.stamp.toNat 0))
      ∧ (∀ x, Heads s r 7 e → (chkArm (c 7)).go s = (.ok x, s') →
        exec (.arm r e) s = .next (
          if m.armReason ten x e.arg1.toNat = 0 then m.acceptArm ten x e.arg1.toNat x.rank (some (c 7))
          else m.finish (c 7) stFailed (m.armReason ten x e.arg1.toNat) x.rank 0))
      ∧ (Heads s r 8 e → (∀ x, (s.ten ten).tt = some x → x.stamp ≠ e.arg0) →
        exec (.brake r e) s = .next ((s.moveHead r).finish (c 8) stDone 0 0 0))
      ∧ (∀ x, Heads s r 8 e → (s.ten ten).tt = some x → x.stamp = e.arg0 → (x.st = .running ∨ x.st = .armed) →
        exec (.brake r e) s = .next (((s.moveHead r).modTt ten fun y => { y with brakeCmds := y.brakeCmds ++ [c 8] }).orderBrake ten
          (BitVec.ofNat 64 s.tick)))
      ∧ (∀ x, Heads s r 8 e → (s.ten ten).tt = some x → x.stamp = e.arg0 → (x.st = .loaded ∨ x.st = .braking) →
        exec (.brake r e) s = .next ((s.moveHead r).finish (c 8) stDone 0 (s.ten ten).brkt.toNat 0))
      ∧ (∀ rs, Heads s r 9 e → (chkCheckpoint (c 9)).go s = (.ok rs, s') →
        exec (.checkpoint r e) s = .next (if (s.ten ten).ckpt = none then m.ckBegin (c 9) rs
          else m.modTen ten fun t => { t with ckWait := t.ckWait ++ [(c 9, rs)] }))
      ∧ (∀ n, Heads s r 10 e → (chkPark (c 10)).go s = (.ok n, s') →
        0 < n ∧ n < 4 ∧ ((s.ten ten).slot n).st = .resident
          ∧ exec (.park r e) s = .next (((m.holdRing (c 10)).modSlot ten n fun x =>
            { x with st := .parking, move := some ⟨c 10, e.arg1.toNat, s.tick, none⟩ }).stopCoaches ten ((s.ten ten).slot n).ctx true))
      ∧ (∀ x, Heads s r 11 e → (chkUnpark (c 11)).go s = (.ok x, s') →
        x.1 < 4 ∧ ((s.ten ten).slot x.1).st = .empty ∧ (s.ten ten).slotOf e.arg0.toNat = none
          ∧ exec (.unpark r e) s = .next ((m.holdRing (c 11)).modSlot ten x.1 fun y =>
            { y with st := .unparking, ctx := e.arg0.toNat, move := some ⟨c 11, e.arg1.toNat, s'.tick, x.2⟩ }))
      ∧ (Heads s r 12 e →
        let bs := (s.moveHead r).audited ten (bitsOf e.arg0.toNat 0 2)
        exec (.audit r e) s = .next (if bs = [] then (s.moveHead r).finish (c 12) stDone 0 0 0
          else bs.foldl (fun (s : State) b => s.actBroken ten b) ((s.moveHead r).finish (c 12) stFailed 0x70 (auditMask bs) 0)))

/-- A command that cannot be taken stops its ring, with its REASON: 0x0A where the entry or what it names cannot be read, 0x1B for a
reserved bit or an opcode the table lacks, else the first check that fails. The front end takes no command of the stopped ring; its head
stays at the refused command, and every other ring is as it was; the ring's resume takes the command at the head again (R75, R76, R351,
R352, R367). -/
def Obligations.CommandsRefused : Prop :=
  (∀ (i : Instr) (r : Nat) (e : CmdEntry) (s : State), frontRow i = some (r, e) → s.ringReady r = true →
      (s.ten (s.ring r).ten.toNat).loading = none →
      (s.ten (s.ring r).ten.toNat).invTaken = (s.ten (s.ring r).ten.toNat).invDone →
      let x := s.ring r
      (s.pinRead x.ten.toNat x.slotVa 32 true = .outside → exec i s = .next (s.refuseAt r 0x0A none))
        ∧ (∀ bs, s.pinRead x.ten.toNat x.slotVa 32 true = .bytes bs → (cmdOf bs).2 = e → ((cmdOf bs).1 = 0 ∨ 12 < (cmdOf bs).1) →
          exec i s = .next (s.refuseAt r 0x1B (some (s.cmdAt r (cmdOf bs).1 e))))
        ∧ (∀ bs op, s.pinRead x.ten.toNat x.slotVa 32 true = .bytes bs → cmdOf bs = (op, e) → frontTakes i = some op →
          ((s.ten x.ten.toNat).st ≠ .loading ∨ loadingOp op = true) → cmdForm op e = false →
          exec i s = .next (s.refuseAt r 0x1B (some (s.cmdAt r op e))))
        ∧ (∀ op n s', frontTakes i = some op → Heads s r op e → frontFails i (s.cmdAt r op e) s = some (n, s') →
          exec i s = .next (s'.refuseAt r n (some (s.cmdAt r op e)))))
    ∧ ∀ (s : State) (r n : Nat) (c : Option CmdRef), r < s.rings.length →
      let t := s.refuseAt r n c
      (t.ring r).stopped = true ∧ (t.ring r).reason.toNat = n % 256 ∧ (t.ring r).head = (s.ring r).head
        ∧ (∀ q, q ≠ r → t.ring q = s.ring q)
        ∧ (∀ i e u, frontRow i = some (r, e) → exec i t ≠ .next u)
        ∧ (t.opened = true → ∃ u, exec (.ringResume r) t = .next u
          ∧ (t.watched { t.ring r with stopped := false, reason := 0 } = true →
            ∀ bs, t.pinRead (t.ring r).ten.toNat (t.ring r).tailVa 4 true = .bytes bs →
            (u.ring r).stopped = false ∧ (u.ring r).head = (s.ring r).head ∧ (u.ring r).tail = BitVec.ofNat 32 (leNat bs)))

/-- What ends the commands that hold a ring: a load leaves its table or its timetable held; a dismantle releases its hitch; a clear
leaves no line in the tenancy's ways; a checkpoint is done with its image written; PARK frees its slot and leaves the image saved, or in
time lets the context go on; UNPARK makes it resident (R80, R116, R232, R291, R293, R354, R416, R418, R419). -/
def Obligations.LoadsComplete : Prop :=
  ∀ (ten : Nat) (s : State), ten < s.tens.length →
    let done := fun (i : Instr) (p : State → Prop) => ∃ t, exec i s = .next t ∧ p t
    (∀ c x b, (s.ten ten).loading = some (c, x, b) →
        done (.tableLoadDone ten) fun t => (t.ten ten).loading = none ∧ (t.ten ten).table? x.num = some x
          ∧ (t.ten ten).scwayRsv &&& x.ways = x.ways)
      ∧ (∀ c x, (s.ten ten).ttLoading = some (c, x) →
        done (.timetableLoadDone ten) fun t => (t.ten ten).ttLoading = none ∧ (t.ten ten).tt = some x
          ∧ ∀ p, p < s.ports.length → p < 16 → (t.port p).memb = if x.ports.getLsbD p then some ten else (s.port p).memb)
      ∧ (∀ h, s.hitch? ten h.num = some h → h.dismantle ≠ [] → h.allFree = true →
        done (.dismantleComplete ten h.num) fun t => t.hitch? ten h.num = none)
      ∧ ((s.ten ten).invTaken ≠ (s.ten ten).invDone →
        done (.invalidateAllDone ten) fun t => (t.ten ten).invDone = (s.ten ten).invDone + 1 ∧ (t.ten ten).invCmd = none
          ∧ t.rc.lines = s.rc.lines.filter fun l => !bitOf (s.ten ten).rcway.toNat l.way)
      ∧ (∀ k, (s.ten ten).ckpt = some k → k.writing = true → s.ckBusy ten = false →
        exec (.checkpointDone ten) s = .next (s.ckFinish ten k))
      ∧ (∀ k s', (s.ten ten).ckpt = some k → k.writing = false → s.stalled (.mover (s.anyMover ten)) = false →
        ckWrite (moverEng (.ckpt ten) (.mover (s.anyMover ten)) ten) k.image s = (none, [], s') →
        let t := s'.modTen ten fun y => { y with ckpt := some { k with image := [], writing := true } }
        exec (.checkpointDone ten) s = .next (if t.ckBusy ten then t else t.ckFinish ten k))
      ∧ ∀ slot, slot < (s.ten ten).slots.length →
        (∀ m s', s.parkOf ten slot = some m → s.drained ten ((s.ten ten).slot slot).ctx = true →
            let s1 := if (s.ten ten).holder = some slot then s.releaseUnits ten else s
            s1.vWrite (.mover (s1.anyMover ten)) ten m.area (s1.saveHeader ten slot) true = .ok () s' →
            done (.parkDone ten slot) fun t => ((t.ten ten).slot slot).st = .empty ∧ s1.saveImage ten slot m.area ∈ t.saves)
          ∧ (∀ m t0, s.parkOf ten slot = some m → s.mayPass t0 = true → m.start + (s.ten ten).ptmo.toNat ≤ t0 →
            s.drained ten ((s.ten ten).slot slot).ctx = false →
            done (.parkTimeout ten slot t0) fun t => t = (s.atTick t0).unpauseCtx ten slot m 0x01
              ∧ ((t.ten ten).slot slot).st = .resident)
          ∧ ∀ m, ((s.ten ten).slot slot).st = .unparking → ((s.ten ten).slot slot).move = some m →
            done (.unparkDone ten slot) fun t => ((t.ten ten).slot slot).st = .resident ∧ ((t.ten ten).slot slot).move = none
              ∧ ((t.ten ten).slot slot).ctx = ((s.ten ten).slot slot).ctx

/-- What the host writes to memory with a command must lie in the pool: an address past it is a fault (R277, log 3). The rings' own
events, in a block that takes the host's writes: a wake reads the tail word where it is pinned, and stops the ring
where it is not; a resume clears the stop; an enable starts the ring at index 0 with LOG2N and BASE. In a block that does not take them
nothing changes (R25, R76, R351, R367, R448, R499). -/
def Obligations.RingEvents : Prop :=
  (∀ (i : Instr) (hm : HostMem) (s : State), hostMem i = some hm → ¬ InPool hm →
      ∃ a, 2 ^ 46 ≤ a ∧ exec i s = .fault (.noSuchAddress a))
    ∧ ∀ (r : Nat) (s : State), r < s.rings.length →
    let x := s.ring r
    (∀ (tail : W32) (hm : HostMem), InPool hm →
        let sm := s.hosted hm
        let sw := match sm.pinned (sm.ring r).ten.toNat (sm.ring r).tailVa with
          | some (pa, _) => sm.poolWrite pa (toLe 4 tail.toNat)
          | none => sm
        exec (.ringWake r tail hm) s = .next (if sm.opened then sw.readTail r true else sm))
      ∧ (exec (.ringResume r) s = .next (if s.opened = true ∧ x.stopped = true then
          (s.modRing r fun y => { y with stopped := false, reason := 0 }).readTail r false else s))
      ∧ (∀ (log2n : BitVec 5) (base : W64), s.opened = true → x.en = false → 4 ≤ log2n.toNat → log2n.toNat ≤ 16 →
        ((s.ten x.ten.toNat).st = .loading ∨ (s.ten x.ten.toNat).st = .running) →
        ∃ t : State, exec (.ringEnable r log2n base) s = .next (t.readTail r false)
          ∧ t = s.modRing r fun y => { y with
              log2n := log2n, base := base.extractLsb' 12 36, en := true, head := 0, tail := 0, stopped := false, reason := 0
              hold := .none })
      ∧ (∀ (log2n : BitVec 5) (base : W64), s.opened = false → exec (.ringEnable r log2n base) s = .next s)
      ∧ (∀ (w : Bool) (bs : List Byte), s.watched x = true → s.pinRead x.ten.toNat x.tailVa 4 true = .bytes bs →
        s.readTail r w = s.modRing r fun y => { y with tail := BitVec.ofNat 32 (leNat bs) })
      ∧ (s.watched x = true → s.pinRead x.ten.toNat x.tailVa 4 true = .outside → s.readTail r true = s.refuseAt r 0x0A none)

/-! ### What the engines do (R59, R98–R100, R119, R131, R132, R143, R216, R221, R234, R320) -/

/-- The engines' own events. A gathered row lands; a pass pools its positions; a copy between a cohort's own spaces moves its bytes and adds its
amount; a transfer lands and gives its token back; bulk requests that have waited 1,024 ticks are promoted; a cart passes along the
chain; an add request reaches its slot and is counted; a seal takes effect when no add of its bank is out, short books raising
LED_IMBALANCE. -/
def Obligations.EngineEvents : Prop :=
  (∀ (e q pos : Nat) (s s2 : State) (o : Order) (r : GRead) (b : OrderBody),
      let s1 := s.pumpQueue e q
      s1.headOf (.gather e) q = some o → o.flightAt pos = some r → s1.landable o r = true →
      (landRead o r).go s1 = (.ok b, s2) → exec (.gatherRowLands e q pos) s = .next (s2.setBody o.id b))
    ∧ (∀ (cl bag : Nat) (s s' : State) (o : Order) (p p' : PlBag),
      s.headOf (.pool cl) 0 = some o → o.body = .plBag p → s.stalled (s.carrier o.unit) = false →
      p.bag ≤ bag → bag < p.nbags → (p.run bag).last = false →
      (∀ b, p.bag ≤ b → b < bag → (p.run b).last = true ∨ ∃ u, (poolPass o p b).go s = (.error .wait, u)) →
      (poolPass o p bag).go s = (.ok p', s') →
      exec (.poolingPass cl) s = .next ((s'.farDrop (.order o.id)).setBody o.id (.plBag p')))
    ∧ (∀ (s : State) (c0 c : Copy) (k : Task) (x : Xfer), s.copies.find? (·.id == c0.id) = some c0 →
      let s1 := s.pumpMover c0.mover
      s1.copies.find? (·.id == c0.id) = some c → s1.task? c.task = some k → c.xfer = some x → s1.fetchHome x.fetch = true →
      x.writing = false → x.free = false → s1.copyBusy c.id = false → s1.remoteDst x = false →
      (x.dst.space = .memory → s1.ckHolds k.ten x.dst.addr x.len = false) →
      let y := s1.copyCtx c k
      let t := (y.put s1 x (y.bytes s1 x)).modTen k.ten fun t => { t with mtokRet := t.mtokRet + 1 }
      exec (.copyComplete c0.id) s =
        .next (State.contribute { t with copies := t.copies.filter (·.id != c.id) } c.task c.cohort c.ac c.amount))
    ∧ (∀ (m q n : Nat) (s s2 : State) (o : Order) (d : StreamDesc) (r : StreamRun) (k : Task) (x : Xfer),
      let s1 := s.pumpMover m
      s1.headOf (.mover m) q = some o → o.body = .stRun d r → s1.task? o.task = some k → r.flight.find? (·.n == n) = some x →
      ((s1.streamCtx o d k).at n).land s1 (s1.busyRead o.id n) x = .done s2 →
      exec (.streamTransferLands m q n) s = .next (s2.setBody o.id (.stRun d { r with
        flight := r.flight.filter (·.n != n), landed := r.landed + x.len })))
    ∧ (∀ (s : State) (t n : Nat) (o : Order), s.mayPass t = true → s.order? o.id = some o → n ∈ o.body.promoteFrom → n + 1024 ≤ t →
      (∀ d r, o.body = .stRun d r → exec (.bulkPromotion (2 * o.id) t) s = .next ((s.atTick t).setBody o.id (.stRun d { r with
          hot := r.hot || r.since.any fun n => decide (n + 1024 ≤ t)
          flight := r.flight.map fun x => if x.ready + 1024 ≤ t then { x with fetch := { x.fetch with lat := true } } else x })))
        ∧ ∀ g, o.body = .gathQ g → exec (.bulkPromotion (2 * o.id) t) s = .next ((s.atTick t).setBody o.id (.gathQ { g with
          hot := g.hot || g.since.any fun n => decide (n + 1024 ≤ t)
          flight := g.flight.map fun x => if x.ready + 1024 ≤ t then { x with fetch := { x.fetch with lat := true } } else x })))
    ∧ (∀ (s : State) (t n : Nat) (c : Copy), s.mayPass t = true → s.copies.find? (·.id == c.id) = some c → n ∈ c.promoteFrom →
      n + 1024 ≤ t →
      exec (.bulkPromotion (2 * c.id + 1) t) s = .next ((s.atTick t).modCopy c.id fun y => { y with
        promoted := true
        xfer := y.xfer.map fun x => if x.ready + 1024 ≤ t then { x with fetch := { x.fetch with lat := true } } else x }))
    ∧ (∀ (ten : Nat) (h : Hitch) (i : Nat) (s : State), h.num < 256 → s.hitch? ten h.num = some h → i ∈ h.queue → (h.cart i).st = .chain →
      s.chainClear ten h.num i (h.cart i).clu (s.nextOnChain ten (h.cart i).clu) = true → bitOf (h.cart i).tag.toNat (h.cart i).clu = false →
      exec (.chainLinkCopy ten h.num i) s = .next (s.passCart ten h i))
    ∧ (∀ (ten id num : Nat) (s s' : State) (o : Order) (b b' : ScanB1), s.scanOf id = some (o, b) →
      (codeMove o b num).go s = (.ok (some b'), s') → exec (.chainLinkCopy ten (256 + id) num) s = .next (s'.setBody id (.scanB1 b')))
    ∧ (∀ (ten : Nat) (h : Hitch) (i : Nat) (s s' : State) (o : Order) (m : IaMma), h.num < 256 → s.hitch? ten h.num = some h → i ∈ h.queue →
      (h.cart i).st = .chain → s.chainClear ten h.num i (h.cart i).clu (s.nextOnChain ten (h.cart i).clu) = true →
      bitOf (h.cart i).tag.toNat (h.cart i).clu = true → s.weightWaiter ten h.num (h.cart i).clu = some (o, m) →
      (s.cluster (h.cart i).clu).units.wbufs.length < 2 → (loadWeights o m h i (h.cart i).clu).go s = (.ok (), s') →
      exec (.chainLinkCopy ten h.num i) s = .next (s'.passCart ten h i))
    ∧ (∀ (n : Nat) (s t : State) (ad : ArenaAdd) (x : Table) (sat : Bool), s.adds[n]? = some ad →
      (s.ten ad.ten).table? ad.bank.table = some x →
      (State.modOrder { s with adds := s.adds.eraseIdx n } ad.order fun o => { o with body := o.body.addDone }).elemAdd ad.ten
        (slotVa x.desc (x.bank ad.bank.send) ad.slot ad.elem) ad.value = some (t, sat) →
      exec (.arenaAddComplete n) s = .next ((t.modBank ad.ten ad.bank fun b =>
        { b with added := b.added + 1, sat := b.sat + BitVec.ofNat 32 (b2n sat) }).totals ad.ten ad.ctx ad.task ad.bank.table
          [(srAdded, 1), (srSat, b2n sat)]))
    ∧ ∀ (ten table id : Nat) (send : Bool) (s : State) (x : Table), (s.ten ten).table? table = some x →
      (x.bank send).sealing = some id → s.addsOf ten table send id = false →
      let b := s.bankRead ten (x.bank send)
      let t := s.modBank ten ⟨table, send, 0⟩ fun b => { b with st := .sealed, sealing := none }
      exec (.sealTakesEffect ten table send) s = .next (
        if b.conv = b.comb + b.added + b.nan then t
        else t.imbalanceTen ten 8 (2 * table + b2n send) (b.conv - (b.comb + b.added + b.nan)).toNat memWordU)

/-! ### Tasks and their cohorts (R47–R49, R52, R62, R72, R198, R233, R310) -/

/-- A cohort is placed whole, at the task's entry, its threads past NTHREAD exited; it ends when every thread has, and the last one ends
its task, which may leave no cart behind; a cohort none of whose threads can go on raises SYNC_STRANDED or SYNC_COUNTER, and a shared
wait past its limit SYNC_COUNTER. -/
def Obligations.TaskEvents : Prop :=
  (∀ (s : State) (k : Task) (cl lane : Nat), s.task? k.id = some k → s.mayPlace k cl lane = true →
      ∃ h : Cohort, exec (.cohortPlacement k.id cl lane) s = .next { s with
          cohorts := s.cohorts ++ [h], tasks := modWhere (·.id == k.id) (fun t => { t with next := t.next + 1 }) s.tasks }
        ∧ h.task = k.id ∧ h.num = k.next ∧ h.cluster = cl ∧ h.lane = lane ∧ h.coaches.length = k.k ∧ h.llm = [] ∧ h.ac = []
        ∧ ∀ i y, h.coaches[i]? = some y → y.pc = k.entry ∧ y.g = [] ∧ y.p = [] ∧ y.wait = .none
          ∧ y.reg true 0 0 = BitVec.ofNat 32 k.args ∧ y.reg true 1 0 = BitVec.ofNat 32 (k.args / 2 ^ 32)
          ∧ ∀ j, j < 32 → y.x.getLsbD j = decide (k.nthread ≤ k.next * (32 * k.k) + i * 32 + j))
    ∧ (∀ (s : State) (k : Task) (h : Cohort), s.task? k.id = some k →
      let s1 := s.settleAll k.ten k.id h.num
      s1.cohort? k.id h.num = some h → s1.cohortOver h = true →
      let gone : State := { s1 with cohorts := s1.cohorts.filter fun y => !(y.task == k.id && y.num == h.num) }
      exec (.cohortEnd k.id h.num) s = .next (
        if s1.lastCohort k h.num then
          match s1.leftCart k with
          | some (u, n) => s1.failTask k.ten k.ctx k.id ⟨0x62, 0, h.num, u + n % 256 * 2 ^ 20⟩
          | none => gone.endTask k
        else gone))
    ∧ (∀ (s : State) (k : Task) (h : Cohort), s.task? k.id = some k →
      let s1 := s.settleAll k.ten k.id h.num
      s1.cohort? k.id h.num = some h → s1.stuck k h = true →
      ∃ (code n : Nat) (j : Bool), exec (.cohortStuck k.id h.num) s = .next (s1.syncFault k h.num h.cluster code n 0 j)
        ∧ (code = 0x60 ∨ code = 0x61) ∧ (code = 0x60 ↔ (h.waitedAt ≠ [] ∨ h.coaches.any (·.joinHeld) = true)))
    ∧ ∀ (c : CoachRef) (t : Nat) (s : State) (k : Task) (h : Cohort) (y : Coach) (ac since : Nat),
      s.task? c.task = some k → s.cohort? c.task c.cohort = some h → s.coach? c = some y → y.sharedSince k = some (ac, since) →
      s.mayPass t = true → k.swlim ≠ 0 → since + k.swlim < t →
      exec (.sharedWaitLimit c t) s = .next ((s.atTick t).syncFault k h.num h.cluster 0x61 ac 0 false)

/-! ### The memory port and the row cache (R111–R116, R397, R403, R404, R473, R474, R501) -/

/-- Responses, fills and clears. Each response adds its corrected errors to CNT_MEM_CE, and comes after the requests of its own tick have
been sent and those before its own to the same words have been served (R220, R391). A response to no request is counted; one without a bad granule reaches its client; one with a granule
that it marks bad, or that is known to be bad and unmet, raises MEM_UNCORRECTABLE; one to the generator counts its errors. A fill frees its register and, unmarked, installs the line.
A change of RCWAY takes effect once the ways it adds and removes are clear. MEM_MARGIN is taken where the tenancy may use the
generator, and is LOCKVIO elsewhere. -/
def Obligations.MemoryPortEvents : Prop :=
  (∀ (link tag : Nat) (um pm : BitVec 8) (sat : Bool) (ce mis : Nat) (s : State),
      let i : Instr := .memoryResponse link tag um pm sat ce mis
      let s0 := (if (s.mem.req? link tag).any (!·.sent) then s.sendAll else s).count cntMemCe ce
      (s.mem.req? link tag = none → exec i s = .next (s0.count cntStray 1))
        ∧ ∀ r, s0.mem.req? link tag = some r →
          let new := s0.newBad r um
          let s1 := ((s0.serveEarlier r).dropReq link tag).takeMarks r um pm
          (r.who = .margin → exec i s = .next (s1.marginBack ((s1.badGranules r).length + mis)))
            ∧ (r.who ≠ .margin → new = [] → s1.badGranules r = [] → exec i s = .next ((s1.goodResponse r).tokenHome r.who))
            ∧ (∀ g gs, r.who ≠ .margin → new = [] → s1.badGranules r = g :: gs →
              exec i s = .next ((s1.badResponse r false (64 * g)).tokenHome r.who))
            ∧ (∀ g, g ∈ new ↔ g ∈ maskGranules r.pa um ∨ (g ∈ s0.mem.bad ∧ meets r.pa r.len g = true))
            ∧ ∀ g gs, r.who ≠ .margin → new = g :: gs → exec i s = .next ((s1.badResponse r true (64 * g)).tokenHome r.who))
    ∧ (∀ (s : State) (m : MissReg), (s.rc.miss.find? fun y => y.slice == m.slice && y.n == m.n) = some m →
      s.memBusy (.miss m.slice m.n) = false →
      ∃ t, exec (.rowCacheFill m.slice m.n) s = .next t
        ∧ t.rc.miss = s.rc.miss.filter (fun y => !(y.slice == m.slice && y.n == m.n))
        ∧ t.rc.freed = smSet 0 s.rc.freed m.slice (smGet 0 s.rc.freed m.slice + 1) ∧ t.mem = s.mem
        ∧ (m.marked = true → t.rc.lines = s.rc.lines)
        ∧ (m.marked = false → t.rc.lines = (s.rc.install (s.ten m.ten).rcway m.line (s.missSectors m)).lines))
    ∧ (∀ (ten : Nat) (s : State) (w : W16), ten < s.tens.length → (s.ten ten).rcwayNew = some w →
      ∃ t, exec (.rcwayClearDone ten) s = .next t ∧ (t.ten ten).rcway = w ∧ (t.ten ten).rcwayNew = none
        ∧ t.rc.lines = s.rc.lines.filter fun l => !bitOf ((s.ten ten).rcway ^^^ w).toNat l.way)
    ∧ ∀ (v : W64) (s : State), s.opened = true →
      let x := v &&& 0x7FFFF
      (s.marginAllowed (marginTen x) (marginGrp x) = false → exec (.memMargin v) s = .next s.setLockvio)
        ∧ (s.marginAllowed (marginTen x) (marginGrp x) = true → marginEn x = false →
          exec (.memMargin v) s = .next { s with mem := { s.mem with margin := x } })
        ∧ (s.marginAllowed (marginTen x) (marginGrp x) = true → marginEn x = true → s.mem.marginStarts x = false →
          exec (.memMargin v) s = .next { s with mem := { s.mem with margin := x &&& 0x7FFFE } })
        ∧ (s.marginAllowed (marginTen x) (marginGrp x) = true → marginEn x = true → s.mem.marginStarts x = true →
          s.memBusy .margin = false →
          exec (.memMargin v) s = .next (State.marginIssue { s with mem := { s.mem with margin := x, marginNext := 0 } }))

/-! ### Translation (R41, R55–R57, R365, R366, R369, R373, R374, R378–R381, R497) -/

/-- Walks that end, ranges pinned and unpinned, faults answered and timed out, broadcasts taken and acknowledged. A walk ends for each
of its parties in turn by the access that party makes: with its leaf in the block TLB and the party's own, or with its fault. RETRY starts
the walk of every party again; ABORT and the time limit end them. A broadcast is acknowledged no earlier than the tick after it was taken,
once its accesses had ended by the end of a tick before. -/
def Obligations.TranslationEvents : Prop :=
  (∀ (n : Nat) (s : State) (w : Walk), s.xlt.walks[n]? = some w →
      let s2 := (State.nextWalk { s with xlt := { s.xlt with walks := s.xlt.walks.eraseIdx n } }).unstallWalk w.ten w.va
      exec (.walkComplete n) s = .next (w.units.foldl (State.partyEnd w.ten) s2)
        ∧ (∀ p l, (s2.ten w.ten).xltEn = true → walkTables s2 (s2.ten w.ten) p.va p.kind.writes = .leaf l →
          let t := s2.installWalk w.ten p.unit l
          s2.partyEnd w.ten p = if p.serv = .window then t.reserve w.ten p.unit else t)
        ∧ (∀ p code level mal, (s2.ten w.ten).xltEn = true → walkTables s2 (s2.ten w.ten) p.va p.kind.writes = .fail code level mal →
          code ≠ 0x30 →
          s2.partyEnd w.ten p = s2.walkFault w.ten p.unit p.serv ⟨p.va, p.kind, code, level + (if mal then 4 else 0), true, 0⟩)
        ∧ ∀ p, (s2.ten w.ten).xltEn = false →
          s2.partyEnd w.ten p = s2.walkFault w.ten p.unit p.serv ⟨p.va, p.kind, 0x20, 0, false, 0⟩)
    ∧ (∀ (ten k : Nat) (base : BitVec 27) (size : W16) (hm : HostMem) (s0 : State), InPool hm →
      let s := s0.hosted hm
      ten < s.tens.length → k < (s.ten ten).pins.length → s.opened = true → (s.ten ten).st ≠ .free → 0 < size.toNat → size.toNat ≤ 32768 → ((s.ten ten).pin k).st ≠ 1 →
      ((s.ten ten).pin k).en = false →
      ∃ t, exec (.pin ten k base size hm) s0 = .next t
        ∧ (t.ten ten).pin k = { en := true, base := base, size := size, st := 1 } ∧ t.xlt = s.xlt)
    ∧ (∀ (ten k : Nat) (s : State), ten < s.tens.length → k < (s.ten ten).pins.length → s.opened = true → (s.ten ten).st ≠ .free →
      0 < ((s.ten ten).pin k).size.toNat → ((s.ten ten).pin k).size.toNat ≤ 32768 → ((s.ten ten).pin k).st ≠ 1 →
      ∃ t, exec (.unpin ten k) s = .next t ∧ ((t.ten ten).pin k).en = false ∧ ((t.ten ten).pin k).st = 0
        ∧ ∀ y ∈ t.xlt.btlb, ¬(y.2.2.locked = true ∧ y.2.2.ten = ten ∧ y.2.2.pin = k))
    ∧ (∀ (ten k : Nat) (s : State), ((s.ten ten).pin k).st = 1 →
      let p := (s.ten ten).pin k
      let r := s.pinLock ten k (p.base.toNat * 2 ^ 21) ((p.base.toNat + p.size.toNat) * 2 ^ 21)
      exec (.pinWalkDone ten k) s = .next (match r.2 with
        | some w => r.1.modPin ten k fun p => { p with st := 2, w := w }
        | none => r.1))
    ∧ (∀ (ten : Nat) (fid : W16) (hm : HostMem) (s0 : State) (f : PendFault), InPool hm →
      let s := s0.hosted hm
      s.pendingFault ten fid = some f → s.opened = true →
        exec (.faultRetry ten fid hm) s0 = .next (f.units.foldl (fun (s : State) p =>
          (s.forget ten p).startWalk ten p.va p.kind p.unit p.serv) (s.answered ten f.fid)))
    ∧ (∀ (ten : Nat) (fid : W16) (s : State) (f : PendFault), s.pendingFault ten fid = some f →
      (s.opened = true → exec (.faultAbort ten fid) s = .next (s.answerAbort ten f))
        ∧ (∀ t, (s.ten ten).faultTmo.toNat ≠ 0 → f.tick + (s.ten ten).faultTmo.toNat ≤ t → s.mayPass t = true →
          exec (.faultTimeout ten fid t) s = .next ((s.atTick t).answerAbort ten f))
        ∧ ∀ t u, ((s.ten ten).faultTmo.toNat = 0 ∨ t < f.tick + (s.ten ten).faultTmo.toNat) →
          exec (.faultTimeout ten fid t) s ≠ .next u)
    ∧ (∀ (s : State) (b : Bcast) (i : Instr), s.xlt.invals.length < 64 →
      ((∃ asid va pages, i = .invalidationRange asid va pages ∧ b = ⟨some asid, some (va.toNat * 4096,
            (va.toNat + if pages = 0 then 2 ^ 32 else pages.toNat) * 4096)⟩)
        ∨ (∃ asid, i = .invalidationSpace asid ∧ b = ⟨some asid, none⟩) ∨ (i = .invalidationAll ∧ b = ⟨none, none⟩)) →
      ∃ t, exec i s = .next t ∧ t.gtlb = s.gtlb.filter (fun y => !b.leaf s y.2)
        ∧ (∀ y ∈ t.xlt.btlb, b.leaf s y.2.2 = true → y.2.2.locked = true ∧ y.2.2.stale = true)
        ∧ (∀ c ∈ t.clusters, ∀ e ∈ c.tlb, b.leaf s e = false) ∧ t.xlt.invNum = s.xlt.invNum + 1
        ∧ t.xlt.invals.length = s.xlt.invals.length + 1 ∧ t.mem = s.mem ∧ t.tens = s.tens)
    ∧ ∀ (t : Nat) (s : State) (i : Inval) (q : List Inval), (s.atTick t).xlt.invals = i :: q → i.taken < t → s.mayPass t = true →
      i.clear = true →
      let u := (s.atTick t).rewalkAll i
      let v : State := { u with xlt := { u.xlt with invals := q, invd := !u.xlt.invd } }
      exec (.invalidationAck t) s = .next (if u.ev.invrec then v.event 0xAC 0 {} 0 i.num xltWord else v)

/-! ### Windows, pods and the tensor cores (R65–R68, R278–R285, R500) -/

/-- Commits reload one entry of a table's copy, or record lost data; a withdrawn entry is released with its record once no request runs
under it; each request taken is the oldest of its port, its buffer given back when its last message is taken, and it is refused, answered
with its data, or served; a response completes its request with its data or its fault, is counted where it is late, and is dropped where
nothing asked for it; a request that times out raises LINE_MISSING. A tensor core's access is answered with its data and takes effect in
an open window; elsewhere it is discarded, reported as failed and counted (R67, R68, R278–R285). -/
def Obligations.WindowEvents : Prop :=
  (∀ (n : BitVec 8) (hm : HostMem) (s0 : State), InPool hm →
      let s := s0.hosted hm
      let lost := fun (pa k : Nat) (t : State) => ∃ f : FaultRec, f = s.badDataRec pa k none xltWord
        ∧ t = (s.meetBad 0 pa k).event f.code f.detail {} 0 f.info0 f.info1
      (s.opened = false → exec (.winCommitSend n hm) s0 = .next s ∧ exec (.winCommitRecv n hm) s0 = .next s
          ∧ exec (.podexpCommit n hm) s0 = .next s)
        ∧ (s.opened = true →
          (let pa := s.xlt.sendBase.toNat * 2 ^ 12 + 16 * n.toNat
            let e := s.poolBytes pa 16
            (s.lost pa 16 = none → exec (.winCommitSend n hm) s0 = .next { s with xlt := { s.xlt with
                send := smSet {} s.xlt.send n.toNat
                  { en := bitOf (leAt e 0 4) 0, ten := bitsOf (leAt e 0 4) 2 3, haddr := bitsOf (leAt e 0 4) 8 14
                    rwin := bitsOf (leAt e 0 4) 22 8, jobTag := BitVec.ofNat 32 (leAt e 4 4), size := bitsOf (leAt e 8 8) 0 41 } } })
              ∧ (s.lost pa 16 ≠ none → ∃ t, exec (.winCommitSend n hm) s0 = .next t ∧ lost pa 16 t))
          ∧ (let pa := s.xlt.recvBase.toNat * 2 ^ 13 + 32 * n.toNat
            let e := recvEntry (s.poolBytes pa 32)
            let old := smGet {} s.xlt.recv n.toNat
            (s.lost pa 32 = none → exec (.winCommitRecv n hm) s0 = .next { s with xlt := { s.xlt with
                recv := smSet {} s.xlt.recv n.toNat e
                withdrawn := if old.en = true ∧ old ≠ e then insertNew s.xlt.withdrawn n.toNat else s.xlt.withdrawn } })
              ∧ (s.lost pa 32 ≠ none → ∃ t, exec (.winCommitRecv n hm) s0 = .next t ∧ lost pa 32 t))
          ∧ (let pa := s.xlt.podBase.toNat * 2 ^ 11 + 32 * n.toNat
            (64 ≤ n.toNat → exec (.podexpCommit n hm) s0 = .next s)
              ∧ (n.toNat < 64 → s.lost pa 32 = none → exec (.podexpCommit n hm) s0 = .next { s with xlt := { s.xlt with
                pod := smSet {} s.xlt.pod n.toNat (podEntry (s.poolBytes pa 32)) } })
              ∧ (n.toNat < 64 → s.lost pa 32 ≠ none → ∃ t, exec (.podexpCommit n hm) s0 = .next t ∧ lost pa 32 t))))
    ∧ (∀ (n : Nat) (s : State), n ∈ s.xlt.withdrawn → (∀ x ∈ s.xlt.served, x.win ≠ n) →
      ∃ t, exec (.windowReleased n) s = .next t ∧ n ∉ t.xlt.withdrawn ∧ (∀ k, k ≠ n → (k ∈ t.xlt.withdrawn ↔ k ∈ s.xlt.withdrawn))
        ∧ t = State.event { s with xlt := t.xlt } 0xA5 0 {} 0 n xltWord ∧ t.xlt = { s.xlt with withdrawn := t.xlt.withdrawn })
    ∧ (∀ (p : Nat) (s : State) (m : Msg) (ms : List Msg) (bs : List (List Msg)) (i : Instr),
      requestRow i = some (p, m.op) → (s.port p).vc0 = (m :: ms) :: bs → s.serveWaits m = false →
      let t := s.modPort p fun x => { x with
        vc0 := if ms = [] then bs else ms :: bs, give0 := if ms = [] then x.give0 + 1 else x.give0 }
      let e := smGet {} s.xlt.recv m.win
      let va := (e.lbase + m.addr) % 2 ^ 48
      let mover := (s.freeMover e.ten).getD (s.anyMover e.ten)
      (∃ u, exec i s = .next u)
        ∧ (m.kind = 1 → (s.xlt.podEn = false ∨ s.xlt.pod.any (fun e => e.2.serves m) = false) →
          exec i s = .next (t.respond m rsRefused []))
        ∧ (m.kind = 1 → s.xlt.podEn = true → s.xlt.pod.any (fun e => e.2.serves m) = true → exec i s = .next (t.servePod m))
        ∧ (m.kind ≠ 1 → m.win ∈ s.xlt.withdrawn → exec i s = .next (t.respond m rsRefused []))
        ∧ (∀ st, m.kind ≠ 1 → m.win ∉ s.xlt.withdrawn → e.refuse m = some st → exec i s = .next (t.respond m st []))
        ∧ (∀ data u, m.kind ≠ 1 → m.win ∉ s.xlt.withdrawn → e.refuse m = none →
          (serveOp e.ten (windowTarget (moverEng (.order 0) (.mover mover) e.ten) va) m).go t = (.ok data, u) →
          exec i s = .next (u.respond m rsOk data)))
    ∧ (∀ (s : State) (m : Msg), leafPieces (m.span / 2 ^ 21 + 2) m.addr m.span = [(m.addr, m.span)] → s.lost m.addr m.span = none →
      bitOf s.mem.svc.toNat (channelGroup m.addr) = true →
      (m.op = 1 → s.servePod m = s.respond m rsOk (s.poolBytes m.addr m.len))
        ∧ (m.op = 2 → s.servePod m = ((s.soil m.addr m.data.length).engineWrite m.addr m.data).respond m rsOk []))
    ∧ (∀ (s : State) (m : Msg) (st : Nat) (data : List Byte), ∃ r : Resp, s.respond m st data = { s with xlt := { s.xlt with
        resps := s.xlt.resps ++ [r] } } ∧ r.dest = m.src ∧ r.msg.op = 8 ∧ r.msg.status = st ∧ r.msg.rtag = m.rtag ∧ r.msg.data = data)
    ∧ (∀ (p : Nat) (s : State) (m : Msg) (ms : List Msg) (bs : List (List Msg)), (s.port p).vc1 = (m :: ms) :: bs →
      let t := s.modPort p fun x => { x with
        vc1 := if ms = [] then bs else ms :: bs, give1 := if ms = [] then x.give1 + 1 else x.give1 }
      (∀ w, s.xlt.wreqs.find? (fun w => w.rtag == m.rtag && w.sent) = some w →
          let u : State := { t with xlt := { s.xlt with wreqs := s.xlt.wreqs.filter (·.rtag != m.rtag) } }
          (m.status = 0 → exec (.resp p) s = .next ((u.deliver w m).reqHome w))
            ∧ (m.status ≠ 0 → exec (.resp p) s = .next ((u.failRequest w (u.statusRec w m.status)).reqHome w))
            ∧ (∀ id pa, w.client = .copy id pa → w.msg.op = 1 → u.deliver w m = { u with copies := modWhere (·.id == id) (fun c => { c with
                xfer := c.xfer.map fun x => { x with fetch := { x.fetch with got := x.fetch.got ++ [(pa, m.data)] } } }) s.copies }))
        ∧ (∀ l, s.xlt.wreqs.find? (fun w => w.rtag == m.rtag && w.sent) = none → s.xlt.late.find? (·.1 == m.rtag) = some l →
          exec (.resp p) s = .next (State.modTen { t with xlt := { s.xlt with late := s.xlt.late.filter (· != l) } } l.2 fun x =>
            { x with ab := { x.ab with late := x.ab.late + 1 } }))
        ∧ (s.xlt.wreqs.find? (fun w => w.rtag == m.rtag && w.sent) = none → s.xlt.late.find? (·.1 == m.rtag) = none →
          exec (.resp p) s = .next t))
    ∧ (∀ (t : Nat) (s : State) (w : WReq), (s.xlt.wreqs.find? (·.rtag == w.rtag)) = some w →
      w.tick + max 1024 (s.ten w.ten).winTmo.toNat ≤ t → s.mayPass t = true →
      let u := (s.atTick t).dropWReq w.rtag
      let v : State := { u with xlt := { u.xlt with late := if w.sent then u.xlt.late ++ [(w.rtag, w.ten)] else u.xlt.late } }
      exec (.windowTimeout w.rtag t) s =
        .next ((v.failRequest w ⟨0x40, 0, 0, unitWord (v.reqUnit w.client)⟩).reqHome w))
    ∧ ∀ (ten slot cl : Nat) (s : State),
      let x := (s.ten ten).slot slot
      let holds := fun (off n : Nat) => (x.st = .resident ∨ x.st = .parking) ∧ s.granted ten cl = true
        ∧ bitOf x.xwClusters cl = true ∧ off + n ≤ x.xwSize
      let runs := fun (op : TensorOp) (t : State) (data : List Byte) =>
        exec (.tensorCoreAccess ten slot cl op) s = .next { t with tcResp := .done data }
      let fails := fun (op : TensorOp) => exec (.tensorCoreAccess ten slot cl op) s = .next (State.modTen { s with tcResp := .failed } ten
        fun y => { y with ab := { y.ab with tcDisc := y.ab.tcDisc + 1 } })
      (∀ off bs, (holds off bs.length → runs (.write off bs) (s.spWrite cl (x.spBase + x.xwBase + off) bs) [])
          ∧ (¬ holds off bs.length → fails (.write off bs)))
        ∧ (∀ off n, (holds off n → runs (.read off n) s (s.spBytes cl (x.spBase + x.xwBase + off) n))
          ∧ (¬ holds off n → fails (.read off n)))
        ∧ (∀ xc, (holds 0 1 → xc < 16 → runs (.readCounter xc) s (toLe 4 (smGet 0 x.xc (16 * cl + xc)).toNat))
          ∧ ((¬ holds 0 1 ∨ 16 ≤ xc) → fails (.readCounter xc)))
        ∧ (∀ xc n, (holds 0 1 → xc < 16 → runs (.addCounter xc n) (s.addShared ten x.ctx cl xc n) [])
          ∧ ((¬ holds 0 1 ∨ 16 ≤ xc) → fails (.addCounter xc n)))
        ∧ (holds 0 1 → runs .start (s.modSlot ten slot fun y => { y with tcOpen := true }) [])
        ∧ (¬ holds 0 1 → fails .start)
        ∧ runs .stop (s.modSlot ten slot fun y => { y with tcOpen := false }) []

/-! ### The line: carriages (R240, R245–R268, R288, R31, R40) -/

/-- What departs: a port that sends puts one carriage on the line in a tick, never two, and no tick passes before it has; the stop
carriage of a braking membership leaves on each of its ports; 48 ticks later those ports are IDLE; a confirmed departure runs the
membership and an unconfirmed one is abandoned; the roll call brakes where a rank is missing. A carriage's header and payload are read
back from its message, whose CRC agrees with them, and its codewords from the sixteen lanes, each with its marker (R240, R243–R245, R258,
R260, R264; the CRC's form is the model's, log 163). -/
def Obligations.CarriagesDepart : Prop :=
  (∀ (p t : Nat) (s : State), p < 16 → p < s.ports.length → (s.port p).st.sends = true → s.mayPass t = true →
      (∀ n, (s.port p).lastSent = some n → n < t) → s.waitsFor p t = false →
      ∃ u, exec (.carriageDeparture p t) s = .next u ∧ u = (s.atTick t).depart p t ∧ (u.port p).lastSent = some t
        ∧ (u.port p).out.length = 1 ∧ ∀ v, exec (.carriageDeparture p t) u ≠ .next v)
    ∧ (∀ (p n t : Nat) (s : State), p < s.ports.length → (s.port p).st.sends = true → (s.port p).lastSent = some n → s.tick ≤ n + 1 →
      n + 1 < t → s.mayPass t = false)
    ∧ (∀ (ten t : Nat) (s : State) (x : Timetable), (s.ten ten).tt = some x → x.st = .braking → (s.ten ten).stopAt = some t →
      s.mayPass t = true →
      let ps := (portsOf x.ports).filter fun p => (s.port p).st == .braking && !(s.port p).lastSent.any fun n => decide (t ≤ n)
      ps ≠ [] → exec (.stopCarriage ten t) s = .next (ps.foldl (fun (s : State) p => s.depart p t) (s.atTick t)))
    ∧ (∀ (ten t stop : Nat) (s : State) (x : Timetable), ten < s.tens.length → (s.ten ten).tt = some x → x.st = .braking →
      (s.ten ten).stopAt = some stop → stop + 48 ≤ t → s.mayPass t = true →
      ∃ u y, exec (.brakeIdle ten t) s = .next u ∧ (u.ten ten).tt = some y ∧ y.st = .loaded ∧ y.stamp = x.stamp ∧ y.ports = x.ports
        ∧ y.sending = [] ∧ y.filling = [] ∧ ∀ p, p ∈ portsOf x.ports → p < s.ports.length → (u.port p).st ≠ .braking)
    ∧ (∀ (ten t : Nat) (s : State) (x : Timetable), (s.ten ten).tt = some x → x.st = .armed → (s.ten ten).td.toNat ≤ t →
      s.mayPass t = true →
      exec (.departure ten t) s = .next (if x.confirmed then (s.atTick t).startRun ten x else (s.atTick t).startOff ten x))
    ∧ (∀ (ten t : Nat) (s : State) (x : Timetable), ten < s.tens.length → (s.ten ten).tt = some x → x.departed = true →
      x.rolled = false → (s.ten ten).td.toNat + 303 ≤ t → s.mayPass t = true →
      ∃ u, exec (.rollCallCheck ten t) s = .next u
        ∧ (x.missing = [] → ∃ y, (u.ten ten).tt = some y ∧ y.st = x.st ∧ y.rolled = true)
        ∧ (x.missing ≠ [] → ∃ y, (u.ten ten).tt = some y ∧ y.st = .braking))
    ∧ (∀ c : Carriage, c.payload.length = c.len.toNat → c.len.toNat ≤ 1856 → c.fec = 0 →
      headerOf (carWords c) = { c with payload := [] } ∧ carriageOf (carMessage c) = c ∧ crcGood (carMessage c) = true
        ∧ carMessage c < 2 ^ 15392 ∧ joinMessage (codewords (carMessage c)) = carMessage c)
    ∧ ∀ (cws : List (List Nat)) (n : Nat), cws.length = 3 → (∀ w ∈ cws, w.length = 544 ∧ ∀ a ∈ w, a < 1024) →
      let ls := (List.range 16).map fun l => laneBits cws l n
      (∀ c, c < 3 → codewordOf ls c = cws.getD c []) ∧ ∀ l, l < 16 → bitsOf (ls.getD l 0) 0 4 = (l + n) % 16 ∧ ls.getD l 0 < 2 ^ 1024

/-- What arrives at a port with a trained link, whatever its row. It is counted in the port's books with its credits and corrected
symbols. On a fenced port all but VACANT, AUDIT and LINK is discarded and counted. Outside a run DATA and ROLL are discarded and counted,
FREE goes to a buffer of its channel, CONTROL messages are taken and AUDIT books compared; in a run a carriage that agrees with its entry
has its class's effect, and one that does not is counted and, in RUNNING past the roll call, raises LINE_MISSING or LINE_STAMP. A
discarded carriage counts in UNCORR; an expected one that never came is counted, and raises LINE_MISSING in RUNNING past the roll call.
A port in training takes its peer's LINK (R40, R242, R247, R248, R254–R268, R288). -/
def Obligations.CarriagesArrive : Prop :=
  (∀ (i : Instr) (p : Nat) (c : Carriage) (idle : State → State) (act : State → Nat → W64 → State) (s : State),
      carriageRow i = some (p, c) → carriageActs i s = some (idle, act) → p < 16 → s.contained p = false →
      (s.port p).st.sends = true → (s.port p).tx.cannot c = false →
      let u := s.linkFields p c
      let took := fun (t : State) => t.modPort p fun x => { x with lastCarno := some c.carno.toNat }
      (bitOf s.fence.toNat p = true → fencedOff c = true →
          exec i s = .next (u.modPort p fun x => { x with fenceDrop := x.fenceDrop + 1 }))
        ∧ ((bitOf s.fence.toNat p = false ∨ fencedOff c = false) → s.runOf p = none → exec i s = .next (took (idle u)))
        ∧ ∀ ten x j e, (bitOf s.fence.toNat p = false ∨ fencedOff c = false) → s.runOf p = some (ten, x) → c.brkt = 0 →
          (s.ten ten).plan x p c.carno.toNat = .cycle j e → s.shutTen ten = false →
          (x.check (u.port p).lastCarno e c = none → exec i s = .next (took (act u ten e)))
            ∧ ∀ code, x.check (u.port p).lastCarno e c = some code →
              let d := u.modPort p fun y => { y with discarded := y.discarded + 1 }
              exec i s = .next (if x.st = .running then d.failTen ten (lineRec code p c.carno.toNat j) else d))
    ∧ (∀ (p : Nat) (c : Carriage) (s : State), p < s.ports.length →
      let x := (s.port p).startRx c.carno.toNat
      let y := (s.linkFields p c).port p
      y.taken = x.taken.count c ∧ y.credit0 = x.credit0 + c.cret0.toNat ∧ y.credit1 = x.credit1 + c.cret1.toNat
        ∧ y.fecNow = x.fecNow + c.fec ∧ c.carno.toNat ∈ y.seen ∧ y.st = (s.port p).st)
    ∧ (∀ (p : Nat) (c : Carriage) (s : State), p < s.ports.length →
      let ms := msgsOf c.vc 58 (c.payload.take c.len.toNat)
      let x := s.port p
      let y := (s.takeFree p c).port p
      (c.vc = false → x.vc0.length < 128 → ms ≠ [] → y = { x with vc0 := x.vc0 ++ [ms] })
        ∧ (c.vc = true → x.vc1.length < 128 → ms ≠ [] → y = { x with vc1 := x.vc1 ++ [ms] })
        ∧ (c.vc = false → 128 ≤ x.vc0.length → y = { x with discarded := x.discarded + 1 })
        ∧ (c.vc = true → 128 ≤ x.vc1.length → y = { x with discarded := x.discarded + 1 }))
    ∧ (∀ (p n fec : Nat) (s : State), p < 16 → ((s.port p).st.sends = true ∨ s.contained p = true) →
      exec (.discardedCarriage p n fec) s = .next ((s.count (cntFecCor p) fec).modPort p fun x =>
        { x.startRx n with uncorr := (x.startRx n).uncorr + 1, fecNow := (x.startRx n).fecNow + fec }))
    ∧ (∀ (p n ten : Nat) (s : State) (x : Timetable), p < 16 → s.runOf p = some (ten, x) →
      ((s.ten ten).plan x p n).expects = true → (s.port p).seen.contains n = false → s.mayPass (n + 48) = true →
      let u := (s.atTick (n + 48)).modPort p fun y => { y with seen := insertNew y.seen n }
      let counted := u.modPort p fun y => { y with discarded := y.discarded + 1 }
      (∀ j e, (s.ten ten).plan x p n = .cycle j e →
          exec (.carriageTimeout p n (n + 48)) s = .next (if x.st = .running then u.failTen ten (lineRec 0x40 p n j) else counted))
        ∧ ∀ j e, (s.ten ten).plan x p n = .roll j e → exec (.carriageTimeout p n (n + 48)) s = .next counted)
    ∧ ∀ (p : Nat) (c : Carriage) (s : State), (s.port p).st = .training → c.cls.toNat = 4 → c.ctype.toNat = 6 →
      exec (.link p c) s = .next (s.modPort p (·.takeLink (leAt c.payload 0 8)))

/-! ### The line: ports, lanes and power (R8–R11, R29, R30, R241, R269–R274, R286, R288, R402, R463–R466, R483–R485, R502–R506) -/

/-- A port trained, disabled, retired and fenced; its spare stepped, switched and jumped; its injector armed; and the hall counter. -/
def Obligations.PortEvents : Prop :=
  (∀ (p : Nat) (s : State), p < 16 → s.opened = true →
      exec (.lineTrain p) s = .next (s.trainPort p) ∧ exec (.lineDown p) s = .next (s.disablePort p)
        ∧ (∀ lanes, exec (.lineRetire p lanes) s = .next (s.writeRetire p lanes))
        ∧ (∀ v, exec (.injectorArm p v) s = .next (
          if s.injAllowed p then s.modPort p fun x => { x with inj := x.inj.load v s.tick } else s.setLockvio)))
    ∧ (∀ (p : Nat) (s : State), p < s.ports.length → (s.port p).st = .training →
      (∃ t, exec (.trainingComplete p .misaligned) s = .next t ∧ (t.port p).st = .down ∧ (t.port p).reason = 5)
        ∧ (∀ good inv lat, (setBits 17 (s.failedLanes p good).toNat).length ≤ 1 → lat ≤ 48 →
          ∃ t, exec (.trainingComplete p (.trained good inv lat)) s = .next t ∧ (t.port p).st = .idle
            ∧ (t.port p).retired = s.failedLanes p good ∧ (t.port p).lat = BitVec.ofNat 8 lat)
        ∧ (∀ good inv lat, 2 ≤ (setBits 17 (s.failedLanes p good).toNat).length →
          ∃ t, exec (.trainingComplete p (.trained good inv lat)) s = .next t ∧ (t.port p).st = .down ∧ (t.port p).reason = 3)
        ∧ (∀ good inv lat, (setBits 17 (s.failedLanes p good).toNat).length ≤ 1 → 48 < lat →
          ∃ t, exec (.trainingComplete p (.trained good inv lat)) s = .next t ∧ (t.port p).st = .down ∧ (t.port p).reason = 4
            ∧ (t.port p).lat = BitVec.ofNat 8 (min lat 255))
        ∧ ∀ t, (s.port p).trainStart + 31250000 ≤ t → s.mayPass t = true →
          ∃ u, exec (.trainingSignalTimeout p t) s = .next u ∧ (u.port p).st = .down ∧ (u.port p).reason = 2)
    ∧ (∀ (v : W16) (s : State), s.opened = true →
      exec (.lineFence v) s = .next (
        if (List.range 16).any (fun p => v.getLsbD p && !s.fence.getLsbD p && ((s.port p).st == .armed || (s.port p).st == .running
          || (s.port p).st == .braking)) then s.setFenceErr else { s with fence := v }))
    ∧ (∀ (i : BitVec 9) (m : W16) (s : State), s.opened = true → i.toNat < 288 →
      exec (.routeWrite i m) s = .next { s with routeIdx := i, route := smSet 0 s.route i.toNat m })
    ∧ (∀ (p t : Nat) (s : State), (s.port p).st.sends = true → s.mayPass t = true →
      let x := (s.port p).tx
      let came := t - (s.port p).lat.toNat
      ((s.port p).rotating = true → x.held = false → x.next = none → x.target = none → x.stepped + 7812500 ≤ t →
          exec (.rotationStep p t) s = .next ((s.atTick t).modPort p fun y =>
            { y with tx := { y.tx with next := some (t + 512, y.tx.sweep.1), jump := false, stepped := t, up := y.tx.sweep.2 } }))
        ∧ (∀ l, x.target = some l → x.next = none → x.pos ≠ l →
          exec (.retirementStep p t) s = .next ((s.atTick t).modPort p fun y =>
            { y with tx := { y.tx with next := some (t + 512, if y.tx.pos < l then y.tx.pos + 1 else y.tx.pos - 1)
                                       jump := false, stepped := t } }))
        ∧ ((x.stepDue t = true ∨ (s.port p).rx.stepDue came = true) →
          exec (.rotationSwitch p t) s = .next (((s.atTick t).switchTx p t).switchRx p t))
        ∧ ((x.jumpDue t = true ∨ (s.port p).rx.jumpDue came = true) →
          exec (.spareJump p t) s = .next (((s.atTick t).jumpTx p t).jumpRx p t)))
    ∧ (∀ (p : Nat) (s : State), (s.port p).st.sends = true → (s.port p).rotating = true → (s.port p).tx.held = false →
      (s.port p).tx.next = none → (s.port p).tx.target = none →
      let bit : BitVec 17 := BitVec.ofNat 17 (2 ^ (s.port p).tx.pos)
      let failed := s.modPort p fun y => { y with calFail := y.calFail ||| bit, calOk := y.calOk &&& ~~~bit }
      exec (.calibrationVisit p .pass) s = .next (s.modPort p fun y => { y with calFail := y.calFail &&& ~~~bit, calOk := y.calOk ||| bit })
        ∧ exec (.calibrationVisit p .fail) s = .next (
          if bitOf (s.port p).calFail.toNat (s.port p).tx.pos then failed.retireLane p (s.port p).tx.pos else failed)
        ∧ exec (.calibrationVisit p .hardFail) s = .next (failed.retireLane p (s.port p).tx.pos))
    ∧ (∀ (p lane : Nat) (s : State), (s.port p).st.sends = true → lane < 17 → lane ≠ (s.port p).rx.pos → (s.port p).jreq ≠ some lane →
      exec (.laneLost p lane) s = .next (
        if (s.port p).rx.held = true ∨ (s.port p).jreq.isSome = true then (s.lostRec p lane).portDown p 6
        else (s.lostRec p lane).modPort p fun y => { y with jreq := some lane }))
    ∧ ∀ s : State, exec .hallCounterSlip s = .next (if s.opened then s.contain 1 none 0 else s)

/-- The governor, its reports and the thermal sensors: an evaluation every 1,024 ticks, which no tick passes, sends no change while one is unacknowledged, and
at most four steps otherwise, within 0.55 V to 0.85 V once there; a report is stale after 4,096 ticks; a stack is hot above 95 °C until
it is at 92 °C or below. -/
def Obligations.PowerEvents : Prop :=
  (∀ (t : Nat) (s : State), s.governed = true → s.mayPass t = true → s.pwr.lastEval + 1024 ≤ t →
      s.pwr.vid ≤ 48 → ∃ u, exec (.governorEvaluation t) s = .next u ∧ u.pwr.lastEval = s.pwr.lastEval + 1024
        ∧ (s.pwr.vidBusy = true → u.pwr.vid = s.pwr.vid)
        ∧ (u.pwr.vid ≤ s.pwr.vid + 4 ∧ s.pwr.vid ≤ u.pwr.vid + 4)
        ∧ (s.pwr.vidBusy = false → s.formationRuns = true → s.pwr.vid < 16 → s.pwr.vid < u.pwr.vid)
        ∧ (s.pwr.vidBusy = false → s.formationRuns = true → 16 ≤ s.pwr.vid → 16 ≤ u.pwr.vid ∧ u.pwr.vid ≤ 48))
    ∧ (∀ (t : Nat) (s : State), s.governed = true → s.tick ≤ s.pwr.lastEval + 1024 → s.pwr.lastEval + 1024 < t → s.mayPass t = false)
    ∧ (∀ (t mhz : Nat) (s : State), s.governed = true → s.mayPass t = true → s.pwr.lastRate + 1024 ≤ t →
      exec (.rateReport t mhz) s = .next { s.atTick t with
        pwr := { s.pwr with rate := BitVec.ofNat 16 mhz, lastRate := s.pwr.lastRate + 1024 } })
    ∧ (∀ (w : W16) (s : State), exec (.powerTelemetry w) s = .next { s with
        pwr := { s.pwr with ptel := w, ptelTick := some s.tick, stale := false, staleRecorded := false } })
    ∧ (∀ (t : Nat) (s : State), s.governed = true → s.pwr.stale = false → s.mayPass t = true →
      s.pwr.ptelTick.getD s.pwr.loadedTick + 4096 ≤ t →
      exec (.powerReportStale t) s = .next { s.atTick t with pwr := { s.pwr with stale := true } })
    ∧ (∀ s : State, s.pwr.vidBusy = true → exec .vidAck s = .next { s with pwr := { s.pwr with vidBusy := false } })
    ∧ ∀ (k : Nat) (temp : BitVec 9) (s : State), k < 8 → smOk 0 0 s.pwr.temps = true →
      ∃ u, exec (.thermalReport k temp) s = .next u ∧ smGet 0 u.pwr.temps k = temp
        ∧ (190 < temp.toNat → k ∈ u.pwr.hot) ∧ (temp.toNat ≤ 184 → k ∉ u.pwr.hot)
        ∧ (184 < temp.toNat → temp.toNat ≤ 190 → (k ∈ u.pwr.hot ↔ k ∈ s.pwr.hot)) ∧ ∀ j, j ≠ k → (j ∈ u.pwr.hot ↔ j ∈ s.pwr.hot)

/-! ### Tenancies (R157, R158, R289, R405–R415, R421–R432, R438–R440, R443, R447) -/

/-- OPEN makes a FREE tenancy LOADING with context 0 fresh in slot 0, where clusters, groups and shares allow it; RUN makes it RUNNING; an
epoch advances, or is deferred until no ticket of the epoch it would reuse is out; the stateful units go to the next waiting context
once their holder is idle; a hint is advice. A write in another state sets STATE and changes nothing else of the tenancy. -/
def Obligations.TenancyEvents : Prop :=
  ∀ (ten : Nat) (s : State), ten < 8 → s.tens.length = 8 →
    let x := s.ten ten
    (s.opened = true →
        (((s.st = .ready ∨ s.st = .serving) → x.st = .free → s.openOk ten = true → 0 < x.slots.length →
            ∃ t, exec (.openTenancy ten) s = .next t ∧ (t.ten ten).st = .loading ∧ ((t.ten ten).slot 0).st = .resident
              ∧ ((t.ten ten).slot 0).ctx = 0 ∧ (t.ten ten).holder = none ∧ t.st = .serving)
          ∧ ((s.st = .ready ∨ s.st = .serving) → x.st = .free → s.openOk ten = false →
            exec (.openTenancy ten) s = .next (s.tenErr ten errValue))
          ∧ ((s.st = .ready ∨ s.st = .serving) → x.st ≠ .free → exec (.openTenancy ten) s = .next (s.tenErr ten errState))
          ∧ (x.st = .loading → ∃ t, exec (.runTenancy ten) s = .next t ∧ (t.ten ten).st = .running)
          ∧ (x.st ≠ .loading → exec (.runTenancy ten) s = .next (s.tenErr ten errState))
          ∧ (x.epochPend = false → x.epochBlocked = false →
            exec (.ledEpochAdv ten) s = .next (s.modTen ten fun y => { y with epoch := y.epoch + 1 }))
          ∧ (x.epochPend = false → x.epochBlocked = true →
            exec (.ledEpochAdv ten) s = .next (s.modTen ten fun y => { y with epochPend := true, epochWait := none }))
          ∧ (x.epochPend = true → exec (.ledEpochAdv ten) s = .next (s.tenErr ten errEpoch))))
      ∧ (s.opened = false → exec (.openTenancy ten) s = .next s ∧ exec (.runTenancy ten) s = .next s ∧ exec (.ledEpochAdv ten) s = .next s)
      ∧ (x.epochPend = true → x.epochBlocked = false →
        ∃ t, exec (.epochDeferredAdvance ten) s = .next t ∧ (t.ten ten).epoch = x.epoch + 1 ∧ (t.ten ten).epochPend = false
          ∧ ∀ h ∈ t.cohorts, (s.task? h.task).any (·.ten == ten) = true → ∀ k ∈ h.coaches, k.epochWait = none)
      ∧ (∀ n, s.nextHolder ten = some n → (x.holder ≠ some n ∨ x.holdLost = true) → s.holderIdle ten = true →
        ∃ t, exec (.holderSwitch ten) s = .next t ∧ t = (s.releaseUnits ten).giveUnits ten n ∧ (t.ten ten).holder = some n
          ∧ (t.ten ten).holdSince = s.tick ∧ (t.ten ten).holdLost = false)
      ∧ (∀ n m t, x.holder = some n → x.holdLost = false → m < 4 → m ≠ n → s.slotWaits ten m = true → x.hold.toNat ≠ 0 → s.mayPass t = true →
        x.holdSince + x.hold.toNat ≤ t →
        exec (.holdTimeout ten t) s = .next ((s.atTick t).modTen ten fun y => { y with holdLost := true }))
      ∧ (∀ t, s.mayPass t = true →
        let u := s.atTick t
        let y := u.ten ten
        y.live = true → y.evrun ≠ 0 → y.hinted = false → y.residents ≠ [] → y.allBlocked t = true →
        exec (.swapHint ten t) s = .next ((u.event 0xA6 0 (tenCtx ten 0) 0 (maskOf y.residents) feWord).modTen ten fun z =>
          { z with hinted := true }))
      ∧ (s.opened = true → (x.st = .quiescing ∨ x.st = .free) → s.ledClear.getLsbD ten = false → s.clearIdle ten = true →
        s.tenBooks ten = [] → ∃ t, exec (.tenancyClear ten) s = .next t ∧ t.ledClear.getLsbD ten = true ∧ t.tens = s.tens)

/-- On-die arrays. A corrected error is counted alone; a line of the row cache and an entry of a translation buffer go with no record;
a word of a task's own state aborts that task; a tenancy's timetable or cart buffers halt that tenancy; and an error in what the whole
block leans on contains the block with CAUSE 3, after which the host's command that follows reaches nothing (R441, log 97). -/
def OnDieArrays : Prop :=
  ∀ (s : State) (e : ArrayErr), s.powered = true → s.resetLow = false → s.tens.length = 8 → s.ports.length = 16 →
    let hm : HostMem := { errs := [e] }
    let u := s.hosted hm
    (e = .corrected → u = s.count cntArrayCe 1)
      ∧ (∀ slice set way, e = .rowCache slice set way → (s.cntOf cntArrayCe < Config.cntMax → u.ev = s.ev) ∧ u.mem = s.mem ∧ u.tasks = s.tasks
        ∧ ∀ l, l ∈ u.rc.lines ↔ l ∈ s.rc.lines ∧ ¬(l.slice = slice ∧ l.set = set ∧ l.way = way))
      ∧ (∀ set way, e = .blockTlb set way → u.ev = s.ev ∧ u.tasks = s.tasks
        ∧ ∀ y ∈ u.xlt.btlb, y ∈ s.xlt.btlb ∧ (y.1 = set → y.2.1 = way → y.2.2.locked = true))
      ∧ (∀ id unit k, e = .task id unit → s.task? id = some k → u = s.failTask k.ten k.ctx id (arrayRec unit))
      ∧ (∀ n unit, e = .line n unit → n < 8 → (s.ten n).st ≠ .free → (s.ten n).st ≠ .halted →
        (u.ten n).st = .halted ∧ (∀ k ∈ u.tasks, k.ten ≠ n) ∧ u.st = s.st)
      ∧ ∀ unit, e = .block unit → s.st ≠ .off → s.st ≠ .contained →
        u.st = .contained ∧ u.cause = 3 ∧ (∀ p, p < 16 → (u.port p).st = .down)
          ∧ (∀ n, n < 8 → (u.ten n).st = if (s.ten n).st = .free then .free else .halted)
          ∧ ∀ i, hostMem i = some hm → exec i s = .next u

/-- A quiesce is refused, or runs until its function is idle; then the function is DISABLED, a tenancy FREE with its tables and hitches
released; a book out of balance acts at its scope instead. ENABLE brings a DISABLED function back. BLOCK of `ERR_CONTAIN` contains the
block: every port DOWN, every tenancy that held it HALTED; TENANCY halts one. The message of a hold-off leaves at its end. Errors of
on-die arrays take with them what R441 says (log 97). -/
def Obligations.QuiesceAndContainment : Prop :=
  (∀ (kind : BitVec 3) (index : BitVec 8) (lane : BitVec 5) (force : Bool) (s : State),
      (s.st = .off ∨ s.st = .contained ∨ s.resetLow = true) →
      exec (.quiesce kind index lane force) s = .next s ∧ exec (.quiesceEnable kind index lane) s = .next s)
    ∧ (∀ (kind : BitVec 3) (index : BitVec 8) (lane : BitVec 5) (force : Bool) (s : State), s.st ≠ .off → s.st ≠ .contained →
      s.resetLow = false → s.quiesce.st ≠ 1 →
      let target : BitVec 24 := lane.zeroExtend 24 <<< 16 ||| index.zeroExtend 24 <<< 8 ||| kind.zeroExtend 24
      (s.quiesceRefused kind.toNat index.toNat lane.toNat force = true →
          exec (.quiesce kind index lane force) s = .next { s with quiesce := { s.quiesce with st := 3, forced := false, target := target } })
        ∧ (s.quiesceRefused kind.toNat index.toNat lane.toNat force = false → force = false →
          ∃ t, exec (.quiesce kind index lane force) s = .next t
            ∧ t = State.startQuiesce { s with quiesce := { s.quiesce with st := 1, forced := false, target := target } } kind.toNat
              index.toNat lane.toNat
            ∧ t.quiesce.st = 1)
        ∧ (s.quiesceRefused kind.toNat index.toNat lane.toNat true = false →
          exec (.quiesce kind index lane true) s = .next (State.forceQuiesce (State.startQuiesce { s with
            quiesce := { s.quiesce with st := 1, forced := true, target := target } } kind.toNat index.toNat lane.toNat) kind.toNat
            index.toNat (target.toNat + 2 ^ 24)))
        ∧ (s.disabledFn kind.toNat index.toNat = true →
          exec (.quiesceEnable kind index lane) s = .next (State.setEnable { s with
            quiesce := { s.quiesce with st := 0, forced := false, target := target } } kind.toNat index.toNat true))
        ∧ (s.disabledFn kind.toNat index.toNat = false →
          exec (.quiesceEnable kind index lane) s = .next { s with quiesce := { s.quiesce with st := 3, forced := false, target := target } }))
    ∧ (∀ s : State, s.quiesce.st = 1 →
      let kind := (s.quiesce.target &&& 7).toNat
      let index := ((s.quiesce.target >>> 8) &&& 0xFF).toNat
      s.functionIdle kind index ((s.quiesce.target >>> 16) &&& 0x1F).toNat s.quiesce.forced = true →
        (∀ t, s.touched kind index = some t → s.tenBooks t = []) →
        ∃ t, exec .functionDisabled s = .next t ∧ t = s.disableFn kind index ∧ t.quiesce.st ≠ 1
          ∧ (kind = 5 → index < s.tens.length →
            (t.ten index).st = .free ∧ (t.ten index).tables = [] ∧ (t.ten index).hitches = [] ∧ ∀ k ∈ t.tasks, k.ten ≠ index))
    ∧ (∀ (s : State) (t : Nat) (b : Broken) (bs : List Broken), s.quiesce.st = 1 → s.quiesce.forced = false →
      let kind := (s.quiesce.target &&& 7).toNat
      let index := ((s.quiesce.target >>> 8) &&& 0xFF).toNat
      s.functionIdle kind index ((s.quiesce.target >>> 16) &&& 0x1F).toNat false = true →
        s.touched kind index = some t → s.tenBooks t = b :: bs →
        exec .functionDisabled s = .next ((b :: bs).foldl (fun (s : State) b => s.actBroken t b) s))
    ∧ (∀ s : State, s.st ≠ .off → s.st ≠ .contained → s.resetLow = false → s.tens.length = 8 → s.ports.length = 16 →
      (∃ t, exec .containBlock s = .next t ∧ t.st = .contained ∧ t.cause = 5 ∧ (∀ p, p < 16 → (t.port p).st = .down)
          ∧ ∀ n, n < 8 → (t.ten n).st = if (s.ten n).st = .free then .free else .halted)
        ∧ ∀ n, n < 8 → (s.ten n).st ≠ .free → (s.ten n).st ≠ .halted →
          ∃ t, exec (.haltTenancy n) s = .next t ∧ (t.ten n).st = .halted ∧ (∀ k ∈ t.tasks, k.ten ≠ n) ∧ t.st = s.st)
    ∧ (∀ (t : Nat) (s : State), s.ev.ien = true → s.ev.msgDue = true → s.mayPass t = true →
      (∀ n, s.ev.lastMsg = some n → n + s.ev.holdoff.toNat ≤ t) → exec (.holdoffEnd t) s = .next (s.atTick t).evSignal)
    ∧ OnDieArrays

/-! ### Bring-up, firmware and the control port (R13, R38, R448–R462, R467–R470, R477, R486–R490, R492) -/

/-- The boot check is GO's effect in SAFE: where it passes the block is LOADED with the personality's functions enabled, and where it fails
`FW_STAT` shows the first check that failed. The self-test, a test on demand, an update and its switch, timeout and watchdog; DRAIN; the
reset input's release; and the test instructions. -/
def Obligations.BringUp : Prop :=
  (∀ (v : Verdicts) (grant : W32) (ways : W64) (hm : HostMem) (s0 : State), InPool hm →
      let s := s0.hosted hm
      let bs := s.poolBytes (s.fw.perAddr.toNat * 4096) 256
      let p := personalityOf bs
      let f := fwHeaderOf (s.poolBytes (s.fw.addrFe.toNat * 4096) 64)
      let l := fwHeaderOf (s.poolBytes (s.fw.addrLn.toNat * 4096) 64)
      (s.st = .safe → s.resetLow = false →
          (bootDetail v bs p f l = none →
              ∃ t, exec (.go v grant ways hm) s0 = .next t ∧ t.st = .loaded ∧ t.enCluster = p.clusters ∧ t.enPort = p.ports
                ∧ t.haddr = p.haddr ∧ t.fw.boot = 2 ∧ t.fw.fe = f.image ∧ t.fw.ln = l.image ∧ t.mem.grant = grant)
            ∧ ∀ d, bootDetail v bs p f l = some d →
              ∃ t, exec (.go v grant ways hm) s0 = .next t ∧ t.st = .safe ∧ t.fw.boot = 3 ∧ t.fw.detail = BitVec.ofNat 8 d)
        ∧ (s.opened = true → exec (.go v grant ways hm) s0 = .next s.setLockvio))
    ∧ (∀ (pass : BitVec 8) (shared : Bool) (s : State), s.st = .loaded → s.resetLow = false →
      ∃ t, exec (.selfTestDone pass shared) s = .next t
        ∧ ((pass &&& s.fw.perClusters ≠ 0 ∧ shared = true) → t.st = .ready ∧ t.enCluster = s.enCluster &&& (pass &&& s.fw.perClusters))
        ∧ ((pass &&& s.fw.perClusters = 0 ∨ shared = false) → t.st = .contained ∧ t.cause = 3))
    ∧ (∀ (c : BitVec 3) (s : State), s.answering = true →
      (s.fw.busy = false → s.disabledFn 0 c.toNat = true → s.opened = true → s.st ≠ .loaded →
          exec (.selftestRun c) s = .next { s with fw := { s.fw with testCl := c, busy := true } })
        ∧ ((s.fw.busy = true ∨ s.disabledFn 0 c.toNat = false ∨ s.opened = false ∨ s.st = .loaded) →
          ∃ t, exec (.selftestRun c) s = .next t ∧ t.fw.refused = true ∧ t.fw.busy = s.fw.busy))
    ∧ (∀ (pass : Bool) (s : State), s.fw.busy = true →
      ∃ t, exec (.clusterTestDone pass) s = .next t ∧ t.fw.busy = false ∧ t.fw.pass.getLsbD s.fw.testCl.toNat = pass
        ∧ (∀ n, n ≠ s.fw.testCl.toNat → t.fw.pass.getLsbD n = s.fw.pass.getLsbD n) ∧ t.enCluster = s.enCluster)
    ∧ (∀ (kind : BitVec 2) (utmo : W32) (sig : Bool) (hm : HostMem) (s0 : State), InPool hm →
      let s := s0.hosted hm
      let h := fwHeaderOf (s.poolBytes ((if kind = 1 then s.fw.addrFe else s.fw.addrLn).toNat * 4096) 64)
      (s.opened = true → s.fw.update = none → (kind = 1 ∨ kind = 2) →
          (s.updateDetail kind.toNat sig h = none →
              exec (.update kind utmo sig hm) s0 = .next { s with fw := { s.fw with
                upd := 2, update := some ⟨kind.toNat, h.image, s.tick, if utmo = 0 then 1250000 else utmo.toNat⟩ } })
            ∧ ∀ d, s.updateDetail kind.toNat sig h = some d →
              ∃ t, exec (.update kind utmo sig hm) s0 = .next t ∧ t.fw = { s.fw with upd := 5, detail := BitVec.ofNat 8 d })
        ∧ (s.opened = true → (s.fw.update.isSome = true ∨ (kind ≠ 1 ∧ kind ≠ 2)) →
          exec (.update kind utmo sig hm) s0 = .next s.setLockvio))
    ∧ (∀ (s : State) (u : FwUpdate), s.opened = true → s.fw.update = some u →
      (s.fw.upd = 2 → exec .fwImageReady s = .next { s with fw := { s.fw with upd := 3 } })
        ∧ (s.fw.upd = 3 → s.switchOk u.kind = true →
          exec .fwSwitch s = .next { s with fw := { s.fw with
            upd := 4, update := none, fe := if u.kind = 1 then u.image else s.fw.fe, ln := if u.kind = 1 then s.fw.ln else u.image } }))
    ∧ (∀ (t : Nat) (s : State) (u : FwUpdate), s.fw.update = some u → s.mayPass t = true →
      (u.start + u.utmo ≤ t ∨ (s.fw.upd = 2 ∧ u.start + 125000 ≤ t)) →
      ∃ v, exec (.fwUpdateTimeout t) s = .next v ∧ v.fw = { s.fw with upd := 5, update := none })
    ∧ (∀ (image : Nat) (s : State), s.opened = true → (image = 1 ∨ image = 2) →
      ∃ t, exec (.fwWatchdog image) s = .next t ∧ t.st = .contained ∧ t.cause = 2 ∧ t.fw.update = none)
    ∧ (∀ s : State, exec .ctlDrain s = .next (if s.st = .serving ∧ s.resetLow = false then s.moveBlock .draining else s))
    ∧ (∀ (b : Bool) (s : State), s.resetLow = true →
      exec (.resetRelease b) s = .next { s with resetLow := false, testMode := b, wrap := .wsBypass })
    ∧ (∀ (op : TapOp) (s : State), exec (.tapInstruction op) s = .next { s with tap := op })
    ∧ ∀ (op : WrapOp) (s : State), exec (.wrapperInstruction op) s = .next { s with wrap := op }

/-- A register write always ends in a next state. In reset, in OFF, and where the block's state lets the write reach no register, nothing
changes; a byte enable the port does not take is LOCKVIO; an offset no map names, and a register that is read only, keep everything. 
`PWR_LIMIT` reads back the value written, at most 0x1C20, and `TEN_FAULT_TMO` takes it whole; a bit written 1 in `ERR_BLK_STAT` clears,
unless it was set in this tick, a setting that wrote no record getting its record now (R38, R448, R477, R489, R490). -/
def Obligations.RegisterWrites : Prop :=
  ∀ (addr : BitVec 17) (data : W64) (s : State),
    let a := addr.toNat / 8 * 8
    (∀ be, ∃ t, exec (.registerWrite addr be data) s = .next t)
      ∧ (∀ be, (s.st = .off ∨ s.resetLow = true ∨ (s.st = .contained ∧ a ≠ 0x010) ∨ (s.st = .safe ∧ safeRegion a = false)) →
        exec (.registerWrite addr be data) s = .next s)
      ∧ (∀ be, s.opened = true → be ≠ 0xFF → be ≠ 0x0F → be ≠ 0xF0 → exec (.registerWrite addr be data) s = .next s.setLockvio)
      ∧ (∀ be, s.opened = true → (be = 0xFF ∨ be = 0x0F ∨ be = 0xF0) → (a = 0x000 ∨ a = 0x008 ∨ a = 0x030 ∨ (0x4800 ≤ a ∧ a < 0x5000)
          ∨ (0x7000 ≤ a ∧ a < 0x8000) ∨ (0xC000 ≤ a ∧ a < 0xD000) ∨ (0xEC00 ≤ a ∧ a < 0xF000)) →
        exec (.registerWrite addr be data) s = .next s)
      ∧ (a = 0xF808 → s.opened = true → ∃ t, exec (.registerWrite addr 0xFF data) s = .next t
        ∧ t.regValue a = min 0x1C20 (data.toNat % 2 ^ 14) ∧ t = { s with pwr := t.pwr })
      ∧ (∀ n, n < 8 → a = 0x2098 + 0x400 * n → s.opened = true →
        exec (.registerWrite addr 0xFF data) s = .next (s.modTen n fun x => { x with faultTmo := data.extractLsb' 0 32 }))
      ∧ (a = 0xE000 → s.opened = true →
        let keeps := fun (k : Nat) => !data.getLsbD k || bitOf (s.heldBits 0xE000) k
        let t := { s with lockvio := s.lockvio && keeps 0, fenceErr := s.fenceErr && keeps 1, evrlost := s.evrlost && keeps 2 }
        exec (.registerWrite addr 0xFF data) s = .next (t.ackBits 0xE000 data.toNat)
          ∧ ((∀ x ∈ s.setNow, x.offset = 0xE000 → x.logged = true) → t.ackBits 0xE000 data.toNat = t))
end

