-- ==== Sys2Proof/Laws/State.lean ====
section
/-! SUPPORT. What each named update of the state leaves as it was, field by field, and what it reads back as; and the frame of
the operations that write records and counters. Generated by shape: one lemma per field per update. -/

namespace Sys2Proof.Machine

/-! ### modTen -/

@[simp] theorem State.modTen_pending (s : State) (t : Nat) (f : Tenancy → Tenancy) : (s.modTen t f).pending = s.pending := rfl
@[simp] theorem State.modTen_tick (s : State) (t : Nat) (f : Tenancy → Tenancy) : (s.modTen t f).tick = s.tick := rfl
@[simp] theorem State.modTen_free (s : State) (t : Nat) (f : Tenancy → Tenancy) : (s.modTen t f).free = s.free := rfl
@[simp] theorem State.modTen_st (s : State) (t : Nat) (f : Tenancy → Tenancy) : (s.modTen t f).st = s.st := rfl
@[simp] theorem State.modTen_cause (s : State) (t : Nat) (f : Tenancy → Tenancy) : (s.modTen t f).cause = s.cause := rfl
@[simp] theorem State.modTen_lockvio (s : State) (t : Nat) (f : Tenancy → Tenancy) : (s.modTen t f).lockvio = s.lockvio := rfl
@[simp] theorem State.modTen_fenceErr (s : State) (t : Nat) (f : Tenancy → Tenancy) : (s.modTen t f).fenceErr = s.fenceErr := rfl
@[simp] theorem State.modTen_evrlost (s : State) (t : Nat) (f : Tenancy → Tenancy) : (s.modTen t f).evrlost = s.evrlost := rfl
@[simp] theorem State.modTen_resetLow (s : State) (t : Nat) (f : Tenancy → Tenancy) : (s.modTen t f).resetLow = s.resetLow := rfl
@[simp] theorem State.modTen_powered (s : State) (t : Nat) (f : Tenancy → Tenancy) : (s.modTen t f).powered = s.powered := rfl
@[simp] theorem State.modTen_testMode (s : State) (t : Nat) (f : Tenancy → Tenancy) : (s.modTen t f).testMode = s.testMode := rfl
@[simp] theorem State.modTen_tap (s : State) (t : Nat) (f : Tenancy → Tenancy) : (s.modTen t f).tap = s.tap := rfl
@[simp] theorem State.modTen_wrap (s : State) (t : Nat) (f : Tenancy → Tenancy) : (s.modTen t f).wrap = s.wrap := rfl
@[simp] theorem State.modTen_linkRst (s : State) (t : Nat) (f : Tenancy → Tenancy) : (s.modTen t f).linkRst = s.linkRst := rfl
@[simp] theorem State.modTen_haddr (s : State) (t : Nat) (f : Tenancy → Tenancy) : (s.modTen t f).haddr = s.haddr := rfl
@[simp] theorem State.modTen_enCluster (s : State) (t : Nat) (f : Tenancy → Tenancy) : (s.modTen t f).enCluster = s.enCluster := rfl
@[simp] theorem State.modTen_enGather (s : State) (t : Nat) (f : Tenancy → Tenancy) : (s.modTen t f).enGather = s.enGather := rfl
@[simp] theorem State.modTen_enMover (s : State) (t : Nat) (f : Tenancy → Tenancy) : (s.modTen t f).enMover = s.enMover := rfl
@[simp] theorem State.modTen_enPort (s : State) (t : Nat) (f : Tenancy → Tenancy) : (s.modTen t f).enPort = s.enPort := rfl
@[simp] theorem State.modTen_quiesce (s : State) (t : Nat) (f : Tenancy → Tenancy) : (s.modTen t f).quiesce = s.quiesce := rfl
@[simp] theorem State.modTen_ledClear (s : State) (t : Nat) (f : Tenancy → Tenancy) : (s.modTen t f).ledClear = s.ledClear := rfl
@[simp] theorem State.modTen_fw (s : State) (t : Nat) (f : Tenancy → Tenancy) : (s.modTen t f).fw = s.fw := rfl
@[simp] theorem State.modTen_rings (s : State) (t : Nat) (f : Tenancy → Tenancy) : (s.modTen t f).rings = s.rings := rfl
@[simp] theorem State.modTen_overlaps (s : State) (t : Nat) (f : Tenancy → Tenancy) : (s.modTen t f).overlaps = s.overlaps := rfl
@[simp] theorem State.modTen_tasks (s : State) (t : Nat) (f : Tenancy → Tenancy) : (s.modTen t f).tasks = s.tasks := rfl
@[simp] theorem State.modTen_cohorts (s : State) (t : Nat) (f : Tenancy → Tenancy) : (s.modTen t f).cohorts = s.cohorts := rfl
@[simp] theorem State.modTen_copies (s : State) (t : Nat) (f : Tenancy → Tenancy) : (s.modTen t f).copies = s.copies := rfl
@[simp] theorem State.modTen_orders (s : State) (t : Nat) (f : Tenancy → Tenancy) : (s.modTen t f).orders = s.orders := rfl
@[simp] theorem State.modTen_adds (s : State) (t : Nat) (f : Tenancy → Tenancy) : (s.modTen t f).adds = s.adds := rfl
@[simp] theorem State.modTen_nextTask (s : State) (t : Nat) (f : Tenancy → Tenancy) : (s.modTen t f).nextTask = s.nextTask := rfl
@[simp] theorem State.modTen_nextOrder (s : State) (t : Nat) (f : Tenancy → Tenancy) : (s.modTen t f).nextOrder = s.nextOrder := rfl
@[simp] theorem State.modTen_nextCopy (s : State) (t : Nat) (f : Tenancy → Tenancy) : (s.modTen t f).nextCopy = s.nextCopy := rfl
@[simp] theorem State.modTen_clusters (s : State) (t : Nat) (f : Tenancy → Tenancy) : (s.modTen t f).clusters = s.clusters := rfl
@[simp] theorem State.modTen_gtlb (s : State) (t : Nat) (f : Tenancy → Tenancy) : (s.modTen t f).gtlb = s.gtlb := rfl
@[simp] theorem State.modTen_saves (s : State) (t : Nat) (f : Tenancy → Tenancy) : (s.modTen t f).saves = s.saves := rfl
@[simp] theorem State.modTen_xlt (s : State) (t : Nat) (f : Tenancy → Tenancy) : (s.modTen t f).xlt = s.xlt := rfl
@[simp] theorem State.modTen_rc (s : State) (t : Nat) (f : Tenancy → Tenancy) : (s.modTen t f).rc = s.rc := rfl
@[simp] theorem State.modTen_mem (s : State) (t : Nat) (f : Tenancy → Tenancy) : (s.modTen t f).mem = s.mem := rfl
@[simp] theorem State.modTen_ev (s : State) (t : Nat) (f : Tenancy → Tenancy) : (s.modTen t f).ev = s.ev := rfl
@[simp] theorem State.modTen_ports (s : State) (t : Nat) (f : Tenancy → Tenancy) : (s.modTen t f).ports = s.ports := rfl
@[simp] theorem State.modTen_fence (s : State) (t : Nat) (f : Tenancy → Tenancy) : (s.modTen t f).fence = s.fence := rfl
@[simp] theorem State.modTen_routeIdx (s : State) (t : Nat) (f : Tenancy → Tenancy) : (s.modTen t f).routeIdx = s.routeIdx := rfl
@[simp] theorem State.modTen_route (s : State) (t : Nat) (f : Tenancy → Tenancy) : (s.modTen t f).route = s.route := rfl
@[simp] theorem State.modTen_pwr (s : State) (t : Nat) (f : Tenancy → Tenancy) : (s.modTen t f).pwr = s.pwr := rfl
@[simp] theorem State.modTen_cnt (s : State) (t : Nat) (f : Tenancy → Tenancy) : (s.modTen t f).cnt = s.cnt := rfl
@[simp] theorem State.modTen_cntOvf (s : State) (t : Nat) (f : Tenancy → Tenancy) : (s.modTen t f).cntOvf = s.cntOvf := rfl
@[simp] theorem State.modTen_cntNow (s : State) (t : Nat) (f : Tenancy → Tenancy) : (s.modTen t f).cntNow = s.cntNow := rfl
@[simp] theorem State.modTen_cntTick (s : State) (t : Nat) (f : Tenancy → Tenancy) : (s.modTen t f).cntTick = s.cntTick := rfl
@[simp] theorem State.modTen_setNow (s : State) (t : Nat) (f : Tenancy → Tenancy) : (s.modTen t f).setNow = s.setNow := rfl

/-! ### modPort -/

@[simp] theorem State.modPort_pending (s : State) (p : Nat) (f : Port → Port) : (s.modPort p f).pending = s.pending := rfl
@[simp] theorem State.modPort_tick (s : State) (p : Nat) (f : Port → Port) : (s.modPort p f).tick = s.tick := rfl
@[simp] theorem State.modPort_free (s : State) (p : Nat) (f : Port → Port) : (s.modPort p f).free = s.free := rfl
@[simp] theorem State.modPort_st (s : State) (p : Nat) (f : Port → Port) : (s.modPort p f).st = s.st := rfl
@[simp] theorem State.modPort_cause (s : State) (p : Nat) (f : Port → Port) : (s.modPort p f).cause = s.cause := rfl
@[simp] theorem State.modPort_lockvio (s : State) (p : Nat) (f : Port → Port) : (s.modPort p f).lockvio = s.lockvio := rfl
@[simp] theorem State.modPort_fenceErr (s : State) (p : Nat) (f : Port → Port) : (s.modPort p f).fenceErr = s.fenceErr := rfl
@[simp] theorem State.modPort_evrlost (s : State) (p : Nat) (f : Port → Port) : (s.modPort p f).evrlost = s.evrlost := rfl
@[simp] theorem State.modPort_resetLow (s : State) (p : Nat) (f : Port → Port) : (s.modPort p f).resetLow = s.resetLow := rfl
@[simp] theorem State.modPort_powered (s : State) (p : Nat) (f : Port → Port) : (s.modPort p f).powered = s.powered := rfl
@[simp] theorem State.modPort_testMode (s : State) (p : Nat) (f : Port → Port) : (s.modPort p f).testMode = s.testMode := rfl
@[simp] theorem State.modPort_tap (s : State) (p : Nat) (f : Port → Port) : (s.modPort p f).tap = s.tap := rfl
@[simp] theorem State.modPort_wrap (s : State) (p : Nat) (f : Port → Port) : (s.modPort p f).wrap = s.wrap := rfl
@[simp] theorem State.modPort_linkRst (s : State) (p : Nat) (f : Port → Port) : (s.modPort p f).linkRst = s.linkRst := rfl
@[simp] theorem State.modPort_haddr (s : State) (p : Nat) (f : Port → Port) : (s.modPort p f).haddr = s.haddr := rfl
@[simp] theorem State.modPort_enCluster (s : State) (p : Nat) (f : Port → Port) : (s.modPort p f).enCluster = s.enCluster := rfl
@[simp] theorem State.modPort_enGather (s : State) (p : Nat) (f : Port → Port) : (s.modPort p f).enGather = s.enGather := rfl
@[simp] theorem State.modPort_enMover (s : State) (p : Nat) (f : Port → Port) : (s.modPort p f).enMover = s.enMover := rfl
@[simp] theorem State.modPort_enPort (s : State) (p : Nat) (f : Port → Port) : (s.modPort p f).enPort = s.enPort := rfl
@[simp] theorem State.modPort_quiesce (s : State) (p : Nat) (f : Port → Port) : (s.modPort p f).quiesce = s.quiesce := rfl
@[simp] theorem State.modPort_ledClear (s : State) (p : Nat) (f : Port → Port) : (s.modPort p f).ledClear = s.ledClear := rfl
@[simp] theorem State.modPort_fw (s : State) (p : Nat) (f : Port → Port) : (s.modPort p f).fw = s.fw := rfl
@[simp] theorem State.modPort_tens (s : State) (p : Nat) (f : Port → Port) : (s.modPort p f).tens = s.tens := rfl
@[simp] theorem State.modPort_rings (s : State) (p : Nat) (f : Port → Port) : (s.modPort p f).rings = s.rings := rfl
@[simp] theorem State.modPort_overlaps (s : State) (p : Nat) (f : Port → Port) : (s.modPort p f).overlaps = s.overlaps := rfl
@[simp] theorem State.modPort_tasks (s : State) (p : Nat) (f : Port → Port) : (s.modPort p f).tasks = s.tasks := rfl
@[simp] theorem State.modPort_cohorts (s : State) (p : Nat) (f : Port → Port) : (s.modPort p f).cohorts = s.cohorts := rfl
@[simp] theorem State.modPort_copies (s : State) (p : Nat) (f : Port → Port) : (s.modPort p f).copies = s.copies := rfl
@[simp] theorem State.modPort_orders (s : State) (p : Nat) (f : Port → Port) : (s.modPort p f).orders = s.orders := rfl
@[simp] theorem State.modPort_adds (s : State) (p : Nat) (f : Port → Port) : (s.modPort p f).adds = s.adds := rfl
@[simp] theorem State.modPort_nextTask (s : State) (p : Nat) (f : Port → Port) : (s.modPort p f).nextTask = s.nextTask := rfl
@[simp] theorem State.modPort_nextOrder (s : State) (p : Nat) (f : Port → Port) : (s.modPort p f).nextOrder = s.nextOrder := rfl
@[simp] theorem State.modPort_nextCopy (s : State) (p : Nat) (f : Port → Port) : (s.modPort p f).nextCopy = s.nextCopy := rfl
@[simp] theorem State.modPort_clusters (s : State) (p : Nat) (f : Port → Port) : (s.modPort p f).clusters = s.clusters := rfl
@[simp] theorem State.modPort_gtlb (s : State) (p : Nat) (f : Port → Port) : (s.modPort p f).gtlb = s.gtlb := rfl
@[simp] theorem State.modPort_saves (s : State) (p : Nat) (f : Port → Port) : (s.modPort p f).saves = s.saves := rfl
@[simp] theorem State.modPort_xlt (s : State) (p : Nat) (f : Port → Port) : (s.modPort p f).xlt = s.xlt := rfl
@[simp] theorem State.modPort_rc (s : State) (p : Nat) (f : Port → Port) : (s.modPort p f).rc = s.rc := rfl
@[simp] theorem State.modPort_mem (s : State) (p : Nat) (f : Port → Port) : (s.modPort p f).mem = s.mem := rfl
@[simp] theorem State.modPort_ev (s : State) (p : Nat) (f : Port → Port) : (s.modPort p f).ev = s.ev := rfl
@[simp] theorem State.modPort_fence (s : State) (p : Nat) (f : Port → Port) : (s.modPort p f).fence = s.fence := rfl
@[simp] theorem State.modPort_routeIdx (s : State) (p : Nat) (f : Port → Port) : (s.modPort p f).routeIdx = s.routeIdx := rfl
@[simp] theorem State.modPort_route (s : State) (p : Nat) (f : Port → Port) : (s.modPort p f).route = s.route := rfl
@[simp] theorem State.modPort_pwr (s : State) (p : Nat) (f : Port → Port) : (s.modPort p f).pwr = s.pwr := rfl
@[simp] theorem State.modPort_cnt (s : State) (p : Nat) (f : Port → Port) : (s.modPort p f).cnt = s.cnt := rfl
@[simp] theorem State.modPort_cntOvf (s : State) (p : Nat) (f : Port → Port) : (s.modPort p f).cntOvf = s.cntOvf := rfl
@[simp] theorem State.modPort_cntNow (s : State) (p : Nat) (f : Port → Port) : (s.modPort p f).cntNow = s.cntNow := rfl
@[simp] theorem State.modPort_cntTick (s : State) (p : Nat) (f : Port → Port) : (s.modPort p f).cntTick = s.cntTick := rfl
@[simp] theorem State.modPort_setNow (s : State) (p : Nat) (f : Port → Port) : (s.modPort p f).setNow = s.setNow := rfl

/-! ### modCluster -/

@[simp] theorem State.modCluster_pending (s : State) (c : Nat) (f : Cluster → Cluster) : (s.modCluster c f).pending = s.pending := rfl
@[simp] theorem State.modCluster_tick (s : State) (c : Nat) (f : Cluster → Cluster) : (s.modCluster c f).tick = s.tick := rfl
@[simp] theorem State.modCluster_free (s : State) (c : Nat) (f : Cluster → Cluster) : (s.modCluster c f).free = s.free := rfl
@[simp] theorem State.modCluster_st (s : State) (c : Nat) (f : Cluster → Cluster) : (s.modCluster c f).st = s.st := rfl
@[simp] theorem State.modCluster_cause (s : State) (c : Nat) (f : Cluster → Cluster) : (s.modCluster c f).cause = s.cause := rfl
@[simp] theorem State.modCluster_lockvio (s : State) (c : Nat) (f : Cluster → Cluster) : (s.modCluster c f).lockvio = s.lockvio := rfl
@[simp] theorem State.modCluster_fenceErr (s : State) (c : Nat) (f : Cluster → Cluster) : (s.modCluster c f).fenceErr = s.fenceErr := rfl
@[simp] theorem State.modCluster_evrlost (s : State) (c : Nat) (f : Cluster → Cluster) : (s.modCluster c f).evrlost = s.evrlost := rfl
@[simp] theorem State.modCluster_resetLow (s : State) (c : Nat) (f : Cluster → Cluster) : (s.modCluster c f).resetLow = s.resetLow := rfl
@[simp] theorem State.modCluster_powered (s : State) (c : Nat) (f : Cluster → Cluster) : (s.modCluster c f).powered = s.powered := rfl
@[simp] theorem State.modCluster_testMode (s : State) (c : Nat) (f : Cluster → Cluster) : (s.modCluster c f).testMode = s.testMode := rfl
@[simp] theorem State.modCluster_tap (s : State) (c : Nat) (f : Cluster → Cluster) : (s.modCluster c f).tap = s.tap := rfl
@[simp] theorem State.modCluster_wrap (s : State) (c : Nat) (f : Cluster → Cluster) : (s.modCluster c f).wrap = s.wrap := rfl
@[simp] theorem State.modCluster_linkRst (s : State) (c : Nat) (f : Cluster → Cluster) : (s.modCluster c f).linkRst = s.linkRst := rfl
@[simp] theorem State.modCluster_haddr (s : State) (c : Nat) (f : Cluster → Cluster) : (s.modCluster c f).haddr = s.haddr := rfl
@[simp] theorem State.modCluster_enCluster (s : State) (c : Nat) (f : Cluster → Cluster) : (s.modCluster c f).enCluster = s.enCluster := rfl
@[simp] theorem State.modCluster_enGather (s : State) (c : Nat) (f : Cluster → Cluster) : (s.modCluster c f).enGather = s.enGather := rfl
@[simp] theorem State.modCluster_enMover (s : State) (c : Nat) (f : Cluster → Cluster) : (s.modCluster c f).enMover = s.enMover := rfl
@[simp] theorem State.modCluster_enPort (s : State) (c : Nat) (f : Cluster → Cluster) : (s.modCluster c f).enPort = s.enPort := rfl
@[simp] theorem State.modCluster_quiesce (s : State) (c : Nat) (f : Cluster → Cluster) : (s.modCluster c f).quiesce = s.quiesce := rfl
@[simp] theorem State.modCluster_ledClear (s : State) (c : Nat) (f : Cluster → Cluster) : (s.modCluster c f).ledClear = s.ledClear := rfl
@[simp] theorem State.modCluster_fw (s : State) (c : Nat) (f : Cluster → Cluster) : (s.modCluster c f).fw = s.fw := rfl
@[simp] theorem State.modCluster_tens (s : State) (c : Nat) (f : Cluster → Cluster) : (s.modCluster c f).tens = s.tens := rfl
@[simp] theorem State.modCluster_rings (s : State) (c : Nat) (f : Cluster → Cluster) : (s.modCluster c f).rings = s.rings := rfl
@[simp] theorem State.modCluster_overlaps (s : State) (c : Nat) (f : Cluster → Cluster) : (s.modCluster c f).overlaps = s.overlaps := rfl
@[simp] theorem State.modCluster_tasks (s : State) (c : Nat) (f : Cluster → Cluster) : (s.modCluster c f).tasks = s.tasks := rfl
@[simp] theorem State.modCluster_cohorts (s : State) (c : Nat) (f : Cluster → Cluster) : (s.modCluster c f).cohorts = s.cohorts := rfl
@[simp] theorem State.modCluster_copies (s : State) (c : Nat) (f : Cluster → Cluster) : (s.modCluster c f).copies = s.copies := rfl
@[simp] theorem State.modCluster_orders (s : State) (c : Nat) (f : Cluster → Cluster) : (s.modCluster c f).orders = s.orders := rfl
@[simp] theorem State.modCluster_adds (s : State) (c : Nat) (f : Cluster → Cluster) : (s.modCluster c f).adds = s.adds := rfl
@[simp] theorem State.modCluster_nextTask (s : State) (c : Nat) (f : Cluster → Cluster) : (s.modCluster c f).nextTask = s.nextTask := rfl
@[simp] theorem State.modCluster_nextOrder (s : State) (c : Nat) (f : Cluster → Cluster) : (s.modCluster c f).nextOrder = s.nextOrder := rfl
@[simp] theorem State.modCluster_nextCopy (s : State) (c : Nat) (f : Cluster → Cluster) : (s.modCluster c f).nextCopy = s.nextCopy := rfl
@[simp] theorem State.modCluster_gtlb (s : State) (c : Nat) (f : Cluster → Cluster) : (s.modCluster c f).gtlb = s.gtlb := rfl
@[simp] theorem State.modCluster_saves (s : State) (c : Nat) (f : Cluster → Cluster) : (s.modCluster c f).saves = s.saves := rfl
@[simp] theorem State.modCluster_xlt (s : State) (c : Nat) (f : Cluster → Cluster) : (s.modCluster c f).xlt = s.xlt := rfl
@[simp] theorem State.modCluster_rc (s : State) (c : Nat) (f : Cluster → Cluster) : (s.modCluster c f).rc = s.rc := rfl
@[simp] theorem State.modCluster_mem (s : State) (c : Nat) (f : Cluster → Cluster) : (s.modCluster c f).mem = s.mem := rfl
@[simp] theorem State.modCluster_ev (s : State) (c : Nat) (f : Cluster → Cluster) : (s.modCluster c f).ev = s.ev := rfl
@[simp] theorem State.modCluster_ports (s : State) (c : Nat) (f : Cluster → Cluster) : (s.modCluster c f).ports = s.ports := rfl
@[simp] theorem State.modCluster_fence (s : State) (c : Nat) (f : Cluster → Cluster) : (s.modCluster c f).fence = s.fence := rfl
@[simp] theorem State.modCluster_routeIdx (s : State) (c : Nat) (f : Cluster → Cluster) : (s.modCluster c f).routeIdx = s.routeIdx := rfl
@[simp] theorem State.modCluster_route (s : State) (c : Nat) (f : Cluster → Cluster) : (s.modCluster c f).route = s.route := rfl
@[simp] theorem State.modCluster_pwr (s : State) (c : Nat) (f : Cluster → Cluster) : (s.modCluster c f).pwr = s.pwr := rfl
@[simp] theorem State.modCluster_cnt (s : State) (c : Nat) (f : Cluster → Cluster) : (s.modCluster c f).cnt = s.cnt := rfl
@[simp] theorem State.modCluster_cntOvf (s : State) (c : Nat) (f : Cluster → Cluster) : (s.modCluster c f).cntOvf = s.cntOvf := rfl
@[simp] theorem State.modCluster_cntNow (s : State) (c : Nat) (f : Cluster → Cluster) : (s.modCluster c f).cntNow = s.cntNow := rfl
@[simp] theorem State.modCluster_cntTick (s : State) (c : Nat) (f : Cluster → Cluster) : (s.modCluster c f).cntTick = s.cntTick := rfl
@[simp] theorem State.modCluster_setNow (s : State) (c : Nat) (f : Cluster → Cluster) : (s.modCluster c f).setNow = s.setNow := rfl

/-! ### modRing -/

@[simp] theorem State.modRing_pending (s : State) (r : Nat) (f : Ring → Ring) : (s.modRing r f).pending = s.pending := rfl
@[simp] theorem State.modRing_tick (s : State) (r : Nat) (f : Ring → Ring) : (s.modRing r f).tick = s.tick := rfl
@[simp] theorem State.modRing_free (s : State) (r : Nat) (f : Ring → Ring) : (s.modRing r f).free = s.free := rfl
@[simp] theorem State.modRing_st (s : State) (r : Nat) (f : Ring → Ring) : (s.modRing r f).st = s.st := rfl
@[simp] theorem State.modRing_cause (s : State) (r : Nat) (f : Ring → Ring) : (s.modRing r f).cause = s.cause := rfl
@[simp] theorem State.modRing_lockvio (s : State) (r : Nat) (f : Ring → Ring) : (s.modRing r f).lockvio = s.lockvio := rfl
@[simp] theorem State.modRing_fenceErr (s : State) (r : Nat) (f : Ring → Ring) : (s.modRing r f).fenceErr = s.fenceErr := rfl
@[simp] theorem State.modRing_evrlost (s : State) (r : Nat) (f : Ring → Ring) : (s.modRing r f).evrlost = s.evrlost := rfl
@[simp] theorem State.modRing_resetLow (s : State) (r : Nat) (f : Ring → Ring) : (s.modRing r f).resetLow = s.resetLow := rfl
@[simp] theorem State.modRing_powered (s : State) (r : Nat) (f : Ring → Ring) : (s.modRing r f).powered = s.powered := rfl
@[simp] theorem State.modRing_testMode (s : State) (r : Nat) (f : Ring → Ring) : (s.modRing r f).testMode = s.testMode := rfl
@[simp] theorem State.modRing_tap (s : State) (r : Nat) (f : Ring → Ring) : (s.modRing r f).tap = s.tap := rfl
@[simp] theorem State.modRing_wrap (s : State) (r : Nat) (f : Ring → Ring) : (s.modRing r f).wrap = s.wrap := rfl
@[simp] theorem State.modRing_linkRst (s : State) (r : Nat) (f : Ring → Ring) : (s.modRing r f).linkRst = s.linkRst := rfl
@[simp] theorem State.modRing_haddr (s : State) (r : Nat) (f : Ring → Ring) : (s.modRing r f).haddr = s.haddr := rfl
@[simp] theorem State.modRing_enCluster (s : State) (r : Nat) (f : Ring → Ring) : (s.modRing r f).enCluster = s.enCluster := rfl
@[simp] theorem State.modRing_enGather (s : State) (r : Nat) (f : Ring → Ring) : (s.modRing r f).enGather = s.enGather := rfl
@[simp] theorem State.modRing_enMover (s : State) (r : Nat) (f : Ring → Ring) : (s.modRing r f).enMover = s.enMover := rfl
@[simp] theorem State.modRing_enPort (s : State) (r : Nat) (f : Ring → Ring) : (s.modRing r f).enPort = s.enPort := rfl
@[simp] theorem State.modRing_quiesce (s : State) (r : Nat) (f : Ring → Ring) : (s.modRing r f).quiesce = s.quiesce := rfl
@[simp] theorem State.modRing_ledClear (s : State) (r : Nat) (f : Ring → Ring) : (s.modRing r f).ledClear = s.ledClear := rfl
@[simp] theorem State.modRing_fw (s : State) (r : Nat) (f : Ring → Ring) : (s.modRing r f).fw = s.fw := rfl
@[simp] theorem State.modRing_tens (s : State) (r : Nat) (f : Ring → Ring) : (s.modRing r f).tens = s.tens := rfl
@[simp] theorem State.modRing_overlaps (s : State) (r : Nat) (f : Ring → Ring) : (s.modRing r f).overlaps = s.overlaps := rfl
@[simp] theorem State.modRing_tasks (s : State) (r : Nat) (f : Ring → Ring) : (s.modRing r f).tasks = s.tasks := rfl
@[simp] theorem State.modRing_cohorts (s : State) (r : Nat) (f : Ring → Ring) : (s.modRing r f).cohorts = s.cohorts := rfl
@[simp] theorem State.modRing_copies (s : State) (r : Nat) (f : Ring → Ring) : (s.modRing r f).copies = s.copies := rfl
@[simp] theorem State.modRing_orders (s : State) (r : Nat) (f : Ring → Ring) : (s.modRing r f).orders = s.orders := rfl
@[simp] theorem State.modRing_adds (s : State) (r : Nat) (f : Ring → Ring) : (s.modRing r f).adds = s.adds := rfl
@[simp] theorem State.modRing_nextTask (s : State) (r : Nat) (f : Ring → Ring) : (s.modRing r f).nextTask = s.nextTask := rfl
@[simp] theorem State.modRing_nextOrder (s : State) (r : Nat) (f : Ring → Ring) : (s.modRing r f).nextOrder = s.nextOrder := rfl
@[simp] theorem State.modRing_nextCopy (s : State) (r : Nat) (f : Ring → Ring) : (s.modRing r f).nextCopy = s.nextCopy := rfl
@[simp] theorem State.modRing_clusters (s : State) (r : Nat) (f : Ring → Ring) : (s.modRing r f).clusters = s.clusters := rfl
@[simp] theorem State.modRing_gtlb (s : State) (r : Nat) (f : Ring → Ring) : (s.modRing r f).gtlb = s.gtlb := rfl
@[simp] theorem State.modRing_saves (s : State) (r : Nat) (f : Ring → Ring) : (s.modRing r f).saves = s.saves := rfl
@[simp] theorem State.modRing_xlt (s : State) (r : Nat) (f : Ring → Ring) : (s.modRing r f).xlt = s.xlt := rfl
@[simp] theorem State.modRing_rc (s : State) (r : Nat) (f : Ring → Ring) : (s.modRing r f).rc = s.rc := rfl
@[simp] theorem State.modRing_mem (s : State) (r : Nat) (f : Ring → Ring) : (s.modRing r f).mem = s.mem := rfl
@[simp] theorem State.modRing_ev (s : State) (r : Nat) (f : Ring → Ring) : (s.modRing r f).ev = s.ev := rfl
@[simp] theorem State.modRing_ports (s : State) (r : Nat) (f : Ring → Ring) : (s.modRing r f).ports = s.ports := rfl
@[simp] theorem State.modRing_fence (s : State) (r : Nat) (f : Ring → Ring) : (s.modRing r f).fence = s.fence := rfl
@[simp] theorem State.modRing_routeIdx (s : State) (r : Nat) (f : Ring → Ring) : (s.modRing r f).routeIdx = s.routeIdx := rfl
@[simp] theorem State.modRing_route (s : State) (r : Nat) (f : Ring → Ring) : (s.modRing r f).route = s.route := rfl
@[simp] theorem State.modRing_pwr (s : State) (r : Nat) (f : Ring → Ring) : (s.modRing r f).pwr = s.pwr := rfl
@[simp] theorem State.modRing_cnt (s : State) (r : Nat) (f : Ring → Ring) : (s.modRing r f).cnt = s.cnt := rfl
@[simp] theorem State.modRing_cntOvf (s : State) (r : Nat) (f : Ring → Ring) : (s.modRing r f).cntOvf = s.cntOvf := rfl
@[simp] theorem State.modRing_cntNow (s : State) (r : Nat) (f : Ring → Ring) : (s.modRing r f).cntNow = s.cntNow := rfl
@[simp] theorem State.modRing_cntTick (s : State) (r : Nat) (f : Ring → Ring) : (s.modRing r f).cntTick = s.cntTick := rfl
@[simp] theorem State.modRing_setNow (s : State) (r : Nat) (f : Ring → Ring) : (s.modRing r f).setNow = s.setNow := rfl

/-! ### modOrder -/

@[simp] theorem State.modOrder_pending (s : State) (i : Nat) (f : Order → Order) : (s.modOrder i f).pending = s.pending := rfl
@[simp] theorem State.modOrder_tick (s : State) (i : Nat) (f : Order → Order) : (s.modOrder i f).tick = s.tick := rfl
@[simp] theorem State.modOrder_free (s : State) (i : Nat) (f : Order → Order) : (s.modOrder i f).free = s.free := rfl
@[simp] theorem State.modOrder_st (s : State) (i : Nat) (f : Order → Order) : (s.modOrder i f).st = s.st := rfl
@[simp] theorem State.modOrder_cause (s : State) (i : Nat) (f : Order → Order) : (s.modOrder i f).cause = s.cause := rfl
@[simp] theorem State.modOrder_lockvio (s : State) (i : Nat) (f : Order → Order) : (s.modOrder i f).lockvio = s.lockvio := rfl
@[simp] theorem State.modOrder_fenceErr (s : State) (i : Nat) (f : Order → Order) : (s.modOrder i f).fenceErr = s.fenceErr := rfl
@[simp] theorem State.modOrder_evrlost (s : State) (i : Nat) (f : Order → Order) : (s.modOrder i f).evrlost = s.evrlost := rfl
@[simp] theorem State.modOrder_resetLow (s : State) (i : Nat) (f : Order → Order) : (s.modOrder i f).resetLow = s.resetLow := rfl
@[simp] theorem State.modOrder_powered (s : State) (i : Nat) (f : Order → Order) : (s.modOrder i f).powered = s.powered := rfl
@[simp] theorem State.modOrder_testMode (s : State) (i : Nat) (f : Order → Order) : (s.modOrder i f).testMode = s.testMode := rfl
@[simp] theorem State.modOrder_tap (s : State) (i : Nat) (f : Order → Order) : (s.modOrder i f).tap = s.tap := rfl
@[simp] theorem State.modOrder_wrap (s : State) (i : Nat) (f : Order → Order) : (s.modOrder i f).wrap = s.wrap := rfl
@[simp] theorem State.modOrder_linkRst (s : State) (i : Nat) (f : Order → Order) : (s.modOrder i f).linkRst = s.linkRst := rfl
@[simp] theorem State.modOrder_haddr (s : State) (i : Nat) (f : Order → Order) : (s.modOrder i f).haddr = s.haddr := rfl
@[simp] theorem State.modOrder_enCluster (s : State) (i : Nat) (f : Order → Order) : (s.modOrder i f).enCluster = s.enCluster := rfl
@[simp] theorem State.modOrder_enGather (s : State) (i : Nat) (f : Order → Order) : (s.modOrder i f).enGather = s.enGather := rfl
@[simp] theorem State.modOrder_enMover (s : State) (i : Nat) (f : Order → Order) : (s.modOrder i f).enMover = s.enMover := rfl
@[simp] theorem State.modOrder_enPort (s : State) (i : Nat) (f : Order → Order) : (s.modOrder i f).enPort = s.enPort := rfl
@[simp] theorem State.modOrder_quiesce (s : State) (i : Nat) (f : Order → Order) : (s.modOrder i f).quiesce = s.quiesce := rfl
@[simp] theorem State.modOrder_ledClear (s : State) (i : Nat) (f : Order → Order) : (s.modOrder i f).ledClear = s.ledClear := rfl
@[simp] theorem State.modOrder_fw (s : State) (i : Nat) (f : Order → Order) : (s.modOrder i f).fw = s.fw := rfl
@[simp] theorem State.modOrder_tens (s : State) (i : Nat) (f : Order → Order) : (s.modOrder i f).tens = s.tens := rfl
@[simp] theorem State.modOrder_rings (s : State) (i : Nat) (f : Order → Order) : (s.modOrder i f).rings = s.rings := rfl
@[simp] theorem State.modOrder_overlaps (s : State) (i : Nat) (f : Order → Order) : (s.modOrder i f).overlaps = s.overlaps := rfl
@[simp] theorem State.modOrder_tasks (s : State) (i : Nat) (f : Order → Order) : (s.modOrder i f).tasks = s.tasks := rfl
@[simp] theorem State.modOrder_cohorts (s : State) (i : Nat) (f : Order → Order) : (s.modOrder i f).cohorts = s.cohorts := rfl
@[simp] theorem State.modOrder_copies (s : State) (i : Nat) (f : Order → Order) : (s.modOrder i f).copies = s.copies := rfl
@[simp] theorem State.modOrder_adds (s : State) (i : Nat) (f : Order → Order) : (s.modOrder i f).adds = s.adds := rfl
@[simp] theorem State.modOrder_nextTask (s : State) (i : Nat) (f : Order → Order) : (s.modOrder i f).nextTask = s.nextTask := rfl
@[simp] theorem State.modOrder_nextOrder (s : State) (i : Nat) (f : Order → Order) : (s.modOrder i f).nextOrder = s.nextOrder := rfl
@[simp] theorem State.modOrder_nextCopy (s : State) (i : Nat) (f : Order → Order) : (s.modOrder i f).nextCopy = s.nextCopy := rfl
@[simp] theorem State.modOrder_clusters (s : State) (i : Nat) (f : Order → Order) : (s.modOrder i f).clusters = s.clusters := rfl
@[simp] theorem State.modOrder_gtlb (s : State) (i : Nat) (f : Order → Order) : (s.modOrder i f).gtlb = s.gtlb := rfl
@[simp] theorem State.modOrder_saves (s : State) (i : Nat) (f : Order → Order) : (s.modOrder i f).saves = s.saves := rfl
@[simp] theorem State.modOrder_xlt (s : State) (i : Nat) (f : Order → Order) : (s.modOrder i f).xlt = s.xlt := rfl
@[simp] theorem State.modOrder_rc (s : State) (i : Nat) (f : Order → Order) : (s.modOrder i f).rc = s.rc := rfl
@[simp] theorem State.modOrder_mem (s : State) (i : Nat) (f : Order → Order) : (s.modOrder i f).mem = s.mem := rfl
@[simp] theorem State.modOrder_ev (s : State) (i : Nat) (f : Order → Order) : (s.modOrder i f).ev = s.ev := rfl
@[simp] theorem State.modOrder_ports (s : State) (i : Nat) (f : Order → Order) : (s.modOrder i f).ports = s.ports := rfl
@[simp] theorem State.modOrder_fence (s : State) (i : Nat) (f : Order → Order) : (s.modOrder i f).fence = s.fence := rfl
@[simp] theorem State.modOrder_routeIdx (s : State) (i : Nat) (f : Order → Order) : (s.modOrder i f).routeIdx = s.routeIdx := rfl
@[simp] theorem State.modOrder_route (s : State) (i : Nat) (f : Order → Order) : (s.modOrder i f).route = s.route := rfl
@[simp] theorem State.modOrder_pwr (s : State) (i : Nat) (f : Order → Order) : (s.modOrder i f).pwr = s.pwr := rfl
@[simp] theorem State.modOrder_cnt (s : State) (i : Nat) (f : Order → Order) : (s.modOrder i f).cnt = s.cnt := rfl
@[simp] theorem State.modOrder_cntOvf (s : State) (i : Nat) (f : Order → Order) : (s.modOrder i f).cntOvf = s.cntOvf := rfl
@[simp] theorem State.modOrder_cntNow (s : State) (i : Nat) (f : Order → Order) : (s.modOrder i f).cntNow = s.cntNow := rfl
@[simp] theorem State.modOrder_cntTick (s : State) (i : Nat) (f : Order → Order) : (s.modOrder i f).cntTick = s.cntTick := rfl
@[simp] theorem State.modOrder_setNow (s : State) (i : Nat) (f : Order → Order) : (s.modOrder i f).setNow = s.setNow := rfl

/-! ### modCohort -/

@[simp] theorem State.modCohort_pending (s : State) (t n : Nat) (f : Cohort → Cohort) : (s.modCohort t n f).pending = s.pending := rfl
@[simp] theorem State.modCohort_tick (s : State) (t n : Nat) (f : Cohort → Cohort) : (s.modCohort t n f).tick = s.tick := rfl
@[simp] theorem State.modCohort_free (s : State) (t n : Nat) (f : Cohort → Cohort) : (s.modCohort t n f).free = s.free := rfl
@[simp] theorem State.modCohort_st (s : State) (t n : Nat) (f : Cohort → Cohort) : (s.modCohort t n f).st = s.st := rfl
@[simp] theorem State.modCohort_cause (s : State) (t n : Nat) (f : Cohort → Cohort) : (s.modCohort t n f).cause = s.cause := rfl
@[simp] theorem State.modCohort_lockvio (s : State) (t n : Nat) (f : Cohort → Cohort) : (s.modCohort t n f).lockvio = s.lockvio := rfl
@[simp] theorem State.modCohort_fenceErr (s : State) (t n : Nat) (f : Cohort → Cohort) : (s.modCohort t n f).fenceErr = s.fenceErr := rfl
@[simp] theorem State.modCohort_evrlost (s : State) (t n : Nat) (f : Cohort → Cohort) : (s.modCohort t n f).evrlost = s.evrlost := rfl
@[simp] theorem State.modCohort_resetLow (s : State) (t n : Nat) (f : Cohort → Cohort) : (s.modCohort t n f).resetLow = s.resetLow := rfl
@[simp] theorem State.modCohort_powered (s : State) (t n : Nat) (f : Cohort → Cohort) : (s.modCohort t n f).powered = s.powered := rfl
@[simp] theorem State.modCohort_testMode (s : State) (t n : Nat) (f : Cohort → Cohort) : (s.modCohort t n f).testMode = s.testMode := rfl
@[simp] theorem State.modCohort_tap (s : State) (t n : Nat) (f : Cohort → Cohort) : (s.modCohort t n f).tap = s.tap := rfl
@[simp] theorem State.modCohort_wrap (s : State) (t n : Nat) (f : Cohort → Cohort) : (s.modCohort t n f).wrap = s.wrap := rfl
@[simp] theorem State.modCohort_linkRst (s : State) (t n : Nat) (f : Cohort → Cohort) : (s.modCohort t n f).linkRst = s.linkRst := rfl
@[simp] theorem State.modCohort_haddr (s : State) (t n : Nat) (f : Cohort → Cohort) : (s.modCohort t n f).haddr = s.haddr := rfl
@[simp] theorem State.modCohort_enCluster (s : State) (t n : Nat) (f : Cohort → Cohort) : (s.modCohort t n f).enCluster = s.enCluster := rfl
@[simp] theorem State.modCohort_enGather (s : State) (t n : Nat) (f : Cohort → Cohort) : (s.modCohort t n f).enGather = s.enGather := rfl
@[simp] theorem State.modCohort_enMover (s : State) (t n : Nat) (f : Cohort → Cohort) : (s.modCohort t n f).enMover = s.enMover := rfl
@[simp] theorem State.modCohort_enPort (s : State) (t n : Nat) (f : Cohort → Cohort) : (s.modCohort t n f).enPort = s.enPort := rfl
@[simp] theorem State.modCohort_quiesce (s : State) (t n : Nat) (f : Cohort → Cohort) : (s.modCohort t n f).quiesce = s.quiesce := rfl
@[simp] theorem State.modCohort_ledClear (s : State) (t n : Nat) (f : Cohort → Cohort) : (s.modCohort t n f).ledClear = s.ledClear := rfl
@[simp] theorem State.modCohort_fw (s : State) (t n : Nat) (f : Cohort → Cohort) : (s.modCohort t n f).fw = s.fw := rfl
@[simp] theorem State.modCohort_tens (s : State) (t n : Nat) (f : Cohort → Cohort) : (s.modCohort t n f).tens = s.tens := rfl
@[simp] theorem State.modCohort_rings (s : State) (t n : Nat) (f : Cohort → Cohort) : (s.modCohort t n f).rings = s.rings := rfl
@[simp] theorem State.modCohort_overlaps (s : State) (t n : Nat) (f : Cohort → Cohort) : (s.modCohort t n f).overlaps = s.overlaps := rfl
@[simp] theorem State.modCohort_tasks (s : State) (t n : Nat) (f : Cohort → Cohort) : (s.modCohort t n f).tasks = s.tasks := rfl
@[simp] theorem State.modCohort_copies (s : State) (t n : Nat) (f : Cohort → Cohort) : (s.modCohort t n f).copies = s.copies := rfl
@[simp] theorem State.modCohort_orders (s : State) (t n : Nat) (f : Cohort → Cohort) : (s.modCohort t n f).orders = s.orders := rfl
@[simp] theorem State.modCohort_adds (s : State) (t n : Nat) (f : Cohort → Cohort) : (s.modCohort t n f).adds = s.adds := rfl
@[simp] theorem State.modCohort_nextTask (s : State) (t n : Nat) (f : Cohort → Cohort) : (s.modCohort t n f).nextTask = s.nextTask := rfl
@[simp] theorem State.modCohort_nextOrder (s : State) (t n : Nat) (f : Cohort → Cohort) : (s.modCohort t n f).nextOrder = s.nextOrder := rfl
@[simp] theorem State.modCohort_nextCopy (s : State) (t n : Nat) (f : Cohort → Cohort) : (s.modCohort t n f).nextCopy = s.nextCopy := rfl
@[simp] theorem State.modCohort_clusters (s : State) (t n : Nat) (f : Cohort → Cohort) : (s.modCohort t n f).clusters = s.clusters := rfl
@[simp] theorem State.modCohort_gtlb (s : State) (t n : Nat) (f : Cohort → Cohort) : (s.modCohort t n f).gtlb = s.gtlb := rfl
@[simp] theorem State.modCohort_saves (s : State) (t n : Nat) (f : Cohort → Cohort) : (s.modCohort t n f).saves = s.saves := rfl
@[simp] theorem State.modCohort_xlt (s : State) (t n : Nat) (f : Cohort → Cohort) : (s.modCohort t n f).xlt = s.xlt := rfl
@[simp] theorem State.modCohort_rc (s : State) (t n : Nat) (f : Cohort → Cohort) : (s.modCohort t n f).rc = s.rc := rfl
@[simp] theorem State.modCohort_mem (s : State) (t n : Nat) (f : Cohort → Cohort) : (s.modCohort t n f).mem = s.mem := rfl
@[simp] theorem State.modCohort_ev (s : State) (t n : Nat) (f : Cohort → Cohort) : (s.modCohort t n f).ev = s.ev := rfl
@[simp] theorem State.modCohort_ports (s : State) (t n : Nat) (f : Cohort → Cohort) : (s.modCohort t n f).ports = s.ports := rfl
@[simp] theorem State.modCohort_fence (s : State) (t n : Nat) (f : Cohort → Cohort) : (s.modCohort t n f).fence = s.fence := rfl
@[simp] theorem State.modCohort_routeIdx (s : State) (t n : Nat) (f : Cohort → Cohort) : (s.modCohort t n f).routeIdx = s.routeIdx := rfl
@[simp] theorem State.modCohort_route (s : State) (t n : Nat) (f : Cohort → Cohort) : (s.modCohort t n f).route = s.route := rfl
@[simp] theorem State.modCohort_pwr (s : State) (t n : Nat) (f : Cohort → Cohort) : (s.modCohort t n f).pwr = s.pwr := rfl
@[simp] theorem State.modCohort_cnt (s : State) (t n : Nat) (f : Cohort → Cohort) : (s.modCohort t n f).cnt = s.cnt := rfl
@[simp] theorem State.modCohort_cntOvf (s : State) (t n : Nat) (f : Cohort → Cohort) : (s.modCohort t n f).cntOvf = s.cntOvf := rfl
@[simp] theorem State.modCohort_cntNow (s : State) (t n : Nat) (f : Cohort → Cohort) : (s.modCohort t n f).cntNow = s.cntNow := rfl
@[simp] theorem State.modCohort_cntTick (s : State) (t n : Nat) (f : Cohort → Cohort) : (s.modCohort t n f).cntTick = s.cntTick := rfl
@[simp] theorem State.modCohort_setNow (s : State) (t n : Nat) (f : Cohort → Cohort) : (s.modCohort t n f).setNow = s.setNow := rfl

/-! ### poolWrite -/

@[simp] theorem State.poolWrite_pending (s : State) (pa : Nat) (bs : List Byte) : (s.poolWrite pa bs).pending = s.pending := rfl
@[simp] theorem State.poolWrite_tick (s : State) (pa : Nat) (bs : List Byte) : (s.poolWrite pa bs).tick = s.tick := rfl
@[simp] theorem State.poolWrite_free (s : State) (pa : Nat) (bs : List Byte) : (s.poolWrite pa bs).free = s.free := rfl
@[simp] theorem State.poolWrite_st (s : State) (pa : Nat) (bs : List Byte) : (s.poolWrite pa bs).st = s.st := rfl
@[simp] theorem State.poolWrite_cause (s : State) (pa : Nat) (bs : List Byte) : (s.poolWrite pa bs).cause = s.cause := rfl
@[simp] theorem State.poolWrite_lockvio (s : State) (pa : Nat) (bs : List Byte) : (s.poolWrite pa bs).lockvio = s.lockvio := rfl
@[simp] theorem State.poolWrite_fenceErr (s : State) (pa : Nat) (bs : List Byte) : (s.poolWrite pa bs).fenceErr = s.fenceErr := rfl
@[simp] theorem State.poolWrite_evrlost (s : State) (pa : Nat) (bs : List Byte) : (s.poolWrite pa bs).evrlost = s.evrlost := rfl
@[simp] theorem State.poolWrite_resetLow (s : State) (pa : Nat) (bs : List Byte) : (s.poolWrite pa bs).resetLow = s.resetLow := rfl
@[simp] theorem State.poolWrite_powered (s : State) (pa : Nat) (bs : List Byte) : (s.poolWrite pa bs).powered = s.powered := rfl
@[simp] theorem State.poolWrite_testMode (s : State) (pa : Nat) (bs : List Byte) : (s.poolWrite pa bs).testMode = s.testMode := rfl
@[simp] theorem State.poolWrite_tap (s : State) (pa : Nat) (bs : List Byte) : (s.poolWrite pa bs).tap = s.tap := rfl
@[simp] theorem State.poolWrite_wrap (s : State) (pa : Nat) (bs : List Byte) : (s.poolWrite pa bs).wrap = s.wrap := rfl
@[simp] theorem State.poolWrite_linkRst (s : State) (pa : Nat) (bs : List Byte) : (s.poolWrite pa bs).linkRst = s.linkRst := rfl
@[simp] theorem State.poolWrite_haddr (s : State) (pa : Nat) (bs : List Byte) : (s.poolWrite pa bs).haddr = s.haddr := rfl
@[simp] theorem State.poolWrite_enCluster (s : State) (pa : Nat) (bs : List Byte) : (s.poolWrite pa bs).enCluster = s.enCluster := rfl
@[simp] theorem State.poolWrite_enGather (s : State) (pa : Nat) (bs : List Byte) : (s.poolWrite pa bs).enGather = s.enGather := rfl
@[simp] theorem State.poolWrite_enMover (s : State) (pa : Nat) (bs : List Byte) : (s.poolWrite pa bs).enMover = s.enMover := rfl
@[simp] theorem State.poolWrite_enPort (s : State) (pa : Nat) (bs : List Byte) : (s.poolWrite pa bs).enPort = s.enPort := rfl
@[simp] theorem State.poolWrite_quiesce (s : State) (pa : Nat) (bs : List Byte) : (s.poolWrite pa bs).quiesce = s.quiesce := rfl
@[simp] theorem State.poolWrite_ledClear (s : State) (pa : Nat) (bs : List Byte) : (s.poolWrite pa bs).ledClear = s.ledClear := rfl
@[simp] theorem State.poolWrite_fw (s : State) (pa : Nat) (bs : List Byte) : (s.poolWrite pa bs).fw = s.fw := rfl
@[simp] theorem State.poolWrite_tens (s : State) (pa : Nat) (bs : List Byte) : (s.poolWrite pa bs).tens = s.tens := rfl
@[simp] theorem State.poolWrite_rings (s : State) (pa : Nat) (bs : List Byte) : (s.poolWrite pa bs).rings = s.rings := rfl
@[simp] theorem State.poolWrite_overlaps (s : State) (pa : Nat) (bs : List Byte) : (s.poolWrite pa bs).overlaps = s.overlaps := rfl
@[simp] theorem State.poolWrite_tasks (s : State) (pa : Nat) (bs : List Byte) : (s.poolWrite pa bs).tasks = s.tasks := rfl
@[simp] theorem State.poolWrite_cohorts (s : State) (pa : Nat) (bs : List Byte) : (s.poolWrite pa bs).cohorts = s.cohorts := rfl
@[simp] theorem State.poolWrite_copies (s : State) (pa : Nat) (bs : List Byte) : (s.poolWrite pa bs).copies = s.copies := rfl
@[simp] theorem State.poolWrite_orders (s : State) (pa : Nat) (bs : List Byte) : (s.poolWrite pa bs).orders = s.orders := rfl
@[simp] theorem State.poolWrite_adds (s : State) (pa : Nat) (bs : List Byte) : (s.poolWrite pa bs).adds = s.adds := rfl
@[simp] theorem State.poolWrite_nextTask (s : State) (pa : Nat) (bs : List Byte) : (s.poolWrite pa bs).nextTask = s.nextTask := rfl
@[simp] theorem State.poolWrite_nextOrder (s : State) (pa : Nat) (bs : List Byte) : (s.poolWrite pa bs).nextOrder = s.nextOrder := rfl
@[simp] theorem State.poolWrite_nextCopy (s : State) (pa : Nat) (bs : List Byte) : (s.poolWrite pa bs).nextCopy = s.nextCopy := rfl
@[simp] theorem State.poolWrite_clusters (s : State) (pa : Nat) (bs : List Byte) : (s.poolWrite pa bs).clusters = s.clusters := rfl
@[simp] theorem State.poolWrite_gtlb (s : State) (pa : Nat) (bs : List Byte) : (s.poolWrite pa bs).gtlb = s.gtlb := rfl
@[simp] theorem State.poolWrite_saves (s : State) (pa : Nat) (bs : List Byte) : (s.poolWrite pa bs).saves = s.saves := rfl
@[simp] theorem State.poolWrite_xlt (s : State) (pa : Nat) (bs : List Byte) : (s.poolWrite pa bs).xlt = s.xlt := rfl
@[simp] theorem State.poolWrite_rc (s : State) (pa : Nat) (bs : List Byte) : (s.poolWrite pa bs).rc = s.rc := rfl
@[simp] theorem State.poolWrite_ev (s : State) (pa : Nat) (bs : List Byte) : (s.poolWrite pa bs).ev = s.ev := rfl
@[simp] theorem State.poolWrite_ports (s : State) (pa : Nat) (bs : List Byte) : (s.poolWrite pa bs).ports = s.ports := rfl
@[simp] theorem State.poolWrite_fence (s : State) (pa : Nat) (bs : List Byte) : (s.poolWrite pa bs).fence = s.fence := rfl
@[simp] theorem State.poolWrite_routeIdx (s : State) (pa : Nat) (bs : List Byte) : (s.poolWrite pa bs).routeIdx = s.routeIdx := rfl
@[simp] theorem State.poolWrite_route (s : State) (pa : Nat) (bs : List Byte) : (s.poolWrite pa bs).route = s.route := rfl
@[simp] theorem State.poolWrite_pwr (s : State) (pa : Nat) (bs : List Byte) : (s.poolWrite pa bs).pwr = s.pwr := rfl
@[simp] theorem State.poolWrite_cnt (s : State) (pa : Nat) (bs : List Byte) : (s.poolWrite pa bs).cnt = s.cnt := rfl
@[simp] theorem State.poolWrite_cntOvf (s : State) (pa : Nat) (bs : List Byte) : (s.poolWrite pa bs).cntOvf = s.cntOvf := rfl
@[simp] theorem State.poolWrite_cntNow (s : State) (pa : Nat) (bs : List Byte) : (s.poolWrite pa bs).cntNow = s.cntNow := rfl
@[simp] theorem State.poolWrite_cntTick (s : State) (pa : Nat) (bs : List Byte) : (s.poolWrite pa bs).cntTick = s.cntTick := rfl
@[simp] theorem State.poolWrite_setNow (s : State) (pa : Nat) (bs : List Byte) : (s.poolWrite pa bs).setNow = s.setNow := rfl

/-! ### Records and counters: what they can change -/

theorem State.evPut_frame (s : State) : ∃ m e, s.evPut = { s with mem := m, ev := e } := by
  unfold State.evPut State.poolWrite
  split
  · exact ⟨s.mem, s.ev, rfl⟩
  · dsimp only
    split
    · exact ⟨_, _, rfl⟩
    · exact ⟨s.mem, s.ev, rfl⟩

theorem evDrain_frame (n : Nat) (s : State) : ∃ m e, evDrain n s = { s with mem := m, ev := e } := by
  induction n generalizing s with
  | zero => exact ⟨s.mem, s.ev, rfl⟩
  | succ n ih =>
    obtain ⟨m, e, h⟩ := s.evPut_frame
    obtain ⟨m', e', h'⟩ := ih s.evPut
    exact ⟨m', e', by rw [evDrain, h', h]⟩

theorem State.evSignal_frame (s : State) : ∃ e, s.evSignal = { s with ev := e } := by
  unfold State.evSignal
  split
  · exact ⟨_, rfl⟩
  · dsimp only
    split <;> split <;> exact ⟨_, rfl⟩

theorem State.evFlush_frame (s : State) : ∃ m e, s.evFlush = { s with mem := m, ev := e } := by
  obtain ⟨m, e, h⟩ := evDrain_frame s.ev.queue.length s
  unfold State.evFlush
  dsimp only
  split
  · exact ⟨m, e, h⟩
  · obtain ⟨e', h'⟩ := (evDrain s.ev.queue.length s).evSignal_frame
    exact ⟨m, e', by rw [h', h]⟩

/-- A record changes the event ring, the memory it lies in, and where it is dropped the lost bit with its mark. -/
theorem State.event_frame (s : State) (code detail : Nat) (who : EvWho) (resp i0 i1 : Nat) :
    ∃ m e l n, s.event code detail who resp i0 i1 = { s with mem := m, ev := e, evrlost := l, setNow := n } := by
  unfold State.event State.evWrite
  dsimp only
  split
  · obtain ⟨m, e, h⟩ := State.evFlush_frame _
    exact ⟨m, e, _, _, h⟩
  · exact ⟨_, _, _, _, rfl⟩

/-! ### event -/

@[simp] theorem State.event_pending (s : State) (c d : Nat) (w : EvWho) (x i j : Nat) : (s.event c d w x i j).pending = s.pending := by
  obtain ⟨_, _, _, _, h⟩ := s.event_frame c d w x i j
  rw [h]
@[simp] theorem State.event_tick (s : State) (c d : Nat) (w : EvWho) (x i j : Nat) : (s.event c d w x i j).tick = s.tick := by
  obtain ⟨_, _, _, _, h⟩ := s.event_frame c d w x i j
  rw [h]
@[simp] theorem State.event_free (s : State) (c d : Nat) (w : EvWho) (x i j : Nat) : (s.event c d w x i j).free = s.free := by
  obtain ⟨_, _, _, _, h⟩ := s.event_frame c d w x i j
  rw [h]
@[simp] theorem State.event_st (s : State) (c d : Nat) (w : EvWho) (x i j : Nat) : (s.event c d w x i j).st = s.st := by
  obtain ⟨_, _, _, _, h⟩ := s.event_frame c d w x i j
  rw [h]
@[simp] theorem State.event_cause (s : State) (c d : Nat) (w : EvWho) (x i j : Nat) : (s.event c d w x i j).cause = s.cause := by
  obtain ⟨_, _, _, _, h⟩ := s.event_frame c d w x i j
  rw [h]
@[simp] theorem State.event_lockvio (s : State) (c d : Nat) (w : EvWho) (x i j : Nat) : (s.event c d w x i j).lockvio = s.lockvio := by
  obtain ⟨_, _, _, _, h⟩ := s.event_frame c d w x i j
  rw [h]
@[simp] theorem State.event_fenceErr (s : State) (c d : Nat) (w : EvWho) (x i j : Nat) : (s.event c d w x i j).fenceErr = s.fenceErr := by
  obtain ⟨_, _, _, _, h⟩ := s.event_frame c d w x i j
  rw [h]
@[simp] theorem State.event_resetLow (s : State) (c d : Nat) (w : EvWho) (x i j : Nat) : (s.event c d w x i j).resetLow = s.resetLow := by
  obtain ⟨_, _, _, _, h⟩ := s.event_frame c d w x i j
  rw [h]
@[simp] theorem State.event_powered (s : State) (c d : Nat) (w : EvWho) (x i j : Nat) : (s.event c d w x i j).powered = s.powered := by
  obtain ⟨_, _, _, _, h⟩ := s.event_frame c d w x i j
  rw [h]
@[simp] theorem State.event_testMode (s : State) (c d : Nat) (w : EvWho) (x i j : Nat) : (s.event c d w x i j).testMode = s.testMode := by
  obtain ⟨_, _, _, _, h⟩ := s.event_frame c d w x i j
  rw [h]
@[simp] theorem State.event_tap (s : State) (c d : Nat) (w : EvWho) (x i j : Nat) : (s.event c d w x i j).tap = s.tap := by
  obtain ⟨_, _, _, _, h⟩ := s.event_frame c d w x i j
  rw [h]
@[simp] theorem State.event_wrap (s : State) (c d : Nat) (w : EvWho) (x i j : Nat) : (s.event c d w x i j).wrap = s.wrap := by
  obtain ⟨_, _, _, _, h⟩ := s.event_frame c d w x i j
  rw [h]
@[simp] theorem State.event_linkRst (s : State) (c d : Nat) (w : EvWho) (x i j : Nat) : (s.event c d w x i j).linkRst = s.linkRst := by
  obtain ⟨_, _, _, _, h⟩ := s.event_frame c d w x i j
  rw [h]
@[simp] theorem State.event_haddr (s : State) (c d : Nat) (w : EvWho) (x i j : Nat) : (s.event c d w x i j).haddr = s.haddr := by
  obtain ⟨_, _, _, _, h⟩ := s.event_frame c d w x i j
  rw [h]
@[simp] theorem State.event_enCluster (s : State) (c d : Nat) (w : EvWho) (x i j : Nat) : (s.event c d w x i j).enCluster = s.enCluster := by
  obtain ⟨_, _, _, _, h⟩ := s.event_frame c d w x i j
  rw [h]
@[simp] theorem State.event_enGather (s : State) (c d : Nat) (w : EvWho) (x i j : Nat) : (s.event c d w x i j).enGather = s.enGather := by
  obtain ⟨_, _, _, _, h⟩ := s.event_frame c d w x i j
  rw [h]
@[simp] theorem State.event_enMover (s : State) (c d : Nat) (w : EvWho) (x i j : Nat) : (s.event c d w x i j).enMover = s.enMover := by
  obtain ⟨_, _, _, _, h⟩ := s.event_frame c d w x i j
  rw [h]
@[simp] theorem State.event_enPort (s : State) (c d : Nat) (w : EvWho) (x i j : Nat) : (s.event c d w x i j).enPort = s.enPort := by
  obtain ⟨_, _, _, _, h⟩ := s.event_frame c d w x i j
  rw [h]
@[simp] theorem State.event_quiesce (s : State) (c d : Nat) (w : EvWho) (x i j : Nat) : (s.event c d w x i j).quiesce = s.quiesce := by
  obtain ⟨_, _, _, _, h⟩ := s.event_frame c d w x i j
  rw [h]
@[simp] theorem State.event_ledClear (s : State) (c d : Nat) (w : EvWho) (x i j : Nat) : (s.event c d w x i j).ledClear = s.ledClear := by
  obtain ⟨_, _, _, _, h⟩ := s.event_frame c d w x i j
  rw [h]
@[simp] theorem State.event_fw (s : State) (c d : Nat) (w : EvWho) (x i j : Nat) : (s.event c d w x i j).fw = s.fw := by
  obtain ⟨_, _, _, _, h⟩ := s.event_frame c d w x i j
  rw [h]
@[simp] theorem State.event_tens (s : State) (c d : Nat) (w : EvWho) (x i j : Nat) : (s.event c d w x i j).tens = s.tens := by
  obtain ⟨_, _, _, _, h⟩ := s.event_frame c d w x i j
  rw [h]
@[simp] theorem State.event_rings (s : State) (c d : Nat) (w : EvWho) (x i j : Nat) : (s.event c d w x i j).rings = s.rings := by
  obtain ⟨_, _, _, _, h⟩ := s.event_frame c d w x i j
  rw [h]
@[simp] theorem State.event_overlaps (s : State) (c d : Nat) (w : EvWho) (x i j : Nat) : (s.event c d w x i j).overlaps = s.overlaps := by
  obtain ⟨_, _, _, _, h⟩ := s.event_frame c d w x i j
  rw [h]
@[simp] theorem State.event_tasks (s : State) (c d : Nat) (w : EvWho) (x i j : Nat) : (s.event c d w x i j).tasks = s.tasks := by
  obtain ⟨_, _, _, _, h⟩ := s.event_frame c d w x i j
  rw [h]
@[simp] theorem State.event_cohorts (s : State) (c d : Nat) (w : EvWho) (x i j : Nat) : (s.event c d w x i j).cohorts = s.cohorts := by
  obtain ⟨_, _, _, _, h⟩ := s.event_frame c d w x i j
  rw [h]
@[simp] theorem State.event_copies (s : State) (c d : Nat) (w : EvWho) (x i j : Nat) : (s.event c d w x i j).copies = s.copies := by
  obtain ⟨_, _, _, _, h⟩ := s.event_frame c d w x i j
  rw [h]
@[simp] theorem State.event_orders (s : State) (c d : Nat) (w : EvWho) (x i j : Nat) : (s.event c d w x i j).orders = s.orders := by
  obtain ⟨_, _, _, _, h⟩ := s.event_frame c d w x i j
  rw [h]
@[simp] theorem State.event_adds (s : State) (c d : Nat) (w : EvWho) (x i j : Nat) : (s.event c d w x i j).adds = s.adds := by
  obtain ⟨_, _, _, _, h⟩ := s.event_frame c d w x i j
  rw [h]
@[simp] theorem State.event_nextTask (s : State) (c d : Nat) (w : EvWho) (x i j : Nat) : (s.event c d w x i j).nextTask = s.nextTask := by
  obtain ⟨_, _, _, _, h⟩ := s.event_frame c d w x i j
  rw [h]
@[simp] theorem State.event_nextOrder (s : State) (c d : Nat) (w : EvWho) (x i j : Nat) : (s.event c d w x i j).nextOrder = s.nextOrder := by
  obtain ⟨_, _, _, _, h⟩ := s.event_frame c d w x i j
  rw [h]
@[simp] theorem State.event_nextCopy (s : State) (c d : Nat) (w : EvWho) (x i j : Nat) : (s.event c d w x i j).nextCopy = s.nextCopy := by
  obtain ⟨_, _, _, _, h⟩ := s.event_frame c d w x i j
  rw [h]
@[simp] theorem State.event_clusters (s : State) (c d : Nat) (w : EvWho) (x i j : Nat) : (s.event c d w x i j).clusters = s.clusters := by
  obtain ⟨_, _, _, _, h⟩ := s.event_frame c d w x i j
  rw [h]
@[simp] theorem State.event_gtlb (s : State) (c d : Nat) (w : EvWho) (x i j : Nat) : (s.event c d w x i j).gtlb = s.gtlb := by
  obtain ⟨_, _, _, _, h⟩ := s.event_frame c d w x i j
  rw [h]
@[simp] theorem State.event_saves (s : State) (c d : Nat) (w : EvWho) (x i j : Nat) : (s.event c d w x i j).saves = s.saves := by
  obtain ⟨_, _, _, _, h⟩ := s.event_frame c d w x i j
  rw [h]
@[simp] theorem State.event_xlt (s : State) (c d : Nat) (w : EvWho) (x i j : Nat) : (s.event c d w x i j).xlt = s.xlt := by
  obtain ⟨_, _, _, _, h⟩ := s.event_frame c d w x i j
  rw [h]
@[simp] theorem State.event_rc (s : State) (c d : Nat) (w : EvWho) (x i j : Nat) : (s.event c d w x i j).rc = s.rc := by
  obtain ⟨_, _, _, _, h⟩ := s.event_frame c d w x i j
  rw [h]
@[simp] theorem State.event_ports (s : State) (c d : Nat) (w : EvWho) (x i j : Nat) : (s.event c d w x i j).ports = s.ports := by
  obtain ⟨_, _, _, _, h⟩ := s.event_frame c d w x i j
  rw [h]
@[simp] theorem State.event_fence (s : State) (c d : Nat) (w : EvWho) (x i j : Nat) : (s.event c d w x i j).fence = s.fence := by
  obtain ⟨_, _, _, _, h⟩ := s.event_frame c d w x i j
  rw [h]
@[simp] theorem State.event_routeIdx (s : State) (c d : Nat) (w : EvWho) (x i j : Nat) : (s.event c d w x i j).routeIdx = s.routeIdx := by
  obtain ⟨_, _, _, _, h⟩ := s.event_frame c d w x i j
  rw [h]
@[simp] theorem State.event_route (s : State) (c d : Nat) (w : EvWho) (x i j : Nat) : (s.event c d w x i j).route = s.route := by
  obtain ⟨_, _, _, _, h⟩ := s.event_frame c d w x i j
  rw [h]
@[simp] theorem State.event_pwr (s : State) (c d : Nat) (w : EvWho) (x i j : Nat) : (s.event c d w x i j).pwr = s.pwr := by
  obtain ⟨_, _, _, _, h⟩ := s.event_frame c d w x i j
  rw [h]
@[simp] theorem State.event_cnt (s : State) (c d : Nat) (w : EvWho) (x i j : Nat) : (s.event c d w x i j).cnt = s.cnt := by
  obtain ⟨_, _, _, _, h⟩ := s.event_frame c d w x i j
  rw [h]
@[simp] theorem State.event_cntOvf (s : State) (c d : Nat) (w : EvWho) (x i j : Nat) : (s.event c d w x i j).cntOvf = s.cntOvf := by
  obtain ⟨_, _, _, _, h⟩ := s.event_frame c d w x i j
  rw [h]
@[simp] theorem State.event_cntNow (s : State) (c d : Nat) (w : EvWho) (x i j : Nat) : (s.event c d w x i j).cntNow = s.cntNow := by
  obtain ⟨_, _, _, _, h⟩ := s.event_frame c d w x i j
  rw [h]
@[simp] theorem State.event_cntTick (s : State) (c d : Nat) (w : EvWho) (x i j : Nat) : (s.event c d w x i j).cntTick = s.cntTick := by
  obtain ⟨_, _, _, _, h⟩ := s.event_frame c d w x i j
  rw [h]
theorem State.pinWrite_frame (s : State) (t va : Nat) (bs : List Byte) : ∃ m, s.pinWrite t va bs = { s with mem := m } := by
  unfold State.pinWrite
  split
  · split
    · exact ⟨_, rfl⟩
    · exact ⟨s.mem, rfl⟩
  · exact ⟨s.mem, rfl⟩

theorem State.count_frame (s : State) (k n : Nat) :
    ∃ c now ti ov m e l st, s.count k n =
      { s with cnt := c, cntNow := now, cntTick := ti, cntOvf := ov, mem := m, ev := e, evrlost := l, setNow := st } := by
  unfold State.count
  split
  · exact ⟨s.cnt, s.cntNow, s.cntTick, s.cntOvf, s.mem, s.ev, s.evrlost, s.setNow, rfl⟩
  · dsimp only
    generalize (if s.cntTick = s.tick then s.cntNow else []) = now
    split
    · exact ⟨_, _, _, s.cntOvf, s.mem, s.ev, s.evrlost, s.setNow, rfl⟩
    · unfold State.markSet
      dsimp only
      split
      · exact ⟨_, _, _, s.cntOvf, s.mem, s.ev, s.evrlost, _, rfl⟩
      · obtain ⟨m, e, l, st, h⟩ := State.event_frame _ _ _ _ _ _ _
        exact ⟨_, _, _, _, m, e, l, st, h⟩

/-- A completion changes the memory of its record, the event ring, and the free-value counter. -/
theorem State.complete_frame (s : State) (c : CmdRef) (status reason r0 r1 : Nat) :
    ∃ m e l st fr, s.complete c status reason r0 r1 = { s with mem := m, ev := e, evrlost := l, setNow := st, free := fr } := by
  have two : ∀ (s : State) (t va : Nat) (bs : List Byte) (a b : Bool) (c d : Nat) (w : EvWho) (x i j : Nat),
      ∃ m e l st, (bif b then (bif a then s else s.pinWrite t va bs).event c d w x i j else bif a then s else s.pinWrite t va bs)
        = { s with mem := m, ev := e, evrlost := l, setNow := st } := by
    intro s t va bs a b c d w x i j
    obtain ⟨m, h⟩ : ∃ m, (bif a then s else s.pinWrite t va bs) = { s with mem := m } := by
      cases a
      · exact s.pinWrite_frame t va bs
      · exact ⟨s.mem, rfl⟩
    rw [h]
    cases b
    · exact ⟨m, s.ev, s.evrlost, s.setNow, rfl⟩
    · obtain ⟨m', e, l, st, h'⟩ := State.event_frame { s with mem := m } c d w x i j
      exact ⟨m', e, l, st, h'⟩
  unfold State.complete
  by_cases hs : status = stDiscarded
  · simp only [hs, ← Bool.cond_decide]
    obtain ⟨m, e, l, st, h⟩ := two _ _ _ _ _ _ _ _ _ _ _ _
    exact ⟨m, e, l, st, _, h⟩
  · simp only [hs, ← Bool.cond_decide]
    obtain ⟨m, e, l, st, h⟩ := two _ _ _ _ _ _ _ _ _ _ _ _
    exact ⟨m, e, l, st, s.free, h⟩

theorem State.releaseRing_frame (s : State) (c : CmdRef) : ∃ r, s.releaseRing c = { s with rings := r } := ⟨_, rfl⟩

theorem State.finish_frame (s : State) (c : CmdRef) (status reason r0 r1 : Nat) :
    ∃ m e l st fr r, s.finish c status reason r0 r1 =
      { s with mem := m, ev := e, evrlost := l, setNow := st, free := fr, rings := r } := by
  obtain ⟨m, e, l, st, fr, h⟩ := s.complete_frame c status reason r0 r1
  obtain ⟨r, h'⟩ := (s.complete c status reason r0 r1).releaseRing_frame c
  exact ⟨m, e, l, st, fr, r, by rw [State.finish, h', h]⟩

theorem State.moveHead_frame (s : State) (r : Nat) : ∃ m rs, s.moveHead r = { s with mem := m, rings := rs } := by
  obtain ⟨m, h⟩ := State.pinWrite_frame (s.modRing r fun y => { y with head := (s.ring r).head + 1 }) (s.ring r).ten.toNat
    (s.ring r).headVa (toLe 4 ((s.ring r).head + 1).toNat)
  exact ⟨m, _, h⟩

theorem State.setLockvio_frame (s : State) :
    ∃ b m e l st, s.setLockvio = { s with lockvio := b, mem := m, ev := e, evrlost := l, setNow := st } := by
  unfold State.setLockvio State.markSet State.errRecord
  dsimp only
  split
  · exact ⟨_, s.mem, s.ev, s.evrlost, _, rfl⟩
  · obtain ⟨m, e, l, st, h⟩ := State.event_frame _ _ _ _ _ _ _
    exact ⟨_, m, e, l, st, h⟩

/-! ### pinWrite -/

@[simp] theorem State.pinWrite_pending (s : State) (t va : Nat) (bs : List Byte) : (s.pinWrite t va bs).pending = s.pending := by
  obtain ⟨_, h⟩ := s.pinWrite_frame t va bs
  rw [h]
@[simp] theorem State.pinWrite_tick (s : State) (t va : Nat) (bs : List Byte) : (s.pinWrite t va bs).tick = s.tick := by
  obtain ⟨_, h⟩ := s.pinWrite_frame t va bs
  rw [h]
@[simp] theorem State.pinWrite_free (s : State) (t va : Nat) (bs : List Byte) : (s.pinWrite t va bs).free = s.free := by
  obtain ⟨_, h⟩ := s.pinWrite_frame t va bs
  rw [h]
@[simp] theorem State.pinWrite_st (s : State) (t va : Nat) (bs : List Byte) : (s.pinWrite t va bs).st = s.st := by
  obtain ⟨_, h⟩ := s.pinWrite_frame t va bs
  rw [h]
@[simp] theorem State.pinWrite_cause (s : State) (t va : Nat) (bs : List Byte) : (s.pinWrite t va bs).cause = s.cause := by
  obtain ⟨_, h⟩ := s.pinWrite_frame t va bs
  rw [h]
@[simp] theorem State.pinWrite_lockvio (s : State) (t va : Nat) (bs : List Byte) : (s.pinWrite t va bs).lockvio = s.lockvio := by
  obtain ⟨_, h⟩ := s.pinWrite_frame t va bs
  rw [h]
@[simp] theorem State.pinWrite_fenceErr (s : State) (t va : Nat) (bs : List Byte) : (s.pinWrite t va bs).fenceErr = s.fenceErr := by
  obtain ⟨_, h⟩ := s.pinWrite_frame t va bs
  rw [h]
@[simp] theorem State.pinWrite_evrlost (s : State) (t va : Nat) (bs : List Byte) : (s.pinWrite t va bs).evrlost = s.evrlost := by
  obtain ⟨_, h⟩ := s.pinWrite_frame t va bs
  rw [h]
@[simp] theorem State.pinWrite_resetLow (s : State) (t va : Nat) (bs : List Byte) : (s.pinWrite t va bs).resetLow = s.resetLow := by
  obtain ⟨_, h⟩ := s.pinWrite_frame t va bs
  rw [h]
@[simp] theorem State.pinWrite_powered (s : State) (t va : Nat) (bs : List Byte) : (s.pinWrite t va bs).powered = s.powered := by
  obtain ⟨_, h⟩ := s.pinWrite_frame t va bs
  rw [h]
@[simp] theorem State.pinWrite_testMode (s : State) (t va : Nat) (bs : List Byte) : (s.pinWrite t va bs).testMode = s.testMode := by
  obtain ⟨_, h⟩ := s.pinWrite_frame t va bs
  rw [h]
@[simp] theorem State.pinWrite_tap (s : State) (t va : Nat) (bs : List Byte) : (s.pinWrite t va bs).tap = s.tap := by
  obtain ⟨_, h⟩ := s.pinWrite_frame t va bs
  rw [h]
@[simp] theorem State.pinWrite_wrap (s : State) (t va : Nat) (bs : List Byte) : (s.pinWrite t va bs).wrap = s.wrap := by
  obtain ⟨_, h⟩ := s.pinWrite_frame t va bs
  rw [h]
@[simp] theorem State.pinWrite_linkRst (s : State) (t va : Nat) (bs : List Byte) : (s.pinWrite t va bs).linkRst = s.linkRst := by
  obtain ⟨_, h⟩ := s.pinWrite_frame t va bs
  rw [h]
@[simp] theorem State.pinWrite_haddr (s : State) (t va : Nat) (bs : List Byte) : (s.pinWrite t va bs).haddr = s.haddr := by
  obtain ⟨_, h⟩ := s.pinWrite_frame t va bs
  rw [h]
@[simp] theorem State.pinWrite_enCluster (s : State) (t va : Nat) (bs : List Byte) : (s.pinWrite t va bs).enCluster = s.enCluster := by
  obtain ⟨_, h⟩ := s.pinWrite_frame t va bs
  rw [h]
@[simp] theorem State.pinWrite_enGather (s : State) (t va : Nat) (bs : List Byte) : (s.pinWrite t va bs).enGather = s.enGather := by
  obtain ⟨_, h⟩ := s.pinWrite_frame t va bs
  rw [h]
@[simp] theorem State.pinWrite_enMover (s : State) (t va : Nat) (bs : List Byte) : (s.pinWrite t va bs).enMover = s.enMover := by
  obtain ⟨_, h⟩ := s.pinWrite_frame t va bs
  rw [h]
@[simp] theorem State.pinWrite_enPort (s : State) (t va : Nat) (bs : List Byte) : (s.pinWrite t va bs).enPort = s.enPort := by
  obtain ⟨_, h⟩ := s.pinWrite_frame t va bs
  rw [h]
@[simp] theorem State.pinWrite_quiesce (s : State) (t va : Nat) (bs : List Byte) : (s.pinWrite t va bs).quiesce = s.quiesce := by
  obtain ⟨_, h⟩ := s.pinWrite_frame t va bs
  rw [h]
@[simp] theorem State.pinWrite_ledClear (s : State) (t va : Nat) (bs : List Byte) : (s.pinWrite t va bs).ledClear = s.ledClear := by
  obtain ⟨_, h⟩ := s.pinWrite_frame t va bs
  rw [h]
@[simp] theorem State.pinWrite_fw (s : State) (t va : Nat) (bs : List Byte) : (s.pinWrite t va bs).fw = s.fw := by
  obtain ⟨_, h⟩ := s.pinWrite_frame t va bs
  rw [h]
@[simp] theorem State.pinWrite_tens (s : State) (t va : Nat) (bs : List Byte) : (s.pinWrite t va bs).tens = s.tens := by
  obtain ⟨_, h⟩ := s.pinWrite_frame t va bs
  rw [h]
@[simp] theorem State.pinWrite_rings (s : State) (t va : Nat) (bs : List Byte) : (s.pinWrite t va bs).rings = s.rings := by
  obtain ⟨_, h⟩ := s.pinWrite_frame t va bs
  rw [h]
@[simp] theorem State.pinWrite_overlaps (s : State) (t va : Nat) (bs : List Byte) : (s.pinWrite t va bs).overlaps = s.overlaps := by
  obtain ⟨_, h⟩ := s.pinWrite_frame t va bs
  rw [h]
@[simp] theorem State.pinWrite_tasks (s : State) (t va : Nat) (bs : List Byte) : (s.pinWrite t va bs).tasks = s.tasks := by
  obtain ⟨_, h⟩ := s.pinWrite_frame t va bs
  rw [h]
@[simp] theorem State.pinWrite_cohorts (s : State) (t va : Nat) (bs : List Byte) : (s.pinWrite t va bs).cohorts = s.cohorts := by
  obtain ⟨_, h⟩ := s.pinWrite_frame t va bs
  rw [h]
@[simp] theorem State.pinWrite_copies (s : State) (t va : Nat) (bs : List Byte) : (s.pinWrite t va bs).copies = s.copies := by
  obtain ⟨_, h⟩ := s.pinWrite_frame t va bs
  rw [h]
@[simp] theorem State.pinWrite_orders (s : State) (t va : Nat) (bs : List Byte) : (s.pinWrite t va bs).orders = s.orders := by
  obtain ⟨_, h⟩ := s.pinWrite_frame t va bs
  rw [h]
@[simp] theorem State.pinWrite_adds (s : State) (t va : Nat) (bs : List Byte) : (s.pinWrite t va bs).adds = s.adds := by
  obtain ⟨_, h⟩ := s.pinWrite_frame t va bs
  rw [h]
@[simp] theorem State.pinWrite_nextTask (s : State) (t va : Nat) (bs : List Byte) : (s.pinWrite t va bs).nextTask = s.nextTask := by
  obtain ⟨_, h⟩ := s.pinWrite_frame t va bs
  rw [h]
@[simp] theorem State.pinWrite_nextOrder (s : State) (t va : Nat) (bs : List Byte) : (s.pinWrite t va bs).nextOrder = s.nextOrder := by
  obtain ⟨_, h⟩ := s.pinWrite_frame t va bs
  rw [h]
@[simp] theorem State.pinWrite_nextCopy (s : State) (t va : Nat) (bs : List Byte) : (s.pinWrite t va bs).nextCopy = s.nextCopy := by
  obtain ⟨_, h⟩ := s.pinWrite_frame t va bs
  rw [h]
@[simp] theorem State.pinWrite_clusters (s : State) (t va : Nat) (bs : List Byte) : (s.pinWrite t va bs).clusters = s.clusters := by
  obtain ⟨_, h⟩ := s.pinWrite_frame t va bs
  rw [h]
@[simp] theorem State.pinWrite_gtlb (s : State) (t va : Nat) (bs : List Byte) : (s.pinWrite t va bs).gtlb = s.gtlb := by
  obtain ⟨_, h⟩ := s.pinWrite_frame t va bs
  rw [h]
@[simp] theorem State.pinWrite_saves (s : State) (t va : Nat) (bs : List Byte) : (s.pinWrite t va bs).saves = s.saves := by
  obtain ⟨_, h⟩ := s.pinWrite_frame t va bs
  rw [h]
@[simp] theorem State.pinWrite_xlt (s : State) (t va : Nat) (bs : List Byte) : (s.pinWrite t va bs).xlt = s.xlt := by
  obtain ⟨_, h⟩ := s.pinWrite_frame t va bs
  rw [h]
@[simp] theorem State.pinWrite_rc (s : State) (t va : Nat) (bs : List Byte) : (s.pinWrite t va bs).rc = s.rc := by
  obtain ⟨_, h⟩ := s.pinWrite_frame t va bs
  rw [h]
@[simp] theorem State.pinWrite_ev (s : State) (t va : Nat) (bs : List Byte) : (s.pinWrite t va bs).ev = s.ev := by
  obtain ⟨_, h⟩ := s.pinWrite_frame t va bs
  rw [h]
@[simp] theorem State.pinWrite_ports (s : State) (t va : Nat) (bs : List Byte) : (s.pinWrite t va bs).ports = s.ports := by
  obtain ⟨_, h⟩ := s.pinWrite_frame t va bs
  rw [h]
@[simp] theorem State.pinWrite_fence (s : State) (t va : Nat) (bs : List Byte) : (s.pinWrite t va bs).fence = s.fence := by
  obtain ⟨_, h⟩ := s.pinWrite_frame t va bs
  rw [h]
@[simp] theorem State.pinWrite_routeIdx (s : State) (t va : Nat) (bs : List Byte) : (s.pinWrite t va bs).routeIdx = s.routeIdx := by
  obtain ⟨_, h⟩ := s.pinWrite_frame t va bs
  rw [h]
@[simp] theorem State.pinWrite_route (s : State) (t va : Nat) (bs : List Byte) : (s.pinWrite t va bs).route = s.route := by
  obtain ⟨_, h⟩ := s.pinWrite_frame t va bs
  rw [h]
@[simp] theorem State.pinWrite_pwr (s : State) (t va : Nat) (bs : List Byte) : (s.pinWrite t va bs).pwr = s.pwr := by
  obtain ⟨_, h⟩ := s.pinWrite_frame t va bs
  rw [h]
@[simp] theorem State.pinWrite_cnt (s : State) (t va : Nat) (bs : List Byte) : (s.pinWrite t va bs).cnt = s.cnt := by
  obtain ⟨_, h⟩ := s.pinWrite_frame t va bs
  rw [h]
@[simp] theorem State.pinWrite_cntOvf (s : State) (t va : Nat) (bs : List Byte) : (s.pinWrite t va bs).cntOvf = s.cntOvf := by
  obtain ⟨_, h⟩ := s.pinWrite_frame t va bs
  rw [h]
@[simp] theorem State.pinWrite_cntNow (s : State) (t va : Nat) (bs : List Byte) : (s.pinWrite t va bs).cntNow = s.cntNow := by
  obtain ⟨_, h⟩ := s.pinWrite_frame t va bs
  rw [h]
@[simp] theorem State.pinWrite_cntTick (s : State) (t va : Nat) (bs : List Byte) : (s.pinWrite t va bs).cntTick = s.cntTick := by
  obtain ⟨_, h⟩ := s.pinWrite_frame t va bs
  rw [h]
@[simp] theorem State.pinWrite_setNow (s : State) (t va : Nat) (bs : List Byte) : (s.pinWrite t va bs).setNow = s.setNow := by
  obtain ⟨_, h⟩ := s.pinWrite_frame t va bs
  rw [h]

/-! ### count -/

@[simp] theorem State.count_pending (s : State) (k n : Nat) : (s.count k n).pending = s.pending := by
  obtain ⟨_, _, _, _, _, _, _, _, h⟩ := s.count_frame k n
  rw [h]
@[simp] theorem State.count_tick (s : State) (k n : Nat) : (s.count k n).tick = s.tick := by
  obtain ⟨_, _, _, _, _, _, _, _, h⟩ := s.count_frame k n
  rw [h]
@[simp] theorem State.count_free (s : State) (k n : Nat) : (s.count k n).free = s.free := by
  obtain ⟨_, _, _, _, _, _, _, _, h⟩ := s.count_frame k n
  rw [h]
@[simp] theorem State.count_st (s : State) (k n : Nat) : (s.count k n).st = s.st := by
  obtain ⟨_, _, _, _, _, _, _, _, h⟩ := s.count_frame k n
  rw [h]
@[simp] theorem State.count_cause (s : State) (k n : Nat) : (s.count k n).cause = s.cause := by
  obtain ⟨_, _, _, _, _, _, _, _, h⟩ := s.count_frame k n
  rw [h]
@[simp] theorem State.count_lockvio (s : State) (k n : Nat) : (s.count k n).lockvio = s.lockvio := by
  obtain ⟨_, _, _, _, _, _, _, _, h⟩ := s.count_frame k n
  rw [h]
@[simp] theorem State.count_fenceErr (s : State) (k n : Nat) : (s.count k n).fenceErr = s.fenceErr := by
  obtain ⟨_, _, _, _, _, _, _, _, h⟩ := s.count_frame k n
  rw [h]
@[simp] theorem State.count_resetLow (s : State) (k n : Nat) : (s.count k n).resetLow = s.resetLow := by
  obtain ⟨_, _, _, _, _, _, _, _, h⟩ := s.count_frame k n
  rw [h]
@[simp] theorem State.count_powered (s : State) (k n : Nat) : (s.count k n).powered = s.powered := by
  obtain ⟨_, _, _, _, _, _, _, _, h⟩ := s.count_frame k n
  rw [h]
@[simp] theorem State.count_testMode (s : State) (k n : Nat) : (s.count k n).testMode = s.testMode := by
  obtain ⟨_, _, _, _, _, _, _, _, h⟩ := s.count_frame k n
  rw [h]
@[simp] theorem State.count_tap (s : State) (k n : Nat) : (s.count k n).tap = s.tap := by
  obtain ⟨_, _, _, _, _, _, _, _, h⟩ := s.count_frame k n
  rw [h]
@[simp] theorem State.count_wrap (s : State) (k n : Nat) : (s.count k n).wrap = s.wrap := by
  obtain ⟨_, _, _, _, _, _, _, _, h⟩ := s.count_frame k n
  rw [h]
@[simp] theorem State.count_linkRst (s : State) (k n : Nat) : (s.count k n).linkRst = s.linkRst := by
  obtain ⟨_, _, _, _, _, _, _, _, h⟩ := s.count_frame k n
  rw [h]
@[simp] theorem State.count_haddr (s : State) (k n : Nat) : (s.count k n).haddr = s.haddr := by
  obtain ⟨_, _, _, _, _, _, _, _, h⟩ := s.count_frame k n
  rw [h]
@[simp] theorem State.count_enCluster (s : State) (k n : Nat) : (s.count k n).enCluster = s.enCluster := by
  obtain ⟨_, _, _, _, _, _, _, _, h⟩ := s.count_frame k n
  rw [h]
@[simp] theorem State.count_enGather (s : State) (k n : Nat) : (s.count k n).enGather = s.enGather := by
  obtain ⟨_, _, _, _, _, _, _, _, h⟩ := s.count_frame k n
  rw [h]
@[simp] theorem State.count_enMover (s : State) (k n : Nat) : (s.count k n).enMover = s.enMover := by
  obtain ⟨_, _, _, _, _, _, _, _, h⟩ := s.count_frame k n
  rw [h]
@[simp] theorem State.count_enPort (s : State) (k n : Nat) : (s.count k n).enPort = s.enPort := by
  obtain ⟨_, _, _, _, _, _, _, _, h⟩ := s.count_frame k n
  rw [h]
@[simp] theorem State.count_quiesce (s : State) (k n : Nat) : (s.count k n).quiesce = s.quiesce := by
  obtain ⟨_, _, _, _, _, _, _, _, h⟩ := s.count_frame k n
  rw [h]
@[simp] theorem State.count_ledClear (s : State) (k n : Nat) : (s.count k n).ledClear = s.ledClear := by
  obtain ⟨_, _, _, _, _, _, _, _, h⟩ := s.count_frame k n
  rw [h]
@[simp] theorem State.count_fw (s : State) (k n : Nat) : (s.count k n).fw = s.fw := by
  obtain ⟨_, _, _, _, _, _, _, _, h⟩ := s.count_frame k n
  rw [h]
@[simp] theorem State.count_tens (s : State) (k n : Nat) : (s.count k n).tens = s.tens := by
  obtain ⟨_, _, _, _, _, _, _, _, h⟩ := s.count_frame k n
  rw [h]
@[simp] theorem State.count_rings (s : State) (k n : Nat) : (s.count k n).rings = s.rings := by
  obtain ⟨_, _, _, _, _, _, _, _, h⟩ := s.count_frame k n
  rw [h]
@[simp] theorem State.count_overlaps (s : State) (k n : Nat) : (s.count k n).overlaps = s.overlaps := by
  obtain ⟨_, _, _, _, _, _, _, _, h⟩ := s.count_frame k n
  rw [h]
@[simp] theorem State.count_tasks (s : State) (k n : Nat) : (s.count k n).tasks = s.tasks := by
  obtain ⟨_, _, _, _, _, _, _, _, h⟩ := s.count_frame k n
  rw [h]
@[simp] theorem State.count_cohorts (s : State) (k n : Nat) : (s.count k n).cohorts = s.cohorts := by
  obtain ⟨_, _, _, _, _, _, _, _, h⟩ := s.count_frame k n
  rw [h]
@[simp] theorem State.count_copies (s : State) (k n : Nat) : (s.count k n).copies = s.copies := by
  obtain ⟨_, _, _, _, _, _, _, _, h⟩ := s.count_frame k n
  rw [h]
@[simp] theorem State.count_orders (s : State) (k n : Nat) : (s.count k n).orders = s.orders := by
  obtain ⟨_, _, _, _, _, _, _, _, h⟩ := s.count_frame k n
  rw [h]
@[simp] theorem State.count_adds (s : State) (k n : Nat) : (s.count k n).adds = s.adds := by
  obtain ⟨_, _, _, _, _, _, _, _, h⟩ := s.count_frame k n
  rw [h]
@[simp] theorem State.count_nextTask (s : State) (k n : Nat) : (s.count k n).nextTask = s.nextTask := by
  obtain ⟨_, _, _, _, _, _, _, _, h⟩ := s.count_frame k n
  rw [h]
@[simp] theorem State.count_nextOrder (s : State) (k n : Nat) : (s.count k n).nextOrder = s.nextOrder := by
  obtain ⟨_, _, _, _, _, _, _, _, h⟩ := s.count_frame k n
  rw [h]
@[simp] theorem State.count_nextCopy (s : State) (k n : Nat) : (s.count k n).nextCopy = s.nextCopy := by
  obtain ⟨_, _, _, _, _, _, _, _, h⟩ := s.count_frame k n
  rw [h]
@[simp] theorem State.count_clusters (s : State) (k n : Nat) : (s.count k n).clusters = s.clusters := by
  obtain ⟨_, _, _, _, _, _, _, _, h⟩ := s.count_frame k n
  rw [h]
@[simp] theorem State.count_gtlb (s : State) (k n : Nat) : (s.count k n).gtlb = s.gtlb := by
  obtain ⟨_, _, _, _, _, _, _, _, h⟩ := s.count_frame k n
  rw [h]
@[simp] theorem State.count_saves (s : State) (k n : Nat) : (s.count k n).saves = s.saves := by
  obtain ⟨_, _, _, _, _, _, _, _, h⟩ := s.count_frame k n
  rw [h]
@[simp] theorem State.count_xlt (s : State) (k n : Nat) : (s.count k n).xlt = s.xlt := by
  obtain ⟨_, _, _, _, _, _, _, _, h⟩ := s.count_frame k n
  rw [h]
@[simp] theorem State.count_rc (s : State) (k n : Nat) : (s.count k n).rc = s.rc := by
  obtain ⟨_, _, _, _, _, _, _, _, h⟩ := s.count_frame k n
  rw [h]
@[simp] theorem State.count_ports (s : State) (k n : Nat) : (s.count k n).ports = s.ports := by
  obtain ⟨_, _, _, _, _, _, _, _, h⟩ := s.count_frame k n
  rw [h]
@[simp] theorem State.count_fence (s : State) (k n : Nat) : (s.count k n).fence = s.fence := by
  obtain ⟨_, _, _, _, _, _, _, _, h⟩ := s.count_frame k n
  rw [h]
@[simp] theorem State.count_routeIdx (s : State) (k n : Nat) : (s.count k n).routeIdx = s.routeIdx := by
  obtain ⟨_, _, _, _, _, _, _, _, h⟩ := s.count_frame k n
  rw [h]
@[simp] theorem State.count_route (s : State) (k n : Nat) : (s.count k n).route = s.route := by
  obtain ⟨_, _, _, _, _, _, _, _, h⟩ := s.count_frame k n
  rw [h]
@[simp] theorem State.count_pwr (s : State) (k n : Nat) : (s.count k n).pwr = s.pwr := by
  obtain ⟨_, _, _, _, _, _, _, _, h⟩ := s.count_frame k n
  rw [h]

/-! ### complete -/

@[simp] theorem State.complete_pending (s : State) (c : CmdRef) (st re x y : Nat) : (s.complete c st re x y).pending = s.pending := by
  obtain ⟨_, _, _, _, _, h⟩ := s.complete_frame c st re x y
  rw [h]
@[simp] theorem State.complete_tick (s : State) (c : CmdRef) (st re x y : Nat) : (s.complete c st re x y).tick = s.tick := by
  obtain ⟨_, _, _, _, _, h⟩ := s.complete_frame c st re x y
  rw [h]
@[simp] theorem State.complete_st (s : State) (c : CmdRef) (st re x y : Nat) : (s.complete c st re x y).st = s.st := by
  obtain ⟨_, _, _, _, _, h⟩ := s.complete_frame c st re x y
  rw [h]
@[simp] theorem State.complete_cause (s : State) (c : CmdRef) (st re x y : Nat) : (s.complete c st re x y).cause = s.cause := by
  obtain ⟨_, _, _, _, _, h⟩ := s.complete_frame c st re x y
  rw [h]
@[simp] theorem State.complete_lockvio (s : State) (c : CmdRef) (st re x y : Nat) : (s.complete c st re x y).lockvio = s.lockvio := by
  obtain ⟨_, _, _, _, _, h⟩ := s.complete_frame c st re x y
  rw [h]
@[simp] theorem State.complete_fenceErr (s : State) (c : CmdRef) (st re x y : Nat) : (s.complete c st re x y).fenceErr = s.fenceErr := by
  obtain ⟨_, _, _, _, _, h⟩ := s.complete_frame c st re x y
  rw [h]
@[simp] theorem State.complete_resetLow (s : State) (c : CmdRef) (st re x y : Nat) : (s.complete c st re x y).resetLow = s.resetLow := by
  obtain ⟨_, _, _, _, _, h⟩ := s.complete_frame c st re x y
  rw [h]
@[simp] theorem State.complete_powered (s : State) (c : CmdRef) (st re x y : Nat) : (s.complete c st re x y).powered = s.powered := by
  obtain ⟨_, _, _, _, _, h⟩ := s.complete_frame c st re x y
  rw [h]
@[simp] theorem State.complete_testMode (s : State) (c : CmdRef) (st re x y : Nat) : (s.complete c st re x y).testMode = s.testMode := by
  obtain ⟨_, _, _, _, _, h⟩ := s.complete_frame c st re x y
  rw [h]
@[simp] theorem State.complete_tap (s : State) (c : CmdRef) (st re x y : Nat) : (s.complete c st re x y).tap = s.tap := by
  obtain ⟨_, _, _, _, _, h⟩ := s.complete_frame c st re x y
  rw [h]
@[simp] theorem State.complete_wrap (s : State) (c : CmdRef) (st re x y : Nat) : (s.complete c st re x y).wrap = s.wrap := by
  obtain ⟨_, _, _, _, _, h⟩ := s.complete_frame c st re x y
  rw [h]
@[simp] theorem State.complete_linkRst (s : State) (c : CmdRef) (st re x y : Nat) : (s.complete c st re x y).linkRst = s.linkRst := by
  obtain ⟨_, _, _, _, _, h⟩ := s.complete_frame c st re x y
  rw [h]
@[simp] theorem State.complete_haddr (s : State) (c : CmdRef) (st re x y : Nat) : (s.complete c st re x y).haddr = s.haddr := by
  obtain ⟨_, _, _, _, _, h⟩ := s.complete_frame c st re x y
  rw [h]
@[simp] theorem State.complete_enCluster (s : State) (c : CmdRef) (st re x y : Nat) : (s.complete c st re x y).enCluster = s.enCluster := by
  obtain ⟨_, _, _, _, _, h⟩ := s.complete_frame c st re x y
  rw [h]
@[simp] theorem State.complete_enGather (s : State) (c : CmdRef) (st re x y : Nat) : (s.complete c st re x y).enGather = s.enGather := by
  obtain ⟨_, _, _, _, _, h⟩ := s.complete_frame c st re x y
  rw [h]
@[simp] theorem State.complete_enMover (s : State) (c : CmdRef) (st re x y : Nat) : (s.complete c st re x y).enMover = s.enMover := by
  obtain ⟨_, _, _, _, _, h⟩ := s.complete_frame c st re x y
  rw [h]
@[simp] theorem State.complete_enPort (s : State) (c : CmdRef) (st re x y : Nat) : (s.complete c st re x y).enPort = s.enPort := by
  obtain ⟨_, _, _, _, _, h⟩ := s.complete_frame c st re x y
  rw [h]
@[simp] theorem State.complete_quiesce (s : State) (c : CmdRef) (st re x y : Nat) : (s.complete c st re x y).quiesce = s.quiesce := by
  obtain ⟨_, _, _, _, _, h⟩ := s.complete_frame c st re x y
  rw [h]
@[simp] theorem State.complete_ledClear (s : State) (c : CmdRef) (st re x y : Nat) : (s.complete c st re x y).ledClear = s.ledClear := by
  obtain ⟨_, _, _, _, _, h⟩ := s.complete_frame c st re x y
  rw [h]
@[simp] theorem State.complete_fw (s : State) (c : CmdRef) (st re x y : Nat) : (s.complete c st re x y).fw = s.fw := by
  obtain ⟨_, _, _, _, _, h⟩ := s.complete_frame c st re x y
  rw [h]
@[simp] theorem State.complete_tens (s : State) (c : CmdRef) (st re x y : Nat) : (s.complete c st re x y).tens = s.tens := by
  obtain ⟨_, _, _, _, _, h⟩ := s.complete_frame c st re x y
  rw [h]
@[simp] theorem State.complete_rings (s : State) (c : CmdRef) (st re x y : Nat) : (s.complete c st re x y).rings = s.rings := by
  obtain ⟨_, _, _, _, _, h⟩ := s.complete_frame c st re x y
  rw [h]
@[simp] theorem State.complete_overlaps (s : State) (c : CmdRef) (st re x y : Nat) : (s.complete c st re x y).overlaps = s.overlaps := by
  obtain ⟨_, _, _, _, _, h⟩ := s.complete_frame c st re x y
  rw [h]
@[simp] theorem State.complete_tasks (s : State) (c : CmdRef) (st re x y : Nat) : (s.complete c st re x y).tasks = s.tasks := by
  obtain ⟨_, _, _, _, _, h⟩ := s.complete_frame c st re x y
  rw [h]
@[simp] theorem State.complete_cohorts (s : State) (c : CmdRef) (st re x y : Nat) : (s.complete c st re x y).cohorts = s.cohorts := by
  obtain ⟨_, _, _, _, _, h⟩ := s.complete_frame c st re x y
  rw [h]
@[simp] theorem State.complete_copies (s : State) (c : CmdRef) (st re x y : Nat) : (s.complete c st re x y).copies = s.copies := by
  obtain ⟨_, _, _, _, _, h⟩ := s.complete_frame c st re x y
  rw [h]
@[simp] theorem State.complete_orders (s : State) (c : CmdRef) (st re x y : Nat) : (s.complete c st re x y).orders = s.orders := by
  obtain ⟨_, _, _, _, _, h⟩ := s.complete_frame c st re x y
  rw [h]
@[simp] theorem State.complete_adds (s : State) (c : CmdRef) (st re x y : Nat) : (s.complete c st re x y).adds = s.adds := by
  obtain ⟨_, _, _, _, _, h⟩ := s.complete_frame c st re x y
  rw [h]
@[simp] theorem State.complete_nextTask (s : State) (c : CmdRef) (st re x y : Nat) : (s.complete c st re x y).nextTask = s.nextTask := by
  obtain ⟨_, _, _, _, _, h⟩ := s.complete_frame c st re x y
  rw [h]
@[simp] theorem State.complete_nextOrder (s : State) (c : CmdRef) (st re x y : Nat) : (s.complete c st re x y).nextOrder = s.nextOrder := by
  obtain ⟨_, _, _, _, _, h⟩ := s.complete_frame c st re x y
  rw [h]
@[simp] theorem State.complete_nextCopy (s : State) (c : CmdRef) (st re x y : Nat) : (s.complete c st re x y).nextCopy = s.nextCopy := by
  obtain ⟨_, _, _, _, _, h⟩ := s.complete_frame c st re x y
  rw [h]
@[simp] theorem State.complete_clusters (s : State) (c : CmdRef) (st re x y : Nat) : (s.complete c st re x y).clusters = s.clusters := by
  obtain ⟨_, _, _, _, _, h⟩ := s.complete_frame c st re x y
  rw [h]
@[simp] theorem State.complete_gtlb (s : State) (c : CmdRef) (st re x y : Nat) : (s.complete c st re x y).gtlb = s.gtlb := by
  obtain ⟨_, _, _, _, _, h⟩ := s.complete_frame c st re x y
  rw [h]
@[simp] theorem State.complete_saves (s : State) (c : CmdRef) (st re x y : Nat) : (s.complete c st re x y).saves = s.saves := by
  obtain ⟨_, _, _, _, _, h⟩ := s.complete_frame c st re x y
  rw [h]
@[simp] theorem State.complete_xlt (s : State) (c : CmdRef) (st re x y : Nat) : (s.complete c st re x y).xlt = s.xlt := by
  obtain ⟨_, _, _, _, _, h⟩ := s.complete_frame c st re x y
  rw [h]
@[simp] theorem State.complete_rc (s : State) (c : CmdRef) (st re x y : Nat) : (s.complete c st re x y).rc = s.rc := by
  obtain ⟨_, _, _, _, _, h⟩ := s.complete_frame c st re x y
  rw [h]
@[simp] theorem State.complete_ports (s : State) (c : CmdRef) (st re x y : Nat) : (s.complete c st re x y).ports = s.ports := by
  obtain ⟨_, _, _, _, _, h⟩ := s.complete_frame c st re x y
  rw [h]
@[simp] theorem State.complete_fence (s : State) (c : CmdRef) (st re x y : Nat) : (s.complete c st re x y).fence = s.fence := by
  obtain ⟨_, _, _, _, _, h⟩ := s.complete_frame c st re x y
  rw [h]
@[simp] theorem State.complete_routeIdx (s : State) (c : CmdRef) (st re x y : Nat) : (s.complete c st re x y).routeIdx = s.routeIdx := by
  obtain ⟨_, _, _, _, _, h⟩ := s.complete_frame c st re x y
  rw [h]
@[simp] theorem State.complete_route (s : State) (c : CmdRef) (st re x y : Nat) : (s.complete c st re x y).route = s.route := by
  obtain ⟨_, _, _, _, _, h⟩ := s.complete_frame c st re x y
  rw [h]
@[simp] theorem State.complete_pwr (s : State) (c : CmdRef) (st re x y : Nat) : (s.complete c st re x y).pwr = s.pwr := by
  obtain ⟨_, _, _, _, _, h⟩ := s.complete_frame c st re x y
  rw [h]
@[simp] theorem State.complete_cnt (s : State) (c : CmdRef) (st re x y : Nat) : (s.complete c st re x y).cnt = s.cnt := by
  obtain ⟨_, _, _, _, _, h⟩ := s.complete_frame c st re x y
  rw [h]
@[simp] theorem State.complete_cntOvf (s : State) (c : CmdRef) (st re x y : Nat) : (s.complete c st re x y).cntOvf = s.cntOvf := by
  obtain ⟨_, _, _, _, _, h⟩ := s.complete_frame c st re x y
  rw [h]
@[simp] theorem State.complete_cntNow (s : State) (c : CmdRef) (st re x y : Nat) : (s.complete c st re x y).cntNow = s.cntNow := by
  obtain ⟨_, _, _, _, _, h⟩ := s.complete_frame c st re x y
  rw [h]
@[simp] theorem State.complete_cntTick (s : State) (c : CmdRef) (st re x y : Nat) : (s.complete c st re x y).cntTick = s.cntTick := by
  obtain ⟨_, _, _, _, _, h⟩ := s.complete_frame c st re x y
  rw [h]

/-! ### finish -/

@[simp] theorem State.finish_pending (s : State) (c : CmdRef) (st re x y : Nat) : (s.finish c st re x y).pending = s.pending := by
  obtain ⟨_, _, _, _, _, _, h⟩ := s.finish_frame c st re x y
  rw [h]
@[simp] theorem State.finish_tick (s : State) (c : CmdRef) (st re x y : Nat) : (s.finish c st re x y).tick = s.tick := by
  obtain ⟨_, _, _, _, _, _, h⟩ := s.finish_frame c st re x y
  rw [h]
@[simp] theorem State.finish_st (s : State) (c : CmdRef) (st re x y : Nat) : (s.finish c st re x y).st = s.st := by
  obtain ⟨_, _, _, _, _, _, h⟩ := s.finish_frame c st re x y
  rw [h]
@[simp] theorem State.finish_cause (s : State) (c : CmdRef) (st re x y : Nat) : (s.finish c st re x y).cause = s.cause := by
  obtain ⟨_, _, _, _, _, _, h⟩ := s.finish_frame c st re x y
  rw [h]
@[simp] theorem State.finish_lockvio (s : State) (c : CmdRef) (st re x y : Nat) : (s.finish c st re x y).lockvio = s.lockvio := by
  obtain ⟨_, _, _, _, _, _, h⟩ := s.finish_frame c st re x y
  rw [h]
@[simp] theorem State.finish_fenceErr (s : State) (c : CmdRef) (st re x y : Nat) : (s.finish c st re x y).fenceErr = s.fenceErr := by
  obtain ⟨_, _, _, _, _, _, h⟩ := s.finish_frame c st re x y
  rw [h]
@[simp] theorem State.finish_resetLow (s : State) (c : CmdRef) (st re x y : Nat) : (s.finish c st re x y).resetLow = s.resetLow := by
  obtain ⟨_, _, _, _, _, _, h⟩ := s.finish_frame c st re x y
  rw [h]
@[simp] theorem State.finish_powered (s : State) (c : CmdRef) (st re x y : Nat) : (s.finish c st re x y).powered = s.powered := by
  obtain ⟨_, _, _, _, _, _, h⟩ := s.finish_frame c st re x y
  rw [h]
@[simp] theorem State.finish_testMode (s : State) (c : CmdRef) (st re x y : Nat) : (s.finish c st re x y).testMode = s.testMode := by
  obtain ⟨_, _, _, _, _, _, h⟩ := s.finish_frame c st re x y
  rw [h]
@[simp] theorem State.finish_tap (s : State) (c : CmdRef) (st re x y : Nat) : (s.finish c st re x y).tap = s.tap := by
  obtain ⟨_, _, _, _, _, _, h⟩ := s.finish_frame c st re x y
  rw [h]
@[simp] theorem State.finish_wrap (s : State) (c : CmdRef) (st re x y : Nat) : (s.finish c st re x y).wrap = s.wrap := by
  obtain ⟨_, _, _, _, _, _, h⟩ := s.finish_frame c st re x y
  rw [h]
@[simp] theorem State.finish_linkRst (s : State) (c : CmdRef) (st re x y : Nat) : (s.finish c st re x y).linkRst = s.linkRst := by
  obtain ⟨_, _, _, _, _, _, h⟩ := s.finish_frame c st re x y
  rw [h]
@[simp] theorem State.finish_haddr (s : State) (c : CmdRef) (st re x y : Nat) : (s.finish c st re x y).haddr = s.haddr := by
  obtain ⟨_, _, _, _, _, _, h⟩ := s.finish_frame c st re x y
  rw [h]
@[simp] theorem State.finish_enCluster (s : State) (c : CmdRef) (st re x y : Nat) : (s.finish c st re x y).enCluster = s.enCluster := by
  obtain ⟨_, _, _, _, _, _, h⟩ := s.finish_frame c st re x y
  rw [h]
@[simp] theorem State.finish_enGather (s : State) (c : CmdRef) (st re x y : Nat) : (s.finish c st re x y).enGather = s.enGather := by
  obtain ⟨_, _, _, _, _, _, h⟩ := s.finish_frame c st re x y
  rw [h]
@[simp] theorem State.finish_enMover (s : State) (c : CmdRef) (st re x y : Nat) : (s.finish c st re x y).enMover = s.enMover := by
  obtain ⟨_, _, _, _, _, _, h⟩ := s.finish_frame c st re x y
  rw [h]
@[simp] theorem State.finish_enPort (s : State) (c : CmdRef) (st re x y : Nat) : (s.finish c st re x y).enPort = s.enPort := by
  obtain ⟨_, _, _, _, _, _, h⟩ := s.finish_frame c st re x y
  rw [h]
@[simp] theorem State.finish_quiesce (s : State) (c : CmdRef) (st re x y : Nat) : (s.finish c st re x y).quiesce = s.quiesce := by
  obtain ⟨_, _, _, _, _, _, h⟩ := s.finish_frame c st re x y
  rw [h]
@[simp] theorem State.finish_ledClear (s : State) (c : CmdRef) (st re x y : Nat) : (s.finish c st re x y).ledClear = s.ledClear := by
  obtain ⟨_, _, _, _, _, _, h⟩ := s.finish_frame c st re x y
  rw [h]
@[simp] theorem State.finish_fw (s : State) (c : CmdRef) (st re x y : Nat) : (s.finish c st re x y).fw = s.fw := by
  obtain ⟨_, _, _, _, _, _, h⟩ := s.finish_frame c st re x y
  rw [h]
@[simp] theorem State.finish_tens (s : State) (c : CmdRef) (st re x y : Nat) : (s.finish c st re x y).tens = s.tens := by
  obtain ⟨_, _, _, _, _, _, h⟩ := s.finish_frame c st re x y
  rw [h]
@[simp] theorem State.finish_overlaps (s : State) (c : CmdRef) (st re x y : Nat) : (s.finish c st re x y).overlaps = s.overlaps := by
  obtain ⟨_, _, _, _, _, _, h⟩ := s.finish_frame c st re x y
  rw [h]
@[simp] theorem State.finish_tasks (s : State) (c : CmdRef) (st re x y : Nat) : (s.finish c st re x y).tasks = s.tasks := by
  obtain ⟨_, _, _, _, _, _, h⟩ := s.finish_frame c st re x y
  rw [h]
@[simp] theorem State.finish_cohorts (s : State) (c : CmdRef) (st re x y : Nat) : (s.finish c st re x y).cohorts = s.cohorts := by
  obtain ⟨_, _, _, _, _, _, h⟩ := s.finish_frame c st re x y
  rw [h]
@[simp] theorem State.finish_copies (s : State) (c : CmdRef) (st re x y : Nat) : (s.finish c st re x y).copies = s.copies := by
  obtain ⟨_, _, _, _, _, _, h⟩ := s.finish_frame c st re x y
  rw [h]
@[simp] theorem State.finish_orders (s : State) (c : CmdRef) (st re x y : Nat) : (s.finish c st re x y).orders = s.orders := by
  obtain ⟨_, _, _, _, _, _, h⟩ := s.finish_frame c st re x y
  rw [h]
@[simp] theorem State.finish_adds (s : State) (c : CmdRef) (st re x y : Nat) : (s.finish c st re x y).adds = s.adds := by
  obtain ⟨_, _, _, _, _, _, h⟩ := s.finish_frame c st re x y
  rw [h]
@[simp] theorem State.finish_nextTask (s : State) (c : CmdRef) (st re x y : Nat) : (s.finish c st re x y).nextTask = s.nextTask := by
  obtain ⟨_, _, _, _, _, _, h⟩ := s.finish_frame c st re x y
  rw [h]
@[simp] theorem State.finish_nextOrder (s : State) (c : CmdRef) (st re x y : Nat) : (s.finish c st re x y).nextOrder = s.nextOrder := by
  obtain ⟨_, _, _, _, _, _, h⟩ := s.finish_frame c st re x y
  rw [h]
@[simp] theorem State.finish_nextCopy (s : State) (c : CmdRef) (st re x y : Nat) : (s.finish c st re x y).nextCopy = s.nextCopy := by
  obtain ⟨_, _, _, _, _, _, h⟩ := s.finish_frame c st re x y
  rw [h]
@[simp] theorem State.finish_clusters (s : State) (c : CmdRef) (st re x y : Nat) : (s.finish c st re x y).clusters = s.clusters := by
  obtain ⟨_, _, _, _, _, _, h⟩ := s.finish_frame c st re x y
  rw [h]
@[simp] theorem State.finish_gtlb (s : State) (c : CmdRef) (st re x y : Nat) : (s.finish c st re x y).gtlb = s.gtlb := by
  obtain ⟨_, _, _, _, _, _, h⟩ := s.finish_frame c st re x y
  rw [h]
@[simp] theorem State.finish_saves (s : State) (c : CmdRef) (st re x y : Nat) : (s.finish c st re x y).saves = s.saves := by
  obtain ⟨_, _, _, _, _, _, h⟩ := s.finish_frame c st re x y
  rw [h]
@[simp] theorem State.finish_xlt (s : State) (c : CmdRef) (st re x y : Nat) : (s.finish c st re x y).xlt = s.xlt := by
  obtain ⟨_, _, _, _, _, _, h⟩ := s.finish_frame c st re x y
  rw [h]
@[simp] theorem State.finish_rc (s : State) (c : CmdRef) (st re x y : Nat) : (s.finish c st re x y).rc = s.rc := by
  obtain ⟨_, _, _, _, _, _, h⟩ := s.finish_frame c st re x y
  rw [h]
@[simp] theorem State.finish_ports (s : State) (c : CmdRef) (st re x y : Nat) : (s.finish c st re x y).ports = s.ports := by
  obtain ⟨_, _, _, _, _, _, h⟩ := s.finish_frame c st re x y
  rw [h]
@[simp] theorem State.finish_fence (s : State) (c : CmdRef) (st re x y : Nat) : (s.finish c st re x y).fence = s.fence := by
  obtain ⟨_, _, _, _, _, _, h⟩ := s.finish_frame c st re x y
  rw [h]
@[simp] theorem State.finish_routeIdx (s : State) (c : CmdRef) (st re x y : Nat) : (s.finish c st re x y).routeIdx = s.routeIdx := by
  obtain ⟨_, _, _, _, _, _, h⟩ := s.finish_frame c st re x y
  rw [h]
@[simp] theorem State.finish_route (s : State) (c : CmdRef) (st re x y : Nat) : (s.finish c st re x y).route = s.route := by
  obtain ⟨_, _, _, _, _, _, h⟩ := s.finish_frame c st re x y
  rw [h]
@[simp] theorem State.finish_pwr (s : State) (c : CmdRef) (st re x y : Nat) : (s.finish c st re x y).pwr = s.pwr := by
  obtain ⟨_, _, _, _, _, _, h⟩ := s.finish_frame c st re x y
  rw [h]
@[simp] theorem State.finish_cnt (s : State) (c : CmdRef) (st re x y : Nat) : (s.finish c st re x y).cnt = s.cnt := by
  obtain ⟨_, _, _, _, _, _, h⟩ := s.finish_frame c st re x y
  rw [h]
@[simp] theorem State.finish_cntOvf (s : State) (c : CmdRef) (st re x y : Nat) : (s.finish c st re x y).cntOvf = s.cntOvf := by
  obtain ⟨_, _, _, _, _, _, h⟩ := s.finish_frame c st re x y
  rw [h]
@[simp] theorem State.finish_cntNow (s : State) (c : CmdRef) (st re x y : Nat) : (s.finish c st re x y).cntNow = s.cntNow := by
  obtain ⟨_, _, _, _, _, _, h⟩ := s.finish_frame c st re x y
  rw [h]
@[simp] theorem State.finish_cntTick (s : State) (c : CmdRef) (st re x y : Nat) : (s.finish c st re x y).cntTick = s.cntTick := by
  obtain ⟨_, _, _, _, _, _, h⟩ := s.finish_frame c st re x y
  rw [h]

/-! ### moveHead -/

@[simp] theorem State.moveHead_pending (s : State) (r : Nat) : (s.moveHead r).pending = s.pending := by
  obtain ⟨_, _, h⟩ := s.moveHead_frame r
  rw [h]
@[simp] theorem State.moveHead_tick (s : State) (r : Nat) : (s.moveHead r).tick = s.tick := by
  obtain ⟨_, _, h⟩ := s.moveHead_frame r
  rw [h]
@[simp] theorem State.moveHead_free (s : State) (r : Nat) : (s.moveHead r).free = s.free := by
  obtain ⟨_, _, h⟩ := s.moveHead_frame r
  rw [h]
@[simp] theorem State.moveHead_st (s : State) (r : Nat) : (s.moveHead r).st = s.st := by
  obtain ⟨_, _, h⟩ := s.moveHead_frame r
  rw [h]
@[simp] theorem State.moveHead_cause (s : State) (r : Nat) : (s.moveHead r).cause = s.cause := by
  obtain ⟨_, _, h⟩ := s.moveHead_frame r
  rw [h]
@[simp] theorem State.moveHead_lockvio (s : State) (r : Nat) : (s.moveHead r).lockvio = s.lockvio := by
  obtain ⟨_, _, h⟩ := s.moveHead_frame r
  rw [h]
@[simp] theorem State.moveHead_fenceErr (s : State) (r : Nat) : (s.moveHead r).fenceErr = s.fenceErr := by
  obtain ⟨_, _, h⟩ := s.moveHead_frame r
  rw [h]
@[simp] theorem State.moveHead_evrlost (s : State) (r : Nat) : (s.moveHead r).evrlost = s.evrlost := by
  obtain ⟨_, _, h⟩ := s.moveHead_frame r
  rw [h]
@[simp] theorem State.moveHead_resetLow (s : State) (r : Nat) : (s.moveHead r).resetLow = s.resetLow := by
  obtain ⟨_, _, h⟩ := s.moveHead_frame r
  rw [h]
@[simp] theorem State.moveHead_powered (s : State) (r : Nat) : (s.moveHead r).powered = s.powered := by
  obtain ⟨_, _, h⟩ := s.moveHead_frame r
  rw [h]
@[simp] theorem State.moveHead_testMode (s : State) (r : Nat) : (s.moveHead r).testMode = s.testMode := by
  obtain ⟨_, _, h⟩ := s.moveHead_frame r
  rw [h]
@[simp] theorem State.moveHead_tap (s : State) (r : Nat) : (s.moveHead r).tap = s.tap := by
  obtain ⟨_, _, h⟩ := s.moveHead_frame r
  rw [h]
@[simp] theorem State.moveHead_wrap (s : State) (r : Nat) : (s.moveHead r).wrap = s.wrap := by
  obtain ⟨_, _, h⟩ := s.moveHead_frame r
  rw [h]
@[simp] theorem State.moveHead_linkRst (s : State) (r : Nat) : (s.moveHead r).linkRst = s.linkRst := by
  obtain ⟨_, _, h⟩ := s.moveHead_frame r
  rw [h]
@[simp] theorem State.moveHead_haddr (s : State) (r : Nat) : (s.moveHead r).haddr = s.haddr := by
  obtain ⟨_, _, h⟩ := s.moveHead_frame r
  rw [h]
@[simp] theorem State.moveHead_enCluster (s : State) (r : Nat) : (s.moveHead r).enCluster = s.enCluster := by
  obtain ⟨_, _, h⟩ := s.moveHead_frame r
  rw [h]
@[simp] theorem State.moveHead_enGather (s : State) (r : Nat) : (s.moveHead r).enGather = s.enGather := by
  obtain ⟨_, _, h⟩ := s.moveHead_frame r
  rw [h]
@[simp] theorem State.moveHead_enMover (s : State) (r : Nat) : (s.moveHead r).enMover = s.enMover := by
  obtain ⟨_, _, h⟩ := s.moveHead_frame r
  rw [h]
@[simp] theorem State.moveHead_enPort (s : State) (r : Nat) : (s.moveHead r).enPort = s.enPort := by
  obtain ⟨_, _, h⟩ := s.moveHead_frame r
  rw [h]
@[simp] theorem State.moveHead_quiesce (s : State) (r : Nat) : (s.moveHead r).quiesce = s.quiesce := by
  obtain ⟨_, _, h⟩ := s.moveHead_frame r
  rw [h]
@[simp] theorem State.moveHead_ledClear (s : State) (r : Nat) : (s.moveHead r).ledClear = s.ledClear := by
  obtain ⟨_, _, h⟩ := s.moveHead_frame r
  rw [h]
@[simp] theorem State.moveHead_fw (s : State) (r : Nat) : (s.moveHead r).fw = s.fw := by
  obtain ⟨_, _, h⟩ := s.moveHead_frame r
  rw [h]
@[simp] theorem State.moveHead_tens (s : State) (r : Nat) : (s.moveHead r).tens = s.tens := by
  obtain ⟨_, _, h⟩ := s.moveHead_frame r
  rw [h]
@[simp] theorem State.moveHead_overlaps (s : State) (r : Nat) : (s.moveHead r).overlaps = s.overlaps := by
  obtain ⟨_, _, h⟩ := s.moveHead_frame r
  rw [h]
@[simp] theorem State.moveHead_tasks (s : State) (r : Nat) : (s.moveHead r).tasks = s.tasks := by
  obtain ⟨_, _, h⟩ := s.moveHead_frame r
  rw [h]
@[simp] theorem State.moveHead_cohorts (s : State) (r : Nat) : (s.moveHead r).cohorts = s.cohorts := by
  obtain ⟨_, _, h⟩ := s.moveHead_frame r
  rw [h]
@[simp] theorem State.moveHead_copies (s : State) (r : Nat) : (s.moveHead r).copies = s.copies := by
  obtain ⟨_, _, h⟩ := s.moveHead_frame r
  rw [h]
@[simp] theorem State.moveHead_orders (s : State) (r : Nat) : (s.moveHead r).orders = s.orders := by
  obtain ⟨_, _, h⟩ := s.moveHead_frame r
  rw [h]
@[simp] theorem State.moveHead_adds (s : State) (r : Nat) : (s.moveHead r).adds = s.adds := by
  obtain ⟨_, _, h⟩ := s.moveHead_frame r
  rw [h]
@[simp] theorem State.moveHead_nextTask (s : State) (r : Nat) : (s.moveHead r).nextTask = s.nextTask := by
  obtain ⟨_, _, h⟩ := s.moveHead_frame r
  rw [h]
@[simp] theorem State.moveHead_nextOrder (s : State) (r : Nat) : (s.moveHead r).nextOrder = s.nextOrder := by
  obtain ⟨_, _, h⟩ := s.moveHead_frame r
  rw [h]
@[simp] theorem State.moveHead_nextCopy (s : State) (r : Nat) : (s.moveHead r).nextCopy = s.nextCopy := by
  obtain ⟨_, _, h⟩ := s.moveHead_frame r
  rw [h]
@[simp] theorem State.moveHead_clusters (s : State) (r : Nat) : (s.moveHead r).clusters = s.clusters := by
  obtain ⟨_, _, h⟩ := s.moveHead_frame r
  rw [h]
@[simp] theorem State.moveHead_gtlb (s : State) (r : Nat) : (s.moveHead r).gtlb = s.gtlb := by
  obtain ⟨_, _, h⟩ := s.moveHead_frame r
  rw [h]
@[simp] theorem State.moveHead_saves (s : State) (r : Nat) : (s.moveHead r).saves = s.saves := by
  obtain ⟨_, _, h⟩ := s.moveHead_frame r
  rw [h]
@[simp] theorem State.moveHead_xlt (s : State) (r : Nat) : (s.moveHead r).xlt = s.xlt := by
  obtain ⟨_, _, h⟩ := s.moveHead_frame r
  rw [h]
@[simp] theorem State.moveHead_rc (s : State) (r : Nat) : (s.moveHead r).rc = s.rc := by
  obtain ⟨_, _, h⟩ := s.moveHead_frame r
  rw [h]
@[simp] theorem State.moveHead_ev (s : State) (r : Nat) : (s.moveHead r).ev = s.ev := by
  obtain ⟨_, _, h⟩ := s.moveHead_frame r
  rw [h]
@[simp] theorem State.moveHead_ports (s : State) (r : Nat) : (s.moveHead r).ports = s.ports := by
  obtain ⟨_, _, h⟩ := s.moveHead_frame r
  rw [h]
@[simp] theorem State.moveHead_fence (s : State) (r : Nat) : (s.moveHead r).fence = s.fence := by
  obtain ⟨_, _, h⟩ := s.moveHead_frame r
  rw [h]
@[simp] theorem State.moveHead_routeIdx (s : State) (r : Nat) : (s.moveHead r).routeIdx = s.routeIdx := by
  obtain ⟨_, _, h⟩ := s.moveHead_frame r
  rw [h]
@[simp] theorem State.moveHead_route (s : State) (r : Nat) : (s.moveHead r).route = s.route := by
  obtain ⟨_, _, h⟩ := s.moveHead_frame r
  rw [h]
@[simp] theorem State.moveHead_pwr (s : State) (r : Nat) : (s.moveHead r).pwr = s.pwr := by
  obtain ⟨_, _, h⟩ := s.moveHead_frame r
  rw [h]
@[simp] theorem State.moveHead_cnt (s : State) (r : Nat) : (s.moveHead r).cnt = s.cnt := by
  obtain ⟨_, _, h⟩ := s.moveHead_frame r
  rw [h]
@[simp] theorem State.moveHead_cntOvf (s : State) (r : Nat) : (s.moveHead r).cntOvf = s.cntOvf := by
  obtain ⟨_, _, h⟩ := s.moveHead_frame r
  rw [h]
@[simp] theorem State.moveHead_cntNow (s : State) (r : Nat) : (s.moveHead r).cntNow = s.cntNow := by
  obtain ⟨_, _, h⟩ := s.moveHead_frame r
  rw [h]
@[simp] theorem State.moveHead_cntTick (s : State) (r : Nat) : (s.moveHead r).cntTick = s.cntTick := by
  obtain ⟨_, _, h⟩ := s.moveHead_frame r
  rw [h]
@[simp] theorem State.moveHead_setNow (s : State) (r : Nat) : (s.moveHead r).setNow = s.setNow := by
  obtain ⟨_, _, h⟩ := s.moveHead_frame r
  rw [h]

/-! ### setLockvio -/

@[simp] theorem State.setLockvio_pending (s : State)  : (s.setLockvio ).pending = s.pending := by
  obtain ⟨_, _, _, _, _, h⟩ := s.setLockvio_frame 
  rw [h]
@[simp] theorem State.setLockvio_tick (s : State)  : (s.setLockvio ).tick = s.tick := by
  obtain ⟨_, _, _, _, _, h⟩ := s.setLockvio_frame 
  rw [h]
@[simp] theorem State.setLockvio_free (s : State)  : (s.setLockvio ).free = s.free := by
  obtain ⟨_, _, _, _, _, h⟩ := s.setLockvio_frame 
  rw [h]
@[simp] theorem State.setLockvio_st (s : State)  : (s.setLockvio ).st = s.st := by
  obtain ⟨_, _, _, _, _, h⟩ := s.setLockvio_frame 
  rw [h]
@[simp] theorem State.setLockvio_cause (s : State)  : (s.setLockvio ).cause = s.cause := by
  obtain ⟨_, _, _, _, _, h⟩ := s.setLockvio_frame 
  rw [h]
@[simp] theorem State.setLockvio_fenceErr (s : State)  : (s.setLockvio ).fenceErr = s.fenceErr := by
  obtain ⟨_, _, _, _, _, h⟩ := s.setLockvio_frame 
  rw [h]
@[simp] theorem State.setLockvio_resetLow (s : State)  : (s.setLockvio ).resetLow = s.resetLow := by
  obtain ⟨_, _, _, _, _, h⟩ := s.setLockvio_frame 
  rw [h]
@[simp] theorem State.setLockvio_powered (s : State)  : (s.setLockvio ).powered = s.powered := by
  obtain ⟨_, _, _, _, _, h⟩ := s.setLockvio_frame 
  rw [h]
@[simp] theorem State.setLockvio_testMode (s : State)  : (s.setLockvio ).testMode = s.testMode := by
  obtain ⟨_, _, _, _, _, h⟩ := s.setLockvio_frame 
  rw [h]
@[simp] theorem State.setLockvio_tap (s : State)  : (s.setLockvio ).tap = s.tap := by
  obtain ⟨_, _, _, _, _, h⟩ := s.setLockvio_frame 
  rw [h]
@[simp] theorem State.setLockvio_wrap (s : State)  : (s.setLockvio ).wrap = s.wrap := by
  obtain ⟨_, _, _, _, _, h⟩ := s.setLockvio_frame 
  rw [h]
@[simp] theorem State.setLockvio_linkRst (s : State)  : (s.setLockvio ).linkRst = s.linkRst := by
  obtain ⟨_, _, _, _, _, h⟩ := s.setLockvio_frame 
  rw [h]
@[simp] theorem State.setLockvio_haddr (s : State)  : (s.setLockvio ).haddr = s.haddr := by
  obtain ⟨_, _, _, _, _, h⟩ := s.setLockvio_frame 
  rw [h]
@[simp] theorem State.setLockvio_enCluster (s : State)  : (s.setLockvio ).enCluster = s.enCluster := by
  obtain ⟨_, _, _, _, _, h⟩ := s.setLockvio_frame 
  rw [h]
@[simp] theorem State.setLockvio_enGather (s : State)  : (s.setLockvio ).enGather = s.enGather := by
  obtain ⟨_, _, _, _, _, h⟩ := s.setLockvio_frame 
  rw [h]
@[simp] theorem State.setLockvio_enMover (s : State)  : (s.setLockvio ).enMover = s.enMover := by
  obtain ⟨_, _, _, _, _, h⟩ := s.setLockvio_frame 
  rw [h]
@[simp] theorem State.setLockvio_enPort (s : State)  : (s.setLockvio ).enPort = s.enPort := by
  obtain ⟨_, _, _, _, _, h⟩ := s.setLockvio_frame 
  rw [h]
@[simp] theorem State.setLockvio_quiesce (s : State)  : (s.setLockvio ).quiesce = s.quiesce := by
  obtain ⟨_, _, _, _, _, h⟩ := s.setLockvio_frame 
  rw [h]
@[simp] theorem State.setLockvio_ledClear (s : State)  : (s.setLockvio ).ledClear = s.ledClear := by
  obtain ⟨_, _, _, _, _, h⟩ := s.setLockvio_frame 
  rw [h]
@[simp] theorem State.setLockvio_fw (s : State)  : (s.setLockvio ).fw = s.fw := by
  obtain ⟨_, _, _, _, _, h⟩ := s.setLockvio_frame 
  rw [h]
@[simp] theorem State.setLockvio_tens (s : State)  : (s.setLockvio ).tens = s.tens := by
  obtain ⟨_, _, _, _, _, h⟩ := s.setLockvio_frame 
  rw [h]
@[simp] theorem State.setLockvio_rings (s : State)  : (s.setLockvio ).rings = s.rings := by
  obtain ⟨_, _, _, _, _, h⟩ := s.setLockvio_frame 
  rw [h]
@[simp] theorem State.setLockvio_overlaps (s : State)  : (s.setLockvio ).overlaps = s.overlaps := by
  obtain ⟨_, _, _, _, _, h⟩ := s.setLockvio_frame 
  rw [h]
@[simp] theorem State.setLockvio_tasks (s : State)  : (s.setLockvio ).tasks = s.tasks := by
  obtain ⟨_, _, _, _, _, h⟩ := s.setLockvio_frame 
  rw [h]
@[simp] theorem State.setLockvio_cohorts (s : State)  : (s.setLockvio ).cohorts = s.cohorts := by
  obtain ⟨_, _, _, _, _, h⟩ := s.setLockvio_frame 
  rw [h]
@[simp] theorem State.setLockvio_copies (s : State)  : (s.setLockvio ).copies = s.copies := by
  obtain ⟨_, _, _, _, _, h⟩ := s.setLockvio_frame 
  rw [h]
@[simp] theorem State.setLockvio_orders (s : State)  : (s.setLockvio ).orders = s.orders := by
  obtain ⟨_, _, _, _, _, h⟩ := s.setLockvio_frame 
  rw [h]
@[simp] theorem State.setLockvio_adds (s : State)  : (s.setLockvio ).adds = s.adds := by
  obtain ⟨_, _, _, _, _, h⟩ := s.setLockvio_frame 
  rw [h]
@[simp] theorem State.setLockvio_nextTask (s : State)  : (s.setLockvio ).nextTask = s.nextTask := by
  obtain ⟨_, _, _, _, _, h⟩ := s.setLockvio_frame 
  rw [h]
@[simp] theorem State.setLockvio_nextOrder (s : State)  : (s.setLockvio ).nextOrder = s.nextOrder := by
  obtain ⟨_, _, _, _, _, h⟩ := s.setLockvio_frame 
  rw [h]
@[simp] theorem State.setLockvio_nextCopy (s : State)  : (s.setLockvio ).nextCopy = s.nextCopy := by
  obtain ⟨_, _, _, _, _, h⟩ := s.setLockvio_frame 
  rw [h]
@[simp] theorem State.setLockvio_clusters (s : State)  : (s.setLockvio ).clusters = s.clusters := by
  obtain ⟨_, _, _, _, _, h⟩ := s.setLockvio_frame 
  rw [h]
@[simp] theorem State.setLockvio_gtlb (s : State)  : (s.setLockvio ).gtlb = s.gtlb := by
  obtain ⟨_, _, _, _, _, h⟩ := s.setLockvio_frame 
  rw [h]
@[simp] theorem State.setLockvio_saves (s : State)  : (s.setLockvio ).saves = s.saves := by
  obtain ⟨_, _, _, _, _, h⟩ := s.setLockvio_frame 
  rw [h]
@[simp] theorem State.setLockvio_xlt (s : State)  : (s.setLockvio ).xlt = s.xlt := by
  obtain ⟨_, _, _, _, _, h⟩ := s.setLockvio_frame 
  rw [h]
@[simp] theorem State.setLockvio_rc (s : State)  : (s.setLockvio ).rc = s.rc := by
  obtain ⟨_, _, _, _, _, h⟩ := s.setLockvio_frame 
  rw [h]
@[simp] theorem State.setLockvio_ports (s : State)  : (s.setLockvio ).ports = s.ports := by
  obtain ⟨_, _, _, _, _, h⟩ := s.setLockvio_frame 
  rw [h]
@[simp] theorem State.setLockvio_fence (s : State)  : (s.setLockvio ).fence = s.fence := by
  obtain ⟨_, _, _, _, _, h⟩ := s.setLockvio_frame 
  rw [h]
@[simp] theorem State.setLockvio_routeIdx (s : State)  : (s.setLockvio ).routeIdx = s.routeIdx := by
  obtain ⟨_, _, _, _, _, h⟩ := s.setLockvio_frame 
  rw [h]
@[simp] theorem State.setLockvio_route (s : State)  : (s.setLockvio ).route = s.route := by
  obtain ⟨_, _, _, _, _, h⟩ := s.setLockvio_frame 
  rw [h]
@[simp] theorem State.setLockvio_pwr (s : State)  : (s.setLockvio ).pwr = s.pwr := by
  obtain ⟨_, _, _, _, _, h⟩ := s.setLockvio_frame 
  rw [h]
@[simp] theorem State.setLockvio_cnt (s : State)  : (s.setLockvio ).cnt = s.cnt := by
  obtain ⟨_, _, _, _, _, h⟩ := s.setLockvio_frame 
  rw [h]
@[simp] theorem State.setLockvio_cntOvf (s : State)  : (s.setLockvio ).cntOvf = s.cntOvf := by
  obtain ⟨_, _, _, _, _, h⟩ := s.setLockvio_frame 
  rw [h]
@[simp] theorem State.setLockvio_cntNow (s : State)  : (s.setLockvio ).cntNow = s.cntNow := by
  obtain ⟨_, _, _, _, _, h⟩ := s.setLockvio_frame 
  rw [h]
@[simp] theorem State.setLockvio_cntTick (s : State)  : (s.setLockvio ).cntTick = s.cntTick := by
  obtain ⟨_, _, _, _, _, h⟩ := s.setLockvio_frame 
  rw [h]


end Sys2Proof.Machine
end

