-- ==== Sys2Proof/Laws/Front.lean ====
section
/-! SUPPORT. How the front end takes a command, in the words of the statements. -/

namespace Sys2Proof.Machine

/-- A command whose checks pass takes its effect, the head moved on. -/
theorem takeOk {α : Type} {s s' : State} {r op : Nat} {e : CmdEntry} {row : CmdRow} {chk : CmdRef → CM α} {act : CmdRef → α → State → State} {a : α}
    (h : Heads s r op e) (hr : row.op = op) (hp : row.pick e = true) (hop : op ≠ 0 ∧ op ≤ 12)
    (hc : (chk (s.cmdAt r op e)).go s = (.ok a, s')) :
    s.takeCmd r e row chk act = .next (act (s.cmdAt r op e) a (s'.moveHead r)) := by
  obtain ⟨h1, ⟨bs, h2, h3⟩, h4, h5⟩ := h
  unfold State.takeCmd
  have hten : (s.cmdAt r op e).ten = (s.ring r).ten.toNat := rfl
  have h6 : ¬ ((s.ten (s.ring r).ten.toNat).st = TenSt.loading ∧ loadingOp op = false) := by
    rintro ⟨a1, a2⟩; rcases h4 with h | h
    · exact h a1
    · simp [h] at a2
  have h7 : ¬ (op = 0 ∨ 12 < op) := by omega
  simp [h1, h2, h3, h5, hr, hp, hc, hten, h6, h7]

/-- A command that fails a check is refused with its REASON, and the ring stops (R76). -/
theorem takeErr {α : Type} {s s' : State} {r op : Nat} {e : CmdEntry} {row : CmdRow} {chk : CmdRef → CM α} {act : CmdRef → α → State → State} {n : Nat}
    (h : Heads s r op e) (hr : row.op = op) (hp : row.pick e = true) (hop : op ≠ 0 ∧ op ≤ 12)
    (hc : (chk (s.cmdAt r op e)).go s = (.error n, s')) :
    s.takeCmd r e row chk act = .next (s'.refuseAt r n (some (s.cmdAt r op e))) := by
  obtain ⟨h1, ⟨bs, h2, h3⟩, h4, h5⟩ := h
  unfold State.takeCmd
  have hten : (s.cmdAt r op e).ten = (s.ring r).ten.toNat := rfl
  have h6 : ¬ ((s.ten (s.ring r).ten.toNat).st = TenSt.loading ∧ loadingOp op = false) := by
    rintro ⟨a1, a2⟩; rcases h4 with h | h
    · exact h a1
    · simp [h] at a2
  have h7 : ¬ (op = 0 ∨ 12 < op) := by omega
  simp [h1, h2, h3, h5, hr, hp, hc, hten, h6, h7]


/-- The checks of a command, one after the other. -/
theorem CM.go_bind {α β : Type} (m : CM α) (f : α → CM β) (s : State) :
    (m >>= f).go s = match m.go s with
      | (.ok a, s') => (f a).go s'
      | (.error n, s') => (.error n, s') := by
  unfold CM.go
  show ((ExceptT.bind m f).run s) = _
  unfold ExceptT.bind ExceptT.mk ExceptT.run
  show (StateT.bind m (ExceptT.bindCont f)) s = _
  unfold StateT.bind
  dsimp only [bind, Id.run]
  rcases h : m s with ⟨a, s'⟩
  cases a <;> rfl
theorem CM.go_need (b : Bool) (n : Nat) (s : State) : (cNeed b n).go s = if b then (.ok (), s) else (.error n, s) := by
  cases b <;> rfl
theorem CM.go_pure {α : Type} (a : α) (s : State) : (pure a : CM α).go s = (.ok a, s) := rfl
theorem CM.go_get (s : State) : (get : CM State).go s = (.ok s, s) := rfl
theorem CM.go_throw {α : Type} (n : Nat) (s : State) : (throw n : CM α).go s = (.error n, s) := rfl
theorem CM.go_read (c : CmdRef) (va n : Nat) (s : State) (bs : List Byte) (h : s.pinRead c.ten va n = .bytes bs) :
    (cRead c va n).go s = (.ok bs, s) := by
  unfold cRead
  rw [CM.go_bind, CM.go_get]
  simp [h, CM.go_pure]

end Sys2Proof.Machine
end

