-- ==== Sys2Proof/Laws/Lane.lean ====
section
/-! SUPPORT. What a lane instruction's issue does, in the words of the statements: a prover cites these and leaves `laneRun` folded. -/

namespace Sys2Proof.Machine

/-- What issuing finds: the task, its cohort and the coach. -/
theorem issueOf_some {s s1 : State} {x c cls op w} (h : s.issueOf c cls op w = some (s1, x)) :
    ∃ t h0 h' k, s.task? c.task = some t ∧ s.cohort? c.task c.cohort = some h0
      ∧ s1 = s.laneStart t c h0.cluster (wordBits w cls op) ∧
      s1.cohort? c.task c.cohort = some h' ∧ s1.coach? c = some k ∧ x = ⟨c, t, h', k, w, k.acting w⟩ := by
  unfold State.issueOf at h
  split at h
  · rename_i t h0 e1 e2
    simp only at h
    split at h
    · rename_i h' k e3 e4
      simp only [Option.some.injEq, Prod.mk.injEq] at h
      obtain ⟨rfl, rfl⟩ := h
      exact ⟨t, h0, h', k, e1, e2, rfl, e3, e4, rfl⟩
    · cases h
  · cases h

/-- A lane instruction in the state it issues in: its fetch, its encoding, its acting threads, its body. -/
theorem run_of {s s1 : State} {x c cls op w} (undef body) (h1 : s.issueOf c cls op w = some (s1, x)) :
    s.laneRun c cls op w undef body =
      if s1.pinnedRange x.task.ten x.k.pc 8 then
        match s1.fetchBarred x.task.ten x.k.pc with
        | some b => s1.laneBarred x b.1 b.2 x.k.pc .fetch
        | none =>
          if s1.fetchLost x.cohort.cluster x.task.ten x.k.pc then s1.laneLost x
          else match encFault (opSpec cls op w) w x.task.nreg with
          | some 1 => undef s1 x
          | some n => s1.instrFault x n x.low
          | none => if x.act = 0 then s1.setCoach c x.k.step else body s1 x
      else s1.laneXlt x 0x24 x.k.pc .fetch := by
  obtain ⟨t, h0, h', k, e1, e2, rfl, e3, e4, rfl⟩ := issueOf_some h1
  unfold State.laneRun
  simp only [e1, e2, e3, e4]
  by_cases hp : (s.laneStart t c h0.cluster (wordBits w cls op)).pinnedRange t.ten k.pc 8 = true
  · simp only [hp, Bool.not_true, Bool.false_eq_true, if_true, if_false]
    cases (s.laneStart t c h0.cluster (wordBits w cls op)).fetchBarred t.ten k.pc <;> rfl
  · simp only [Bool.not_eq_true] at hp
    simp [hp]

/-- A fetched lane instruction of classes 0x01–0x07. -/
theorem lane_of {s s1 : State} {x c w cls op body} (h : Fetches s c cls op w s1 x) :
    s.lane c cls op w body = .next (match encFault (opSpec cls op w) w x.task.nreg with
      | some n => s1.instrFault x n x.low
      | none => if x.act = 0 then s1.setCoach c x.k.step else body s1 x) := by
  obtain ⟨h1, h2, h3, h4, h5, h6⟩ := h
  unfold State.lane when
  rw [if_pos (by simp [h1, h2]), run_of _ _ h3, if_pos h4, h5]
  simp only [h6]
  rcases encFault (opSpec cls op w) w x.task.nreg with _ | n
  · rfl
  · by_cases hn : n = 1
    · subst hn; rfl
    · rcases n with _ | _ | n <;> rfl

/-- A fetched order. -/
theorem order_of {s s1 : State} {x c w cls op} (h : Fetches s c cls op w s1 x) :
    s.issueOrder c cls op w = .next (match encFault (opSpec cls op w) w x.task.nreg with
      | some 1 => orderUndef cls op s1 x
      | some n => s1.instrFault x n x.low
      | none => if x.act = 0 then s1.setCoach c x.k.step else orderBody cls op s1 x) := by
  obtain ⟨h1, h2, h3, h4, h5, h6⟩ := h
  unfold State.issueOrder when
  rw [if_pos (by simp [h1, h2]), run_of _ _ h3, if_pos h4, h5]
  simp only [h6]
  rfl

/-- The parts of an issuing instruction. -/
theorem ctx_of {s s1 : State} {x c cls op w} (h : Fetches s c cls op w s1 x) : x.ref = c ∧ x.w = w ∧ x.act = x.k.acting w ∧
    s1.coach? c = some x.k ∧ s1.cohort? c.task c.cohort = some x.cohort ∧ s.task? c.task = some x.task := by
  obtain ⟨t, h0, h', k, e1, e2, rfl, e3, e4, rfl⟩ := issueOf_some h.2.2.1
  exact ⟨rfl, rfl, rfl, e4, e3, e1⟩

/-- An instruction that issues runs its body. -/
theorem body_of {s s1 : State} {x c w cls op body} (h : Issues s c cls op w s1 x) :
    s.lane c cls op w body = .next (body s1 x) := by
  rw [lane_of h.1, h.2.1]; exact congrArg _ (if_neg h.2.2)

/-- The task and cohort of an issuing instruction are those its coach names. -/
theorem ids_of {s s1 : State} {x c cls op w} (h : Fetches s c cls op w s1 x) : x.task.id = c.task ∧ x.cohort.num = c.cohort ∧ x.cohort.task = c.task := by
  obtain ⟨_, _, _, _, e, e'⟩ := ctx_of h
  unfold State.task? at e'
  unfold State.cohort? at e
  have h1 := List.find?_some e'
  have h2 := List.find?_some e
  simp at h1 h2
  exact ⟨h1, h2.2, h2.1⟩

end Sys2Proof.Machine
end

