-- ==== Sys2Proof/Laws/Memory.lean ====
section
/-! SUPPORT. Sparse maps and memories: every operation keeps the canonical form, what is set is what is read, and a canonical map
is determined by what it reads as. -/

namespace Sys2Proof.Machine

section Maps
variable {α : Type} [DecidableEq α] {d : α}

theorem smOk_cons {lo k : Nat} {v : α} {m : SMap α} :
    smOk d lo ((k, v) :: m) = true ↔ lo ≤ k ∧ v ≠ d ∧ smOk d (k + 1) m = true := by
  simp [smOk, and_assoc]

/-- A canonical map from `lo` on is one from anything lower on. -/
theorem smOk_weaken {lo lo' : Nat} {m : SMap α} (h : lo' ≤ lo) (hm : smOk d lo m = true) : smOk d lo' m = true := by
  cases m with
  | nil => rfl
  | cons c m =>
    obtain ⟨h1, h2, h3⟩ := smOk_cons.1 hm
    exact smOk_cons.2 ⟨by omega, h2, h3⟩

/-- Nothing is listed below the first key. -/
theorem smGet_below {lo : Nat} {m : SMap α} {k : Nat} (hm : smOk d lo m = true) (h : k < lo) : smGet d m k = d := by
  cases m with
  | nil => rfl
  | cons c m =>
    obtain ⟨h1, -, -⟩ := smOk_cons.1 hm
    simp only [smGet]
    rw [if_neg (by omega), if_pos (by omega)]

theorem smSet_ok_from {m : SMap α} {lo k : Nat} {v : α} (hm : smOk d lo m = true) (hk : lo ≤ k) :
    smOk d lo (smSet d m k v) = true := by
  induction m generalizing lo with
  | nil =>
    simp only [smSet]
    split
    · rfl
    · exact smOk_cons.2 ⟨hk, ‹_›, rfl⟩
  | cons c m ih =>
    obtain ⟨h1, h2, h3⟩ := smOk_cons.1 hm
    simp only [smSet]
    split
    · rename_i e
      split
      · exact smOk_weaken (by omega) h3
      · exact smOk_cons.2 ⟨hk, ‹_›, e ▸ h3⟩
    · split
      · split
        · exact hm
        · exact smOk_cons.2 ⟨hk, ‹_›, smOk_cons.2 ⟨by omega, h2, h3⟩⟩
      · exact smOk_cons.2 ⟨h1, h2, ih h3 (by omega)⟩

/-- Setting a key keeps the canonical form. -/
theorem smSet_ok {m : SMap α} (k : Nat) (v : α) (hm : smOk d 0 m = true) : smOk d 0 (smSet d m k v) = true :=
  smSet_ok_from hm (Nat.zero_le k)

theorem smGet_set_from {m : SMap α} {lo : Nat} (hm : smOk d lo m = true) (k : Nat) (v : α) (k' : Nat) :
    smGet d (smSet d m k v) k' = if k' = k then v else smGet d m k' := by
  induction m generalizing lo with
  | nil =>
    simp only [smSet]
    split
    · rename_i e; simp [smGet, e]
    · by_cases h : k = k'
      · simp [smGet, h]
      · simp [smGet, h, Ne.symm h]
  | cons c m ih =>
    obtain ⟨h1, h2, h3⟩ := smOk_cons.1 hm
    simp only [smSet]
    split
    · rename_i e
      subst e
      by_cases h : k' = c.1
      · subst h
        rw [if_pos rfl]
        split
        · rw [smGet_below h3 (by omega)]; exact (‹v = d›).symm
        · simp [smGet]
      · rw [if_neg h]
        split
        · simp only [smGet, if_neg (Ne.symm h)]
          by_cases h4 : k' < c.1
          · rw [if_pos h4, smGet_below h3 (by omega)]
          · rw [if_neg h4]
        · simp only [smGet, if_neg (Ne.symm h)]
    · split
      · rename_i hne hlt
        split
        · rename_i hd
          by_cases h : k' = k
          · subst h
            simp only [smGet, if_neg hne, if_pos hlt, if_pos, hd]
          · rw [if_neg h]
        · by_cases h : k' = k
          · subst h; simp [smGet]
          · rw [if_neg h]
            show (if k = k' then v else if k' < k then d else smGet d ((c.1, c.2) :: m) k') = _
            rw [if_neg (Ne.symm h)]
            by_cases h4 : k' < k
            · rw [if_pos h4]
              exact (smGet_below (lo := k) (smOk_cons.2 ⟨by omega, h2, h3⟩) h4).symm
            · rw [if_neg h4]
      · rename_i hne hnl
        show (if c.1 = k' then c.2 else if k' < c.1 then d else smGet d (smSet d m k v) k')
          = if k' = k then v else if c.1 = k' then c.2 else if k' < c.1 then d else smGet d m k'
        rw [ih h3]
        by_cases h : k' = k
        · subst h
          rw [if_neg hne, if_neg hnl, if_pos rfl, if_pos rfl]
        · simp only [if_neg h]

/-- A key set reads as its value; every other key as before. -/
theorem smGet_smSet {m : SMap α} (hm : smOk d 0 m = true) (k : Nat) (v : α) (k' : Nat) :
    smGet d (smSet d m k v) k' = if k' = k then v else smGet d m k' := smGet_set_from hm k v k'

theorem smOk_tail {lo : Nat} {c : Nat × α} {m : SMap α} (h : smOk d lo (c :: m) = true) : smOk d lo m = true := by
  obtain ⟨h1, -, h3⟩ := (smOk_cons (k := c.1) (v := c.2)).1 h
  exact smOk_weaken (by omega) h3

/-- Leaving entries out keeps the canonical form. -/
theorem smOk_filter {m : SMap α} {lo : Nat} (p : Nat × α → Bool) (hm : smOk d lo m = true) : smOk d lo (m.filter p) = true := by
  induction m generalizing lo with
  | nil => rfl
  | cons c m ih =>
    obtain ⟨h1, h2, h3⟩ := (smOk_cons (k := c.1) (v := c.2)).1 hm
    rw [List.filter_cons]
    split
    · exact smOk_cons.2 ⟨h1, h2, ih h3⟩
    · exact ih (smOk_tail hm)

/-- Two canonical maps that read alike everywhere are equal data. -/
theorem smOk_ext {m n : SMap α} {lo : Nat} (hm : smOk d lo m = true) (hn : smOk d lo n = true)
    (h : ∀ k, smGet d m k = smGet d n k) : m = n := by
  induction m generalizing lo n with
  | nil =>
    cases n with
    | nil => rfl
    | cons c n =>
      obtain ⟨-, h2, -⟩ := (smOk_cons (k := c.1) (v := c.2)).1 hn
      have := h c.1
      simp [smGet] at this
      exact absurd this.symm h2
  | cons c m ih =>
    obtain ⟨h1, h2, h3⟩ := (smOk_cons (k := c.1) (v := c.2)).1 hm
    have hc := h c.1
    cases n with
    | nil => simp [smGet] at hc; exact absurd hc h2
    | cons e n =>
      obtain ⟨g1, g2, g3⟩ := (smOk_cons (k := e.1) (v := e.2)).1 hn
      have he := h e.1
      simp only [smGet, if_true] at hc he
      have hk : c.1 = e.1 := by
        rcases Nat.lt_trichotomy c.1 e.1 with hl | hl | hl
        · rw [if_neg (by omega), if_pos hl] at hc; exact absurd hc h2
        · exact hl
        · rw [if_neg (by omega), if_pos hl] at he; exact absurd he.symm g2
      rw [hk, if_pos rfl] at hc
      have hce : c = e := Prod.ext hk hc
      subst hce
      congr 1
      refine ih h3 g3 fun k => ?_
      have hh := h k
      simp only [smGet] at hh
      by_cases hk1 : k < c.1 + 1
      · rw [smGet_below h3 hk1, smGet_below g3 hk1]
      · rwa [if_neg (by omega), if_neg (by omega), if_neg (by omega), if_neg (by omega)] at hh

end Maps

/-! ### Memories -/

theorem memSet_wf {m : List Host.Cell} (a : Nat) (b : Byte) (h : Memory.wf m = true) : Memory.wf (memSet m a b) = true :=
  smSet_ok a b h

theorem memGet_memSet {m : List Host.Cell} (h : Memory.wf m = true) (a : Nat) (b : Byte) (c : Nat) :
    memGet (memSet m a b) c = if c = a then b else memGet m c := smGet_smSet h a b c

theorem memPut_wf {bs : List Byte} {m : List Host.Cell} (a : Nat) (h : Memory.wf m = true) :
    Memory.wf (memPut m a bs) = true := by
  induction bs generalizing m a with
  | nil => exact h
  | cons b bs ih => exact ih (a + 1) (memSet_wf a b h)

theorem memPutWord_wf {m : List Host.Cell} (a n v : Nat) (h : Memory.wf m = true) : Memory.wf (memPutWord m a n v) = true :=
  memPut_wf a h

theorem memPatch_wf {cs m : List Host.Cell} (h : Memory.wf m = true) : Memory.wf (memPatch m cs) = true := by
  induction cs generalizing m with
  | nil => exact h
  | cons c cs ih => exact ih (memSet_wf c.1 c.2 h)

theorem memZero_wf {m : List Host.Cell} (a n : Nat) (h : Memory.wf m = true) : Memory.wf (memZero m a n) = true :=
  smOk_filter _ h

theorem memPaste_wf {m : List Host.Cell} (a n : Nat) (cs : List Host.Cell) (h : Memory.wf m = true) :
    Memory.wf (memPaste m a n cs) = true := memPatch_wf (memZero_wf a n h)

theorem memFree_wf {m : List Host.Cell} (k a n : Nat) (h : Memory.wf m = true) : Memory.wf (memFree k m a n) = true :=
  memPatch_wf (memZero_wf a n h)

/-- Cells put elsewhere leave a byte alone. -/
theorem memGet_memPatch_other {cs m : List Host.Cell} {c : Nat} (h : Memory.wf m = true) (hc : ∀ x ∈ cs, x.1 ≠ c) :
    memGet (memPatch m cs) c = memGet m c := by
  induction cs generalizing m with
  | nil => rfl
  | cons x cs ih =>
    show memGet (memPatch (memSet m x.1 x.2) cs) c = _
    rw [ih (memSet_wf _ _ h) fun y hy => hc y (List.mem_cons_of_mem _ hy), memGet_memSet h,
      if_neg (Ne.symm (hc x List.mem_cons_self))]

theorem smGet_filter {α : Type} [DecidableEq α] {d : α} {m : SMap α} {lo : Nat} (p : Nat × α → Bool) (k : Nat)
    (hm : smOk d lo m = true) (hp : ∀ v, p (k, v) = true) : smGet d (m.filter p) k = smGet d m k := by
  induction m generalizing lo with
  | nil => rfl
  | cons c m ih =>
    have ht := smOk_tail hm
    by_cases hk : c.1 = k
    · have : p c = true := by rw [← hk] at hp; exact hp c.2
      simp [this, smGet, hk]
    · have hrest := ih ht
      cases hpc : p c
      · have hb : k < c.1 → smGet d m k = d := fun h => smGet_below ((smOk_cons (k := c.1) (v := c.2)).1 hm).2.2 (by omega)
        simpa [hpc, smGet, hk, hrest] using hb
      · simp [hpc, smGet, hk, hrest]

/-- Bytes made undefined are those of the range alone. -/
theorem memGet_memFree_other {m : List Host.Cell} (k a n : Nat) {c : Nat} (h : Memory.wf m = true) (hc : c < a ∨ a + n ≤ c) :
    memGet (memFree k m a n) c = memGet m c := by
  unfold memFree
  rw [memGet_memPatch_other (memZero_wf a n h)]
  · exact smGet_filter _ c h fun v => by simp; omega
  · intro x hx
    simp at hx
    omega

theorem storeAll_wf (x : LaneCtx) (addr : Nat → Nat) {m : List Host.Cell} (h : Memory.wf m = true) :
    Memory.wf (storeAll x addr m) = true := by
  unfold storeAll
  generalize x.threads = l
  induction l generalizing m with
  | nil => exact h
  | cons j l ih => exact ih (memPut_wf _ h)

theorem memBytes_length (m : List Host.Cell) (a n : Nat) : (memBytes m a n).length = n := by
  induction n generalizing a with
  | zero => rfl
  | succ n ih => simp [memBytes, ih]

theorem memBytes_get {m : List Host.Cell} {a n i : Nat} (h : i < n) : (memBytes m a n).getD i 0 = memGet m (a + i) := by
  induction n generalizing a i with
  | zero => omega
  | succ n ih =>
    cases i with
    | zero => rfl
    | succ i =>
      have := ih (a := a + 1) (i := i) (by omega)
      rw [show a + (i + 1) = a + 1 + i by omega, ← this]
      rfl

theorem toLe_length (n v : Nat) : (toLe n v).length = n := by
  induction n generalizing v with
  | zero => rfl
  | succ n ih => simp [toLe, ih]

/-- A number laid out in n bytes and read back. -/
theorem leNat_toLe (n v : Nat) : leNat (toLe n v) = v % 256 ^ n := by
  induction n generalizing v with
  | zero => simp [toLe, leNat, Nat.mod_one]
  | succ n ih =>
    simp only [toLe, leNat, ih, BitVec.toNat_ofNat]
    rw [show 256 ^ (n + 1) = 256 * 256 ^ n from Nat.pow_succ']
    exact (Nat.mod_mul (x := v) (a := 256) (b := 256 ^ n)).symm

/-- The memory after reset is canonical: it lists nothing. -/
theorem reset_memory_wf : Memory.wf State.reset.mem.pool = true := rfl

/-! ### Pool and scratchpad writes -/

theorem poolWrite_wf (s : State) (pa : Nat) (bs : List Byte) (h : Memory.wf s.mem.pool = true) :
    Memory.wf (s.poolWrite pa bs).mem.pool = true := by
  exact memPut_wf _ h

/-! ### Lists -/

theorem modAt_length {α : Type} (l : List α) (n : Nat) (f : α → α) : (modAt l n f).length = l.length := by
  unfold modAt; split <;> simp

theorem modAt_getD_ne {α : Type} (l : List α) {n k : Nat} (f : α → α) (d : α) (h : n ≠ k) :
    (modAt l n f).getD k d = l.getD k d := by
  unfold modAt; split <;> simp [List.getD_eq_getElem?_getD, h]

theorem modAt_getD {α : Type} (l : List α) {n : Nat} (f : α → α) (d : α) (h : n < l.length) :
    (modAt l n f).getD n d = f (l.getD n d) := by
  unfold modAt; simp [List.getD_eq_getElem?_getD, h]

/-- What holds of every element of a list holds after one is changed by a function that keeps it. -/
theorem modAt_forall {α : Type} {P : α → Prop} {l : List α} (n : Nat) {f : α → α} (hl : ∀ a ∈ l, P a)
    (hf : ∀ a, P a → P (f a)) : ∀ a ∈ modAt l n f, P a := by
  unfold modAt
  split
  · rename_i a e
    intro b hb
    rcases List.mem_or_eq_of_mem_set hb with h | h
    · exact hl b h
    · exact h ▸ hf a (hl a (List.mem_of_getElem? e))
  · exact hl

theorem modWhere_forall {α : Type} {P : α → Prop} {l : List α} (p : α → Bool) {f : α → α} (hl : ∀ a ∈ l, P a)
    (hf : ∀ a, P a → P (f a)) : ∀ a ∈ modWhere p f l, P a := by
  intro b hb
  obtain ⟨a, ha, rfl⟩ := List.mem_map.1 hb
  split
  · exact hf a (hl a ha)
  · exact hl a ha

theorem modWhere_length {α : Type} (p : α → Bool) (f : α → α) (l : List α) : (modWhere p f l).length = l.length := by
  simp [modWhere]

end Sys2Proof.Machine
end

