-- ==== Sys2Proof/Laws/Ops.lean ====
section
/-! SUPPORT. What each shared operation can do, once: the outcomes of `when`, `hostWrite`, `withHost` and `takeCmd`, and what
writing a coach's registers and predicates gives. -/

namespace Sys2Proof.Machine

/-! ### Outcomes -/

theorem when_next {b : Bool} {why : String} {t u : State} : when b why t = .next u ↔ b = true ∧ u = t := by
  cases b <;> simp [when, no, eq_comm]

theorem hostWrite_next {s t u : State} (h : s.hostWrite t = .next u) : (s.opened = true ∧ u = t) ∨ (s.opened = false ∧ u = s) := by
  unfold State.hostWrite at h
  injection h with h
  cases ho : s.opened <;> simp_all

theorem hostWrite_opened {s t : State} (h : s.opened = true) : s.hostWrite t = .next t := by simp [State.hostWrite, h]

theorem pastPool_none {hm : HostMem} :
    pastPool hm = none ↔ (∀ c ∈ hm.cells, c.1 < 2 ^ 46) ∧ ∀ g ∈ hm.bad, 64 * g < 2 ^ 46 := by
  simp only [pastPool, List.find?_eq_none, List.mem_append, List.mem_map, decide_eq_true_eq, Nat.not_le]
  constructor
  · exact fun h => ⟨fun c hc => h _ (.inl ⟨c, hc, rfl⟩), fun g hg => h _ (.inr ⟨g, hg, rfl⟩)⟩
  · rintro ⟨h1, h2⟩ a (⟨c, hc, rfl⟩ | ⟨g, hg, rfl⟩)
    · exact h1 c hc
    · exact h2 g hg

theorem withHost_next {s u : State} {hm : HostMem} {f : State → Out} (h : withHost s hm f = .next u) :
    pastPool hm = none ∧ f (s.hosted hm) = .next u := by
  unfold withHost at h
  split at h
  · cases h
  · exact ⟨‹_›, h⟩

theorem withHost_of {s : State} {hm : HostMem} {f : State → Out} (h : pastPool hm = none) :
    withHost s hm f = f (s.hosted hm) := by
  unfold withHost
  rw [h]

/-- Everything the front end can do with the command at a ring's head: nothing is enabled; the entry cannot be read; it is refused
with a REASON; it is taken, its checks passed. -/
theorem takeCmd_cases {α : Type} {s u : State} {r : Nat} {e : CmdEntry} {row : CmdRow} {chk : CmdRef → CM α}
    {act : CmdRef → α → State → State} (h : s.takeCmd r e row chk act = .next u) :
    s.ringReady r = true ∧
      ((u = s.refuseAt r 0x0A none)
        ∨ (∃ code pa, u = (s.feLost (s.ring r).ten.toNat code pa (s.ring r).slotVa 32).refuseAt r 0x0A none)
        ∨ (∃ op, u = s.refuseAt r 0x1B (some (s.cmdAt r op e)))
        ∨ (∃ op reason s', (chk (s.cmdAt r op e)).go s = (.error reason, s') ∧ u = s'.refuseAt r reason (some (s.cmdAt r op e)))
        ∨ ∃ a s', (chk (s.cmdAt r row.op e)).go s = (.ok a, s') ∧ u = act (s.cmdAt r row.op e) a (s'.moveHead r)) := by
  unfold State.takeCmd at h
  simp only [no] at h
  split at h
  · cases h
  rename_i hr
  refine ⟨by simpa using hr, ?_⟩
  split at h
  · injection h with h; exact .inl h.symm
  · injection h with h; exact .inr (.inl ⟨_, _, h.symm⟩)
  · split at h
    · cases h
    split at h
    · injection h with h; exact .inr (.inr (.inl ⟨_, h.symm⟩))
    split at h
    · cases h
    rename_i hop
    have hop' : row.op = (cmdOf _).1 := (not_or.1 hop).1 |> Classical.not_not.1 |> Eq.symm
    split at h
    · cases h
    split at h
    · injection h with h; exact .inr (.inr (.inl ⟨_, h.symm⟩))
    split at h
    · rename_i hc
      injection h with h
      rw [← hop'] at hc h
      exact .inr (.inr (.inr (.inr ⟨_, _, hc, h.symm⟩)))
    · rename_i hc
      injection h with h
      exact .inr (.inr (.inr (.inl ⟨_, _, _, hc, h.symm⟩)))

/-! ### Elements of the state's tables -/

theorem State.ten_modTen (s : State) (t : Nat) (f : Tenancy → Tenancy) (h : t < s.tens.length) :
    (s.modTen t f).ten t = f (s.ten t) := modAt_getD s.tens f {} h

theorem State.ten_modTen_ne (s : State) {t u : Nat} (f : Tenancy → Tenancy) (h : t ≠ u) : (s.modTen t f).ten u = s.ten u :=
  modAt_getD_ne s.tens f {} h

theorem State.ring_modRing (s : State) (r : Nat) (f : Ring → Ring) (h : r < s.rings.length) :
    (s.modRing r f).ring r = f (s.ring r) := modAt_getD s.rings f {} h

theorem State.ring_modRing_ne (s : State) {r q : Nat} (f : Ring → Ring) (h : r ≠ q) : (s.modRing r f).ring q = s.ring q :=
  modAt_getD_ne s.rings f {} h

theorem State.port_modPort (s : State) (p : Nat) (f : Port → Port) (h : p < s.ports.length) :
    (s.modPort p f).port p = f (s.port p) := modAt_getD s.ports f {} h

theorem State.port_modPort_ne (s : State) {p q : Nat} (f : Port → Port) (h : p ≠ q) : (s.modPort p f).port q = s.port q :=
  modAt_getD_ne s.ports f {} h

theorem State.cluster_modCluster (s : State) (c : Nat) (f : Cluster → Cluster) (h : c < s.clusters.length) :
    (s.modCluster c f).cluster c = f (s.cluster c) := modAt_getD s.clusters f {} h

theorem State.cluster_modCluster_ne (s : State) {c e : Nat} (f : Cluster → Cluster) (h : c ≠ e) :
    (s.modCluster c f).cluster e = s.cluster e := modAt_getD_ne s.clusters f {} h

/-! ### Bits and threads -/

theorem bitOf_eq_testBit (w n : Nat) : bitOf w n = w.testBit n := by
  have h : bitOf w n = decide (w / 2 ^ n % 2 = 1) := by simp [bitOf, bitsOf, BEq.beq]
  rw [h, Nat.testBit_eq_decide_div_mod_eq]

theorem mem_threadsOf (a : W32) (j : Nat) : j ∈ threadsOf a ↔ j < 32 ∧ a.getLsbD j = true := by
  simp [threadsOf, setBits, bitOf_eq_testBit, BitVec.getLsbD]

/-- Threads are listed lowest first. -/
theorem threadsOf_sorted (a : W32) : (threadsOf a).Pairwise (· < ·) :=
  List.Pairwise.filter _ List.pairwise_lt_range

/-! ### A coach's registers -/

theorem Coach.reg_setG {k : Coach} (h : smOk 0 0 k.g = true) (n j : Nat) (v : W32) (u : Bool) (m i : Nat) :
    (k.setG n j v).reg u m i = if u = false ∧ 64 * i + m = 64 * j + n then v else k.reg u m i := by
  cases u
  · refine (smGet_smSet h (64 * j + n) v (64 * i + m)).trans ?_
    simp [Coach.reg]
  · rw [if_neg (by simp)]; rfl

theorem Coach.reg_setU {k : Coach} (h : smOk 0 0 k.u = true) (n : Nat) (v : W32) (u : Bool) (m i : Nat) :
    (k.setU n v).reg u m i = if u = true ∧ m = n then v else k.reg u m i := by
  cases u
  · rw [if_neg (by simp)]; rfl
  · refine (smGet_smSet h n v m).trans ?_
    simp [Coach.reg]

theorem Coach.pred_setPred {k : Coach} (h : smOk 0 0 k.p = true) (p : Nat) (m v : W32) (q : Nat) :
    (k.setPred p m v).pred q = if q = p then (k.pred p &&& ~~~m) ||| (v &&& m) else k.pred q := by
  exact smGet_smSet h p _ q

/-- Writing registers leaves the rest of the coach, and keeps its register files canonical. -/
theorem Coach.setRegs_frame (k : Coach) (u : Bool) (n j : Nat) (vs : List W32) :
    ∃ g ur, k.setRegs u n j vs = { k with g := g, u := ur } ∧ (smOk 0 0 k.g = true → smOk 0 0 g = true)
      ∧ (smOk 0 0 k.u = true → smOk 0 0 ur = true) ∧ (u = true → g = k.g) ∧ (u = false → ur = k.u) := by
  induction vs generalizing k n with
  | nil => exact ⟨k.g, k.u, rfl, id, id, fun _ => rfl, fun _ => rfl⟩
  | cons v vs ih =>
    cases u
    · obtain ⟨g, ur, e, hg, hu, -, h2⟩ := ih (k.setG n j v) (n + 1)
      exact ⟨g, ur, e, fun h => hg (smSet_ok _ _ h), hu, nofun, h2⟩
    · obtain ⟨g, ur, e, hg, hu, h1, -⟩ := ih (k.setU n v) (n + 1)
      exact ⟨g, ur, e, hg, fun h => hu (smSet_ok _ _ h), h1, nofun⟩

/-- Consecutive g registers of thread j read back; every other g register, and every u register, is as before. -/
theorem Coach.reg_setRegs_g {k : Coach} (h : smOk 0 0 k.g = true) (n j : Nat) (vs : List W32) (m i : Nat) (hm : m < 64)
    (hn : n + vs.length ≤ 64) :
    (k.setRegs false n j vs).reg false m i
      = if i = j ∧ n ≤ m ∧ m < n + vs.length then vs.getD (m - n) 0 else k.reg false m i := by
  induction vs generalizing k n with
  | nil => rw [if_neg (by simp only [List.length_nil]; omega)]; rfl
  | cons v vs ih =>
    simp only [List.length_cons] at hn
    have := ih (k := k.setG n j v) (smSet_ok _ _ h) (n + 1) (by omega)
    show ((k.setG n j v).setRegs false (n + 1) j vs).reg false m i = _
    rw [this, Coach.reg_setG h]
    simp only [List.length_cons]
    by_cases h1 : i = j ∧ n + 1 ≤ m ∧ m < n + 1 + vs.length
    · rw [if_pos h1, if_pos (by omega)]
      rw [show m - n = (m - (n + 1)) + 1 by omega]
      rfl
    · rw [if_neg h1]
      by_cases h2 : 64 * i + m = 64 * j + n
      · rw [if_pos (by simp [h2]), if_pos (by omega), show m - n = 0 by omega]; rfl
      · rw [if_neg (by simp [h2]), if_neg (by omega)]

/-- Consecutive u registers read back. -/
theorem Coach.reg_setRegs_u {k : Coach} (h : smOk 0 0 k.u = true) (n j : Nat) (vs : List W32) (m i : Nat) :
    (k.setRegs true n j vs).reg true m i
      = if n ≤ m ∧ m < n + vs.length then vs.getD (m - n) 0 else k.reg true m i := by
  induction vs generalizing k n with
  | nil => rw [if_neg (by simp only [List.length_nil]; omega)]; rfl
  | cons v vs ih =>
    have := ih (k := k.setU n v) (smSet_ok _ _ h) (n + 1)
    show ((k.setU n v).setRegs true (n + 1) j vs).reg true m i = _
    rw [this, Coach.reg_setU h]
    simp only [List.length_cons]
    by_cases h1 : n + 1 ≤ m ∧ m < n + 1 + vs.length
    · rw [if_pos h1, if_pos (by omega), show m - n = (m - (n + 1)) + 1 by omega]; rfl
    · rw [if_neg h1]
      by_cases h2 : m = n
      · rw [if_pos (by simp [h2]), if_pos (by omega), show m - n = 0 by omega]; rfl
      · rw [if_neg (by simp [h2]), if_neg (by omega)]

/-- Writing D leaves everything of the coach but its register files. -/
theorem Coach.writeD_frame (k : Coach) (w : LaneWord) (act : List Nat) (f : Nat → List W32) :
    ∃ g ur, k.writeD w act f = { k with g := g, u := ur } ∧ (smOk 0 0 k.g = true → smOk 0 0 g = true)
      ∧ (smOk 0 0 k.u = true → smOk 0 0 ur = true) ∧ (fUD w = true → g = k.g) ∧ (fUD w = false → ur = k.u) := by
  unfold Coach.writeD
  cases hu : fUD w
  · rw [if_neg (by simp)]
    induction act generalizing k with
    | nil => exact ⟨k.g, k.u, rfl, id, id, fun _ => rfl, fun _ => rfl⟩
    | cons j l ih =>
      obtain ⟨g, ur, e, hg, hu1, -, h2⟩ := k.setRegs_frame false (fD w) j (f j)
      obtain ⟨g', ur', e', hg', hu', -, h2'⟩ := ih (k.setRegs false (fD w) j (f j))
      refine ⟨g', ur', ?_, fun h => hg' (by rw [e]; exact hg h), fun h => hu' (by rw [e]; exact hu1 h), nofun,
        fun _ => (h2' rfl).trans (by rw [e]; exact h2 rfl)⟩
      rw [List.foldl_cons, e', e]
  · rw [if_pos rfl]
    cases act with
    | nil => exact ⟨k.g, k.u, rfl, id, id, fun _ => rfl, fun _ => rfl⟩
    | cons j l =>
      obtain ⟨g, ur, e, hg, hu1, h1, -⟩ := k.setRegs_frame true (fD w) j (f j)
      exact ⟨g, ur, e, hg, hu1, h1, nofun⟩

end Sys2Proof.Machine
end

