-- ==== Sys2Proof/Safety.lean ====
section
/-! DEFINITION. What a safe run is: it reaches no fault. A refusal is an event that cannot take place in the state. -/

namespace Sys2Proof

/-- k steps from s reach no fault. -/
def Safe (k : Nat) (s : Machine.State) : Prop := ∀ n, n ≤ k → ∀ f, core.run n s ≠ .fault f

end Sys2Proof
end

