-- ==== Sys2Proof/Tests/Slice0.lean ====
section
/-! SUPPORT. Tests: what the well-formedness checks refuse, words written out from the spec's encodings, and for every statement with
hypotheses a concrete state that meets them. -/

namespace Sys2Proof.Tests

open Sys2Proof.Machine

/-! ### A small block: tenancy 0 RUNNING, its code and data pinned at device address 0, one cohort of one coach -/

/-- The coach at rest at pc 0. -/
def coach0 : Coach := { pc := 0, u := [(0, 8), (2, 64)], p := [(1, 1)] }
def ref0 : CoachRef := ⟨1, 0, 0⟩
def cmd0 : CmdRef := ⟨0, 0, 0, 0, 1, {}⟩
def task0 : Task :=
  { id := 1, ten := 0, ctx := 0, cmd := cmd0, cmask := 1, k := 1, nreg := 64, llm := 1024, nthread := 32, spext := 4096, swlim := 0
    seed := 0, entry := 0, args := 0, binds := [], rank := 0, fsize := 1, next := 1 }
def cohort0 : Cohort := { task := 1, num := 0, cluster := 0, lane := 0, coaches := [coach0] }
/-- 4 cohort slots, 16 coach slots, 64 × 256 registers, 16 KiB of lane-local memory; 64 KiB of scratchpad. -/
def slot0 : Slot :=
  { lane := 4 + BitVec.ofNat 32 (16 * 2 ^ 5 + 64 * 2 ^ 12 + 16 * 2 ^ 21), sp := BitVec.ofNat 32 (16 * 2 ^ 11), st := .resident }
def ten0 : Tenancy :=
  { st := .running, clusters := 1, chgrp := 0xFFFFFFFF, xltEn := true, slots := [slot0, {}, {}, {}]
    pins := ⟨true, 0, 1, 2, true, false, 0, 0⟩ :: List.replicate 31 {} }
def leaf0 : TlbEntry := { ten := 0, big := false, va := 0, pa := 0, w := true, locked := true }
def block0 : State :=
  { State.reset with
    st := .serving, resetLow := false, powered := true, enCluster := 1, enGather := 0xF, enMover := 0xFF, enPort := 0xFFFF
    tens := ten0 :: List.replicate 7 {}, tasks := [task0], cohorts := [cohort0], nextTask := 2
    xlt := { State.reset.xlt with btlb := [(0, 0, leaf0)] }, mem := { State.reset.mem with grant := 0xFFFFFFFF } }

/-- The instruction cache of cluster 0 holds the word at the pc of tenancy 0, so that a lane fetches it (R299). -/
def holding (s : State) (pc cls op : Nat) (w : LaneWord) : State :=
  s.modCluster 0 fun c => { c with icache := [⟨0, pc, wordBits w cls op⟩] }

/-- The instruction, at pc 0, is fetched, and the check holds of the state it issues in. -/
def fetchedIf (s : State) (c : CoachRef) (cls op : Nat) (w : LaneWord) (p : State → LaneCtx → Bool) : Bool :=
  (holding s 0 cls op w).laneReady c && (holding s 0 cls op w).laneGets c (wordBits w cls op)
    && match (holding s 0 cls op w).issueOf c cls op w with
      | some (s1, x) =>
        s1.pinnedRange x.task.ten x.k.pc 8 && (s1.fetchBarred x.task.ten x.k.pc).isNone && !s1.fetchLost x.cohort.cluster x.task.ten x.k.pc && p s1 x
      | none => false

/-- It issues. -/
def issuesIf (s : State) (c : CoachRef) (cls op : Nat) (w : LaneWord) (p : State → LaneCtx → Bool) : Bool :=
  fetchedIf s c cls op w fun s1 x => (encFault (opSpec cls op w) w x.task.nreg).isNone && decide (x.act ≠ 0) && p s1 x

theorem fetched_of {s : State} {c : CoachRef} {cls op : Nat} {w : LaneWord} {p : State → LaneCtx → Bool}
    (h : fetchedIf s c cls op w p = true) : ∃ s1 x, Fetches (holding s 0 cls op w) c cls op w s1 x ∧ p s1 x = true := by
  unfold fetchedIf at h
  simp only [Bool.and_eq_true] at h
  obtain ⟨⟨hr, hg⟩, h⟩ := h
  split at h
  · rename_i s1 x e
    simp only [Bool.and_eq_true, Option.isNone_iff_eq_none, Bool.not_eq_true'] at h
    exact ⟨s1, x, ⟨hr, hg, e, h.1.1.1, h.1.1.2, h.1.2⟩, h.2⟩
  · cases h

theorem issues_of {s : State} {c : CoachRef} {cls op : Nat} {w : LaneWord} {p : State → LaneCtx → Bool}
    (h : issuesIf s c cls op w p = true) : ∃ s1 x, Issues (holding s 0 cls op w) c cls op w s1 x ∧ p s1 x = true := by
  obtain ⟨s1, x, hf, h⟩ := fetched_of h
  simp only [Bool.and_eq_true, decide_eq_true_eq, Option.isNone_iff_eq_none] at h
  exact ⟨s1, x, ⟨hf, h.1.1, h.1.2⟩, h.2⟩

/-- Words that some operation of each class defines. -/
def wordsTried : List LaneWord :=
  [{}, { i := true }, { lo := 0x00100000 }, { d := 2, lo := 0x00100000 }, { lo := 0x00005000 }, { lo := 0x00004000 }, { lo := 0x80 }]
/-- A defined word of an operation. -/
def wordFor (cls op : Nat) : LaneWord := (wordsTried.find? fun w => (encFault (opSpec cls op w) w 64).isNone).getD {}

/-- Every lane instruction and every order, at the coach of the small block. -/
def issueRows : List Instr :=
[.add ref0 (wordFor 1 0x00), .sub ref0 (wordFor 1 0x01), .mulLo ref0 (wordFor 1 0x02),
    .mulHiS ref0 (wordFor 1 0x03), .mulHiU ref0 (wordFor 1 0x04), .mad ref0 (wordFor 1 0x05),
    .divS ref0 (wordFor 1 0x06), .divU ref0 (wordFor 1 0x07), .remS ref0 (wordFor 1 0x08),
    .remU ref0 (wordFor 1 0x09), .and ref0 (wordFor 1 0x0A), .or ref0 (wordFor 1 0x0B),
    .xor ref0 (wordFor 1 0x0C), .not ref0 (wordFor 1 0x0D), .shl ref0 (wordFor 1 0x0E),
    .shr ref0 (wordFor 1 0x0F), .sar ref0 (wordFor 1 0x10), .minS ref0 (wordFor 1 0x11),
    .minU ref0 (wordFor 1 0x12), .maxS ref0 (wordFor 1 0x13), .maxU ref0 (wordFor 1 0x14),
    .popc ref0 (wordFor 1 0x15), .clz ref0 (wordFor 1 0x16), .bfe ref0 (wordFor 1 0x17)]
    ++ [.bfi ref0 (wordFor 1 0x18), .sel ref0 (wordFor 1 0x19), .mov ref0 (wordFor 1 0x1A),
    .movh ref0 (wordFor 1 0x1B), .cmp ref0 (wordFor 1 0x1C), .pop ref0 (wordFor 1 0x1D),
    .addX64 ref0 (wordFor 1 0x1E), .subX64 ref0 (wordFor 1 0x1F), .mulWideS ref0 (wordFor 1 0x20),
    .mulWideU ref0 (wordFor 1 0x21), .cxGet ref0 (wordFor 1 0x22), .cqAny ref0 (wordFor 1 0x23),
    .cqAll ref0 (wordFor 1 0x24), .cqMask ref0 (wordFor 1 0x25), .movSr ref0 (wordFor 1 0x26),
    .prPack ref0 (wordFor 1 0x27), .prUnpack ref0 (wordFor 1 0x28), .cqCnt ref0 (wordFor 1 0x29),
    .fadd ref0 (wordFor 2 0x00), .fsub ref0 (wordFor 2 0x01), .fmul ref0 (wordFor 2 0x02),
    .ffma ref0 (wordFor 2 0x03), .fdiv ref0 (wordFor 2 0x04), .fsqrt ref0 (wordFor 2 0x05)]
    ++ [.fmin ref0 (wordFor 2 0x06), .fmax ref0 (wordFor 2 0x07), .fminNum ref0 (wordFor 2 0x08),
    .fmaxNum ref0 (wordFor 2 0x09), .fabs ref0 (wordFor 2 0x0A), .fneg ref0 (wordFor 2 0x0B),
    .fex2 ref0 (wordFor 2 0x0C), .flg2 ref0 (wordFor 2 0x0D), .fcmp ref0 (wordFor 2 0x0E),
    .cvtF32S32 ref0 (wordFor 3 0x00), .cvtF32U32 ref0 (wordFor 3 0x01), .cvtS32F32 ref0 (wordFor 3 0x02),
    .cvtU32F32 ref0 (wordFor 3 0x03), .cvtBf16F32 ref0 (wordFor 3 0x04), .cvtF16F32 ref0 (wordFor 3 0x05),
    .cvtE4m3F32 ref0 (wordFor 3 0x06), .cvtE5m2F32 ref0 (wordFor 3 0x07), .cvtF32Bf16 ref0 (wordFor 3 0x08),
    .cvtF32F16 ref0 (wordFor 3 0x09), .cvtF32E4m3 ref0 (wordFor 3 0x0A), .cvtF32E5m2 ref0 (wordFor 3 0x0B),
    .cvtQ64F32 ref0 (wordFor 3 0x0C), .cvtF32Q64 ref0 (wordFor 3 0x0D), .llLd ref0 (wordFor 4 0x00)]
    ++ [.llSt ref0 (wordFor 4 0x01), .spLd ref0 (wordFor 4 0x02), .spSt ref0 (wordFor 4 0x03),
    .pmLd ref0 (wordFor 4 0x04), .pmSt ref0 (wordFor 4 0x05), .pmAddU32 ref0 (wordFor 4 0x06),
    .pmAddS64 ref0 (wordFor 4 0x07), .pmCasB64 ref0 (wordFor 4 0x08), .cpU ref0 (wordFor 5 0x00),
    .cpT ref0 (wordFor 5 0x01), .barSync ref0 (wordFor 6 0x00), .acWait ref0 (wordFor 6 0x01),
    .acAdd ref0 (wordFor 6 0x02), .acMode ref0 (wordFor 6 0x03), .fencePm ref0 (wordFor 6 0x04),
    .fenceSp ref0 (wordFor 6 0x05), .epochAdv ref0 (wordFor 6 0x06), .hcGet ref0 (wordFor 6 0x07),
    .hcPut ref0 (wordFor 6 0x08), .hcTake ref0 (wordFor 6 0x09), .hcRet ref0 (wordFor 6 0x0A),
    .nop ref0 (wordFor 7 0x00), .br ref0 (wordFor 7 0x01), .call ref0 (wordFor 7 0x02)]
    ++ [.ret ref0 (wordFor 7 0x03), .jmpR ref0 (wordFor 7 0x04), .exit ref0 (wordFor 7 0x05),
    .gathQ ref0 (wordFor 8 0x00), .gathBk ref0 (wordFor 8 0x01), .gathOvf ref0 (wordFor 8 0x02),
    .saddOpen ref0 (wordFor 8 0x08), .saddX64 ref0 (wordFor 8 0x09), .saddQ64 ref0 (wordFor 8 0x0A),
    .saddSeal ref0 (wordFor 8 0x0B), .saddClose ref0 (wordFor 8 0x0C), .stRun ref0 (wordFor 8 0x10),
    .plBag ref0 (wordFor 8 0x14), .scanLd ref0 (wordFor 8 0x18), .scanB1 ref0 (wordFor 8 0x19),
    .tkRd ref0 (wordFor 8 0x1C), .tkMerge ref0 (wordFor 8 0x1D), .tkClr ref0 (wordFor 8 0x1E),
    .iaMma ref0 (wordFor 8 0x20), .iaSt ref0 (wordFor 8 0x21), .iaLd ref0 (wordFor 8 0x22),
    .iaZero ref0 (wordFor 8 0x23), .epCvt ref0 (wordFor 8 0x24), .lnPut ref0 (wordFor 9 0x00)]
    ++ [.lnTake ref0 (wordFor 9 0x01), .lnOvf ref0 (wordFor 9 0x02), .foldSgd ref0 (wordFor 10 0x00),
    .foldAdagrad ref0 (wordFor 10 0x01), .foldAdam ref0 (wordFor 10 0x02), .foldGet ref0 (wordFor 10 0x03)]

/-- An outcome that is a next state of which p holds. -/
def nextIf (o : Out) (p : State → Bool) : Bool :=
  match o with
  | .next t => p t
  | _ => false

/-- A row that issues and answers a next state. -/
def rowRuns (i : Instr) : Bool :=
  match (laneRow i).or (orderRow i) with
  | some (cls, op, c, w) => issuesIf block0 c cls op w (fun _ _ => true) && nextIf (exec i (holding block0 0 cls op w)) fun _ => true
  | none => false

/-- Witness of the premise `Issues` of every lane and order statement, for every row. -/
theorem test_witness_every_row_issues : issueRows.all rowRuns = true := by decide

/-- The small block with another coach. -/
def withCoach (k : Coach) : State := { block0 with cohorts := [{ cohort0 with coaches := [k] }] }
/-- The small block with another task. -/
def withTask (t : Task) : State := { block0 with tasks := [t] }
/-- The small block with another tenancy 0. -/
def withTen (t : Tenancy) : State := { block0 with tens := t :: List.replicate 7 {} }

/-- The state at tick t, with what is due before t done: the governor's last evaluation, the rate's and power's last reports, the last
carriages sent. -/
def onTick (t : Nat) (s : State) : State :=
  { s with
    tick := t, pwr := { s.pwr with lastEval := t, lastRate := t, ptelTick := some t }
    ports := s.ports.map fun x => { x with lastSent := some (t - 1) } }

/-! ### Witnesses: issue -/

theorem test_witness_shape : State.Shape { block0 with pending := [.vidAck] } := by
  unfold State.Shape Cohort.Canonical Coach.Canonical; decide

/-- ActingThreads: no acting thread (predicate 2 is empty), and a forbidden encoding under a guard. -/
theorem test_witness_no_acting_thread :
    fetchedIf block0 ref0 7 0 { g := true, gp := 2 } (fun _ x =>
        encFault (opSpec 7 0 { g := true, gp := 2 }) { g := true, gp := 2 } x.task.nreg == none && x.act == 0) = true
      ∧ fetchedIf block0 ref0 7 0 { g := true, gp := 2, d := 1 } (fun _ x =>
        encFault (opSpec 7 0 { g := true, gp := 2, d := 1 }) { g := true, gp := 2, d := 1 } x.task.nreg == some 1) = true := by decide

/-- A fetched instruction whose encoding faults with n, or is clean. -/
def faultsAs (s : State) (cls op : Nat) (w : LaneWord) (n : Option Nat) : Bool :=
  fetchedIf s ref0 cls op w fun _ x => encFault (opSpec cls op w) w x.task.nreg == n

/-- LaneBadEncodingFaults: `add` with I = 0 and XMOD set; with A past the 8 registers of its task; `add.x64` with an odd A; a word of class 0x00.
An order with an immediate; one whose OP is reserved. LaneFetchFaults: a pc past the 2 MiB range; one whose granule the memory reports uncorrectable, which is logged and poisoned. -/
theorem test_witness_bad_encodings :
    faultsAs block0 1 0x00 { lo := 0x100 } (some 1) = true
      ∧ faultsAs (withTask { task0 with nreg := 8 }) 1 0x00 { a := 8 } (some 2) = true
      ∧ faultsAs (withTask { task0 with nreg := 8 }) 1 0x00 { a := 7 } none = true
      ∧ faultsAs block0 1 0x1E { a := 1 } (some 3) = true
      ∧ faultsAs block0 1 0x00 { other := some (0, 0) } (some 1) = true
      ∧ faultsAs block0 8 0x23 { i := true } (some 1) = true
      ∧ faultsAs block0 8 0x00 { other := some (8, 3) } (some 1) = true := by decide
theorem test_witness_unpinned_fetch :
    (withCoach { coach0 with pc := 2 ^ 21 }).laneReady ref0 = true
      ∧ (match (withCoach { coach0 with pc := 2 ^ 21 }).issueOf ref0 1 0 {} with
        | some (s1, x) => s1.pinnedRange x.task.ten x.k.pc 8
        | none => true) = false := by decide
/-- The small block whose first granule the memory cannot correct. -/
def spoilt : State := { block0 with mem := { block0.mem with bad := [0] } }
theorem test_witness_lost_fetch :
    spoilt.laneReady ref0 = true
      ∧ (match spoilt.issueOf ref0 1 0 {} with
        | some (s1, x) => s1.pinnedRange x.task.ten x.k.pc 8 && (s1.fetchBarred x.task.ten x.k.pc).isNone && s1.fetchLost x.cohort.cluster x.task.ten x.k.pc
        | none => false) = true
      ∧ (match exec (.add ref0 {}) spoilt with
        | .next t => (t.task? 1).isNone && t.mem.poison == [0] && t.mem.bad.isEmpty && t.mem.errlog.any (·.valid)
        | _ => false) = true := by decide

/-- IssueOnlyCounts, CoachFrame, WriteDFrame. -/
theorem test_witness_issue_counts :
    block0.coach? ref0 = some coach0 ∧ coach0.wait = .none ∧ coach0.running ≠ 0 ∧ coach0.joinPc ≠ some coach0.pc
      ∧ block0.cntOf (cntLaneIssue 0) < Config.cntMax ∧ smOk 0 0 coach0.g = true ∧ smOk 0 0 coach0.u = true := by decide

/-! ### Witnesses: results -/

/-- LanePredicateResults: the predicates are canonical. -/
theorem test_witness_predicates :
    issuesIf block0 ref0 1 0x1C {} (fun _ x => smOk 0 0 x.k.p) = true
      ∧ issuesIf block0 ref0 1 0x28 {} (fun _ x => smOk 0 0 x.k.p) = true := by decide

/-- LaneConversionResults: E at both ends of its range, and past each. -/
theorem test_witness_conversion_exponents :
    ([0xA000, 0x1F00].all fun lo => issuesIf block0 ref0 3 0x0C { lo := lo } fun _ x => decide (-96 ≤ cvtExp x.w ∧ cvtExp x.w ≤ 31)) = true
      ∧ ([0x9F00, 0x2000].all fun lo => issuesIf block0 ref0 3 0x0D { lo := lo } fun _ x =>
        decide (cvtExp x.w < -96 ∨ 31 < cvtExp x.w)) = true := by decide

/-- The elementary functions' exact results at points whose roundings are known: 2^0.5, log2 10, SiLU 1, SiLU −3, GELU 1, GELU −2, tanh 1; and
the bound of 2 units in the last place from both sides. -/
theorem test_elementary :
    rn32 (exp2Real false 1 (-1)) = 0x3FB504F3 ∧ rn32 (log2Real 10 0) = 0x40549A78 ∧ rn32 (siluReal false 1 0) = 0x3F3B26A8
      ∧ rn32 (siluReal true 3 0) = 0xBE11B139 ∧ rn32 (geluReal false 1 0) = 0x3F57585C ∧ rn32 (geluReal true 2 0) = 0xBD39F7C5
      ∧ rn32 (tanhReal false 1 0) = 0x3F42F7D6
      ∧ withinTwo (exp2Real false 0 0) 0x3F800002 = true ∧ withinTwo (exp2Real false 0 0) 0x3F800003 = false := by decide

/-- Every acting thread's access fits. -/
def fits (limit : LaneCtx → Nat) (_ : State) (x : LaneCtx) : Bool :=
  x.threads.all fun j => decide (spOffset x j % widthBytes (fSub x.w) = 0 ∧ spOffset x j + widthBytes (fSub x.w) ≤ limit x)
/-- Thread 0's access is the first that does not. -/
def firstBad (limit : LaneCtx → Nat) (_ : State) (x : LaneCtx) : Bool :=
  x.threads.head? == some 0
    && decide (spOffset x 0 % widthBytes (fSub x.w) ≠ 0 ∨ limit x < spOffset x 0 + widthBytes (fSub x.w))

/-- LaneLocalMemory: the last word below the bound. LaneMemoryFaults: one byte past it, and one word past it. -/
theorem test_witness_local_memory :
    ([0, 1].all fun op => issuesIf block0 ref0 4 op { i := true, lo := 0x3FC04 } (fits (·.task.llm))) = true
      ∧ ([2, 3].all fun op => issuesIf block0 ref0 4 op { i := true, lo := 0xFFC04 } (fits (·.task.spext))) = true
      ∧ ([0, 1].all fun op => issuesIf block0 ref0 4 op { i := true, lo := 0x3FD04 } (firstBad (·.task.llm))) = true
      ∧ ([0, 1].all fun op => issuesIf block0 ref0 4 op { i := true, lo := 0x40004 } (firstBad (·.task.llm))) = true
      ∧ ([2, 3].all fun op => issuesIf block0 ref0 4 op { i := true, lo := 0x100004 } (firstBad (·.task.spext))) = true := by decide

/-- LanePinnedMemory: every thread's access is clean. -/
theorem test_witness_pinned_memory :
    ([(4, Access.read), (5, .write), (6, .atomic), (7, .atomic), (8, .atomic)].all fun p =>
      issuesIf block0 ref0 4 p.1 {} fun s1 x => x.threads.all fun j => (pmCheck p.1 p.2 x s1 j).isNone) = true := by decide

def returned : PinnedAccess := { op := 4, sub := 4, ud := false, d := 1, reqs := [⟨0, 0, 0, 0⟩], got := [(0, [1, 0, 0, 0])] }
/-- PinnedAccessReturns, and its effect on D. -/
theorem test_witness_pinned_return :
    ((withCoach { coach0 with access := some returned }).coach? ref0).bind (·.access) = some returned ∧ returned.home = true := by decide
theorem test_pinned_return :
    nextIf (exec (.pinnedAccessReturn ref0) (withCoach { coach0 with access := some returned })) (fun t =>
      (t.coach? ref0).any fun k => k.reg false 1 0 == 1 && k.pc == 8) = true := by decide

/-- HighestThreadWins: threads 0 and 1 store to the same bytes, and thread 1's stay. -/
def twoStores : LaneCtx := ⟨ref0, task0, cohort0, { coach0 with g := [(0, 5), (64, 6)] }, { lo := 4 }, 3⟩
theorem test_witness_highest_thread :
    1 ∈ twoStores.threads ∧ 0 < (storeBytes twoStores 1).length ∧ (∀ j ∈ twoStores.threads, ¬1 < j)
      ∧ memGet (storeAll twoStores (fun _ => 8) []) 8 = 6 := by decide

/-- LaneCopiesIssue: 64 bytes from scratchpad to scratchpad. -/
def copyOk (js : LaneCtx → List Nat) (_ : State) (x : LaneCtx) : Bool :=
  ((x.task.bound (fX x.w 16 4)).isSome || !bitOf x.cohort.acCarts.toNat (fX x.w 16 4))
    && (js x).all fun j => decide (0 < (copyReq x j).len ∧ (copyReq x j).len ≤ 4194303)
      && sideOk x.task (copyReq x j).src (copyReq x j).len && sideOk x.task (copyReq x j).dst (copyReq x j).len
theorem test_witness_copies :
    issuesIf block0 ref0 5 0 { lo := 0x08005040 } (copyOk fun x => [x.low]) = true
      ∧ issuesIf block0 ref0 5 1 { lo := 0x08005040 } (copyOk (·.threads)) = true := by decide

/-! ### Witnesses: synchronisation and control -/

theorem test_witness_barrier : issuesIf block0 ref0 6 0 {} (fun _ x => smOk 0 0 x.cohort.arrived) = true := by decide
theorem test_barrier_opens :
    nextIf (exec (.barSync ref0 {}) (holding block0 0 6 0 {})) (fun t => (t.coach? ref0).any fun k => k.wait == .none && k.pc == 8) = true := by decide

/-- ArrivalCounters: acN unbound, with nothing outstanding; acN bound. -/
theorem test_witness_counters :
    issuesIf block0 ref0 6 2 {} (fun _ x => (x.task.bound 0).isNone && smOk 0 0 x.cohort.ac) = true
      ∧ issuesIf block0 ref0 6 3 {} (fun s1 x => (x.task.bound 0).isNone && !s1.acOutstanding 1 0 0) = true
      ∧ ([2, 3].all fun op => issuesIf (withTask { task0 with binds := [(0, 0)] }) ref0 6 op {} fun _ x => (x.task.bound 0).isSome) = true := by
  decide

/-- FencesAndEpochs: an advance at once, one that must be deferred, one behind a deferred one. -/
theorem test_witness_epochs :
    issuesIf block0 ref0 6 6 {} (fun s1 x => !(s1.ten x.task.ten).epochPend && !(s1.ten x.task.ten).epochBlocked) = true
      ∧ issuesIf (withTen { ten0 with epoch := 7, tracks := [⟨0, 1⟩] }) ref0 6 6 {} (fun s1 x =>
        !(s1.ten x.task.ten).epochPend && (s1.ten x.task.ten).epochBlocked) = true
      ∧ issuesIf (withTen { ten0 with epochPend := true }) ref0 6 6 {} (fun s1 x => (s1.ten x.task.ten).epochPend) = true := by decide

/-- A hitch whose ends are both LANE, its carts as given. -/
def lanesHitch (carts : List Cart) (queue : List Nat) : Hitch :=
  { num := 3, ctx := 0, prod := 5, cons := 5, cluster := 0, base := 0, size := 64, carts := carts, queue := queue }
def withHitch (h : Hitch) : State := withTen { ten0 with hitches := [h] }
def hcWord : LaneWord := { lo := 0x380 }
/-- HitchInstructions: a free cart and none; a cart being filled; a queued cart and none; a held cart. The fault: no such hitch. -/
theorem test_witness_hitches :
    issuesIf (withHitch (lanesHitch [{}] [])) ref0 6 7 hcWord (fun s1 x => (laneHitch s1 x true).any fun h =>
        (h.heldBy .filling ref0).isNone && h.freeCart == some 0) = true
      ∧ issuesIf (withHitch (lanesHitch [{ st := .queued }] [0])) ref0 6 7 hcWord (fun s1 x => (laneHitch s1 x true).any fun h =>
        (h.heldBy .filling ref0).isNone && h.freeCart.isNone) = true
      ∧ issuesIf { withHitch (lanesHitch [{ st := .filling, holder := .coach ref0 }] []) with
          cohorts := [{ cohort0 with coaches := [{ coach0 with g := [(2, 64)] }] }] } ref0 6 8 { a := 2, lo := 0x300 } (fun s1 x =>
        (laneHitch s1 x true).any fun h => h.heldBy .filling ref0 == some 0 && decide ((opA x.k x.w x.low).toNat = h.size)) = true
      ∧ issuesIf (withHitch (lanesHitch [{ st := .queued }] [0])) ref0 6 9 hcWord (fun s1 x => (laneHitch s1 x false).any fun h =>
        (h.heldBy .held ref0).isNone && h.queue == [0]) = true
      ∧ issuesIf (withHitch (lanesHitch [{}] [])) ref0 6 9 hcWord (fun s1 x => (laneHitch s1 x false).any fun h =>
        (h.heldBy .held ref0).isNone && h.queue.isEmpty) = true
      ∧ issuesIf (withHitch (lanesHitch [{ st := .held, holder := .coach ref0 }] [])) ref0 6 0x0A { lo := 0x300 } (fun s1 x =>
        (laneHitch s1 x false).any fun h => h.heldBy .held ref0 == some 0) = true
      ∧ issuesIf block0 ref0 6 7 hcWord (fun s1 x => (laneHitch s1 x true).isNone) = true := by decide

/-- The branch whose D and A name the join 8 words on, under a guard that thread 0 alone passes. -/
def divides : LaneWord := { g := true, gp := 1, i := true, a := 8, lo := 0x400 }
def roomFor (x : LaneCtx) : Bool :=
  decide (if x.k.joinPc = some (pcPlus x.k.pc (jofs x.w)) then x.k.stack.length + 1 ≤ 32
    else x.k.stack.length + 2 ≤ 32 ∧ x.k.joins < 16)
/-- ControlFlow. -/
theorem test_witness_control :
    issuesIf block0 ref0 7 1 { i := true } (fun _ x => x.act == x.k.running) = true
      ∧ issuesIf block0 ref0 7 1 divides (fun _ x => x.act != x.k.running && jofs x.w != 0 && roomFor x) = true
      ∧ issuesIf block0 ref0 7 2 { i := true } (fun _ x => x.act == x.k.running && decide (x.k.calls.length < 8)) = true
      ∧ issuesIf (withCoach { coach0 with calls := [(16, 0)] }) ref0 7 3 {} (fun _ x =>
        x.act == x.k.running && x.k.calls == [(16, x.k.joins)]) = true
      ∧ issuesIf block0 ref0 7 4 {} (fun _ x => x.act == x.k.running && decide ((opA64 x.k x.w x.low).toNat % 8 = 0)) = true := by decide
/-- ControlAndHitchFaults. -/
theorem test_witness_control_faults :
    issuesIf block0 ref0 7 1 { divides with a := 0 } (fun _ x => x.act != x.k.running && jofs x.w == 0) = true
      ∧ issuesIf (withCoach { coach0 with stack := List.replicate 31 (.path 0 0) }) ref0 7 1 divides (fun _ x =>
        x.act != x.k.running && !roomFor x) = true
      ∧ ([(2, true), (3, false), (4, false)].all fun p => issuesIf block0 ref0 7 p.1 { g := true, gp := 1, i := p.2 } fun _ x =>
        x.act != x.k.running) = true
      ∧ issuesIf (withCoach { coach0 with calls := List.replicate 8 (0, 0) }) ref0 7 2 { i := true } (fun _ x => decide (8 ≤ x.k.calls.length)) = true
      ∧ issuesIf block0 ref0 7 3 {} (fun _ x => x.act == x.k.running && x.k.calls.isEmpty) = true
      ∧ issuesIf (withCoach { coach0 with g := (List.range 32).map fun j => (64 * j, 4) }) ref0 7 4 {} (fun _ x =>
        x.act == x.k.running && decide ((opA64 x.k x.w x.low).toNat % 8 ≠ 0)) = true := by decide

/-! ### Witnesses: orders -/

/-- Words of eight bytes laid out from an address on. -/
def words8 (a : Nat) (ws : List Nat) : List Host.Cell := memPut [] a (ws.flatMap (toLe 8))
def desc0 : TableDesc := { width := 32, train := true, rows := 64, nown := 1, aways := 1, acap := 16 }
/-- Table n with both banks in a state, 16 slots, step 0. -/
def tableIn (n : Nat) (st : BankSt) : Table :=
  { num := n, desc := desc0, recv := { st := st, nslot := 16 }, send := { st := st, nslot := 16 } }
def pairOf (num prod cons size : Nat) : Hitch :=
  { num := num, ctx := 0, prod := prod, cons := cons, cluster := 0, base := 0, size := size, carts := [{}] }
/-- The small block with tables in a state, one hitch of each kind an order uses, unit areas, a 1 MiB scratchpad extent, and
descriptor words at scratchpad offset 0 and at device address 0. -/
def orderBlock (st : BankSt) (ws : List Nat) : State :=
  { block0 with
    tasks := [{ task0 with spext := 2 ^ 20 }]
    tens := { ten0 with
      slots := [{ slot0 with sp := BitVec.ofNat 32 (256 * 2 ^ 11 + 2 ^ 23) }, {}, {}, {}]
      tables := [tableIn 0 st, tableIn 1 st, tableIn 2 st]
      hitches := [pairOf 4 0 4 256, pairOf 5 4 0 256, pairOf 6 0 6 512] } :: List.replicate 7 {}
    clusters := { State.reset.cluster 0 with sp := words8 0 ws } :: List.replicate 7 {}
    mem := { block0.mem with pool := words8 0 ws } }

/-- An order issued by the coach is accepted. -/
def accepts (s : State) (i : Instr) : Bool :=
  match orderRow i with
  | some (cls, op, c, w) => issuesIf s c cls op w fun s1 x =>
      let a := s1.accOf x.task x.cohort c x.k.pc (orderWordOf x cls op)
      a.ready s1 && match (a.accept.go s1).1 with
        | .ok _ => true
        | .error _ => false
  | none => false

/-- A descriptor in the scratchpad; the same with B, and B and C, from u registers. -/
def dsp : LaneWord := { lo := 0x4000 }
def one32 : Nat := 2 ^ 32

/-- OrdersAreAccepted, for every order: gathering and the arena. -/
theorem test_witness_gather_accepted :
    accepts (orderBlock .clear [one32]) (.gathQ ref0 dsp) = true ∧ accepts (orderBlock .clear [one32]) (.gathBk ref0 dsp) = true
      ∧ accepts (orderBlock .clear [one32]) (.gathOvf ref0 dsp) = true ∧ accepts (orderBlock .clear []) (.saddOpen ref0 {}) = true
      ∧ accepts (orderBlock .opened []) (.saddX64 ref0 {}) = true ∧ accepts (orderBlock .opened []) (.saddQ64 ref0 dsp) = true
      ∧ accepts (orderBlock .opened []) (.saddSeal ref0 {}) = true ∧ accepts (orderBlock .sealed []) (.saddClose ref0 {}) = true
      ∧ accepts (orderBlock .clear [one32]) (.plBag ref0 dsp) = true := by decide
/-- Streams, scan and top-k. -/
theorem test_witness_scan_accepted :
    accepts (orderBlock .clear []) (.scanLd ref0 dsp) = true
      ∧ accepts (orderBlock .clear [0, 1, 0, 0x100000100]) (.scanB1 ref0 dsp) = true
      ∧ accepts (orderBlock .clear []) (.tkRd ref0 dsp) = true ∧ accepts (orderBlock .clear []) (.tkMerge ref0 dsp) = true
      ∧ accepts (orderBlock .clear []) (.tkClr ref0 dsp) = true := by decide
set_option maxRecDepth 8192 in
theorem test_witness_stream_accepted :
    accepts (orderBlock .clear [2 ^ 6, 0, 0, 0, 0, 0, 0, 0, 0, 0, 0, 0, 0x78000000]) (.stRun ref0 {}) = true := by decide
/-- Interaction, line and fold orders. -/
theorem test_witness_interaction_accepted :
    accepts (orderBlock .clear [1 + 2 ^ 9 + 2 * 2 ^ 19, 0, 6 * 2 ^ 16]) (.iaMma ref0 dsp) = true
      ∧ accepts (orderBlock .clear []) (.iaSt ref0 dsp) = true ∧ accepts (orderBlock .clear []) (.iaLd ref0 dsp) = true
      ∧ accepts (orderBlock .clear []) (.iaZero ref0 {}) = true
      ∧ accepts (orderBlock .clear [2 ^ 16 + 2 ^ 25]) (.epCvt ref0 dsp) = true
      ∧ accepts (orderBlock .clear [4, 0, 64]) (.lnPut ref0 dsp) = true ∧ accepts (orderBlock .clear [5, 0, 64]) (.lnTake ref0 dsp) = true
      ∧ accepts (orderBlock .sealed [0, 2 ^ 63 + 64, 0, 0, 0, 0, 0, 0, one32]) (.lnOvf ref0 dsp) = true := by decide
theorem test_witness_folds_accepted :
    ([.foldSgd ref0 {}, .foldAdagrad ref0 {}, .foldAdam ref0 {}].all
        (accepts (orderBlock .sealed [0x2001000]))) = true
      ∧ accepts (orderBlock .sealed [0, 0, 0, 0, 0, 2 ^ 63]) (.foldGet ref0 {}) = true := by decide

/-! ### Witnesses: the front end -/

def ring0 : Ring := { en := true, base := 1, tailAddr := 0x300, tail := 1 }
/-- A command at index 0 of the ring, its tail word 1, and words at 0x2000. -/
def ringPool (op : Nat) (e : CmdEntry) (ws : List Nat) : List Host.Cell :=
  memPut (memPut (words8 0x2000 ws) 4096 (toLe 32 (e.toBits (BitVec.ofNat 8 op)).toNat)) 0x1800 (toLe 4 1)
/-- The small block with a command at the head of ring 0, and words at 0x2000. -/
def headBlock (op : Nat) (e : CmdEntry) (ws : List Nat) (t : Tenancy) : State :=
  { block0 with
    tens := t :: List.replicate 7 {}, rings := ring0 :: List.replicate 31 {}, tasks := [], cohorts := []
    ports := { st := .idle } :: List.replicate 15 {}
    mem := { block0.mem with pool := ringPool op e ws } }

/-- The front end may take the command. -/
def headsIf (s : State) (op : Nat) (e : CmdEntry) : Bool :=
  s.ringReady 0 && (match s.pinRead (s.ring 0).ten.toNat (s.ring 0).slotVa 32 true with
    | .bytes bs => cmdOf bs == (op, e)
    | _ => false) && ((s.ten (s.ring 0).ten.toNat).st != .loading || loadingOp op) && cmdForm op e

theorem heads_of {s : State} {op : Nat} {e : CmdEntry} (h : headsIf s op e = true) : Heads s 0 op e := by
  unfold headsIf at h
  simp only [Bool.and_eq_true, Bool.or_eq_true, bne_iff_ne, ne_eq] at h
  obtain ⟨⟨⟨h1, h2⟩, h3⟩, h4⟩ := h
  refine ⟨h1, ?_, h3, h4⟩
  split at h2
  · rename_i bs e1
    exact ⟨bs, e1, by simpa using h2⟩
  · cases h2

/-- The command is at the head and its checks pass. -/
def passes {α : Type} (s : State) (op : Nat) (e : CmdEntry) (chk : CmdRef → CM α) : Bool :=
  headsIf s op e && match ((chk (s.cmdAt 0 op e)).go s).1 with
    | .ok _ => true
    | .error _ => false
/-- The command is at the head and its first failed check is n. -/
def refused {α : Type} (s : State) (op : Nat) (e : CmdEntry) (chk : CmdRef → CM α) (n : Nat) : Bool :=
  headsIf s op e && match ((chk (s.cmdAt 0 op e)).go s).1 with
    | .ok _ => false
    | .error k => k == n

def at2 : CmdEntry := { arg0 := 0x2000 }
/-- A dispatch of one cohort of one coach in cluster 0, 8 registers per thread, entry and arguments at 0. -/
def dispWords : List Nat := [1 + 2 ^ 8 + 8 * 2 ^ 13 + 32 * 2 ^ 32]

/-- DispatchChecks: one that passes, and one without a thread, which 0x01 refuses. -/
theorem test_witness_dispatch :
    passes (headBlock 1 at2 dispWords ten0) 1 at2 chkDispatch = true
      ∧ refused (headBlock 1 at2 [1 + 2 ^ 8 + 8 * 2 ^ 13] ten0) 1 at2 chkDispatch 1 = true
      ∧ refused (headBlock 1 at2 [2 ^ 31] ten0) 1 at2 chkDispatch 0x1B = true := by decide
theorem test_dispatch_admits :
    nextIf (exec (.dispatch 0 at2) (headBlock 1 at2 dispWords ten0)) (fun t =>
      (t.task? 2).any (fun k => k.nreg == 8 && k.nthread == 32) && (t.ring 0).head == 1) = true := by decide

def fenceEntry (n : Nat) : CmdEntry := { arg0 := BitVec.ofNat 64 n }
/-- A table of 64 rows of one FP32 element, which does not train. -/
def tableWords : List Nat := [2 ^ 8, 0, 64, 0, 0, 1 * 2 ^ 2]
def replace0 : CmdEntry := { arg0 := 0x2000, arg1 := 0x10000 }
def release0 : CmdEntry := { arg1 := 0x10000 }
def held0 : Tenancy := { ten0 with tables := [{ num := 0, desc := { desc0 with train := false } }], allotHitches := 1, allotCarts := 1 }
def build0 : CmdEntry := { arg0 := 0, arg1 := 0x10001 }
def dismantle0 : CmdEntry := { arg0 := 0x80004 }
def pool4 : Tenancy := { ten0 with hitches := [pairOf 4 0 4 256] }

set_option maxRecDepth 16384 in
/-- FrontCommandsTaken. -/
theorem test_witness_front :
    headsIf (headBlock 2 (fenceEntry 0) [] ten0) 2 (fenceEntry 0) = true
      ∧ headsIf (headBlock 2 (fenceEntry 1) [] ten0) 2 (fenceEntry 1) = true
      ∧ passes (headBlock 3 at2 tableWords ten0) 3 at2 chkTableLoad = true
      ∧ passes (headBlock 3 replace0 tableWords held0) 3 replace0 chkTableReplace = true
      ∧ passes (headBlock 3 release0 [] held0) 3 release0 chkHeld = true
      ∧ passes (headBlock 5 build0 [] held0) 5 build0 chkHitchBuild = true
      ∧ passes (headBlock 5 dismantle0 [] pool4) 5 dismantle0 chkDismantle = true
      ∧ ((headBlock 5 dismantle0 [] pool4).moveHead 0).hitch? 0 4 = some (pairOf 4 0 4 256)
      ∧ headsIf (headBlock 6 {} [] ten0) 6 {} = true := by decide

/-- A timetable of one port and one cycle entry; the same held by the tenancy. -/
def ttWords : List Nat := [7, 2 ^ 9 + 2 ^ 32, 1 + 2 ^ 36]
def tt0 : Timetable :=
  { stamp := 7, rank := 0, fsize := 1, ports := 1, cycle := 1, parent := 0, root := true, children := 0, roll := [(0, [])]
    cyc := [(0, [0])] }
def timed (st : TtSt) : Tenancy := { ten0 with tt := some { tt0 with st := st } }
def stamp7 : CmdEntry := { arg0 := 7, arg1 := 64 }
def unload7 : CmdEntry := { arg0 := 7, arg1 := 1 }
def brake7 : CmdEntry := { arg0 := 7 }
/-- One region of 512 bytes. -/
def ckWords : List Nat := [1, 0, 0, 0, 0, 0, 0, 0, 0, 512, 0x4000, 0]
def park1 : CmdEntry := { arg0 := 1 }
def twoCtx : Tenancy := { ten0 with slots := [slot0, { slot0 with ctx := 5 }, {}, {}] }
def spareSlot : Tenancy := { ten0 with slots := [slot0, { slot0 with st := .empty, sp := BitVec.ofNat 32 (16 + 16 * 2 ^ 11) }, {}, {}] }
def unpark9 : CmdEntry := { arg0 := 9 }

set_option maxRecDepth 16384 in
/-- MembershipCommandsTaken. -/
theorem test_witness_timetable : passes (headBlock 4 at2 ttWords ten0) 4 at2 chkTimetable = true := by decide
set_option maxRecDepth 16384 in
theorem test_witness_membership :
    passes (headBlock 4 unload7 [] (timed .loaded)) 4 unload7 chkUnload = true
      ∧ passes (headBlock 7 stamp7 [] (timed .loaded)) 7 stamp7 chkArm = true
      ∧ headsIf (headBlock 8 brake7 [] ten0) 8 brake7 = true
      ∧ headsIf (headBlock 8 brake7 [] (timed .running)) 8 brake7 = true ∧ headsIf (headBlock 8 brake7 [] (timed .armed)) 8 brake7 = true
      ∧ passes (headBlock 9 at2 ckWords ten0) 9 at2 chkCheckpoint = true
      ∧ passes (headBlock 10 park1 [] twoCtx) 10 park1 chkPark = true
      ∧ passes (headBlock 11 unpark9 [] spareSlot) 11 unpark9 chkUnpark = true
      ∧ headsIf (headBlock 12 {} [] ten0) 12 {} = true := by decide

/-- CommandsRefused: an entry outside every pinned range, an opcode the table lacks, a reserved bit, a failed check; and the
resume of the stopped ring. -/
theorem test_witness_refused :
    (let s := headBlock 2 (fenceEntry 0) [] { ten0 with pins := List.replicate 32 {} };
      s.ringReady 0 = true ∧ (match s.pinRead 0 (s.ring 0).slotVa 32 true with
        | .outside => true
        | _ => false) = true)
      ∧ (let s := headBlock 13 {} [] ten0;
        s.ringReady 0 = true ∧ (match s.pinRead 0 (s.ring 0).slotVa 32 true with
          | .bytes bs => cmdOf bs == (13, {})
          | _ => false) = true)
      ∧ (let s := headBlock 2 (fenceEntry 2) [] ten0;
        s.ringReady 0 = true ∧ cmdForm 2 (fenceEntry 2) = false)
      ∧ refused (headBlock 10 {} [] ten0) 10 {} chkPark 0x1E = true
      ∧ (let t := (headBlock 10 {} [] ten0).refuseAt 0 0x1E none;
        t.opened = true ∧ t.watched { t.ring 0 with stopped := false, reason := 0 } = true
          ∧ (match t.pinRead 0 (t.ring 0).tailVa 4 true with
            | .bytes _ => true
            | _ => false) = true) := by decide

/-- RingEvents: a host write past the pool; the tail word pinned, and not pinned; a ring to enable. -/
theorem test_witness_rings :
    (hostMem (.ringWake 0 0 { cells := [(2 ^ 46, 1)] })).isSome = true ∧ (hostMem (.ringWake 0 0 { bad := [2 ^ 40] })).isSome = true
      ∧ (let s := headBlock 2 {} [] ten0;
        s.opened = true ∧ s.watched (s.ring 0) = true ∧ (s.ring 1).en = false ∧ (match s.pinRead 0 (s.ring 0).tailVa 4 true with
          | .bytes _ => true
          | _ => false) = true)
      ∧ (let s := headBlock 2 {} [] { ten0 with pins := List.replicate 32 {} };
        s.watched (s.ring 0) = true ∧ (match s.pinRead 0 (s.ring 0).tailVa 4 true with
          | .outside => true
          | _ => false) = true)
      ∧ State.reset.opened = false := by decide

/-! ### Witnesses: orders under way -/

def order0 (u : UnitRef) (b : OrderBody) : Order :=
  { id := 1, unit := u, queue := 0, ten := 0, ctx := 0, task := 1, cohort := 0, cluster := 0, op := 0, addr := 0, ac := 0, amount := 0
    ticket := none, mode := 0, nan := 0, self := 0, fsize := 1, accepted := 0, body := b }
def withOrder (o : Order) : State := { orderBlock .clear [] with orders := [o], nextOrder := 2 }
def zeroWord : OrderWord :=
  { cls := 8, op := 0x23, a := 0, b := 0, c := 0, amount := 0, ac := 0, dspace := 0, queue := 0, unit := 0, sub := 0, acting := 1 }
def parkedAt : State :=
  { orderBlock .clear [] with cohorts := [{ cohort0 with coaches := [{ coach0 with order := some zeroWord }] }] }

/-- OrdersPark: a stalled unit. ParkedOrdersAreAccepted. OrdersComplete. -/
theorem test_witness_orders_wait_and_end :
    issuesIf { orderBlock .clear [] with xlt := { block0.xlt with stalls := [(.gather 0, .walk 0 0)] } } ref0 8 0x23 {}
        (fun s1 x => !(s1.accOf x.task x.cohort ref0 x.k.pc (orderWordOf x 8 0x23)).ready s1) = true
      ∧ nextIf (exec (.orderAccept ref0) parkedAt) (fun t => decide (t.orders.length = 1)) = true
      ∧ (withOrder (order0 (.ia 0) .iaZero)).turnOf (order0 (.ia 0) .iaZero) = true
      ∧ (withOrder (order0 (.ia 0) .iaZero)).stalled (.gather 0) = false
      ∧ nextIf (exec (.orderComplete 1) (withOrder (order0 (.ia 0) .iaZero))) (fun t => t.orders.isEmpty) = true := by decide

/-! ### Witnesses: what the engines do -/

def place0 (a : Nat) : Place := ⟨.scratch, 0, a⟩
def xfer0 : Xfer := { n := 0, src := some (place0 0), dst := place0 64, fill := 0, len := 4, ready := 0 }
def copy0 (x : Option Xfer) : Copy :=
  { id := 3, ten := 0, ctx := 0, task := 1, cohort := 0, cluster := 0, mover := 0, src := place0 0, dst := place0 64, len := 4, ac := 0
    amount := 4, xfer := x }
def withCopy (x : Option Xfer) : State := { block0 with copies := [copy0 x] }
def gather0 : GathQ :=
  { table := 0, desc := desc0, prio := false, req := false, lmap := 0, mclr := false, count := 1, list := 0, land := 0, firstpos := 0
    next := 1, flight := [{ pos := 0, row := 0, own := 0, va := 0 }] }
def bag0 : PlBag :=
  { table := 0, desc := desc0, mode := 0, viaInv := false, outHitch := false, lmap := 0, hitch := 0, nbags := 1, offs := 0, wgt := 0
    inv := 0, ret := 0, part := 0, out := 0, bagBase := 0 }
def stream0 : StreamDesc :=
  { sspace := .scratch, scl := 0, dspace := .scratch, dcl := 0, shitch := 0, dhitch := 0, prio := false, pro := false, deadline := 0
    drain := 0, cnt := 0, fcnt := 0, fwait := false, fbase := 0, fstep := 0, params := [], words := [], addr := 0 }
/-- A transfer with a bulk request that waits. -/
def slow0 : Xfer := { xfer0 with fetch := { todo := [(0, 4)] } }

theorem test_witness_gather_lands :
    nextIf (exec (.gatherRowLands 0 0 0) (withOrder (order0 (.gather 0) (.gathQ gather0)))) (fun t =>
      (t.order? 1).any fun o => match o.body with
        | .gathQ g => g.flight.isEmpty && g.done == 1
        | _ => false) = true := by decide
set_option maxRecDepth 16384 in
theorem test_witness_pooling :
    nextIf (exec (.poolingPass 0) (withOrder (order0 (.pool 0) (.plBag bag0)))) (fun t =>
      (t.order? 1).any fun o => match o.body with
        | .plBag p => p.bag == 1
        | _ => false) = true := by decide
theorem test_witness_copy_completes :
    nextIf (exec (.copyComplete 3) (withCopy (some xfer0))) (fun t =>
      t.copies.isEmpty && (t.cohort? 1 0).any fun h => smGet 0 h.ac 0 == 4) = true := by decide
theorem test_witness_stream_lands :
    nextIf (exec (.streamTransferLands 0 0 0)
      (withOrder (order0 (.mover 0) (.stRun stream0 { ended := true, flight := [xfer0] })))) (fun t =>
      (t.order? 1).any fun o => match o.body with
        | .stRun _ r => r.flight.isEmpty && r.landed == 4
        | _ => false) = true := by decide
theorem test_witness_promotion :
    nextIf (exec (.bulkPromotion 2 1024) (withOrder (order0 (.mover 0) (.stRun stream0 { flight := [slow0] })))) (fun t => t.tick == 1024) = true
      ∧ (OrderBody.stRun stream0 { flight := [slow0] }).promoteFrom = [0] ∧ (copy0 (some slow0)).promoteFrom = [0]
      ∧ nextIf (exec (.bulkPromotion 2 1023) (withOrder (order0 (.mover 0) (.stRun stream0 { flight := [slow0] })))) (fun _ => true) = false
      ∧ nextIf (exec (.bulkPromotion 7 1024) (withCopy (some slow0))) (fun t => t.copies.all (·.promoted)) = true := by decide

/-- A cart at the only cluster of its chain, with a use of it or none. -/
def chain0 (tag : W32) (o : List Order) : State :=
  { orderBlock .clear [] with
    orders := o, nextOrder := 2
    tens := { ten0 with hitches := [{ pairOf 6 0 6 512 with carts := [{ st := .chain, len := 4, tag := tag }], queue := [0] }] }
      :: List.replicate 7 {} }
def mma0 : IaMma :=
  { fmt := 3, m := 1, n := 1, comp := false, insrc := 2, xe5 := false, we5 := false, inhitch := 0, iscale := 0, inTile := 0, istride := 0
    koff := 0, whitch := 6 }
theorem test_witness_chain :
    nextIf (exec (.chainLinkCopy 0 6 0) (chain0 0 [])) (fun t => (t.hitch? 0 6).any fun h => h.queue.isEmpty && h.allFree) = true
      ∧ nextIf (exec (.chainLinkCopy 0 6 0) (chain0 1 [order0 (.ia 0) (.iaMma mma0)])) (fun t =>
        decide ((t.cluster 0).units.wbufs.length = 1)) = true := by decide

/-- A code cart of two codes at the only cluster of its scan: it leaves after its comparisons. -/
def scan0 : ScanB1 :=
  { codes := 0, count := 2, posbase := 0, weighted := false, prio := false, k := 1, minscore := 0, cmask := 1, next := 2, made := 1
    carts := [⟨0, 0, 0, List.replicate 32 0⟩] }
theorem test_witness_code_cart :
    let s := { withOrder (order0 (.scan 0) (.scanB1 scan0)) with tens := { ten0 with chainQ := [(257, 0)] } :: List.replicate 7 {} };
    nextIf (exec (.chainLinkCopy 0 257 0) s) (fun t => (t.scanOf 1).any fun p => p.2.carts.isEmpty) = true := by decide

def bankAt (st : BankSt) (sealing : Option Nat) (conv : W32) : Table :=
  { num := 0, desc := desc0, recv := { addr := 0x20000, st := st, nslot := 16, sealing := sealing, conv := conv } }
/-- The small block with a table, its RECV bank's header in memory. -/
def withBank (x : Table) : State :=
  { block0 with
    tens := { ten0 with tables := [x] } :: List.replicate 7 {}
    mem := { block0.mem with pool := memPut [] 0x20000 (bankHeader false x.recv) } }
theorem test_witness_arena_add :
    nextIf (exec (.arenaAddComplete 0) { withBank (bankAt .opened none 1) with adds := [{ order := 1, ten := 0, ctx := 0, task := 1, bank := ⟨0, false, 0⟩, slot := 0, elem := 0, value := 5 }] }) (fun t =>
      t.adds.isEmpty && ((t.ten 0).table? 0).any fun x => x.recv.added == 1) = true := by decide
/-- A seal of a balanced bank, and of one a conversion short. -/
theorem test_witness_seal :
    nextIf (exec (.sealTakesEffect 0 0 false) (withBank (bankAt .opened (some 1) 0))) (fun t =>
        ((t.ten 0).table? 0).any fun x => x.recv.st == .sealed && x.recv.sealing.isNone) = true
      ∧ nextIf (exec (.sealTakesEffect 0 0 false) (withBank (bankAt .opened (some 1) 1))) (fun t => (t.ten 0).st == .halted) = true := by
  decide

/-! ### Witnesses: commands that hold a ring -/

def cmdOfOp (n : Nat) : CmdRef := { cmd0 with opcode := n }
def ck0 (writing : Bool) : Checkpoint := { cmd := cmdOfOp 9, taken := 0, image := [{ src := 0, len := 8, dst := 0x4000, pa := some 0, bytes := List.replicate 8 1 }], writing := writing }
def moving (st : SlotSt) (ptmo : W32) : Tenancy :=
  { ten0 with ptmo := ptmo, slots := [slot0, { slot0 with ctx := 5, st := st, move := some ⟨cmdOfOp 10, 0x8000, 0, none⟩ }, {}, {}] }
/-- LoadsComplete, clause by clause. -/
theorem test_witness_loads :
    nextIf (exec (.tableLoadDone 0) (withTen { ten0 with loading := some (cmdOfOp 3, bankAt .clear none 0, false) })) (fun t =>
        ((t.ten 0).table? 0).isSome) = true
      ∧ nextIf (exec (.timetableLoadDone 0) (withTen { ten0 with ttLoading := some (cmdOfOp 4, tt0) })) (fun t =>
        (t.ten 0).tt == some tt0 && (t.port 0).memb == some 0) = true
      ∧ nextIf (exec (.dismantleComplete 0 4) (withTen { ten0 with hitches := [{ pairOf 4 0 4 256 with dismantle := [cmdOfOp 5] }] })) (fun t =>
        (t.hitch? 0 4).isNone) = true
      ∧ nextIf (exec (.invalidateAllDone 0) (withTen { ten0 with invTaken := 1, invCmd := some (cmdOfOp 6) })) (fun t =>
        (t.ten 0).invDone == 1) = true := by decide
theorem test_witness_checkpoint :
    nextIf (exec (.checkpointDone 0) (withTen { ten0 with ckpt := some (ck0 true) })) (fun t => (t.ten 0).ckpt.isNone) = true := by decide
set_option maxRecDepth 16384 in
theorem test_witness_checkpoint_writes :
    let s := withTen { ten0 with ckpt := some (ck0 false) };
    s.stalled (.mover (s.anyMover 0)) = false
      ∧ (match ckWrite (moverEng (.ckpt 0) (.mover (s.anyMover 0)) 0) (ck0 false).image s with
        | (none, [], t) => memGet t.mem.pool 0x4000 == 1 && !t.ckBusy 0
        | _ => false) = true := by decide
set_option maxRecDepth 65536 in
theorem test_witness_park :
    nextIf (exec (.parkDone 0 1) (withTen (moving .parking 16))) (fun t => ((t.ten 0).slot 1).st == .empty && t.saves.length == 1) = true := by
  decide
theorem test_witness_moves :
    (withTen (moving .parking 16)).drained 0 5 = true
      ∧ nextIf (exec (.parkTimeout 0 1 16) { withTen (moving .parking 16) with copies := [{ copy0 none with ctx := 5 }] }) (fun t =>
        ((t.ten 0).slot 1).st == .resident) = true
      ∧ nextIf (exec (.unparkDone 0 1) (withTen (moving .unparking 16))) (fun t =>
        ((t.ten 0).slot 1).st == .resident && ((t.ten 0).slot 1).ctx == 5) = true := by decide

/-! ### Witnesses: tasks -/

def fresh0 : State := { withTask { task0 with next := 0 } with cohorts := [] }
def waiting0 (w : Wait) : Coach := { coach0 with wait := w }
/-- TaskEvents: a cohort placed; ended; stranded at a barrier that thread 0 alone has left; a shared wait past its limit. -/
theorem test_witness_tasks :
    nextIf (exec (.cohortPlacement 1 0 0) fresh0) (fun t => t.cohorts.length == 1 && (t.task? 1).any (·.next == 1)) = true
      ∧ nextIf (exec (.cohortEnd 1 0) (withCoach { coach0 with x := 0xFFFFFFFF })) (fun t => (t.task? 1).isNone) = true
      ∧ nextIf (exec (.cohortStuck 1 0) { withCoach (waiting0 (.counter 0 [(0, 1)] 0)) with
          cohorts := [{ cohort0 with coaches := [waiting0 (.counter 0 [(0, 1)] 0)] }] }) (fun t => (t.task? 1).isNone) = true
      ∧ nextIf (exec (.sharedWaitLimit ref0 17) { withCoach (waiting0 (.counter 0 [(0, 1)] 0)) with
          tasks := [{ task0 with swlim := 16, binds := [(0, 0)] }] }) (fun t => (t.task? 1).isNone && t.tick == 17) = true := by decide

/-! ### Witnesses: the memory port and the row cache -/

def req0 (who : MemClient) : MemReq := { link := 0, tag := 0, op := .read, pa := 0x1000, len := 512, latency := true, ten := 0, va := none, unit := 0, who := who }
def withReq (who : MemClient) (poison : List Nat) : State :=
  { block0 with mem := { block0.mem with reqs := [req0 who], poison := poison } }
/-- MemoryPortEvents: a response no request awaits; the generator's; a good one; one that meets a granule poisoned before; one that
brings a new one. -/
theorem test_witness_responses :
    (block0.mem.req? 0 0).isNone = true
      ∧ ([withReq .margin [], withReq (.pinned ref0 0) [], withReq (.pinned ref0 0) [64]].map fun s =>
        ((s.dropReq 0 0).takeMarks (req0 .margin) 0 0).badGranules (req0 .margin)) = [[], [], [64]]
      ∧ ([withReq .margin [], withReq (.pinned ref0 0) [], withReq (.pinned ref0 0) [64]].map fun s => s.newBad (req0 .margin) 0) = [[], [], []]
      ∧ block0.newBad (req0 .margin) 1 = [64] ∧ { block0 with mem := { block0.mem with bad := [65] } }.newBad (req0 .margin) 1 = [64, 65]
      ∧ ([withReq .margin [], withReq (.pinned ref0 0) [], withReq (.pinned ref0 0) [64]].all fun s =>
        nextIf (exec (.memoryResponse 0 0 0 0 false 0 0) s) fun t => t.mem.reqs.isEmpty) = true
      ∧ nextIf (exec (.memoryResponse 0 0 1 0 false 0 0) (withReq (.pinned ref0 0) [])) (fun t => t.mem.poison == [64] && t.ev.queue.length == 3) = true := by
  decide

def miss0 (marked : Bool) : MissReg := { slice := 0, n := 0, ten := 0, line := 5, sectors := [1], waits := [], marked := marked }
def withMiss (b : Bool) : State := { block0 with tens := { ten0 with rcway := 1 } :: List.replicate 7 {}, rc := { miss := [miss0 b] } }
def margin0 (frames : Nat) : State :=
  { block0 with
    tens := { ten0 with testPriv := true } :: List.replicate 7 {}
    mem := { block0.mem with marginBase := BitVec.ofNat 64 (frames * 2 ^ 52) } }
theorem test_witness_cache_and_margin :
    nextIf (exec (.rowCacheFill 0 0) (withMiss false)) (fun t => t.rc.miss.isEmpty && t.rc.lines.length == 1) = true
      ∧ nextIf (exec (.rowCacheFill 0 0) (withMiss true)) (fun t => t.rc.miss.isEmpty && t.rc.lines.isEmpty) = true
      ∧ nextIf (exec (.rcwayClearDone 0) (withTen { ten0 with rcwayNew := some 3 })) (fun t => (t.ten 0).rcway == 3) = true
      ∧ (margin0 1).marginAllowed 0 0 = true ∧ block0.marginAllowed 0 0 = false
      ∧ (margin0 1).mem.marginStarts 1 = true ∧ (margin0 0).mem.marginStarts 1 = false ∧ (margin0 1).memBusy .margin = false := by decide

/-! ### Witnesses: translation -/

def walk0 : Walk := { ten := 0, va := 0, units := [⟨.gather 0, .task 1, 0, .read⟩] }
/-- Translation whose first root entry is n, over a level-2 table at 0x50000000 whose first entry is a 1 GiB leaf (R359, R360). -/
def walking (n : Nat) : State :=
  { withTen { ten0 with xltRoot := 0x400 } with
    xlt := { block0.xlt with walks := [walk0], stalls := [(.gather 0, .walk 0 0)] }
    mem := { block0.mem with pool := memPut (words8 0x40000000 [n]) 0x50000000 (toLe 8 0x40000006) } }
def fault0 : PendFault := { fid := 7, seq := 0, code := 0x20, va := 0x200000, units := [⟨.gather 0, .task 1, 0x200000, .read⟩], serving := .task 1, tick := 0 }
def faulted : State := withTen { ten0 with faults := [fault0], faultTmo := 16 }
def unpinned : Tenancy := { ten0 with pins := List.replicate 32 {} }
/-- TranslationEvents. -/
theorem test_witness_translation :
    nextIf (exec (.walkComplete 0) (walking 0)) (fun t =>
        t.xlt.walks.isEmpty && t.xlt.btlb == block0.xlt.btlb && (t.ten 0).faults.length == 1) = true
      ∧ nextIf (exec (.walkComplete 0) (walking 0x50000005)) (fun t => t.xlt.btlb.any fun y => y.2.2.big && y.2.2.pa == 0x40000000 && t.xlt.stalls.isEmpty) = true
      ∧ nextIf (exec (.walkComplete 0) { walking 0 with mem := { (walking 0).mem with bad := [0x1000000] } }) (fun t =>
        t.mem.poison == [0x1000000] && t.mem.bad.isEmpty) = true
      ∧ nextIf (exec (.pin 0 31 0 32768 {}) (withTen unpinned)) (fun t => ((t.ten 0).pin 31).st == 1) = true
      ∧ nextIf (exec (.pin 0 31 0 32769 {}) (withTen unpinned)) (fun t => ((t.ten 0).pin 31).st == 0) = true
      ∧ nextIf (exec (.unpin 0 0) block0) (fun t => !((t.ten 0).pin 0).en && t.xlt.btlb.isEmpty) = true
      ∧ nextIf (exec (.pinWalkDone 0 0) (withTen { unpinned with pins := { en := true, size := 1, st := 1 } :: List.replicate 31 {} })) (fun t =>
        ((t.ten 0).pin 0).st != 1) = true
      ∧ (faulted.pendingFault 0 7 = some fault0)
      ∧ nextIf (exec (.faultRetry 0 7 {}) faulted) (fun t => (t.ten 0).faults.isEmpty && (t.task? 1).isSome && t.xlt.walks.length == 1) = true
      ∧ nextIf (exec (.faultAbort 0 7) faulted) (fun t => (t.ten 0).faults.isEmpty && (t.task? 1).isNone) = true
      ∧ nextIf (exec (.faultTimeout 0 7 16) faulted) (fun t => (t.task? 1).isNone) = true := by decide
theorem test_witness_broadcasts :
    nextIf (exec (.invalidationRange 0 0 1) block0) (fun t => t.xlt.invals.length == 1 && t.xlt.btlb.all (·.2.2.stale)) = true
      ∧ nextIf (exec (.invalidationSpace 1) block0) (fun t => t.xlt.invals.length == 1 && t.xlt.btlb.all fun y => !y.2.2.stale) = true
      ∧ nextIf (exec .invalidationAll block0) (fun t => t.xlt.btlb.all (·.2.2.stale)) = true
      ∧ nextIf (exec (.invalidationAck 1) { block0 with xlt := { block0.xlt with invals := [{ num := 1, taken := 0, waits := [], clear := true }] } }) (fun t =>
        t.xlt.invals.isEmpty && t.xlt.invd) = true := by decide

/-! ### Witnesses: windows -/

def read0 : Msg := { op := 1, len := 8, rtag := 9, win := 0 }
def resp0 (status : Nat) : Msg := { op := 8, status := status, rtag := 3, data := [1, 2] }
def queued0 (v0 v1 : List (List Msg)) : State := { block0 with ports := { st := .running, vc0 := v0, vc1 := v1 } :: List.replicate 15 {} }
def wreq0 : WReq := { rtag := 3, ten := 0, client := .copy 3 0, dest := 5, msg := { read0 with rtag := 3 }, tick := 0, sent := true }
/-- WindowEvents. -/
theorem test_witness_windows :
    nextIf (exec (.winCommitSend 255 {}) { block0 with mem := { block0.mem with pool := words8 4080 [3] } }) (fun t =>
        (smGet {} t.xlt.send 255).en) = true
      ∧ nextIf (exec (.winCommitRecv 0 {}) { block0 with xlt := { block0.xlt with recv := [(0, { en := true })] } }) (fun t =>
        t.xlt.withdrawn == [0] && t.xlt.recv.isEmpty) = true
      ∧ nextIf (exec (.podexpCommit 63 {}) { block0 with mem := { block0.mem with pool := words8 2016 [1] } }) (fun t => (smGet {} t.xlt.pod 63).en) = true
      ∧ nextIf (exec (.podexpCommit 64 {}) block0) (fun t => t.xlt.pod.isEmpty) = true ∧ (block0.lost 0 32).isNone = true ∧ (spoilt.lost 0 16).isSome = true
      ∧ nextIf (exec (.windowReleased 0) { block0 with xlt := { block0.xlt with withdrawn := [0] } }) (fun t => t.xlt.withdrawn.isEmpty) = true
      ∧ ([(1, .read 0), (2, .write 0), (3, .add64 0), (4, .add32 0), (5, .cas64 0)].all fun p =>
        nextIf (exec p.2 (queued0 [[{ read0 with op := p.1 }]] [])) fun t => (t.port 0).vc0.isEmpty && (t.port 0).give0 == 1) = true
      ∧ ([0, 1].all fun st => nextIf (exec (.resp 0) { queued0 [] [[resp0 st]] with xlt := { block0.xlt with wreqs := [wreq0] } }) fun t =>
        t.xlt.wreqs.isEmpty) = true
      ∧ nextIf (exec (.resp 0) { queued0 [] [[resp0 0]] with xlt := { block0.xlt with late := [(3, 0)] } }) (fun t =>
        t.xlt.late.isEmpty && (t.ten 0).ab.late == 1) = true
      ∧ nextIf (exec (.resp 0) (queued0 [] [[resp0 0]])) (fun t => (t.port 0).vc1.isEmpty) = true
      ∧ nextIf (exec (.windowTimeout 3 1024) { withTen { ten0 with winTmo := 16 } with xlt := { block0.xlt with wreqs := [wreq0] } }) (fun t =>
        t.xlt.wreqs.isEmpty && t.xlt.late == [(3, 0)]) = true := by decide
def entry0 : RecvEntry := { en := true, wr := true, at_ := true, size := 64 }
/-- A request at port 0, under a receive entry of 64 bytes at device address 0 and a pod export of 64 bytes of the pool. -/
def asked (m : Msg) (withdrawn : List Nat) (podEn : Bool) : State :=
  { queued0 [[m]] [] with
    xlt := { block0.xlt with recv := [(0, entry0)], pod := [(0, { en := true, wr := true, at_ := true, size := 64 })]
                             podEn := podEn, withdrawn := withdrawn }
    mem := { block0.mem with pool := words8 0 [5], svc := 0xFFFFFFFF } }
/-- The status and the data of the one answer. -/
def answeredWith (i : Instr) (s : State) (st : Nat) (data : List Byte) : Bool :=
  nextIf (exec i s) fun t => t.xlt.resps.map (fun r => (r.msg.status, r.msg.data)) == [(st, data)]
/-- A request served at the entry's last byte, refused one byte past it, under another job tag and while the entry is withdrawn; a pod
request served, refused and disabled; a write and an atomic. -/
theorem test_witness_requests :
    answeredWith (.read 0) (asked { read0 with addr := 56 } [] false) 0 (List.replicate 8 0) = true
      ∧ answeredWith (.read 0) (asked { read0 with addr := 57 } [] false) 4 [] = true
      ∧ answeredWith (.read 0) (asked { read0 with jobTag := 1 } [] false) 1 [] = true
      ∧ answeredWith (.read 0) (asked read0 [0] false) 1 [] = true
      ∧ answeredWith (.read 0) (asked { read0 with kind := 1 } [] true) 0 (toLe 8 5) = true
      ∧ answeredWith (.read 0) (asked { read0 with kind := 1, addr := 57 } [] true) 1 [] = true
      ∧ answeredWith (.read 0) (asked { read0 with kind := 1 } [] false) 1 [] = true
      ∧ nextIf (exec (.write 0) (asked { read0 with op := 2, data := [9] } [] false)) (fun t => memGet t.mem.pool 0 == 9) = true
      ∧ answeredWith (.cas64 0) (asked { read0 with op := 5, data := toLe 8 7, cmp := 5 } [] false) 0 (toLe 8 5) = true
      ∧ (asked read0 [] false).serveWaits read0 = false := by decide
/-- A window of 64 KiB in cluster 0. -/
def windowed : State := withTen { ten0 with slots := [{ slot0 with xwin := 0x00010100 }, {}, {}, {}] }
theorem test_witness_tensor_cores :
    nextIf (exec (.tensorCoreAccess 0 0 0 (.write 65535 [7])) windowed) (fun t => memGet (t.cluster 0).sp 65535 == 7) = true
      ∧ nextIf (exec (.tensorCoreAccess 0 0 0 (.write 65535 [7, 7])) windowed) (fun t => (t.ten 0).ab.tcDisc == 1) = true
      ∧ nextIf (exec (.tensorCoreAccess 0 0 0 (.addCounter 15 2)) windowed) (fun t => smGet 0 ((t.ten 0).slot 0).xc 15 == 2) = true
      ∧ windowed.windowHolds 0 0 0 0 65536 = true ∧ windowed.windowHolds 0 0 1 0 1 = false := by decide

/-! ### Witnesses: the line -/

def lined (x : Port) (t : Tenancy) : State :=
  { block0 with ports := x :: List.replicate 15 {}, tens := t :: List.replicate 7 {} }
def member (st : TtSt) (f : Timetable → Timetable) : Tenancy := { ten0 with tt := some (f { tt0 with st := st }), td := 1024 }
def rec0 : RollRec := ⟨0, 7, 1⟩
/-- CarriagesDepart. -/
theorem test_witness_departs :
    nextIf (exec (.carriageDeparture 0 5) (onTick 5 (lined { st := .idle } ten0))) (fun t => (t.port 0).lastSent == some 5 && (t.port 0).out.length == 1) = true
      ∧ nextIf (exec (.stopCarriage 0 6144) (onTick 6144 (lined { st := .braking, memb := some 0 } { member .braking id with brkt := 2048 }))) (fun t =>
        (t.port 0).lastSent == some 6144) = true
      ∧ nextIf (exec (.brakeIdle 0 6192) (onTick 6192 (lined { st := .braking, memb := some 0 } { member .braking id with brkt := 2048 }))) (fun t =>
        (t.port 0).st == .idle && (t.ten 0).tt.any (·.st == .loaded)) = true
      ∧ ([true, false].all fun b => nextIf (exec (.departure 0 1024) (onTick 1024 (lined { st := .armed, memb := some 0 }
        (member .armed fun x => { x with confirmed := b })))) fun t => (t.ten 0).tt.any (·.departed) == b) = true
      ∧ ([[rec0], []].all fun rs => nextIf (exec (.rollCallCheck 0 1327) (onTick 1327 (lined { st := .running, memb := some 0 }
        (member .running fun x => { x with records := rs })))) fun t => (t.ten 0).tt.any (·.st == .running) == !rs.isEmpty) = true := by decide

/-- CarriagesDepart: no tick passes before the carriage of the next tick has left; a brake is due 48 ticks after its stop, with the stop
carriage sent. -/
theorem test_witness_departure_due :
    (onTick 5 (lined { st := .idle } ten0)).mayPass 5 = true ∧ (onTick 5 (lined { st := .idle } ten0)).mayPass 6 = false
      ∧ (onTick 6192 (lined { st := .braking, memb := some 0 } { member .braking id with brkt := 2048 })).mayPass 6193 = false
      ∧ (onTick 5 (lined { st := .idle } ten0)).waitsFor 0 5 = false := by decide
/-- CarriagesDepart: the header of a carriage with its fields at their highest, and one of two payload bytes; the CRC of nine known bytes
(the check value that CRC-32C is published with); lane 5 of carriage 20 carries marker 9, and symbol j of lane l is interleaved symbol
16j + l. -/
def fullCar : Carriage :=
  { cls := 5, vlate := true, cend := true, srank := 511, drank := 511, dhitch := 255, sport := 15, carno := 2 ^ 64 - 1, stamp := 7, len := 1856
    offset := 0xFFFFF, tag := 2 ^ 32 - 1, entry := 0xFFFF, brkt := 2 ^ 64 - 1, cret0 := 255, cret1 := 254, rotm := 0xFFFF, rotp := 16, rotv := true
    jreqp := 17, jreqv := true, ctype := 6, vc := true }
set_option maxRecDepth 8192 in
theorem test_header :
    headerOf (carWords fullCar) = fullCar ∧ carWords { cls := 1, srank := 3, drank := 2 } = [1 + 3 * 2 ^ 16 + 2 * 2 ^ 25, 0, 0, 0, 0, 0, 0, 0]
      ∧ crc32c [0x31, 0x32, 0x33, 0x34, 0x35, 0x36, 0x37, 0x38, 0x39] = 0xE3069283
      ∧ laneMarker 5 20 = 9 ∧ symbolAt [[0, 3, 6], [1, 4, 7], [2, 5, 8]] 7 = 7 := by decide

def idlePort : State := lined { st := .idle } ten0
def fencedPort : State := { idlePort with fence := 1 }
def car0 (k c : Nat) : Carriage := { cls := BitVec.ofNat 3 k, ctype := BitVec.ofNat 8 c, carno := 1, payload := List.replicate 64 0 }
/-- CarriagesArrive: every class on an idle port, the four that a fence drops, one discarded, one that has not come. -/
theorem test_witness_arrives :
    ([exec (.vacantCarriage 0 (car0 0 0)) idlePort, exec (.dataCarriage 0 (car0 1 0)) idlePort, exec (.rollCarriage 0 (car0 2 0)) idlePort,
        exec (.auditCarriage 0 (car0 3 0)) idlePort, exec (.freeCarriage 0 (car0 5 0)) idlePort, exec (.armControl 0 (car0 4 1)) idlePort,
        exec (.ack 0 (car0 4 2)) idlePort, exec (.nak 0 (car0 4 3)) idlePort, exec (.confirm 0 (car0 4 4)) idlePort,
        exec (.disarm 0 (car0 4 5)) idlePort, exec (.link 0 (car0 4 6)) idlePort].all fun o =>
          nextIf o fun t => (t.port 0).lastCarno == some 1) = true
      ∧ ([exec (.dataCarriage 0 (car0 1 0)) fencedPort, exec (.rollCarriage 0 (car0 2 0)) fencedPort,
        exec (.freeCarriage 0 (car0 5 0)) fencedPort, exec (.armControl 0 (car0 4 1)) fencedPort].all fun o =>
          nextIf o fun t => (t.port 0).fenceDrop == 1) = true
      ∧ nextIf (exec (.discardedCarriage 0 1 0) idlePort) (fun t => (t.port 0).uncorr == 1) = true := by decide
/-- CarriagesArrive in a run: a VACANT carriage that agrees with its entry, and one of another stamp, in RUNNING and in BRAKING. -/
def running1 (st : TtSt) (p : PortSt) : State := lined { st := p, memb := some 0 } (member st fun x => { x with rolled := true })
def vacant7 (stamp : W64) : Carriage := { stamp := stamp, carno := 1281 }
theorem test_witness_arrives_in_run :
    ((running1 .running .running).runOf 0).isSome = true ∧ ((running1 .running .running).ten 0).plan tt0 0 1281 = .cycle 0 0
      ∧ tt0.check none 0 (vacant7 7) = none ∧ tt0.check none 0 (vacant7 8) = some 0x41 ∧ tt0.check (some 1281) 0 (vacant7 7) = some 0x41
      ∧ nextIf (exec (.vacantCarriage 0 (vacant7 7)) (running1 .running .running)) (fun t => (t.port 0).lastCarno == some 1281 && (t.port 0).discarded == 0) = true
      ∧ nextIf (exec (.vacantCarriage 0 (vacant7 8)) (running1 .running .running)) (fun t =>
        (t.port 0).discarded == 1 && (t.ten 0).tt.any (·.st == .braking)) = true
      ∧ nextIf (exec (.vacantCarriage 0 (vacant7 8)) (running1 .braking .braking)) (fun t => (t.port 0).discarded == 1) = true := by decide
/-- CarriagesArrive: FREE messages at the last free buffer and past it; a LINK of a port in training; a carriage that asks for no lane. -/
def freeCar (vc : Bool) : Carriage := { car0 5 0 with vc := vc, len := 32, payload := ({ op := if vc then 8 else 1, len := 0 } : Msg).bytes }
set_option maxRecDepth 16384 in
theorem test_witness_free_and_link :
    ([false, true].all fun vc => !(msgsOf vc 58 ((freeCar vc).payload.take (freeCar vc).len.toNat)).isEmpty) = true
      ∧ (((lined { st := .idle, vc0 := List.replicate 127 [] } ten0).takeFree 0 (freeCar false)).port 0).vc0.length = 128
      ∧ (((lined { st := .idle, vc1 := List.replicate 128 [] } ten0).takeFree 0 (freeCar true)).port 0).discarded = 1
      ∧ nextIf (exec (.link 0 (car0 4 6)) (lined { st := .training } ten0)) (fun t => (t.port 0).linked.isSome) = true
      ∧ (block0.port 0).tx.cannot (car0 0 0) = false ∧ block0.contained 0 = false := by decide
/-- A carriage of the roll call, or of a braking membership, that never came is counted. -/
theorem test_witness_absent :
    nextIf (exec (.carriageTimeout 0 1030 1078) (onTick 1078 (lined { st := .running, memb := some 0 }
        (member .running fun x => { x with roll := [(0, List.replicate 7 (2 ^ 33))] })))) (fun t => (t.port 0).discarded == 1) = true
      ∧ nextIf (exec (.carriageTimeout 0 1281 1329) (onTick 1329 (lined { st := .braking, memb := some 0 }
        (member .braking fun x => { x with rolled := true, cyc := [(0, [2 ^ 32])] })))) (fun t => (t.port 0).discarded == 1) = true := by decide
/-- An entry that expects DATA at every carriage of the cycle. -/
theorem test_witness_timeout :
    let s := onTick 1329 (lined { st := .running, memb := some 0 } (member .running fun x => { x with rolled := true, cyc := [(0, [2 ^ 32])] }));
    (match (s.ten 0).tt.map fun x => (s.ten 0).plan x 0 1281 with
      | some (.cycle 1 e) => expected e
      | some (.cycle 0 e) => expected e
      | _ => false) = true
      ∧ nextIf (exec (.carriageTimeout 0 1281 1329) s) (fun t => (t.port 0).seen == [1281]) = true := by decide

def trained0 : TrainResult := .trained 0x1FFFF 0 48
/-- PortEvents. -/
theorem test_witness_ports :
    block0.opened = true ∧ State.reset.opened = false
      ∧ nextIf (exec (.trainingComplete 0 trained0) (lined { st := .training } ten0)) (fun t => (t.port 0).st == .idle) = true
      ∧ nextIf (exec (.trainingComplete 0 (.trained 0x1FFFF 0 49)) (lined { st := .training } ten0)) (fun t => (t.port 0).st == .down) = true
      ∧ nextIf (exec (.trainingComplete 0 (.trained 0x1FFFC 0 48)) (lined { st := .training } ten0)) (fun t => (t.port 0).st == .down) = true
      ∧ nextIf (exec (.trainingSignalTimeout 0 31250000) (onTick 31250000 (lined { st := .training } ten0))) (fun t => (t.port 0).reason == 2) = true
      ∧ nextIf (exec (.lineFence 1) (lined { st := .armed } ten0)) (fun t => t.fenceErr && t.fence == 0) = true
      ∧ nextIf (exec (.routeWrite 287 5) block0) (fun t => smGet 0 t.route 287 == 5) = true
      ∧ nextIf (exec (.injectorArm 0 (129 + 2 ^ 32)) { block0 with testMode := true }) (fun t => (t.port 0).inj.en) = true := by decide
theorem test_witness_spares :
    nextIf (exec (.rotationStep 0 7812500) (onTick 7812500 (lined { st := .idle, rotating := true } ten0))) (fun t => (t.port 0).tx.next == some (7813012, 15)) = true
      ∧ nextIf (exec (.retirementStep 0 9) (onTick 9 (lined { st := .idle, tx := { target := some 3 } } ten0))) (fun t => (t.port 0).tx.next == some (521, 15)) = true
      ∧ nextIf (exec (.rotationSwitch 0 9) (onTick 9 (lined { st := .idle, tx := { next := some (9, 15) } } ten0))) (fun t => (t.port 0).tx.pos == 15) = true
      ∧ nextIf (exec (.spareJump 0 9) (onTick 9 (lined { st := .idle, tx := { next := some (9, 3), jump := true } } ten0))) (fun t => (t.port 0).tx.pos == 3) = true
      ∧ ([Verdict.pass, .fail, .hardFail].all fun v => nextIf (exec (.calibrationVisit 0 v) (lined { st := .idle, rotating := true } ten0)) fun t =>
        ((t.port 0).calOk != 0) == (v == .pass)) = true
      ∧ ([true, false].all fun b => nextIf (exec (.laneLost 0 3) (lined { st := .idle, rx := { held := b } } ten0)) fun t =>
        ((t.port 0).st == .down) == b) = true
      ∧ nextIf (exec .hallCounterSlip block0) (fun t => t.st == .contained && t.cause == 1) = true := by decide

/-! ### Witnesses: power -/

def powered0 (p : Power) : State := { block0 with pwr := p }
/-- PowerEvents: an evaluation due; a formation that runs below its floor; both ends of the thermal band. -/
theorem test_witness_power :
    block0.governed = true ∧ ({ block0 with tick := 1024 } : State).mayPass 1024 = true ∧ ({ block0 with tick := 1024 } : State).mayPass 1025 = false
      ∧ block0.pwr.lastEval + 1024 ≤ 1024 ∧ block0.pwr.vid ≤ 48 ∧ block0.pwr.vidBusy = false
      ∧ block0.formationRuns = false ∧ (withTen (member .running id)).formationRuns = true
      ∧ nextIf (exec (.rateReport 1024 1500) block0) (fun t => t.pwr.rate == 1500) = true
      ∧ nextIf (exec (.powerReportStale 4096) { onTick 4096 block0 with pwr := { block0.pwr with lastEval := 4096, lastRate := 4096 } }) (fun t => t.pwr.stale) = true
      ∧ nextIf (exec .vidAck (powered0 { vidBusy := true })) (fun t => !t.pwr.vidBusy) = true
      ∧ ([(191, true), (190, false)].all fun p => nextIf (exec (.thermalReport 7 p.1) block0) fun t => t.pwr.hot.contains 7 == p.2) = true
      ∧ ([(185, true), (184, false)].all fun p => nextIf (exec (.thermalReport 7 p.1) (powered0 { hot := [7] })) fun t =>
        t.pwr.hot.contains 7 == p.2) = true := by decide

/-! ### Witnesses: tenancies, quiesce and containment -/

def openable : Tenancy := { clusters := 1, chgrp := 1, slots := [slot0, {}, {}, {}] }
/-- A coach parked at an order for a stateful unit, of the context in slot 0; a tenancy with a share at such units. -/
def waitsAt (t : Tenancy) : State :=
  { withTen { t with slots := [{ slot0 with sp := slot0.sp ||| 0x800000 }, {}, {}, {}] } with
    cohorts := [{ cohort0 with coaches := [{ coach0 with order := some zeroWord }] }] }
def blocked0 : Tenancy := { ten0 with evrun := 1, slots := [{ slot0 with blockedSince := some 0 }, {}, {}, {}] }
def calm (t : Tenancy) : State := { withTen t with tasks := [], cohorts := [], ports := List.replicate 16 {} }
/-- TenancyEvents. -/
theorem test_witness_tenancies :
    (withTen openable).openOk 0 = true
      ∧ nextIf (exec (.openTenancy 0) (withTen openable)) (fun t => (t.ten 0).st == .loading) = true
      ∧ (withTen { openable with chgrp := 0 }).openOk 0 = false
      ∧ nextIf (exec (.runTenancy 0) (withTen { ten0 with st := .loading })) (fun t => (t.ten 0).st == .running) = true
      ∧ nextIf (exec (.ledEpochAdv 0) block0) (fun t => (t.ten 0).epoch == 1) = true
      ∧ nextIf (exec (.ledEpochAdv 0) (withTen { ten0 with epoch := 7, tracks := [⟨0, 1⟩] })) (fun t => (t.ten 0).epochPend) = true
      ∧ nextIf (exec (.epochDeferredAdvance 0) (withTen { ten0 with epoch := 7, epochPend := true })) (fun t => (t.ten 0).epoch == 8) = true := by
  decide
theorem test_witness_holders :
    nextIf (exec (.holderSwitch 0) (waitsAt ten0)) (fun t => (t.ten 0).holder == some 0) = true
      ∧ nextIf (exec (.holdTimeout 0 0x3E80) (onTick 0x3E80 (waitsAt { ten0 with holder := some 1 }))) (fun t => (t.ten 0).holdLost) = true
      ∧ nextIf (exec (.swapHint 0 1250) (onTick 1250 (calm blocked0))) (fun t => (t.ten 0).hinted) = true
      ∧ nextIf (exec (.tenancyClear 0) (calm { ten0 with st := .quiescing })) (fun t => t.ledClear == 1) = true := by decide

def running0 (kind : Nat) (forced : Bool) (t : Tenancy) : State :=
  { calm t with quiesce := { st := 1, forced := forced, target := BitVec.ofNat 24 kind } }
def signal0 : State := { block0 with ev := { block0.ev with ien := true, msgDue := true, lastMsg := some 1, holdoff := 4 } }
/-- QuiesceAndContainment: cluster 0 in service and disabled; an unknown kind; a quiesced tenancy, with its books balanced and a
token short; the block and a tenancy contained; a message held off. -/
theorem test_witness_quiesce :
    let off : State := { block0 with enCluster := 0, fw := { block0.fw with perClusters := 1 } };
    nextIf (exec (.quiesce 0 0 0 false) block0) (fun t => t.quiesce.st == 1 && !t.quiesce.forced) = true
      ∧ nextIf (exec (.quiesce 0 0 0 true) block0) (fun t => t.quiesce.forced && t.tasks.isEmpty) = true
      ∧ nextIf (exec (.quiesce 6 0 0 false) block0) (fun t => t.quiesce.st == 3) = true
      ∧ off.disabledFn 0 0 = true ∧ nextIf (exec (.quiesceEnable 0 0 0) off) (fun t => t.enCluster == 1) = true
      ∧ nextIf (exec (.quiesceEnable 0 0 0) block0) (fun t => t.quiesce.st == 3) = true
      ∧ nextIf (exec .functionDisabled (running0 5 false { ten0 with st := .quiescing })) (fun t => (t.ten 0).st == .free) = true
      ∧ nextIf (exec .functionDisabled (running0 5 false { ten0 with st := .quiescing, gtokIss := 1 })) (fun t => (t.ten 0).st == .halted) = true
      ∧ nextIf (exec .containBlock block0) (fun t => t.st == .contained && (t.ten 0).st == .halted && (t.ten 1).st == .free) = true
      ∧ nextIf (exec (.haltTenancy 0) block0) (fun t => (t.ten 0).st == .halted && t.tasks.isEmpty) = true
      ∧ nextIf (exec (.holdoffEnd 5) signal0) (fun t => !t.ev.msgDue) = true := by decide

/-- QuiesceAndContainment, OnDieArrays: a line of the row cache, an entry of the block's translation buffer, a task, a tenancy's timetable, and the block. -/
theorem test_witness_arrays :
    let s : State := { block0 with powered := true, rc := { lines := [{ slice := 0, set := 1, way := 2, line := 5, sectors := [] }] } };
    let u := fun (e : ArrayErr) => s.hosted { errs := [e] };
    (s.st != .off && s.st != .contained && !s.resetLow && s.tens.length == 8 && s.ports.length == 16) = true
      ∧ ((u (.rowCache 0 1 2)).rc.lines.isEmpty && (u (.rowCache 0 1 3)).rc.lines == s.rc.lines) = true
      ∧ (u (.blockTlb 0 0)).ev = s.ev
      ∧ ((u (.task 1 0x65)).tasks.isEmpty && ((u (.task 1 0x65)).ten 0).st == (s.ten 0).st) = true
      ∧ ((u (.line 0 0x70)).ten 0).st = .halted
      ∧ ((u (.block 0x80)).st == .contained && (u (.block 0x80)).cause == 3) = true
      ∧ nextIf (exec (.ringWake 0 0 { errs := [.block 0x80] }) s) (fun t => t.st == .contained) = true := by decide

/-! ### Witnesses: bring-up, resets and registers -/

/-- A personality of clusters 0 and 1 and port 0 at 0x1000, and the images of both firmwares at 0x2000 and 0x3000. -/
def bootWords : List Host.Cell :=
  memPut (memPut (words8 0x1000 [1 + 5472 * 2 ^ 32, 3 * 2 ^ 32 + 2 ^ 48, 1, 5]) 0x2000 ([1, 1 + 2 ^ 48, 2 ^ 48].flatMap (toLe 8)))
    0x3000 ([2, 1 + 2 ^ 48, 2 ^ 48].flatMap (toLe 8))
def safe0 : State :=
  { State.reset with
    fw := { State.reset.fw with perAddr := 1, addrFe := 2, addrLn := 3 }
    mem := { State.reset.mem with pool := bootWords } }
def good : Verdicts := ⟨true, true, true⟩
def bootOf (v : Verdicts) (s : State) : Option Nat :=
  let bs := s.poolBytes (s.fw.perAddr.toNat * 4096) 256
  bootDetail v bs (personalityOf bs) (fwHeaderOf (s.poolBytes (s.fw.addrFe.toNat * 4096) 64)) (fwHeaderOf (s.poolBytes (s.fw.addrLn.toNat * 4096) 64))
set_option maxRecDepth 16384 in
/-- BringUp: a boot check that passes, and ones that fail first at the personality's signature and at the line's. -/
theorem test_witness_boot :
    bootOf good safe0 = none ∧ bootOf ⟨false, true, true⟩ safe0 = some 1 ∧ bootOf ⟨true, true, false⟩ safe0 = some 0x21 := by decide
set_option maxRecDepth 16384 in
theorem test_boot_loads :
    nextIf (exec (.go good 0xFFFFFFFF 0 {}) safe0) (fun t => t.st == .loaded && t.enCluster == 3 && t.enPort == 1 && t.haddr == 5) = true := by
  decide

def loaded0 (f : Firmware → Firmware) : State := { block0 with st := .loaded, fw := f { block0.fw with perClusters := 3 } }
def update0 : FwUpdate := ⟨1, {}, 0, 1250000⟩
def ready0 : Bool → Nat → Option Nat := fun sig kind => ({ block0 with fw := { block0.fw with perFormat := 0 } } : State).updateDetail kind sig
  { kind := 1, image := {}, hwMin := 0, hwMax := 0, perMin := 0, perMax := 0 }
theorem test_witness_bring_up :
    ([(3, true), (0, true), (3, false)].all fun p => nextIf (exec (.selfTestDone p.1 p.2) (loaded0 id)) fun t =>
        (t.st == .ready) == (p == (3, true)) && (t.st == .contained) == (p != (3, true))) = true
      ∧ nextIf (exec (.selftestRun 1) { loaded0 id with st := .serving }) (fun t => t.fw.busy && t.fw.testCl == 1) = true
      ∧ nextIf (exec (.selftestRun 0) { loaded0 id with st := .serving }) (fun t => t.fw.refused && !t.fw.busy) = true
      ∧ nextIf (exec (.clusterTestDone true) (loaded0 fun f => { f with busy := true, testCl := 1 })) (fun t => t.fw.pass == 2) = true
      ∧ ready0 true 1 = none ∧ ready0 false 1 = some 0x11 ∧ ready0 true 2 = some 0x21
      ∧ nextIf (exec .fwImageReady (loaded0 fun f => { f with upd := 2, update := some update0 })) (fun t => t.fw.upd == 3) = true
      ∧ nextIf (exec .fwSwitch (loaded0 fun f => { f with upd := 3, update := some update0 })) (fun t => t.fw.upd == 4) = true
      ∧ nextIf (exec (.fwUpdateTimeout 125000) (onTick 125000 (loaded0 fun f => { f with upd := 2, update := some update0 }))) (fun t => t.fw.upd == 5) = true
      ∧ nextIf (exec (.fwUpdateTimeout 1250000) (onTick 1250000 (loaded0 fun f => { f with upd := 3, update := some update0 }))) (fun t => t.fw.upd == 5) = true
      ∧ nextIf (exec (.fwWatchdog 2) block0) (fun t => t.st == .contained && t.cause == 2) = true
      ∧ nextIf (exec .ctlDrain block0) (fun t => t.st == .draining) = true
      ∧ nextIf (exec (.resetRelease true) { block0 with resetLow := true }) (fun t => !t.resetLow && t.testMode) = true := by decide

/-- EveryResetIsTheSame: the four ways into a reset, from a block in service, and from one without power. -/
theorem test_witness_resets :
    ([Instr.reset, .ctlReset, .supplyLoss].all fun i => nextIf (exec i block0) fun t => t.tasks.isEmpty && (t.ten 0).st == .free) = true
      ∧ nextIf (exec .powerGood { block0 with st := .off, powered := false }) (fun t => t.st == .safe && t.tasks.isEmpty) = true
      ∧ block0.st ≠ .off ∧ block0.resetLow = false ∧ block0.powered = true := by decide
/-- RegisterWrites, at the boundary of each clause. -/
theorem test_witness_register_writes :
    nextIf (exec (.registerWrite 0xF808 0xFF 0x1C21) block0) (fun t => t.regValue 0xF808 == 0x1C20) = true
      ∧ nextIf (exec (.registerWrite 0xF80F 0xFF 0x1C1F) block0) (fun t => t.regValue 0xF808 == 0x1C1F) = true
      ∧ nextIf (exec (.registerWrite 0x3C98 0xFF 5) block0) (fun t => (t.ten 7).faultTmo == 5) = true
      ∧ nextIf (exec (.registerWrite 0xE000 0xFF 1) { block0 with lockvio := true, fenceErr := true }) (fun t => !t.lockvio && t.fenceErr) = true
      ∧ nextIf (exec (.registerWrite 0xE000 0xFF 1) { block0 with lockvio := true, setNow := [⟨0xE000, 0, 0, true⟩] }) (·.lockvio) = true
      ∧ nextIf (exec (.registerWrite 0 0x01 1) block0) (·.lockvio) = true
      ∧ nextIf (exec (.registerWrite 0x4FF8 0x0F 1) block0) (fun t => !t.lockvio) = true := by decide

/-! ### Witnesses: the whole machine -/

/-- StepRunsFront, IdleTick, StepKeepsShape: a step of a state of the block's shape answers a next state. -/
theorem test_witness_steps :
    nextIf (step { block0 with pending := [.vidAck, .nop ref0 {}], pwr := { vidBusy := true } }) (fun t =>
        t.pending == [.nop ref0 {}] && !t.pwr.vidBusy) = true
      ∧ nextIf (step block0) (fun t => t.tick == 1 && t.pending.isEmpty) = true := by decide
/-- A word placed in front is none of the table's: the table gives no row bits. -/
theorem test_no_word_spells_a_command : decodeTableWord 64 0x0400214300000C00 = none ∧ State.reset.withFetchWord 64 5 = State.reset := ⟨rfl, rfl⟩

/-! ### Words written out from the encodings -/

/-- `add` r5, r3, 12: CLASS 0x01, OP 0, I set, D 5, A 3, the immediate 12 in bits [31:8]. -/
theorem test_word_add :
    wordClass 0x0400214300000C00 = 1 ∧ wordOp 0x0400214300000C00 = 0
      ∧ immZ (LaneWord.ofWord 0x0400214300000C00) = 12 ∧ (LaneWord.ofWord 0x0400214300000C00).d = 5 := by decide
/-- `br` −2 words, of the whole path: CLASS 0x07, OP 1, the signed word count −2 in bits [31:8]. -/
theorem test_word_br :
    wordClass 0x1C082000FFFFFE00 = 7 ∧ wordOp 0x1C082000FFFFFE00 = 1
      ∧ pcPlus 64 (signedOf (fImm (LaneWord.ofWord 0x1C082000FFFFFE00)) 24) = 48 := by decide
/-- A DISPATCH entry: OPCODE 1 in bits [7:0], NOTIFY in bit 8, USERTAG in [63:32], ARG0 in [191:128]. -/
theorem test_word_dispatch_entry :
    cmdOf (toLe 32 (1 + 2 ^ 8 + 7 * 2 ^ 32 + 0x2000 * 2 ^ 128)) = (1, { flags := 1, usertag := 7, arg0 := 0x2000 }) := by decide

/-! ### What the well-formedness check refuses -/

/-- Its operations of each class are those that have a meaning. -/
theorem test_operations_of_each_class :
    (List.range 12).all (fun cls => (List.range 64).all fun op => opDefined cls op == (opSpec cls op {}).isSome) = true := by decide

set_option maxRecDepth 16384 in
theorem test_ill_formed_refused :
    (([Instr.dispatch 32 {}, .ringWake 32 0 {}, .ringEnable 32 4 0, .openTenancy 8, .dismantleComplete 0 256, .dismantleComplete 8 0, .parkDone 0 4,
    .parkTimeout 0 4 0, .unparkDone 8 0, .departure 8 0, .sealTakesEffect 0 4096 false, .pin 0 32 0 1 {}, .unpin 8 0, .faultRetry 8 0 {},
    .chainLinkCopy 0 0 256, .tensorCoreAccess 0 0 8 .start]
  ++ [.cohortPlacement 1 8 0, .cohortPlacement 1 0 16, .streamTransferLands 64 0 0, .streamTransferLands 0 4 0, .gatherRowLands 32 0 0,
    .poolingPass 8, .rowCacheFill 16 0, .rowCacheFill 0 192, .memoryResponse 32 0 0 0 false 0 0, .memoryResponse 0 65536 0 0 false 0 0, .read 16,
    .lineRetire 16 0, .carriageDeparture 16 0, .carriageTimeout 16 0 48, .laneLost 0 17]
  ++ [.dataCarriage 0 { payload := List.replicate 1857 0 }, .ack 16 {}, .windowReleased 256, .thermalReport 8 0, .fwWatchdog 3,
    .routeWrite 288 0, .orderAccept ⟨1, 0, 16⟩, .add ⟨1, 2 ^ 30, 0⟩ {}, .iaZero ⟨1, 0, 16⟩ {}, .add ⟨1, 0, 0⟩ { other := some (1, 1) }, .add ⟨1, 0, 0⟩ { other := some (8, 3) },
    .iaZero ⟨1, 0, 0⟩ { other := some (11, 0) }] : List Instr).all fun i => !i.wf) = true := by decide
set_option maxRecDepth 16384 in
theorem test_well_formed_admitted :
    ([Instr.dispatch 31 {}, .openTenancy 7, .dismantleComplete 7 255, .parkDone 7 3, .sealTakesEffect 7 4095 true, .pin 7 31 0 1 {},
      .tensorCoreAccess 7 3 7 .start, .cohortPlacement 1 7 15, .streamTransferLands 63 3 0, .gatherRowLands 31 3 0, .rowCacheFill 15 191,
      .memoryResponse 31 65535 0 0 false 0 0, .laneLost 15 16, .dataCarriage 15 { payload := List.replicate 1856 0 }, .windowReleased 255,
      .thermalReport 7 0, .fwWatchdog 2, .routeWrite 287 0, .add ⟨1, 2 ^ 30 - 1, 15⟩ {}, .add ⟨1, 0, 0⟩ { other := some (1, 0x2A) },
      .iaZero ⟨1, 0, 0⟩ { other := some (8, 3) }].all (·.wf)) = true := by decide

end Sys2Proof.Tests
end

section
/-! The commands that the front end refuses (R75, R76, R351, R352, R367): the form of the rows by which it takes a command, and what a
refusal leaves. -/

namespace Sys2Proof.Machine

/-! ### The rows by which the front end takes a command -/

/-- A row of ring r takes its entry e by the checks `chk`, as the command `row`: always where no TABLE_LOAD and no INVALIDATE_ALL of the
ring's tenancy is in progress, and never in another way. -/
structure FrontForm {α : Type} (i : Instr) (r : Nat) (e : CmdEntry) (row : CmdRow) (chk : CmdRef → CM α)
    (act : CmdRef → α → State → State) : Prop where
  exec_idle : ∀ s : State, (s.ten (s.ring r).ten.toNat).loading = none →
    (s.ten (s.ring r).ten.toNat).invTaken = (s.ten (s.ring r).ten.toNat).invDone → exec i s = s.takeCmd r e row chk act
  exec_next : ∀ s u : State, exec i s = .next u → s.takeCmd r e row chk act = .next u
  op_pos : row.op ≠ 0
  op_le : row.op ≤ 12
  takes : frontTakes i = if row.pick e = true then some row.op else none
  fails : ∀ c s, frontFails i c s = (chk c).fails s

/-- A row that takes its entry in every state. -/
theorem FrontForm.ofExec {α : Type} {i : Instr} {r : Nat} {e : CmdEntry} {row : CmdRow} {chk : CmdRef → CM α}
    {act : CmdRef → α → State → State} (hx : ∀ s, exec i s = s.takeCmd r e row chk act) (hop : row.op ≠ 0 ∧ row.op ≤ 12)
    (ht : frontTakes i = if row.pick e = true then some row.op else none) (hf : ∀ c s, frontFails i c s = (chk c).fails s) :
    FrontForm i r e row chk act where
  exec_idle s _ _ := hx s
  exec_next s _ h := hx s ▸ h
  op_pos := hop.1
  op_le := hop.2
  takes := ht
  fails := hf

/-- A row that waits while a command of its kind is in progress (logs 88, 178). -/
theorem FrontForm.ofGuarded {α : Type} {i : Instr} {r : Nat} {e : CmdEntry} {row : CmdRow} {chk : CmdRef → CM α}
    {act : CmdRef → α → State → State} {busy : State → Prop} [DecidablePred busy] {why : String}
    (hx : ∀ s : State, exec i s = if busy s then no why else s.takeCmd r e row chk act)
    (hb : ∀ s : State, (s.ten (s.ring r).ten.toNat).loading = none →
      (s.ten (s.ring r).ten.toNat).invTaken = (s.ten (s.ring r).ten.toNat).invDone → ¬busy s)
    (hop : row.op ≠ 0 ∧ row.op ≤ 12) (ht : frontTakes i = if row.pick e = true then some row.op else none)
    (hf : ∀ c s, frontFails i c s = (chk c).fails s) : FrontForm i r e row chk act where
  exec_idle s hl hi := by rw [hx, if_neg (hb s hl hi)]
  exec_next s u h := by
    rw [hx] at h
    split at h
    · cases h
    · exact h
  op_pos := hop.1
  op_le := hop.2
  takes := ht
  fails := hf

theorem State.tableIdle_of_loading {s : State} {r : Nat} (h : (s.ten (s.ring r).ten.toNat).loading = none) : ¬(!s.tableIdle r) = true := by
  simp [State.tableIdle, h]

/-- A row that takes an entry where a bit of it is clear. -/
theorem takes_unless (b : Bool) (n : Nat) : (if b = true then none else some n) = if (!b) = true then some n else none := by
  cases b <;> rfl

/-- Every row by which the front end takes a command has this form. -/
theorem frontForm_of_frontRow {i : Instr} {r : Nat} {e : CmdEntry} (h : frontRow i = some (r, e)) :
    ∃ (α : Type) (row : CmdRow) (chk : CmdRef → CM α) (act : CmdRef → α → State → State), FrontForm i r e row chk act := by
  unfold frontRow at h
  split at h <;> cases h
  · exact ⟨_, ⟨1, _⟩, chkDispatch, actDispatch, .ofExec (fun _ => rfl) (by decide) rfl fun _ _ => rfl⟩
  · exact ⟨_, ⟨2, _⟩, fun _ => pure (), actFenceFull, .ofExec (fun _ => rfl) (by decide) (takes_unless _ _) fun _ _ => rfl⟩
  · exact ⟨_, ⟨2, _⟩, fun _ => pure (), actFenceOverlap, .ofExec (fun _ => rfl) (by decide) rfl fun _ _ => rfl⟩
  · exact ⟨_, ⟨3, _⟩, chkTableLoad, actTable false, .ofGuarded (busy := fun s => (!s.tableIdle r) = true) (fun _ => rfl)
      (fun _ hl _ => State.tableIdle_of_loading hl) (by decide) (takes_unless _ _) fun _ _ => rfl⟩
  · exact ⟨_, ⟨3, _⟩, chkTableReplace, actTable true, .ofGuarded (busy := fun s => (!s.tableIdle r) = true) (fun _ => rfl)
      (fun _ hl _ => State.tableIdle_of_loading hl) (by decide) (by simp [frontTakes]) fun _ _ => rfl⟩
  · exact ⟨_, ⟨3, _⟩, chkHeld, actTableRelease, .ofGuarded (busy := fun s => (!s.tableIdle r) = true) (fun _ => rfl)
      (fun _ hl _ => State.tableIdle_of_loading hl) (by decide) (by simp [frontTakes]) fun _ _ => rfl⟩
  · exact ⟨_, ⟨4, _⟩, chkTimetable, actTimetable, .ofExec (fun _ => rfl) (by decide) (takes_unless _ _) fun _ _ => rfl⟩
  · exact ⟨_, ⟨4, _⟩, chkUnload, actUnload, .ofExec (fun _ => rfl) (by decide) rfl fun _ _ => rfl⟩
  · exact ⟨_, ⟨5, _⟩, chkHitchBuild, actHitchBuild, .ofExec (fun _ => rfl) (by decide) (takes_unless _ _) fun _ _ => rfl⟩
  · exact ⟨_, ⟨5, _⟩, chkDismantle, actDismantle, .ofExec (fun _ => rfl) (by decide) rfl fun _ _ => rfl⟩
  · exact ⟨_, ⟨6, _⟩, fun _ => pure (), actInvalidate,
    .ofGuarded (busy := fun s => (s.ten (s.ring r).ten.toNat).invTaken ≠ (s.ten (s.ring r).ten.toNat).invDone)
      (fun _ => rfl) (fun _ _ hi hb => hb hi) (by decide) rfl fun _ _ => rfl⟩
  · exact ⟨_, ⟨7, _⟩, chkArm, actArm, .ofExec (fun _ => rfl) (by decide) rfl fun _ _ => rfl⟩
  · exact ⟨_, ⟨8, _⟩, fun _ => pure (), actBrake, .ofExec (fun _ => rfl) (by decide) rfl fun _ _ => rfl⟩
  · exact ⟨_, ⟨9, _⟩, chkCheckpoint, actCheckpoint, .ofExec (fun _ => rfl) (by decide) rfl fun _ _ => rfl⟩
  · exact ⟨_, ⟨10, _⟩, chkPark, actPark, .ofExec (fun _ => rfl) (by decide) rfl fun _ _ => rfl⟩
  · exact ⟨_, ⟨11, _⟩, chkUnpark, actUnpark, .ofExec (fun _ => rfl) (by decide) rfl fun _ _ => rfl⟩
  · exact ⟨_, ⟨12, _⟩, fun _ => pure (), actAudit, .ofExec (fun _ => rfl) (by decide) rfl fun _ _ => rfl⟩

theorem FrontForm.of_takes {α : Type} {i : Instr} {r op : Nat} {e : CmdEntry} {row : CmdRow} {chk : CmdRef → CM α}
    {act : CmdRef → α → State → State} (f : FrontForm i r e row chk act) (h : frontTakes i = some op) :
    row.op = op ∧ row.pick e = true := by
  rw [f.takes] at h
  split at h
  · exact ⟨Option.some.inj h, ‹_›⟩
  · cases h

theorem CM.fails_eq_some {α : Type} {m : CM α} {s s' : State} {n : Nat} : m.fails s = some (n, s') ↔ m.go s = (.error n, s') := by
  unfold CM.fails
  split <;> simp [*]

/-! ### The refusals of `takeCmd` that no check of the command's own gives -/

section
variable {α : Type} {s : State} {r : Nat} {e : CmdEntry} {row : CmdRow} {chk : CmdRef → CM α} {act : CmdRef → α → State → State}
  {bs : List Byte}

/-- R367: an entry that cannot be read. -/
theorem takeCmd_outside (hr : s.ringReady r = true) (hb : s.pinRead (s.ring r).ten.toNat (s.ring r).slotVa 32 true = .outside) :
    s.takeCmd r e row chk act = .next (s.refuseAt r 0x0A none) := by
  simp [State.takeCmd, hr, hb]

/-- R352: an opcode the table lacks. -/
theorem takeCmd_unknown (hr : s.ringReady r = true) (hb : s.pinRead (s.ring r).ten.toNat (s.ring r).slotVa 32 true = .bytes bs)
    (he : (cmdOf bs).2 = e) (ho : (cmdOf bs).1 = 0 ∨ 12 < (cmdOf bs).1) :
    s.takeCmd r e row chk act = .next (s.refuseAt r 0x1B (some (s.cmdAt r (cmdOf bs).1 e))) := by
  simp [State.takeCmd, hr, hb, he, ho]

/-- R352: a reserved bit or an alignment that the opcode's entry does not let be. -/
theorem takeCmd_reserved (hr : s.ringReady r = true) (hb : s.pinRead (s.ring r).ten.toNat (s.ring r).slotVa 32 true = .bytes bs)
    (he : cmdOf bs = (row.op, e)) (h0 : row.op ≠ 0) (h12 : row.op ≤ 12) (hp : row.pick e = true)
    (hl : (s.ten (s.ring r).ten.toNat).st ≠ .loading ∨ loadingOp row.op = true) (hf : cmdForm row.op e = false) :
    s.takeCmd r e row chk act = .next (s.refuseAt r 0x1B (some (s.cmdAt r row.op e))) := by
  have hl' : ¬((s.ten (s.cmdAt r row.op e).ten).st = .loading ∧ loadingOp row.op = false) := fun ⟨h1, h2⟩ =>
    hl.elim (fun h => h h1) fun h => by simp [h2] at h
  simp [State.takeCmd, hr, hb, he, h0, Nat.not_lt.2 h12, hp, hl', hf]

end

/-! ### What a refusal leaves -/

theorem State.refuseAt_rings (s : State) (r n : Nat) (c : Option CmdRef) :
    (s.refuseAt r n c).rings = modAt s.rings r fun x => { x with stopped := true, reason := BitVec.ofNat 8 n } := by
  cases c <;> simp [State.refuseAt, State.stopRing, State.modRing]

theorem State.refuseAt_ring (s : State) {r : Nat} (n : Nat) (c : Option CmdRef) (h : r < s.rings.length) :
    (s.refuseAt r n c).ring r = { s.ring r with stopped := true, reason := BitVec.ofNat 8 n } := by
  unfold State.ring
  rw [State.refuseAt_rings]
  exact modAt_getD s.rings _ {} h

theorem State.refuseAt_ring_ne (s : State) {r q : Nat} (n : Nat) (c : Option CmdRef) (h : q ≠ r) :
    (s.refuseAt r n c).ring q = s.ring q := by
  unfold State.ring
  rw [State.refuseAt_rings]
  exact modAt_getD_ne s.rings _ {} h.symm

theorem State.refuseAt_rings_length (s : State) (r n : Nat) (c : Option CmdRef) : (s.refuseAt r n c).rings.length = s.rings.length := by
  rw [State.refuseAt_rings, modAt_length]

/-! ### A stopped ring, and its resume -/

theorem State.ringReady_of_stopped {s : State} {r : Nat} (h : (s.ring r).stopped = true) : s.ringReady r = false := by
  simp [State.ringReady, h]

/-- R76: the front end takes no command of a stopped ring. -/
theorem exec_frontRow_of_stopped {i : Instr} {r : Nat} {e : CmdEntry} {s u : State} (hi : frontRow i = some (r, e))
    (h : (s.ring r).stopped = true) : exec i s ≠ .next u := by
  intro hx
  obtain ⟨_, _, _, _, f⟩ := frontForm_of_frontRow hi
  have hr := (takeCmd_cases (f.exec_next s u hx)).1
  simp [State.ringReady_of_stopped h] at hr

theorem modRing_pinReadGo (s : State) (r : Nat) (f : Ring → Ring) (t fuel va n : Nat) :
    pinReadGo (s.modRing r f) t fuel va n = pinReadGo s t fuel va n := by
  induction fuel generalizing va n with
  | zero => rfl
  | succ fuel ih =>
    have hp : (s.modRing r f).pinned t va = s.pinned t va := rfl
    simp only [pinReadGo, hp, ih]
    rfl

/-- The front end's reads of pinned memory do not depend on the rings. -/
@[simp] theorem State.modRing_pinRead (s : State) (r : Nat) (f : Ring → Ring) (t va n : Nat) (svc : Bool) :
    (s.modRing r f).pinRead t va n svc = s.pinRead t va n svc := by
  unfold State.pinRead
  rw [modRing_pinReadGo]
  rfl

@[simp] theorem State.modRing_watched (s : State) (r : Nat) (f : Ring → Ring) (x : Ring) : (s.modRing r f).watched x = s.watched x := rfl

/-- R25: the tail word of a watched ring, where it can be read. -/
theorem State.readTail_ring {s : State} {r : Nat} {w : Bool} {bs : List Byte} (hl : r < s.rings.length)
    (hw : s.watched (s.ring r) = true) (hb : s.pinRead (s.ring r).ten.toNat (s.ring r).tailVa 4 true = .bytes bs) :
    (s.readTail r w).ring r = { s.ring r with tail := BitVec.ofNat 32 (leNat bs) } := by
  have hread : s.readTail r w = s.modRing r fun y => { y with tail := BitVec.ofNat 32 (leNat bs) } := by
    simp [State.readTail, hw, hb]
  rw [hread, s.ring_modRing r _ hl]

/-- R76: a ring whose stop is cleared. -/
def Ring.resumed (x : Ring) : Ring := { x with stopped := false, reason := 0 }

theorem State.resumeRing_of_stopped {s : State} {r : Nat} (h : (s.ring r).stopped = true) :
    s.resumeRing r = (s.modRing r Ring.resumed).readTail r false := if_pos h

/-- R76: a resumed ring, its tail word read again. -/
theorem State.resumeRing_ring {s : State} {r : Nat} {bs : List Byte} (hl : r < s.rings.length) (hs : (s.ring r).stopped = true)
    (hw : s.watched (s.ring r).resumed = true) (hb : s.pinRead (s.ring r).ten.toNat (s.ring r).tailVa 4 true = .bytes bs) :
    (s.resumeRing r).ring r = { (s.ring r).resumed with tail := BitVec.ofNat 32 (leNat bs) } := by
  have hring : (s.modRing r Ring.resumed).ring r = (s.ring r).resumed := s.ring_modRing r _ hl
  have hlen : r < (s.modRing r Ring.resumed).rings.length := by simpa [State.modRing, modAt_length] using hl
  rw [State.resumeRing_of_stopped hs, ← hring]
  apply State.readTail_ring hlen
  · rw [hring, State.modRing_watched, hw]
  · rw [hring, State.modRing_pinRead]
    exact hb

theorem exec_ringResume {s : State} {r : Nat} (h : s.opened = true) : exec (.ringResume r) s = .next (s.resumeRing r) :=
  hostWrite_opened h

/-! ### The obligation -/

/-- Settles O45: a row of the front end is `takeCmd`, which refuses at its first failed check; a refusal stops its ring at the head, and
the ring's resume clears the stop and no more than reads the tail word. -/
theorem commandsRefused : Obligations.CommandsRefused := by
  unfold Obligations.CommandsRefused
  refine ⟨fun i r e s hi hr hload hinv => ?_, fun s r n c hl => ?_⟩
  · obtain ⟨α, row, chk, act, f⟩ := frontForm_of_frontRow hi
    dsimp only
    rw [f.exec_idle s hload hinv]
    refine ⟨takeCmd_outside hr, fun bs => takeCmd_unknown hr, fun bs op hb he ht hst hform => ?_, fun op n s' ht hh hfail => ?_⟩
    · obtain ⟨rfl, hp⟩ := f.of_takes ht
      exact takeCmd_reserved hr hb he f.op_pos f.op_le hp hst hform
    · obtain ⟨rfl, hp⟩ := f.of_takes ht
      rw [f.fails, CM.fails_eq_some] at hfail
      exact takeErr hh rfl hp ⟨f.op_pos, f.op_le⟩ hfail
  · have hring := s.refuseAt_ring n c hl
    have hhead : ((s.refuseAt r n c).ring r).head = (s.ring r).head := by rw [hring]
    have hstop : ((s.refuseAt r n c).ring r).stopped = true := by rw [hring]
    refine ⟨hstop, by simp [hring], hhead, fun q => s.refuseAt_ring_ne n c,
      fun i e u hi => exec_frontRow_of_stopped hi hstop, fun ho => ⟨_, exec_ringResume ho, fun hw bs hb => ?_⟩⟩
    have hlen : r < (s.refuseAt r n c).rings.length := by rwa [State.refuseAt_rings_length]
    rw [State.resumeRing_ring hlen hstop hw hb]
    exact ⟨rfl, hhead, rfl⟩

end Sys2Proof.Machine
end

section
/-! The abort of a task leaves no task of its number (R236): what the operations of `abortTask` do to the list of tasks. -/

namespace Sys2Proof.Machine

/-- An operation repeated over a list keeps the tasks where each use of it does. -/
theorem foldl_tasks {α : Type} {f : State → α → State} (h : ∀ s a, (f s a).tasks = s.tasks) (l : List α) (s : State) :
    (l.foldl f s).tasks = s.tasks :=
  List.foldlRecOn (motive := fun t => t.tasks = s.tasks) l f rfl fun t ht a _ => (h t a).trans ht

/-! ### The operations of a brake order keep the tasks -/

@[simp] theorem State.modTt_tasks (s : State) (t : Nat) (f : Timetable → Timetable) : (s.modTt t f).tasks = s.tasks := rfl

@[simp] theorem State.movePort_tasks (s : State) (p : Nat) (st : PortSt) : (s.movePort p st).tasks = s.tasks := by
  unfold State.movePort
  split <;> simp

@[simp] theorem State.movePorts_tasks (s : State) (ps : List Nat) (st : PortSt) : (s.movePorts ps st).tasks = s.tasks :=
  foldl_tasks (fun s p => s.movePort_tasks p st) ps s

@[simp] theorem State.sendCtl_tasks (s : State) (ps : List Nat) (n : Nat) (bs : List Byte) : (s.sendCtl ps n bs).tasks = s.tasks := by
  apply foldl_tasks
  exact fun _ _ => rfl

@[simp] theorem State.finishBrakes_tasks (s : State) (t : Nat) : (s.finishBrakes t).tasks = s.tasks := by
  unfold State.finishBrakes
  split
  · rfl
  · exact foldl_tasks (fun u c => u.finish_tasks c stDone 0 _ 0) _ s

@[simp] theorem State.abandonStart_tasks (s : State) (t reason rank : Nat) : (s.abandonStart t reason rank).tasks = s.tasks := by
  unfold State.abandonStart
  split
  · rfl
  · dsimp only
    split <;> simp

@[simp] theorem State.cancelDeparture_tasks (s : State) (t : Nat) (except : Option Nat) :
    (s.cancelDeparture t except).tasks = s.tasks := by
  unfold State.cancelDeparture
  split <;> simp

@[simp] theorem State.withdraw_tasks (s : State) (t : Nat) (who : Serving) : (s.withdraw t who).tasks = s.tasks := by
  apply foldl_tasks
  exact fun _ _ => rfl

@[simp] theorem State.ckEnd_tasks (s : State) (t reason : Nat) : (s.ckEnd t reason).tasks = s.tasks := by
  unfold State.ckEnd
  split <;> simp

@[simp] theorem State.ckNext_tasks (s : State) (t : Nat) : (s.ckNext t).tasks = s.tasks := by
  unfold State.ckNext
  split <;> rfl

@[simp] theorem State.ckBrake_tasks (s : State) (t : Nat) : (s.ckBrake t).tasks = s.tasks := by
  unfold State.ckBrake State.ckFail
  split
  · rfl
  · split <;> simp [State.fresh]

@[simp] theorem State.orderBrake_tasks (s : State) (t : Nat) (b : W64) : (s.orderBrake t b).tasks = s.tasks := by
  unfold State.orderBrake
  split
  · rfl
  · split
    · rfl
    · simp
    · dsimp only
      split <;> simp

/-! ### The task is gone -/

/-- A task's end changes of the tasks left only what they wait for. -/
theorem State.releaseFences_tasks (s : State) (task : Nat) :
    (s.releaseFences task).tasks = s.tasks.map fun k => { k with held := k.held.filter (· != task) } :=
  foldl_tasks (fun u c => u.finish_tasks c stDone 0 0 0) _ _

theorem State.task?_releaseFences {s : State} {id : Nat} (task : Nat) (h : s.task? id = none) : (s.releaseFences task).task? id = none := by
  unfold State.task? at h ⊢
  rw [State.releaseFences_tasks]
  simpa [Function.comp_def] using h

theorem State.task?_clearTask (s : State) (k : Task) : (s.clearTask k).task? k.id = none := by
  simp [State.task?, State.clearTask]

theorem State.task?_of_tasks {s t : State} (h : t.tasks = s.tasks) (id : Nat) : t.task? id = s.task? id := by
  unfold State.task?
  rw [h]

/-- R236: an aborted task is gone. -/
theorem State.task?_abortTask (s : State) (k : Task) (level : Nat) (cause : W32) (code : Nat) :
    (s.abortTask k level cause code).task? k.id = none := by
  unfold State.abortTask
  rw [State.task?_of_tasks (State.orderBrake_tasks _ _ _)]
  apply State.task?_releaseFences
  rw [State.task?_of_tasks (State.complete_tasks ..), State.task?_of_tasks (State.modTen_tasks ..)]
  exact State.task?_clearTask _ k

/-- R437, R440: a fault of a task leaves no task of its number, whether or not there was one. -/
theorem State.task?_failTask (s : State) (t ctx task : Nat) (f : FaultRec) : (s.failTask t ctx task f).task? task = none := by
  unfold State.failTask
  split
  case h_1 hk => exact (State.task?_of_tasks (State.event_tasks ..) task).trans hk
  case h_2 k hk =>
    obtain rfl : k.id = task := by simpa using List.find?_some hk
    exact State.task?_abortTask ..

end Sys2Proof.Machine
end

section
/-! Which threads an instruction acts for, and what the guard does not decide (R304). -/

namespace Sys2Proof.Machine

/-- R304: the acting threads are those of the running path whose guard holds. -/
theorem Coach.getLsbD_acting (k : Coach) (w : LaneWord) {j : Nat} (hj : j < 32) :
    (k.acting w).getLsbD j = (k.running.getLsbD j && (!w.g || (predBit k w.gp.toNat j ^^ w.gn))) := by
  unfold Coach.acting predBit
  cases w.g <;> cases w.gn <;> simp [hj]

/-! ### The rows that a coach issues -/

/-- Every row of classes 0x01 to 0x07 issues as `State.lane` says. -/
theorem exec_of_laneRow {i : Instr} {cls op : Nat} {c : CoachRef} {w : LaneWord} (h : laneRow i = some (cls, op, c, w)) :
    ∃ body, ∀ s, exec i s = s.lane c cls op w body := by
  unfold laneRow at h
  split at h <;> cases h
  all_goals exact ⟨_, fun _ => rfl⟩

/-- Every order row issues as `State.issueOrder` says. -/
theorem exec_of_orderRow {i : Instr} {cls op : Nat} {c : CoachRef} {w : LaneWord} (h : orderRow i = some (cls, op, c, w)) (s : State) :
    exec i s = s.issueOrder c cls op w := by
  unfold orderRow at h
  split at h <;> cases h
  all_goals rfl

section
variable {i : Instr} {cls op : Nat} {c : CoachRef} {w : LaneWord} {s s1 : State} {x : LaneCtx}

/-- An instruction of defined encoding that no thread acts for moves its coach past it, whatever its body. -/
theorem exec_of_act_zero (hi : laneRow i = some (cls, op, c, w) ∨ orderRow i = some (cls, op, c, w)) (hf : Fetches s c cls op w s1 x)
    (he : encFault (opSpec cls op w) w x.task.nreg = none) (ha : x.act = 0) : exec i s = .next (s1.setCoach c x.k.step) := by
  rcases hi with hi | hi
  · obtain ⟨body, hx⟩ := exec_of_laneRow hi
    simp [hx, lane_of hf, he, ha]
  · simp [exec_of_orderRow hi, order_of hf, he, ha]

/-- A fault of encoding fails the task, whatever the guard and the acting threads. -/
theorem exec_of_encFault {n : Nat} (hi : laneRow i = some (cls, op, c, w) ∨ orderRow i = some (cls, op, c, w))
    (hf : Fetches s c cls op w s1 x) (he : encFault (opSpec cls op w) w x.task.nreg = some n) :
    ∃ f, exec i s = .next (s1.failTask x.task.ten x.task.ctx x.task.id f) := by
  rcases hi with hi | hi
  · obtain ⟨body, hx⟩ := exec_of_laneRow hi
    rw [hx, lane_of hf, he]
    exact ⟨_, rfl⟩
  · rw [exec_of_orderRow hi, order_of hf, he]
    split
    case h_1 => exact ⟨_, rfl⟩
    case h_2 => exact ⟨_, rfl⟩
    case h_3 hn => cases hn

end

/-- Settles O10: the guard selects among the running path; a fetched instruction, lane or order, is its `lane` or `issueOrder`, which reads
the encoding before the acting threads, and a fault of encoding fails the task. -/
theorem actingThreads : Obligations.ActingThreads := by
  unfold Obligations.ActingThreads
  refine ⟨fun k w j hj => ?_, fun i cls op c w s s1 x hi hf => ⟨?_, exec_of_act_zero hi hf, fun he => ?_⟩⟩
  · simp [Coach.getLsbD_acting k w hj]
  · obtain ⟨-, -, hact, -⟩ := ctx_of hf
    exact hact
  · obtain ⟨n, hn⟩ := Option.ne_none_iff_exists'.1 he
    obtain ⟨f, hx⟩ := exec_of_encFault hi hf hn
    exact ⟨_, hx, State.task?_failTask ..⟩

end Sys2Proof.Machine
end

section
/-! The translation unit's events (R55–R57, R365, R366, R373, R374, R378–R381, R497): how a walk ends for each of its parties, what a
write to a pinned range's register leaves, how a fault is answered, and what a broadcast removes and its acknowledgement leaves. -/

namespace Sys2Proof.Machine

/-! ### Walks -/

section
variable {s : State} {ten : Nat} {p : Party}

theorem exec_walkComplete {n : Nat} {w : Walk} (h : s.xlt.walks[n]? = some w) :
    exec (.walkComplete n) s = .next (w.units.foldl (State.partyEnd w.ten)
      ((State.nextWalk { s with xlt := { s.xlt with walks := s.xlt.walks.eraseIdx n } }).unstallWalk w.ten w.va)) := by
  change execWalkComplete n s = _
  rw [execWalkComplete, h]

/-- R364, R366: a walk that found the leaf of a party's access installs it, and the window requests of the party are carried out again. -/
theorem State.partyEnd_of_ok {l : Leaf} (h : s.walkEnd ten p = .ok l) :
    s.partyEnd ten p = if p.serv = .window then (s.installWalk ten p.unit l).reserve ten p.unit else s.installWalk ten p.unit l := by
  rw [State.partyEnd, h]

/-- R366, R369: a walk that ended in a fault other than lost data is the party's fault. -/
theorem State.partyEnd_of_error {f : AccFault} (h : s.walkEnd ten p = .error f) (hc : f.code ≠ 0x30) :
    s.partyEnd ten p = s.walkFault ten p.unit p.serv f := by
  simp only [State.partyEnd, h, if_neg hc]

theorem State.walkEnd_of_leaf {l : Leaf} (hen : (s.ten ten).xltEn = true)
    (h : walkTables s (s.ten ten) p.va p.kind.writes = .leaf l) : s.walkEnd ten p = .ok l := by
  simp [State.walkEnd, hen, h]

theorem State.walkEnd_of_fail {code level : Nat} {mal : Bool} (hen : (s.ten ten).xltEn = true)
    (h : walkTables s (s.ten ten) p.va p.kind.writes = .fail code level mal) :
    s.walkEnd ten p = .error ⟨p.va, p.kind, code, level + (if mal then 4 else 0), true, 0⟩ := by
  have hlevel : 4 * b2n mal = if mal then 4 else 0 := by cases mal <;> rfl
  simp [State.walkEnd, hen, h, hlevel]

theorem State.walkEnd_of_disabled (hen : (s.ten ten).xltEn = false) : s.walkEnd ten p = .error ⟨p.va, p.kind, 0x20, 0, false, 0⟩ := by
  simp [State.walkEnd, hen]

end

/-! ### Pinned ranges -/

theorem State.pin_modPin {s : State} {ten k : Nat} (f : Pin → Pin) (ht : ten < s.tens.length) (hk : k < (s.ten ten).pins.length) :
    ((s.modPin ten k f).ten ten).pin k = f ((s.ten ten).pin k) := by
  rw [State.modPin, State.ten_modTen s ten _ ht]
  exact modAt_getD _ f {} hk

/-- R497: a write that is allowed, other than EN = 1 over an enabled range, starts the range's walk or frees the range. -/
theorem State.pinWriteReg_of_allowed {s : State} {ten k : Nat} {en : Bool} (base : BitVec 27) {size : W16}
    (hfree : (s.ten ten).st ≠ .free) (h0 : 0 < size.toNat) (hmax : size.toNat ≤ 32768) (hst : ((s.ten ten).pin k).st ≠ 1)
    (hen : ¬(en = true ∧ ((s.ten ten).pin k).en = true)) :
    s.pinWriteReg ten k en base size =
      if en then s.modPin ten k fun _ => { en := true, base := base, size := size, st := 1 }
      else (s.freePin ten k).modPin ten k fun _ => { base := base, size := size } := by
  have hsize : size ≠ 0 := by rintro rfl; exact absurd h0 (by decide)
  have hallowed : ¬(((s.ten ten).pin k).st = 1 ∨ (s.ten ten).st = .free ∨ size = 0 ∨ 32768 < size.toNat
      ∨ (en = true ∧ ((s.ten ten).pin k).en = true ∧ (base ≠ ((s.ten ten).pin k).base ∨ size ≠ ((s.ten ten).pin k).size))) := by
    rintro (h | h | h | h | ⟨h1, h2, -⟩)
    · exact hst h
    · exact hfree h
    · exact hsize h
    · exact absurd h (Nat.not_lt.2 hmax)
    · exact hen ⟨h1, h2⟩
  simp only [State.pinWriteReg, if_neg hallowed, if_neg hen]

theorem exec_pin {ten k : Nat} {base : BitVec 27} {size : W16} {hm : HostMem} {s : State} (hm' : InPool hm)
    (ho : (s.hosted hm).opened = true) :
    exec (.pin ten k base size hm) s = .next ((s.hosted hm).pinWriteReg ten k true base size) := by
  change execPin ten k base size hm s = _
  rw [execPin, withHost_of (pastPool_none.2 hm'), hostWrite_opened ho]

theorem exec_unpin {ten k : Nat} {s : State} (ho : s.opened = true) :
    exec (.unpin ten k) s = .next (s.pinWriteReg ten k false ((s.ten ten).pin k).base ((s.ten ten).pin k).size) :=
  hostWrite_opened ho

/-- R57: no locked entry of a freed range is left in the block TLB. -/
theorem State.freePin_unlocked (s : State) (ten k : Nat) :
    ∀ y ∈ (s.freePin ten k).xlt.btlb, ¬(y.2.2.locked = true ∧ y.2.2.ten = ten ∧ y.2.2.pin = k) := by
  intro y hy hlocked
  simpa [hlocked] using (List.mem_filter.1 hy).2

section
variable {s s' : State} {ten k : Nat}

/-- R55: the walk of a range whose leaves are locked makes it pinned. -/
theorem exec_pinWalkDone_of_locked {w : Bool} (hst : ((s.ten ten).pin k).st = 1)
    (h : s.pinLock ten k (((s.ten ten).pin k).base.toNat * 2 ^ 21)
      ((((s.ten ten).pin k).base.toNat + ((s.ten ten).pin k).size.toNat) * 2 ^ 21) = (s', some w)) :
    exec (.pinWalkDone ten k) s = .next (s'.modPin ten k fun p => { p with st := 2, w := w }) := by
  change execPinWalkDone ten k s = _
  simp only [execPinWalkDone, hst, ne_eq, not_true_eq_false, if_false, h]

theorem exec_pinWalkDone_of_failed (hst : ((s.ten ten).pin k).st = 1)
    (h : s.pinLock ten k (((s.ten ten).pin k).base.toNat * 2 ^ 21)
      ((((s.ten ten).pin k).base.toNat + ((s.ten ten).pin k).size.toNat) * 2 ^ 21) = (s', none)) :
    exec (.pinWalkDone ten k) s = .next s' := by
  change execPinWalkDone ten k s = _
  simp only [execPinWalkDone, hst, ne_eq, not_true_eq_false, if_false, h]

end

/-! ### Answers to faults -/

section
variable {s : State} {ten : Nat} {fid : W16} {f : PendFault}

theorem exec_faultRetry {hm : HostMem} (hm' : InPool hm) (hf : (s.hosted hm).pendingFault ten fid = some f)
    (ho : (s.hosted hm).opened = true) : exec (.faultRetry ten fid hm) s = .next ((s.hosted hm).answerRetry ten f) := by
  change execFaultRetry ten fid hm s = _
  rw [execFaultRetry, withHost_of (pastPool_none.2 hm'), hf]
  exact hostWrite_opened ho

theorem exec_faultAbort (hf : s.pendingFault ten fid = some f) (ho : s.opened = true) :
    exec (.faultAbort ten fid) s = .next (s.answerAbort ten f) := by
  change execFaultAbort ten fid s = _
  rw [execFaultAbort, hf]
  exact hostWrite_opened ho

/-- R374: the block answers with ABORT in exactly the ticks that it may reach once the fault's time is up. -/
theorem exec_faultTimeout_next (hf : s.pendingFault ten fid = some f) {t : Nat} {u : State} :
    exec (.faultTimeout ten fid t) s = .next u ↔
      (((s.ten ten).faultTmo.toNat ≠ 0 ∧ f.tick + (s.ten ten).faultTmo.toNat ≤ t) ∧ s.mayPass t = true)
        ∧ u = (s.atTick t).answerAbort ten f := by
  change execFaultTimeout ten fid t s = _ ↔ _
  simp only [execFaultTimeout, hf, when_next, Bool.and_eq_true, decide_eq_true_eq]

end

/-! ### Broadcasts -/

/-- R378–R381: a broadcast taken removes what it names from every TLB but the locked entries, which it marks, and is held for its
acknowledgement. -/
theorem State.broadcast_next {s : State} (b : Bcast) (hlen : s.xlt.invals.length < 64) :
    ∃ t, s.broadcast b = .next t ∧ t.gtlb = s.gtlb.filter (fun y => !b.leaf s y.2)
      ∧ (∀ y ∈ t.xlt.btlb, b.leaf s y.2.2 = true → y.2.2.locked = true ∧ y.2.2.stale = true)
      ∧ (∀ c ∈ t.clusters, ∀ e ∈ c.tlb, b.leaf s e = false) ∧ t.xlt.invNum = s.xlt.invNum + 1
      ∧ t.xlt.invals.length = s.xlt.invals.length + 1 ∧ t.mem = s.mem ∧ t.tens = s.tens := by
  refine ⟨_, if_neg (Nat.not_le.2 hlen), rfl, fun y hy hleaf => ?_, fun c hc e he => ?_, rfl, by simp, rfl, rfl⟩
  · obtain ⟨z, hz, rfl⟩ := List.mem_map.1 hy
    have hkeep := (List.mem_filter.1 hz).2
    cases hgone : b.leaf s z.2.2 with
    | true => simpa [hgone] using hkeep
    | false => simp [hgone] at hleaf
  · obtain ⟨x, -, rfl⟩ := List.mem_map.1 hc
    simpa using (List.mem_filter.1 he).2

/-- R41, R380: the oldest broadcast, its accesses ended, is acknowledged in a later tick: its locked leaves are walked again first. -/
theorem exec_invalidationAck_of_clear {s : State} {t : Nat} {i : Inval} {q : List Inval} (hi : (s.atTick t).xlt.invals = i :: q)
    (ht : i.taken < t) (hpass : s.mayPass t = true) (hclear : i.clear = true) :
    let u := (s.atTick t).rewalkAll i
    let v : State := { u with xlt := { u.xlt with invals := q, invd := !u.xlt.invd } }
    exec (.invalidationAck t) s = .next (if u.ev.invrec then v.event 0xAC 0 {} 0 i.num xltWord else v) := by
  have hnow : ¬(t < i.taken + 1 ∨ (!s.mayPass t) = true ∨ (!i.clear) = true) := by
    rintro (h | h | h)
    · exact absurd h (Nat.not_lt.2 ht)
    · rw [hpass] at h
      cases h
    · rw [hclear] at h
      cases h
  change execInvalidationAck t s = _
  simp only [execInvalidationAck, hi, if_neg hnow]

/-! ### The obligation -/

/-- Settles O51: a walk ends for each party as `walkEnd` says; an allowed write to a range's register and the end of its walk leave the
range as R497 and R55 say; a fault is answered once by the host or by the time limit; a broadcast is taken and acknowledged. -/
theorem translationEvents : Obligations.TranslationEvents := by
  unfold Obligations.TranslationEvents
  refine ⟨fun n s w hw => ⟨exec_walkComplete hw, fun p l hen hl => ?_, fun p code level mal hen hl hc => ?_, fun p hen => ?_⟩,
    ?_, ?_, ?_, ?_, ?_, ?_, ?_⟩
  · exact State.partyEnd_of_ok (State.walkEnd_of_leaf hen hl)
  · exact State.partyEnd_of_error (State.walkEnd_of_fail hen hl) hc
  · exact State.partyEnd_of_error (State.walkEnd_of_disabled hen) (by simp)
  · intro ten k base size hm s0 hm' s ht hk ho hfree h0 hmax hst hen
    have hwrite := State.pinWriteReg_of_allowed (en := true) base hfree h0 hmax hst (by simp [hen])
    rw [exec_pin hm' ho, hwrite]
    exact ⟨_, rfl, State.pin_modPin _ ht hk, rfl⟩
  · intro ten k s ht hk ho hfree h0 hmax hst
    have hwrite := State.pinWriteReg_of_allowed (en := false) ((s.ten ten).pin k).base hfree h0 hmax hst (by simp)
    have hpin := State.pin_modPin (s := s.freePin ten k)
      (fun _ => { base := ((s.ten ten).pin k).base, size := ((s.ten ten).pin k).size }) ht hk
    rw [exec_unpin ho, hwrite]
    exact ⟨_, rfl, congrArg Pin.en hpin, congrArg Pin.st hpin, s.freePin_unlocked ten k⟩
  · intro ten k s hst p r
    rcases hr : r with ⟨s', _ | w⟩
    · exact exec_pinWalkDone_of_failed hst hr
    · exact exec_pinWalkDone_of_locked hst hr
  · intro ten fid hm s0 f hm' s hf ho
    exact exec_faultRetry hm' hf ho
  · intro ten fid s f hf
    refine ⟨exec_faultAbort hf, fun t h0 ht hpass => (exec_faultTimeout_next hf).2 ⟨⟨⟨h0, ht⟩, hpass⟩, rfl⟩,
      fun t u hearly hx => ?_⟩
    obtain ⟨⟨⟨h0, ht⟩, -⟩, -⟩ := (exec_faultTimeout_next hf).1 hx
    exact hearly.elim h0 (Nat.not_lt.2 ht)
  · intro s b i hlen hi
    have hx : exec i s = s.broadcast b := by
      rcases hi with ⟨asid, va, pages, rfl, rfl⟩ | ⟨asid, rfl, rfl⟩ | ⟨rfl, rfl⟩ <;> rfl
    rw [hx]
    exact State.broadcast_next b hlen
  · intro t s i q hi ht hpass hclear
    exact exec_invalidationAck_of_clear hi ht hpass hclear

end Sys2Proof.Machine
end

section
/-! The reset values of the control window (R452, R490, R491): what each group of registers reads right after reset, and what the register
maps give for it. -/

namespace Sys2Proof.Machine

/-! ### Lists of registers -/

/-- A list of registers reads as f at a where each of them holds f of its own offset, and f is 0 at a if none has that offset. -/
theorem atOffset_eq {f : Nat → Nat} {l : List (Nat × Nat)} {a : Nat} (hl : l.map Prod.snd = l.map fun x => f x.1)
    (h0 : (∀ x ∈ l, x.1 ≠ a) → f a = 0) : atOffset a l = f a := by
  induction l with
  | nil => exact (h0 (List.forall_mem_nil _)).symm
  | cons x l ih =>
    obtain ⟨hx, hl⟩ := List.cons.inj hl
    by_cases ha : x.1 = a
    · simpa [atOffset, ha] using hx
    · simpa [atOffset, ha] using ih hl fun h => h0 (List.forall_mem_cons.2 ⟨ha, h⟩)

theorem atOffset_of_zero {l : List (Nat × Nat)} (hl : l.map Prod.snd = l.map fun _ => 0) (a : Nat) : atOffset a l = 0 :=
  atOffset_eq (f := fun _ => 0) hl fun _ => rfl

theorem atOffset_of_single {l : List (Nat × Nat)} {k v : Nat} (hl : l.map Prod.snd = l.map fun x => if x.1 = k then v else 0)
    (hk : k ∈ l.map Prod.fst) (a : Nat) : atOffset a l = if a = k then v else 0 := by
  obtain ⟨x, hx, rfl⟩ := List.mem_map.1 hk
  exact atOffset_eq (f := fun a => if a = x.1 then v else 0) hl fun h => if_neg (h x hx).symm

theorem indexed_eq_some_iff {a base stride count k : Nat} :
    indexed a base stride count = some k
      ↔ (base ≤ a ∧ a < base + stride * count ∧ (a - base) % stride = 0) ∧ (a - base) / stride = k := by
  simp [indexed]

theorem indexed_eq_none_iff {a base stride count : Nat} :
    indexed a base stride count = none ↔ ¬(base ≤ a ∧ a < base + stride * count ∧ (a - base) % stride = 0) := by
  simp [indexed]

@[simp] theorem bitsOf_zero (lo len : Nat) : bitsOf 0 lo len = 0 := by simp [bitsOf]
@[simp] theorem bitOf_zero (n : Nat) : bitOf 0 n = false := by simp [bitOf]

/-! ### The parts of the reset state that registers read -/

theorem getD_replicate_self {α : Type} (d : α) (n i : Nat) : (List.replicate n d).getD i d = d := by
  rw [List.getD_eq_getElem?_getD, List.getElem?_replicate]
  split <;> rfl

theorem State.reset_ten (t : Nat) : State.reset.ten t = {} := getD_replicate_self _ 8 _
theorem State.reset_ring (r : Nat) : State.reset.ring r = {} := getD_replicate_self _ 32 _
theorem State.reset_port (p : Nat) : State.reset.port p = {} := getD_replicate_self _ 16 _
theorem Port.rollMiss_default : ({} : Port).rollMiss.toNat = 0 := BitVec.toNat_zero
theorem Tenancy.slot_default (n : Nat) : ({} : Tenancy).slot n = {} := getD_replicate_self _ 4 _
theorem Tenancy.pin_default (k : Nat) : ({} : Tenancy).pin k = {} := getD_replicate_self _ 32 _
theorem State.reset_perRetired (n : Nat) : State.reset.fw.perRetired.getD n 0 = 0 := getD_replicate_self _ 16 _
theorem State.reset_errlog (n : Nat) : State.reset.mem.errlog.getD n {} = {} := getD_replicate_self _ 16 _
theorem State.reset_ttFree : State.reset.ttFree = Config.ttCap := rfl

/-! ### What the register maps give -/

/-- `FW_`, `XLT_`, `CNT_` and the offsets between the groups hold 0. -/
theorem resetValue_eq_zero {a : Nat}
    (h : 0x1000 ≤ a ∧ a < 0x2000 ∨ 0x4800 ≤ a ∧ a < 0x6000 ∨ 0x7000 ≤ a ∧ a < 0x8000 ∨ 0xEC00 ≤ a ∧ a < 0xF000
      ∨ 0x10000 ≤ a) :
    resetValue a = 0 := by
  simp (disch := omega) only [resetValue, if_neg]

theorem resetValue_ring {a : Nat} (h1 : 0x4000 ≤ a) (h2 : a < 0x4800) :
    resetValue a = if (a - 0x4000) % 0x40 = 0 then 4 * 2 else 0 := by
  have hm : (a - 0x4000) % 0x40 = a % 0x40 := by omega
  simp (disch := omega) only [resetValue, if_neg, if_pos, hm]

theorem resetValue_line {a : Nat} (h1 : 0x8000 ≤ a) (h2 : a < 0xC000) :
    resetValue a = if (a - 0x8000) % 0x400 = 0x20 then 16 else 0 := by
  have hm : (a - 0x8000) % 0x400 = a % 0x400 := by omega
  simp (disch := omega) only [resetValue, if_neg, if_pos, hm]

theorem resetValue_inj {a : Nat} (h1 : 0xE800 ≤ a) (h2 : a < 0xEC00) :
    resetValue a = if (a - 0xE800) % 0x40 = 0 then 4 * 2 ^ 5 else 0 := by
  have hm : (a - 0xE800) % 0x40 = a % 0x40 := by omega
  simp (disch := omega) only [resetValue, if_neg, if_pos, hm]

theorem resetValue_mem {a : Nat} (h1 : 0x6000 ≤ a) (h2 : a < 0x7000) :
    resetValue a = if a - 0x6000 = 0x18 then Config.wayCap else 0 := by
  have hk : a - 0x6000 = 0x18 ↔ a = 0x6018 := by omega
  simp (disch := omega) only [resetValue, if_neg, hk]

theorem resetValue_err {a : Nat} (h1 : 0xE000 ≤ a) (h2 : a < 0xE800) :
    resetValue a = if a - 0xE000 = 0x10 then 8 else 0 := by
  have hk : a - 0xE000 = 0x10 ↔ a = 0xE010 := by omega
  simp (disch := omega) only [resetValue, if_neg, hk]

theorem resetValue_tt {a : Nat} (h1 : 0xC000 ≤ a) (h2 : a < 0xD000) :
    resetValue a = if a - 0xC000 = 0x200 ∨ a - 0xC000 = 0x208 then Config.ttCap else 0 := by
  have hk : (a - 0xC000 = 0x200 ∨ a - 0xC000 = 0x208) ↔ (a = 0xC200 ∨ a = 0xC208) := by omega
  simp (disch := omega) only [resetValue, if_neg, hk]
  rfl

theorem resetValue_led {a : Nat} (h1 : 0xD000 ≤ a) (h2 : a < 0xE000) :
    resetValue a = if a - 0xD000 < 0x600 ∧ (a - 0xD000) % 0xC0 = 0x10 then 0xFFFFFFFF else 0 := by
  by_cases hb : a < 0xD600
  · have ho : a - 0xD000 < 0x600 := by omega
    simp (disch := omega) only [resetValue, if_neg, if_pos, ho, true_and]
  · simp (disch := omega) only [resetValue, if_neg]

/-- The eight tenancies have one map. -/
theorem resetValue_ten_mod {a : Nat} (h1 : 0x2000 ≤ a) (h2 : a < 0x4000) :
    resetValue a = resetValue (0x2000 + (a - 0x2000) % 0x400) := by
  have hm : (0x2000 + (a - 0x2000) % 0x400) % 0x400 = a % 0x400 := by omega
  simp (disch := omega) only [resetValue, if_neg, if_pos, hm]

theorem resetValue_ten_eq_zero {a : Nat} (ha : a < 0x400)
    (h : a ≠ 0x050 ∧ a ≠ 0x058 ∧ a ≠ 0x098 ∧ a ≠ 0x0A8 ∧ a ≠ 0x0C8) :
    resetValue (0x2000 + a) = 0 := by
  have hm : (0x2000 + a) % 0x400 = a := by omega
  simp (disch := omega) only [resetValue, if_neg, if_pos, hm]

/-! ### What each group of registers reads right after reset -/

/-- `CTL_STATE` shows SAFE, the state that the reset enters. -/
theorem State.reset_readCtl {a : Nat} (ha : a < 0x1000) : State.reset.readCtl a = if a = 8 then 1 else resetValue a := by
  refine atOffset_eq (f := fun a => if a = 8 then 1 else resetValue a) rfl fun h => ?_
  simp only [List.forall_mem_cons] at h
  simp (disch := omega) only [resetValue, if_neg]

theorem State.reset_readFw (a : Nat) : State.reset.readFw a = 0 := by
  unfold State.readFw
  split
  · exact congrArg BitVec.toNat (State.reset_perRetired _)
  · exact atOffset_of_zero rfl _

theorem State.reset_readSlot (t n a : Nat) : State.reset.readSlot t n a = 0 := by
  have hh : (({} : Tenancy).holder == some n) = false := rfl
  simp only [State.readSlot, State.reset_ten, Tenancy.slot_default, hh]
  exact atOffset_of_zero rfl a

theorem Pin.read_default (a : Nat) : ({} : Pin).read a = 0 := atOffset_of_zero (by decide) a

theorem State.reset_readTen (t : Nat) {a : Nat} (ha : a < 0x400) : State.reset.readTen t a = resetValue (0x2000 + a) := by
  simp only [State.readTen, State.reset_readSlot, State.reset_ten, Tenancy.pin_default, Pin.read_default]
  split
  case isTrue hslot => exact (resetValue_ten_eq_zero ha (by omega)).symm
  case isFalse =>
    split
    case isTrue hpin => exact (resetValue_ten_eq_zero ha (by omega)).symm
    refine atOffset_eq (f := fun a => resetValue (0x2000 + a)) rfl fun h => ?_
    simp only [List.forall_mem_cons] at h
    exact resetValue_ten_eq_zero ha (by omega)

theorem State.reset_readRing (r a : Nat) : State.reset.readRing r a = if a = 0 then 4 * 2 else 0 := by
  unfold State.readRing State.watched
  rw [State.reset_ring]
  exact atOffset_of_single rfl (by simp) a

theorem State.reset_readXlt (a : Nat) : State.reset.readXlt a = 0 := atOffset_of_zero rfl a

theorem State.reset_readMem (a : Nat) : State.reset.readMem a = if a = 0x18 then Config.wayCap else 0 := by
  unfold State.readMem
  split
  case h_1 hn =>
    have hr := indexed_eq_some_iff.1 hn
    rw [if_neg (by omega)]
    exact congrArg ErrLog.read (State.reset_errlog _)
  · exact atOffset_of_single rfl (by simp) a

theorem State.reset_readLine (p a : Nat) : State.reset.readLine p a = if a = 0x20 then 16 else 0 := by
  have hf : bitOf State.reset.fence.toNat p = false := bitOf_zero p
  simp only [State.readLine, State.reset_port, hf]
  split
  case h_1 hk =>
    have hr := indexed_eq_some_iff.1 hk
    rw [if_neg (by omega)]
    rw [Port.rollMiss_default, bitsOf_zero]
  · exact atOffset_of_single rfl (by simp) a

theorem State.reset_readTt (a : Nat) : State.reset.readTt a = if a = 0x200 ∨ a = 0x208 then Config.ttCap else 0 := by
  unfold State.readTt
  rw [State.reset_ttFree, State.reset_ten]
  by_cases hcap : a = 0x200
  · rw [if_pos hcap, if_pos (Or.inl hcap)]
  by_cases hfree : a = 0x208
  · rw [if_neg hcap, if_pos hfree, if_pos (Or.inr hfree)]
  rw [if_neg hcap, if_neg hfree, if_neg (not_or.2 ⟨hcap, hfree⟩)]
  split
  · rfl
  · exact atOffset_of_zero rfl _

theorem Tenancy.readLed_default (a : Nat) : ({} : Tenancy).readLed a = if a = 0x10 then 0xFFFFFFFF else 0 :=
  atOffset_of_single rfl (by simp) a

theorem Port.readLed_default (a : Nat) : ({} : Port).readLed a = 0 := atOffset_of_zero rfl a

theorem State.reset_readLed (a : Nat) :
    State.reset.readLed a = if a < 0x600 ∧ a % 0xC0 = 0x10 then 0xFFFFFFFF else 0 := by
  unfold State.readLed
  rw [State.reset_ten, Tenancy.readLed_default, State.reset_port, Port.readLed_default]
  by_cases hten : a < 0x600
  · simp only [hten, true_and, if_true]
  have hbook : ¬(a < 0x600 ∧ a % 0xC0 = 0x10) := fun h => hten h.1
  rw [if_neg hten, if_neg hbook]
  split
  · rfl
  split
  · rfl
  split
  · exact show ledPair 0 0 = 0 from rfl
  · rfl

theorem State.reset_readErr (a : Nat) : State.reset.readErr a = if a = 0x10 then 8 else 0 := by
  unfold State.readErr
  split
  case h_1 ht =>
    have hr := indexed_eq_some_iff.1 ht
    rw [State.reset_ten, if_neg (by omega)]
    rfl
  · exact atOffset_of_single rfl (by simp) a

theorem Injector.read_default (a : Nat) : ({} : Injector).read a = if a = 0 then 4 * 2 ^ 5 else 0 :=
  atOffset_of_single rfl (by simp) a

theorem State.reset_readPwr {a : Nat} (h : a % 8 = 0) (ha : a < 0x1000) :
    State.reset.readPwr a = resetValue (0xF000 + a) := by
  unfold State.readPwr
  split
  case h_1 n hn =>
    have hr := indexed_eq_some_iff.1 hn
    rw [State.reset_port]
    simp (disch := omega) only [resetValue, if_neg, if_pos]
    rfl
  case h_2 hn =>
    rw [indexed_eq_none_iff] at hn
    refine atOffset_eq (f := fun a => resetValue (0xF000 + a)) rfl fun ho => ?_
    simp only [List.forall_mem_cons] at ho
    simp (disch := omega) only [resetValue, if_neg]

theorem State.reset_readCnt (a : Nat) : State.reset.readCnt a = 0 := by
  unfold State.readCnt
  split <;> rfl

/-! ### The window -/

theorem ite_lt_eq {a b x y z : Nat} (hlt : a < b → x = z) (hge : b ≤ a → y = z) : (if a < b then x else y) = z := by
  split
  case isTrue h => exact hlt h
  case isFalse h => exact hge (Nat.not_lt.1 h)

/-- Outside `CTL_` the block reads what the register maps give; one line for each group of the window, in the order of offsets. -/
theorem State.reset_regValue_of_ge {a : Nat} (h8 : a % 8 = 0) (h : 0x1000 ≤ a) : State.reset.regValue a = resetValue a := by
  rw [State.regValue, if_neg (Nat.not_lt.2 h)]
  exact ite_lt_eq (fun hi => by rw [State.reset_readFw, resetValue_eq_zero (by omega)]) fun lo =>
    ite_lt_eq (fun hi => by rw [State.reset_readTen _ (Nat.mod_lt _ (by decide)), resetValue_ten_mod lo hi]) fun lo =>
    ite_lt_eq (fun hi => by rw [State.reset_readRing, resetValue_ring lo hi]) fun lo =>
    ite_lt_eq (fun hi => by rw [resetValue_eq_zero (by omega)]) fun lo =>
    ite_lt_eq (fun hi => by rw [State.reset_readXlt, resetValue_eq_zero (by omega)]) fun lo =>
    ite_lt_eq (fun hi => by rw [State.reset_readMem, resetValue_mem lo hi]) fun lo =>
    ite_lt_eq (fun hi => by rw [resetValue_eq_zero (by omega)]) fun lo =>
    ite_lt_eq (fun hi => by rw [State.reset_readLine, resetValue_line lo hi]) fun lo =>
    ite_lt_eq (fun hi => by rw [State.reset_readTt, resetValue_tt lo hi]) fun lo =>
    ite_lt_eq (fun hi => by rw [State.reset_readLed, resetValue_led lo hi]) fun lo =>
    ite_lt_eq (fun hi => by rw [State.reset_readErr, resetValue_err lo hi]) fun lo =>
    ite_lt_eq (fun hi => by rw [State.reset_port, Injector.read_default, resetValue_inj lo hi]) fun lo =>
    ite_lt_eq (fun hi => by rw [resetValue_eq_zero (by omega)]) fun lo =>
    ite_lt_eq (fun hi => by rw [State.reset_readPwr (by omega) (by omega), Nat.add_sub_cancel' lo]) fun lo => by
      rw [State.reset_readCnt, resetValue_eq_zero (by omega)]

/-- Settles O8: `CTL_` has its map but for `CTL_STATE`, and every other group of registers reads on the reset state what its map gives. -/
theorem resetValues : Obligations.ResetValues := by
  unfold Obligations.ResetValues
  intro n hn
  by_cases hctl : 8 * n < 0x1000
  · rw [State.regValue, if_pos hctl, State.reset_readCtl hctl]
    simp only [show 8 * n = 8 ↔ n = 1 by omega]
  · rw [State.reset_regValue_of_ge (by omega) (Nat.not_lt.1 hctl), if_neg (by omega)]

end Sys2Proof.Machine
end

section
/-! The two words that the spec lays out bit by bit, the instruction word (R297, R298) and the command entry (R352): what each bit of them
is, and that they are read back whole. -/

namespace Sys2Proof.Machine

/-! ### Lists -/

theorem getD_of_lt {α : Type} (l : List α) (d : α) {i : Nat} (h : i < l.length) : l.getD i d = l[i] := (List.getElem_eq_getD d).symm

theorem getD_map_apply {α β : Type} {l : List α} {d : α} {n : Nat} (f : α → β) : (l.map f).getD n (f d) = f (l.getD n d) := by
  rw [List.getD_eq_getElem?_getD, List.getElem?_map, List.getD_eq_getElem?_getD, Option.getD_map]

/-! ### The bits of a field -/

/-- The bits of a field, read one by one. -/
theorem extractLsb'_eq_of_getLsbD {n len start : Nat} {x : BitVec n} {y : BitVec len}
    (h : ∀ i, i < len → x.getLsbD (start + i) = y.getLsbD i) : x.extractLsb' start len = y :=
  BitVec.eq_of_getLsbD_eq fun i hi => by simpa [hi] using h i hi

/-- A field keeps the bits of the word that it covers. -/
theorem getLsbD_extractLsb'_sub {n len start i : Nat} (x : BitVec n) (h1 : start ≤ i) (h2 : i < start + len) :
    (x.extractLsb' start len).getLsbD (i - start) = x.getLsbD i := by
  rw [BitVec.getLsbD_extractLsb', decide_eq_true (by omega), Bool.true_and, Nat.add_sub_cancel' h1]

/-! ### The instruction word -/

/-- R297: the fields of the instruction word, from its lowest bit up. -/
theorem getLsbD_toWord (cls : BitVec 6) (op : BitVec 7) (w : LaneWord) (i : Nat) :
    (w.toWord cls op).getLsbD i =
      if i < 32 then w.lo.getLsbD i
      else if i < 38 then w.a.getLsbD (i - 32)
      else if i < 44 then w.d.getLsbD (i - 38)
      else if i < 45 then w.ua
      else if i < 46 then w.i
      else if i < 49 then w.gp.getLsbD (i - 46)
      else if i < 50 then w.gn
      else if i < 51 then w.g
      else if i < 58 then op.getLsbD (i - 51)
      else cls.getLsbD (i - 58) := by
  have hword : (w.toWord cls op).getLsbD i = (cls ++ op ++ BitVec.ofBool w.g ++ BitVec.ofBool w.gn ++ w.gp ++ BitVec.ofBool w.i
      ++ BitVec.ofBool w.ua ++ w.d ++ w.a ++ w.lo).getLsbD i := rfl
  simp only [hword, BitVec.getLsbD_append, BitVec.getLsbD_ofBool, Nat.sub_sub]
  obtain h | h | h | h | h | h | h | h | h : i < 38 ∨ (38 ≤ i ∧ i < 44) ∨ i = 44 ∨ i = 45 ∨ (46 ≤ i ∧ i < 49) ∨ i = 49 ∨ i = 50
      ∨ (51 ≤ i ∧ i < 58) ∨ 58 ≤ i := by omega
  all_goals simp (disch := omega) [if_pos, if_neg, h]

theorem wordClass_toWord (cls : BitVec 6) (op : BitVec 7) (w : LaneWord) : wordClass (w.toWord cls op) = cls :=
  extractLsb'_eq_of_getLsbD fun i hi => by
    simp (disch := omega) only [getLsbD_toWord, if_neg, Nat.add_sub_cancel_left]

theorem wordOp_toWord (cls : BitVec 6) (op : BitVec 7) (w : LaneWord) : wordOp (w.toWord cls op) = op :=
  extractLsb'_eq_of_getLsbD fun i hi => by
    simp (disch := omega) only [getLsbD_toWord, if_neg, if_pos, Nat.add_sub_cancel_left]

theorem ofWord_toWord (cls : BitVec 6) (op : BitVec 7) (w : LaneWord) (h : w.other = none) :
    LaneWord.ofWord (w.toWord cls op) = w := by
  obtain ⟨g, gn, gp, i, ua, d, a, lo, other⟩ := w
  obtain rfl : other = none := h
  simp only [LaneWord.ofWord, LaneWord.mk.injEq]
  refine ⟨?_, ?_, extractLsb'_eq_of_getLsbD fun j hj => ?_, ?_, ?_, extractLsb'_eq_of_getLsbD fun j hj => ?_,
    extractLsb'_eq_of_getLsbD fun j hj => ?_, extractLsb'_eq_of_getLsbD fun j hj => ?_, trivial⟩
  all_goals simp (disch := omega) [getLsbD_toWord, if_neg, if_pos, -BitVec.getLsbD_eq_getElem]

theorem toWord_ofWord (x : W64) : (LaneWord.ofWord x).toWord (wordClass x) (wordOp x) = x := by
  refine BitVec.eq_of_getLsbD_eq fun i hi => ?_
  rw [getLsbD_toWord]
  simp only [LaneWord.ofWord, wordClass, wordOp]
  obtain h | h | h | h | h | h | h | h | h | h : i < 32 ∨ (32 ≤ i ∧ i < 38) ∨ (38 ≤ i ∧ i < 44) ∨ i = 44 ∨ i = 45
      ∨ (46 ≤ i ∧ i < 49) ∨ i = 49 ∨ i = 50 ∨ (51 ≤ i ∧ i < 58) ∨ 58 ≤ i := by omega
  case inl => rw [if_pos h]; exact getLsbD_extractLsb'_sub x (Nat.zero_le i) (by omega)
  all_goals simp (disch := omega) only [if_pos, if_neg, if_true, getLsbD_extractLsb'_sub, h]

/-- Settles O3: the word is laid out field by field, so each field is read back, and a word is the word of its fields. -/
theorem laneWordRoundTrip : Obligations.LaneWordRoundTrip := by
  unfold Obligations.LaneWordRoundTrip
  exact ⟨fun cls op w h => ⟨wordClass_toWord cls op w, wordOp_toWord cls op w, ofWord_toWord cls op w h⟩, toWord_ofWord⟩

/-! ### The command entry -/

/-- R352: the fields of a command entry, from its lowest bit up. -/
theorem getLsbD_toBits (op : BitVec 8) (e : CmdEntry) (i : Nat) :
    (e.toBits op).getLsbD i =
      if i < 8 then op.getLsbD i
      else if i < 32 then e.flags.getLsbD (i - 8)
      else if i < 64 then e.usertag.getLsbD (i - 32)
      else if i < 128 then e.result.getLsbD (i - 64)
      else if i < 192 then e.arg0.getLsbD (i - 128)
      else e.arg1.getLsbD (i - 192) := by
  have hbits : (e.toBits op).getLsbD i = (e.arg1 ++ e.arg0 ++ e.result ++ e.usertag ++ e.flags ++ op).getLsbD i := rfl
  simp only [hbits, BitVec.getLsbD_append, Nat.sub_sub]
  obtain h | h | h | h | h : i < 32 ∨ (32 ≤ i ∧ i < 64) ∨ (64 ≤ i ∧ i < 128) ∨ (128 ≤ i ∧ i < 192) ∨ 192 ≤ i := by omega
  all_goals simp (disch := omega) [if_pos, if_neg, h]

theorem entryOpcode_toBits (op : BitVec 8) (e : CmdEntry) : entryOpcode (e.toBits op) = op :=
  extractLsb'_eq_of_getLsbD fun i hi => by
    simp (disch := omega) only [getLsbD_toBits, if_pos, Nat.zero_add]

theorem ofBits_toBits (op : BitVec 8) (e : CmdEntry) : CmdEntry.ofBits (e.toBits op) = e := by
  obtain ⟨flags, usertag, result, arg0, arg1⟩ := e
  simp only [CmdEntry.ofBits, CmdEntry.mk.injEq]
  refine ⟨extractLsb'_eq_of_getLsbD fun j hj => ?_, extractLsb'_eq_of_getLsbD fun j hj => ?_,
    extractLsb'_eq_of_getLsbD fun j hj => ?_, extractLsb'_eq_of_getLsbD fun j hj => ?_, extractLsb'_eq_of_getLsbD fun j hj => ?_⟩
  all_goals simp (disch := omega) only [getLsbD_toBits, if_neg, if_pos, Nat.add_sub_cancel_left]

theorem toBits_ofBits (x : BitVec 256) : (CmdEntry.ofBits x).toBits (entryOpcode x) = x := by
  refine BitVec.eq_of_getLsbD_eq fun i hi => ?_
  rw [getLsbD_toBits]
  repeat' split
  all_goals exact getLsbD_extractLsb'_sub x (by omega) (by omega)

/-! ### Bytes of a number -/

/-- The bytes of a number from the off-th on are those of the number less its lowest off bytes. -/
theorem toLe_drop (n v off : Nat) : (toLe n v).drop off = toLe (n - off) (v / 256 ^ off) := by
  induction off generalizing n v with
  | zero => simp
  | succ off ih =>
    cases n with
    | zero => simp [toLe]
    | succ n => rw [toLe, List.drop_succ_cons, ih, Nat.div_div_eq_div_mul, Nat.add_sub_add_right, Nat.pow_succ']

theorem toLe_take {n k : Nat} (v : Nat) (h : k ≤ n) : (toLe n v).take k = toLe k v := by
  induction k generalizing n v with
  | zero => rfl
  | succ k ih =>
    obtain ⟨n, rfl⟩ : ∃ m, n = m + 1 := ⟨n - 1, by omega⟩
    rw [toLe, toLe, List.take_succ_cons, ih _ (by omega)]

/-- k bytes at off of a number laid out in n. -/
theorem leAt_toLe {n off k : Nat} (v : Nat) (h : off + k ≤ n) : leAt (toLe n v) off k = v / 256 ^ off % 256 ^ k := by
  rw [leAt, toLe_drop, toLe_take _ (by omega), leNat_toLe]

/-- A field of whole bytes is the number that they spell. -/
theorem ofNat_leAt_toLe {n off k w a : Nat} (x : BitVec w) (h : off + k ≤ n) (ha : a = 8 * off) :
    BitVec.ofNat (8 * k) (leAt (toLe n x.toNat) off k) = x.extractLsb' a (8 * k) := by
  have h256 : ∀ m, 256 ^ m = 2 ^ (8 * m) := fun m => by rw [Nat.pow_mul]
  refine BitVec.eq_of_toNat_eq ?_
  rw [leAt_toLe _ h, BitVec.toNat_ofNat, BitVec.extractLsb'_toNat, Nat.shiftRight_eq_div_pow, ha, h256, h256, Nat.mod_mod]

theorem cmdOf_toLe (x : BitVec 256) : cmdOf (toLe 32 x.toNat) = ((entryOpcode x).toNat, CmdEntry.ofBits x) := by
  have hop : leAt (toLe 32 x.toNat) 0 1 = (entryOpcode x).toNat := by
    refine (leAt_toLe _ (by omega)).trans (.trans ?_ (BitVec.extractLsb'_toNat 0 8 x).symm)
    exact congrArg (· % 2 ^ 8) (Nat.div_one _)
  have hflags := ofNat_leAt_toLe (n := 32) (off := 1) (k := 3) (a := 8) x (by omega) rfl
  have htag := ofNat_leAt_toLe (n := 32) (off := 4) (k := 4) (a := 32) x (by omega) rfl
  have hres := ofNat_leAt_toLe (n := 32) (off := 8) (k := 8) (a := 64) x (by omega) rfl
  have harg0 := ofNat_leAt_toLe (n := 32) (off := 16) (k := 8) (a := 128) x (by omega) rfl
  have harg1 := ofNat_leAt_toLe (n := 32) (off := 24) (k := 8) (a := 192) x (by omega) rfl
  rw [cmdOf, hop, hflags, htag, hres, harg0, harg1]
  rfl

/-- Settles O4: the entry is laid out field by field and its fields are whole bytes, so the front end reads them back. -/
theorem cmdEntryRoundTrip : Obligations.CmdEntryRoundTrip := by
  unfold Obligations.CmdEntryRoundTrip
  refine ⟨fun op e => ⟨entryOpcode_toBits op e, ofBits_toBits op e, ?_⟩, toBits_ofBits⟩
  rw [cmdOf_toLe, entryOpcode_toBits, ofBits_toBits]

end Sys2Proof.Machine
end

section
/-! What writing a coach, and writing D, leaves (R48, R304–R306). -/

namespace Sys2Proof.Machine

/-! ### Elements of a list changed by a condition -/

/-- The first element that satisfies p, after those that satisfy q have been changed by a function that keeps p. -/
theorem find?_modWhere {α : Type} {p q : α → Bool} {f : α → α} (l : List α) (h : ∀ a, q a = true → p (f a) = p a) :
    (modWhere q f l).find? p = (l.find? p).map fun a => if q a then f a else a := by
  have hp : (p ∘ fun a => if q a then f a else a) = p := funext fun a => by
    simp only [Function.comp_apply]
    split
    · exact h a ‹_›
    · rfl
  rw [modWhere, List.find?_map, hp]

/-! ### One coach of the state -/

section
variable (s : State) (c : CoachRef) (k : Coach)

@[simp] theorem State.setCoach_tasks : (s.setCoach c k).tasks = s.tasks := rfl
@[simp] theorem State.setCoach_tens : (s.setCoach c k).tens = s.tens := rfl
@[simp] theorem State.setCoach_ten (t : Nat) : (s.setCoach c k).ten t = s.ten t := rfl
@[simp] theorem State.setCoach_mem : (s.setCoach c k).mem = s.mem := rfl
@[simp] theorem State.setCoach_clusters : (s.setCoach c k).clusters = s.clusters := rfl
@[simp] theorem State.setCoach_tick : (s.setCoach c k).tick = s.tick := rfl

/-- A cohort after the coaches of one of its kind have been changed. -/
def Cohort.withCoach (h : Cohort) (n : Nat) (k : Coach) : Cohort := { h with coaches := modAt h.coaches n fun _ => k }

theorem State.cohort?_modCohort (t n a b : Nat) (f : Cohort → Cohort) (hf : ∀ h, (f h).task = h.task ∧ (f h).num = h.num) :
    (s.modCohort t n f).cohort? a b = (s.cohort? a b).map fun h => if h.task == t && h.num == n then f h else h :=
  find?_modWhere _ fun h _ => by rw [(hf h).1, (hf h).2]

/-- A cohort looked up has the numbers it was looked up by. -/
theorem State.cohort?_ids {s : State} {a b : Nat} {h : Cohort} (e : s.cohort? a b = some h) : h.task = a ∧ h.num = b := by
  simpa using List.find?_some e

/-- The cohort changed is the one looked up. -/
theorem State.cohort?_modCohort_same {s : State} {t n : Nat} {h : Cohort} {f : Cohort → Cohort} (e : s.cohort? t n = some h)
    (hf : ∀ h, (f h).task = h.task ∧ (f h).num = h.num) : (s.modCohort t n f).cohort? t n = some (f h) := by
  obtain ⟨h1, h2⟩ := State.cohort?_ids e
  simp [s.cohort?_modCohort t n t n f hf, e, h1, h2]

theorem State.cohort?_modCohort_ne {t n a b : Nat} (f : Cohort → Cohort) (hf : ∀ h, (f h).task = h.task ∧ (f h).num = h.num)
    (hne : a ≠ t ∨ b ≠ n) : (s.modCohort t n f).cohort? a b = s.cohort? a b := by
  rw [s.cohort?_modCohort t n a b f hf]
  rcases e : s.cohort? a b with _ | h
  · rfl
  · obtain ⟨rfl, rfl⟩ := State.cohort?_ids e
    have : ¬(h.task = t ∧ h.num = n) := fun ⟨h1, h2⟩ => hne.elim (· h1) (· h2)
    simp [this]

theorem State.setCoach_eq : s.setCoach c k = s.modCohort c.task c.cohort (·.withCoach c.coach k) := rfl

theorem Cohort.withCoach_ids (n : Nat) (k : Coach) (h : Cohort) : (h.withCoach n k).task = h.task ∧ (h.withCoach n k).num = h.num :=
  ⟨rfl, rfl⟩

end

theorem getElem?_modAt {α : Type} (l : List α) (n m : Nat) (f : α → α) : (modAt l n f)[m]? = if m = n then (l[n]?).map f else l[m]? := by
  unfold modAt
  split
  case h_1 a e =>
    by_cases h : m = n
    · obtain ⟨hn, rfl⟩ := List.getElem?_eq_some_iff.1 e
      simp [h, hn]
    · simp [h, Ne.symm h]
  case h_2 e =>
    by_cases h : m = n
    · simp [h, e]
    · simp [h]

/-- A coach's place in the state: its cohort, and its place among the cohort's coaches. -/
theorem State.coach?_eq_some {s : State} {c : CoachRef} {k : Coach} :
    s.coach? c = some k ↔ ∃ h, s.cohort? c.task c.cohort = some h ∧ h.coaches[c.coach]? = some k := by
  simp [State.coach?, Option.bind_eq_some_iff]

theorem State.cohort?_setCoach {s : State} {c : CoachRef} {h : Cohort} (k : Coach) (e : s.cohort? c.task c.cohort = some h) :
    (s.setCoach c k).cohort? c.task c.cohort = some (h.withCoach c.coach k) :=
  State.cohort?_modCohort_same e (Cohort.withCoach_ids c.coach k)

theorem State.coach?_setCoach {s : State} {c : CoachRef} {k0 : Coach} (k : Coach) (e : s.coach? c = some k0) :
    (s.setCoach c k).coach? c = some k := by
  obtain ⟨h, hc, hk⟩ := State.coach?_eq_some.1 e
  exact State.coach?_eq_some.2 ⟨_, State.cohort?_setCoach k hc, by simp [Cohort.withCoach, getElem?_modAt, hk]⟩

theorem State.coach?_setCoach_ne (s : State) {c d : CoachRef} (k : Coach) (hne : d.task ≠ c.task ∨ d.cohort ≠ c.cohort ∨ d.coach ≠ c.coach) :
    (s.setCoach c k).coach? d = s.coach? d := by
  by_cases hco : d.task = c.task ∧ d.cohort = c.cohort
  · have hn : d.coach ≠ c.coach := by omega
    rw [State.coach?, State.coach?, hco.1, hco.2]
    rcases e : s.cohort? c.task c.cohort with _ | h
    · rw [State.setCoach_eq, s.cohort?_modCohort _ _ _ _ _ (Cohort.withCoach_ids c.coach k), e]; rfl
    · rw [State.cohort?_setCoach k e]
      simp [Cohort.withCoach, getElem?_modAt, hn]
  · have hne' : d.task ≠ c.task ∨ d.cohort ≠ c.cohort := by omega
    rw [State.coach?, State.coach?, State.setCoach_eq, State.cohort?_modCohort_ne s _ (Cohort.withCoach_ids c.coach k) hne']

/-- Settles O15: a coach is one element of the list of its cohort. -/
theorem coachFrame : Obligations.CoachFrame := by
  unfold Obligations.CoachFrame
  refine fun s c k k0 h0 => ⟨State.coach?_setCoach k h0, fun d hd => s.coach?_setCoach_ne k hd, rfl, fun a b h e => ?_⟩
  rw [State.setCoach_eq, s.cohort?_modCohort _ _ a b _ (Cohort.withCoach_ids c.coach k), e]
  refine ⟨_, rfl, ?_⟩
  dsimp only
  split <;> rfl

/-! ### A result written to D -/

theorem fD_lt (w : LaneWord) : fD w < 64 := w.d.isLt

section
variable {k : Coach} {w : LaneWord}

theorem Coach.writeD_u {js : List Nat} (f : Nat → List W32) (hu : fUD w = true) (hj : js ≠ []) :
    k.writeD w js f = k.setRegs true (fD w) (js.headD 0) (f (js.headD 0)) := by
  cases js with
  | nil => exact absurd rfl hj
  | cons j js => simp [Coach.writeD, hu]

/-- R304: a result of each acting thread in its own registers, from D on. -/
theorem Coach.reg_writeD_g {js : List Nat} {f : Nat → List W32} (hk : smOk 0 0 k.g = true) (hu : fUD w = false) (hnd : js.Nodup)
    (hf : ∀ i ∈ js, fD w + (f i).length ≤ 64) {m : Nat} (j : Nat) (hm : m < 64) :
    (k.writeD w js f).reg false m j
      = if j ∈ js ∧ fD w ≤ m ∧ m < fD w + (f j).length then (f j).getD (m - fD w) 0 else k.reg false m j := by
  unfold Coach.writeD
  rw [hu, if_neg (by simp)]
  induction js generalizing k with
  | nil => simp
  | cons i js ih =>
    obtain ⟨hi, hnd⟩ := List.nodup_cons.1 hnd
    obtain ⟨g, ur, e, hg, -⟩ := k.setRegs_frame false (fD w) i (f i)
    rw [List.foldl_cons, ih (by rw [e]; exact hg hk) hnd fun i h => hf i (List.mem_cons_of_mem _ h),
      Coach.reg_setRegs_g hk _ _ _ _ _ hm (hf i List.mem_cons_self)]
    by_cases hji : j = i
    · subst hji
      simp [hi]
    · simp [hji]

end

theorem threadsOf_nodup (a : W32) : (threadsOf a).Nodup := (threadsOf_sorted a).imp Nat.ne_of_lt

theorem threadsOf_ne_nil {a : W32} (h : a ≠ 0) : threadsOf a ≠ [] := by
  intro hnil
  refine h (BitVec.eq_of_getLsbD_eq fun i hi => ?_)
  have : i ∉ threadsOf a := by rw [hnil]; exact List.not_mem_nil
  rw [mem_threadsOf] at this
  simpa [hi] using this

/-- Settles O16: the fold of `writeD` writes D of each acting thread once, or with UD the u register once. -/
theorem writeDFrame : Obligations.WriteDFrame := by
  unfold Obligations.WriteDFrame
  intro k w act f hg hu
  obtain ⟨g, ur, e, -, -, hgk, huk⟩ := k.writeD_frame w (threadsOf act) fun j => [f j]
  have hread : fUD w = false → ∀ j m, m < 64 → (k.writeD w (threadsOf act) fun j => [f j]).reg false m j
      = if j ∈ threadsOf act ∧ m = fD w then f j else k.reg false m j := fun hud j m hm => by
    have hlen : ∀ i ∈ threadsOf act, fD w + [f i].length ≤ 64 := fun i _ => fD_lt w
    have hone : ∀ m, fD w ≤ m ∧ m < fD w + 1 ↔ m = fD w := fun m => by omega
    rw [Coach.reg_writeD_g hg hud (threadsOf_nodup act) hlen j hm]
    simp only [List.length_singleton, hone]
    split
    case isTrue h => rw [h.2, Nat.sub_self]; rfl
    case isFalse => rfl
  refine ⟨by rw [e], fun hud j hj ha => ?_, fun hud j n _ hn hne => ?_, fun hud => by rw [e]; exact huk hud, fun hud ha => ?_,
      fun hud => ⟨by rw [e]; exact hgk hud, fun n hn => ?_⟩⟩
  · rw [hread hud j _ (fD_lt w), if_pos ⟨(mem_threadsOf act j).2 ⟨hj, ha⟩, rfl⟩]
  · rw [hread hud j n hn, if_neg]
    rintro ⟨hmem, rfl⟩
    have hact := ((mem_threadsOf act j).1 hmem).2
    simp [hact] at hne
  · rw [Coach.writeD_u _ hud (threadsOf_ne_nil ha), Coach.reg_setRegs_u hu]
    simp
  · by_cases hnil : threadsOf act = []
    · simp [Coach.writeD, hnil]
    · rw [Coach.writeD_u _ hud hnil, Coach.reg_setRegs_u hu, if_neg]
      simp only [List.length_singleton]
      omega

end Sys2Proof.Machine
end

section
/-! The integer, predicate and coach instructions of class 0x01 (R303, R312): the operations of the model are those of the table, and each
instruction writes its result and moves its coach on. -/

namespace Sys2Proof.Machine

/-! ### The operations -/

theorem bitOf_fSub (w : LaneWord) {n : Nat} (h : n < 5) : bitOf (fSub w) n = w.lo.getLsbD n := by
  rw [bitOf_eq_testBit, fSub, bitsOf, Nat.pow_zero, Nat.div_one, Nat.testBit_mod_two_pow, decide_eq_true h, Bool.true_and]
  rfl

theorem getLsbD_ofNat_bitsOf (a : W32) (n lo len : Nat) (i : Nat) : (BitVec.ofNat n (bitsOf a.toNat lo len)).getLsbD i =
    (decide (i < n) && (decide (i < len) && a.getLsbD (lo + i))) := by
  unfold bitsOf
  rw [← Nat.shiftRight_eq_div_pow, BitVec.getLsbD_ofNat, Nat.testBit_mod_two_pow, Nat.testBit_shiftRight]
  rfl

theorem divS_eq (a b : W32) : divS a b = if b = 0 then -1 else a.sdiv b := by
  unfold divS wrap32
  split
  · rfl
  · exact BitVec.eq_of_toInt_eq (by rw [BitVec.toInt_ofInt, BitVec.toInt_sdiv])

theorem remS_eq (a b : W32) : remS a b = if b = 0 then a else a.srem b := by
  unfold remS wrap32
  rw [← BitVec.toInt_srem, BitVec.ofInt_toInt]

theorem sarW_eq (a b : W32) : sarW a b = if 32 ≤ b.toNat then (if a.msb then 0xFFFFFFFF else 0) else a.sshiftRight b.toNat := by
  unfold sarW
  split
  case isTrue h =>
    rw [Nat.min_eq_right h]
    cases hm : a.msb
    · rw [BitVec.sshiftRight_eq_of_msb_false hm, BitVec.ushiftRight_eq_zero (Nat.le_refl 32)]; rfl
    · rw [BitVec.sshiftRight_eq_of_msb_true hm, BitVec.ushiftRight_eq_zero (Nat.le_refl 32)]; rfl
  case isFalse h => rw [Nat.min_eq_left (by omega)]

theorem ite_slt_eq_ite_sle (a b : W32) {x y : W32} (h : a = b → x = y) : (if a.slt b then x else y) = if a.sle b then x else y := by
  rw [BitVec.sle_eq_slt_or_eq]
  by_cases hab : a = b
  · simp [hab, h hab]
  · simp [hab]

theorem ite_ult_eq_ite_le (a b : W32) {x y : W32} (h : a = b → x = y) : (if a.ult b then x else y) = if a ≤ b then x else y := by
  by_cases hab : a = b
  · simp [hab, h hab]
  · have : a.ult b = true ↔ a ≤ b := by
      have := fun h => hab (BitVec.eq_of_toNat_eq h)
      rw [BitVec.ult, decide_eq_true_eq, BitVec.le_def]
      exact ⟨Nat.le_of_lt, fun h => Nat.lt_of_le_of_ne h this⟩
    simp [this]

theorem popcount_toNat (a : W32) (n : Nat) : popcount n a.toNat = ((List.range n).filter a.getLsbD).length := by
  induction n with
  | zero => rfl
  | succ n ih =>
    have hbit : bitOf a.toNat n = a.getLsbD n := bitOf_eq_testBit _ _
    rw [popcount, ih, List.range_succ, List.filter_append, List.length_append, hbit, Nat.add_comm]
    cases h : a.getLsbD n <;> simp [b2n, h]

theorem clz_eq_bitVec_clz (a : W32) : clz a = a.clz := by
  unfold clz
  split
  case isTrue h => rw [h]; rfl
  case isFalse h =>
    have h1 := BitVec.two_pow_sub_clz_le_toNat_of_ne_zero (x := a) (by omega) h
    have h2 := BitVec.toNat_lt_two_pow_sub_clz (x := a)
    have h3 : a.clz.toNat < 32 := BitVec.lt_def.1 (BitVec.clz_lt_iff_ne_zero.2 h)
    have h4 : Nat.log2 a.toNat = 31 - a.clz.toNat :=
      (Nat.log2_eq_iff (by simpa using fun hz => h (BitVec.eq_of_toNat_eq hz))).2
        ⟨h1, by rwa [show 31 - a.clz.toNat + 1 = 32 - a.clz.toNat by omega]⟩
    refine BitVec.eq_of_toNat_eq ?_
    rw [h4, BitVec.toNat_ofNat]
    omega

/-! ### Bit fields -/

theorem bfLen_eq_fieldLen (b : W32) : bfLen b = fieldLen b := by
  have h : bitsOf b.toNat 8 5 = ((b >>> 8) &&& 31).toNat := by
    rw [BitVec.toNat_and, BitVec.toNat_ushiftRight, Nat.shiftRight_eq_div_pow]
    exact (Nat.and_two_pow_sub_one_eq_mod (b.toNat / 2 ^ 8) 5).symm
  unfold bfLen fieldLen
  rw [h]
  simp only [BitVec.toNat_eq]
  rfl

theorem bfPos_eq (b : W32) : bfPos b = (b &&& 31).toNat := by
  rw [BitVec.toNat_and, bfPos, bitsOf, Nat.pow_zero, Nat.div_one]
  exact (Nat.and_two_pow_sub_one_eq_mod b.toNat 5).symm

theorem fieldLen_bounds (b : W32) : 0 < fieldLen b ∧ fieldLen b ≤ 32 := by
  unfold fieldLen
  have h : ((b >>> 8) &&& 31).toNat < 32 := by
    rw [BitVec.toNat_and]
    exact Nat.and_lt_two_pow (n := 5) _ (by decide)
  split
  · decide
  · rename_i hne
    have : ((b >>> 8) &&& 31).toNat ≠ 0 := fun hz => hne (BitVec.eq_of_toNat_eq hz)
    omega

theorem getLsbD_lowMask {n : Nat} (h : n ≤ 32) (i : Nat) : (BitVec.allOnes 32 >>> (32 - n)).getLsbD i = decide (i < n) := by
  rw [BitVec.getLsbD_ushiftRight, BitVec.getLsbD_allOnes]
  exact decide_eq_decide.2 (by omega)

theorem ofNat_bitsOf (a : W32) {n : Nat} (p : Nat) (h : n ≤ 32) :
    BitVec.ofNat 32 (bitsOf a.toNat p n) = (a >>> p) &&& (BitVec.allOnes 32 >>> (32 - n)) := by
  refine BitVec.eq_of_getLsbD_eq fun i hi => ?_
  rw [getLsbD_ofNat_bitsOf, BitVec.getLsbD_and, getLsbD_lowMask h, BitVec.getLsbD_ushiftRight, decide_eq_true hi, Bool.true_and,
    Bool.and_comm]

/-- A field of n bits is sign-extended by a shift up and an arithmetic shift down. -/
theorem wrap32_signedOf (v : W32) {n : Nat} (h0 : 0 < n) (h : n ≤ 32) : wrap32 (signedOf v.toNat n) = (v <<< (32 - n)).sshiftRight (32 - n) := by
  have hpow : 2 ^ n = 2 * 2 ^ (n - 1) := by rw [← Nat.pow_succ', Nat.succ_eq_add_one, Nat.sub_add_cancel h0]
  have hint : signedOf v.toNat n = (v.setWidth n).toInt := by
    have hhalf : v.toNat % 2 ^ n < 2 ^ (n - 1) ↔ 2 * (v.toNat % 2 ^ n) < 2 ^ n := by omega
    rw [signedOf, BitVec.toInt_eq_toNat_cond, BitVec.toNat_setWidth]
    simp only [hhalf]
    push_cast
    rfl
  have hext : wrap32 (signedOf v.toNat n) = (v.setWidth n).signExtend 32 := congrArg _ hint
  rw [hext]
  refine BitVec.eq_of_getLsbD_eq fun i hi => ?_
  simp only [BitVec.getLsbD_signExtend, BitVec.getLsbD_sshiftRight, BitVec.getLsbD_shiftLeft, BitVec.msb_eq_getLsbD_last, BitVec.getLsbD_setWidth]
  by_cases hin : i < n
  · have h1 : 32 - n + i < 32 := by omega
    simp [hin, hi, h1, Nat.not_le.2 hi, Nat.lt_irrefl]
  · have h1 : ¬ 32 - n + i < 32 := by omega
    have h2 : n - 1 < n := by omega
    have h3 : 31 - (32 - n) = n - 1 := by omega
    have h4 : ¬ 31 < 32 - n := by omega
    simp [hin, hi, h1, h2, h3, h4]

theorem bfe_eq (a b : W32) (sx : Bool) : bfe a b sx =
    let v := (a >>> (b &&& 31).toNat) &&& (BitVec.allOnes 32 >>> (32 - fieldLen b))
    if sx then (v <<< (32 - fieldLen b)).sshiftRight (32 - fieldLen b) else v := by
  obtain ⟨h0, h⟩ := fieldLen_bounds b
  have hlt : bitsOf a.toNat (bfPos b) (fieldLen b) < 2 ^ 32 :=
    Nat.lt_of_lt_of_le (Nat.mod_lt _ (Nat.two_pow_pos _)) (Nat.pow_le_pow_right (by decide) h)
  have hv := ofNat_bitsOf a (bfPos b) h
  have hs := wrap32_signedOf (BitVec.ofNat 32 (bitsOf a.toNat (bfPos b) (fieldLen b))) h0 h
  rw [BitVec.toNat_ofNat, Nat.mod_eq_of_lt hlt] at hs
  simp only [bfe, bfLen_eq_fieldLen, hs, hv]
  rw [bfPos_eq]

theorem bfi_eq (a b c : W32) : bfi a b c = (a &&& ~~~fieldMask b) ||| ((c <<< (b &&& 31).toNat) &&& fieldMask b) := by
  have : BitVec.ofNat 32 ((2 ^ bfLen b - 1) * 2 ^ bfPos b) = fieldMask b := by
    obtain ⟨h0, h⟩ := fieldLen_bounds b
    refine BitVec.eq_of_getLsbD_eq fun i hi => ?_
    unfold fieldMask
    rw [bfLen_eq_fieldLen, bfPos_eq, BitVec.getLsbD_shiftLeft, getLsbD_lowMask h]
    rw [BitVec.getLsbD_ofNat, Nat.testBit_mul_two_pow, Nat.testBit_two_pow_sub_one, decide_eq_true hi]
    grind
  unfold bfi
  rw [this, bfPos_eq]

/-! ### Wide products and the move of a high byte -/

theorem wrap64_mul_toInt (a b : W32) : wrap64 (a.toInt * b.toInt) = a.signExtend 64 * b.signExtend 64 := by
  unfold wrap64
  rw [BitVec.ofInt_mul]
  rfl

theorem ofNat_mul_toNat (a b : W32) : BitVec.ofNat 64 (a.toNat * b.toNat) = a.setWidth 64 * b.setWidth 64 := by
  apply BitVec.eq_of_toNat_eq
  simp [Nat.mul_mod]

theorem immZ_shiftLeft (w : LaneWord) : immZ w <<< 24 = (w.lo >>> 8) <<< 24 := by
  apply BitVec.eq_of_getLsbD_eq
  intro i hi
  unfold immZ fImm
  simp only [BitVec.getLsbD_shiftLeft, getLsbD_ofNat_bitsOf, BitVec.getLsbD_ushiftRight]
  by_cases h : i < 24
  · simp [h]
  · have h24 : i - 24 < 24 := by omega
    simp [h, h24, Nat.lt_trans h24]

/-! ### One register for each thread -/

section
variable {s s1 : State} {c : CoachRef} {cls op : Nat} {w : LaneWord} {x : LaneCtx}

theorem lane_aluBody (g : Coach → LaneWord → Nat → W32) (h : Issues s c cls op w s1 x) :
    s.lane c cls op w (aluBody g) = .next (s1.setCoach c (x.k.writeD w x.threads fun j => [g x.k w j]).step) := by
  obtain ⟨rfl, rfl, -⟩ := ctx_of h.1
  exact body_of h

theorem lane_aluBody64 (g : Coach → LaneWord → Nat → W64) (h : Issues s c cls op w s1 x) :
    s.lane c cls op w (aluBody64 g) = .next (s1.setCoach c (x.k.writeD w x.threads fun j => words64 (g x.k w j)).step) := by
  obtain ⟨rfl, rfl, -⟩ := ctx_of h.1
  exact body_of h

end

/-- The operands of thread j, as a coach and a word give them. -/
def Coach.operands (k : Coach) (w : LaneWord) (j : Nat) : Operands :=
  ⟨w, opA k w j, opB k w j, opC k w j, opD k w j, predBit k (fSub w % 8) j⟩

/-- Each row of `intResult` is an instruction that writes D of each thread with that result. -/
theorem exec_of_intResult {i : Instr} {op : Nat} {c : CoachRef} {w : LaneWord} {f : Operands → W32} (hi : laneRow i = some (1, op, c, w))
    (hf : intResult i = some f) : ∃ g : Coach → LaneWord → Nat → W32, (∀ s, exec i s = s.lane c 1 op w (aluBody g)) ∧
      ∀ k j, g k w j = f (k.operands w j) := by
  unfold intResult at hf
  split at hf <;> cases hf <;> cases hi
  case h_7 => exact ⟨_, fun _ => rfl, fun k j => divS_eq _ _⟩
  case h_9 => exact ⟨_, fun _ => rfl, fun k j => remS_eq _ _⟩
  case h_17 => exact ⟨_, fun _ => rfl, fun k j => sarW_eq _ _⟩
  case h_18 => exact ⟨_, fun _ => rfl, fun k j => ite_slt_eq_ite_sle _ _ id⟩
  case h_19 => exact ⟨_, fun _ => rfl, fun k j => ite_ult_eq_ite_le _ _ id⟩
  case h_20 => exact ⟨_, fun _ => rfl, fun k j => ite_slt_eq_ite_sle _ _ Eq.symm⟩
  case h_21 => exact ⟨_, fun _ => rfl, fun k j => ite_ult_eq_ite_le _ _ Eq.symm⟩
  case h_22 => exact ⟨_, fun _ => rfl, fun k j => congrArg _ (popcount_toNat _ _)⟩
  case h_23 => exact ⟨_, fun _ => rfl, fun k j => clz_eq_bitVec_clz _⟩
  case h_24 => exact ⟨_, fun _ => rfl, fun k j => (bfe_eq _ _ _).trans (by rw [bitOf_fSub _ (by decide)]; rfl)⟩
  case h_25 => exact ⟨_, fun _ => rfl, fun k j => bfi_eq _ _ _⟩
  case h_28 => exact ⟨_, fun _ => rfl, fun k j => congrArg _ (immZ_shiftLeft _)⟩
  all_goals exact ⟨_, fun _ => rfl, fun k j => rfl⟩

/-- Settles O17: each row writes D of each thread with its operation's result. -/
theorem laneIntegerResults : Obligations.LaneIntegerResults := by
  unfold Obligations.LaneIntegerResults
  intro i op c w f s s1 x hi hf hx
  obtain ⟨g, hexec, hg⟩ := exec_of_intResult hi hf
  obtain ⟨-, rfl, -⟩ := ctx_of hx.1
  rw [hexec, lane_aluBody g hx]
  simp only [hg]
  rfl

/-! ### A pair for each thread -/

theorem words64_eq (v : W64) : words64 v = [v.extractLsb' 0 32, v.extractLsb' 32 32] := by
  have hlo : v.setWidth 32 = v.extractLsb' 0 32 := BitVec.setWidth_eq_extractLsb' (by decide)
  have hhi : (v >>> 32).setWidth 32 = v.extractLsb' 32 32 := by
    refine BitVec.eq_of_toNat_eq ?_
    rw [BitVec.toNat_setWidth, BitVec.toNat_ushiftRight, BitVec.extractLsb'_toNat]
  rw [words64, hlo, hhi]

theorem exec_of_intResult64 {i : Instr} {op : Nat} {c : CoachRef} {w : LaneWord} {f : LaneCtx → Nat → W64}
    (hi : laneRow i = some (1, op, c, w)) (hf : intResult64 i = some f) :
    ∃ g : Coach → LaneWord → Nat → W64, (∀ s, exec i s = s.lane c 1 op w (aluBody64 g)) ∧ ∀ x : LaneCtx, ∀ j, g x.k x.w j = f x j := by
  unfold intResult64 at hf
  split at hf <;> cases hf <;> cases hi
  · exact ⟨_, fun _ => rfl, fun x j => rfl⟩
  · exact ⟨_, fun _ => rfl, fun x j => rfl⟩
  · exact ⟨_, fun _ => rfl, fun x j => wrap64_mul_toInt _ _⟩
  · exact ⟨_, fun _ => rfl, fun x j => ofNat_mul_toNat _ _⟩

/-- Settles O18: each row writes the pair at D of each thread with its operation's result. -/
theorem laneIntegerPairResults : Obligations.LaneIntegerPairResults := by
  unfold Obligations.LaneIntegerPairResults
  intro i op c w f s s1 x hi hf hx
  obtain ⟨g, hexec, hg⟩ := exec_of_intResult64 hi hf
  obtain ⟨-, rfl, -⟩ := ctx_of hx.1
  rw [hexec, lane_aluBody64 g hx]
  simp only [hg, words64_eq]

/-! ### A predicate for each thread -/

theorem testBit_foldl_or (l : List Nat) (a i : Nat) :
    (l.foldl (fun a b => a ||| 2 ^ b) a).testBit i = (a.testBit i || decide (i ∈ l)) := by
  induction l generalizing a with
  | nil => simp
  | cons b l ih =>
    rw [List.foldl_cons, ih, Nat.testBit_or, Nat.testBit_two_pow]
    by_cases h : b = i
    · simp [h]
    · simp [h, Ne.symm h]

theorem testBit_maskOf (l : List Nat) (i : Nat) : (maskOf l).testBit i = decide (i ∈ l) := by
  rw [maskOf, testBit_foldl_or, Nat.zero_testBit, Bool.false_or]

theorem getLsbD_predMask (js : List Nat) (f : Nat → Bool) (j : Nat) :
    (predMask js f).getLsbD j = (decide (j < 32) && decide (j ∈ js ∧ f j = true)) := by
  rw [predMask, BitVec.getLsbD_ofNat, testBit_maskOf]
  simp only [List.mem_filter]

/-- A predicate written for the acting threads: its new value there, its old one elsewhere. -/
theorem predBit_setPred {k : Coach} (h : smOk 0 0 k.p = true) (p : Nat) (act : W32) (f : Nat → Bool) (q j : Nat) :
    predBit (k.setPred p act (predMask (threadsOf act) f)) q j = if q = p ∧ act.getLsbD j = true then f j else predBit k q j := by
  unfold predBit
  rw [Coach.pred_setPred h]
  by_cases hq : q = p
  · subst hq
    by_cases hj : j < 32
    · rw [if_pos rfl, BitVec.getLsbD_or, BitVec.getLsbD_and, BitVec.getLsbD_and, getLsbD_predMask, BitVec.getLsbD_not]
      simp only [mem_threadsOf]
      cases act.getLsbD j <;> simp [hj]
    · simp [BitVec.getLsbD_of_ge _ _ (Nat.not_lt.1 hj)]
  · simp [hq]

theorem mod_eight_cases (n : Nat) :
    n % 8 = 0 ∨ n % 8 = 1 ∨ n % 8 = 2 ∨ n % 8 = 3 ∨ n % 8 = 4 ∨ n % 8 = 5 ∨ n % 8 = 6 ∨ n % 8 = 7 := by omega

theorem intCond_iff (sub : Nat) (a b : W32) : intCond sub a b = true ↔ cmpHolds sub a b := by
  unfold intCond cmpHolds
  obtain h | h | h | h | h | h | h | h := mod_eight_cases sub
  all_goals cases bitOf sub 3 <;> simp [h, BitVec.slt, BitVec.ult]

theorem cqMaskOf_getLsbD (x : LaneCtx) (i : Nat) : (cqMaskOf x).getLsbD i = (predBit x.k (fA x.w % 8) i && x.act.getLsbD i) := by
  rw [cqMaskOf, BitVec.getLsbD_and, predBit]

theorem cqAny_iff (x : LaneCtx) :
    cqMaskOf x ≠ 0 ↔ ∃ i, i < 32 ∧ x.act.getLsbD i = true ∧ predBit x.k (fA x.w % 8) i = true := by
  constructor
  · intro h
    refine Classical.byContradiction fun hno => h (BitVec.eq_of_getLsbD_eq fun i hi => ?_)
    rw [cqMaskOf_getLsbD]
    cases ha : x.act.getLsbD i
    · simp
    · cases hp : predBit x.k (fA x.w % 8) i
      · simp
      · exact absurd ⟨i, hi, ha, hp⟩ hno
  · rintro ⟨i, -, ha, hp⟩ h0
    have := cqMaskOf_getLsbD x i
    rw [h0, ha, hp] at this
    simp at this

theorem cqAll_iff (x : LaneCtx) :
    cqMaskOf x = x.act ↔ ∀ i, i < 32 → x.act.getLsbD i = true → predBit x.k (fA x.w % 8) i = true := by
  constructor
  · intro h i _ ha
    have := cqMaskOf_getLsbD x i
    rw [h, ha] at this
    simpa using this.symm
  · refine fun h => BitVec.eq_of_getLsbD_eq fun i hi => ?_
    rw [cqMaskOf_getLsbD]
    cases ha : x.act.getLsbD i
    · simp
    · simp [h i hi ha]

/-- Each row of `predResult` is an instruction that writes predicate D of each thread with that result. -/
theorem exec_of_predResult {i : Instr} {op : Nat} {c : CoachRef} {w : LaneWord} {p : LaneCtx → Nat → Prop}
    (hi : laneRow i = some (1, op, c, w)) (hf : predResult i = some p) :
    ∃ g : LaneCtx → Nat → Bool, (∀ s, exec i s = s.lane c 1 op w fun s x => predBody (fun _ _ => g x) s x) ∧ ∀ x j, g x j = true ↔ p x j := by
  unfold predResult at hf
  split at hf <;> cases hf <;> cases hi
  · exact ⟨fun x j => intCond (fSub x.w) (opA x.k x.w j) (opB x.k x.w j), fun _ => rfl, fun x j => intCond_iff _ _ _⟩
  · refine ⟨fun x j => popFn (fSub x.w) (predBit x.k (fA x.w % 8) j) (predBit x.k (fB x.w % 8) j), fun _ => rfl, fun x j => ?_⟩
    dsimp only
    generalize predBit x.k (fA x.w % 8) j = a, predBit x.k (fB x.w % 8) j = b
    obtain h | h | h | h | h | h | h | h := mod_eight_cases (fSub x.w)
    all_goals cases a <;> cases b <;> simp [popFn, h]
  · exact ⟨fun x _ => decide (cqMaskOf x ≠ 0), fun _ => rfl, fun x j => decide_eq_true_iff.trans (cqAny_iff x)⟩
  · exact ⟨fun x _ => cqMaskOf x == x.act, fun _ => rfl, fun x j => beq_iff_eq.trans (cqAll_iff x)⟩

/-- Predicates p of a list written from A leave every other predicate, and keep the rest of the coach. -/
theorem foldl_setPred {k : Coach} (h : smOk 0 0 k.p = true) (act : W32) (f : Nat → Nat → Bool) (l : List Nat) (hl : l.Nodup) :
    ∃ p, l.foldl (fun k p => k.setPred p act (predMask (threadsOf act) (f p))) k = { k with p := p }
      ∧ ∀ q j, predBit (l.foldl (fun k p => k.setPred p act (predMask (threadsOf act) (f p))) k) q j
        = if q ∈ l ∧ act.getLsbD j = true then f q j else predBit k q j := by
  induction l generalizing k with
  | nil => exact ⟨k.p, rfl, by simp⟩
  | cons a l ih =>
    obtain ⟨ha, hl⟩ := List.nodup_cons.1 hl
    obtain ⟨p, e, hp⟩ := ih (k := k.setPred a act (predMask (threadsOf act) (f a))) (smSet_ok _ _ h) hl
    refine ⟨p, by rw [List.foldl_cons, e]; rfl, fun q j => ?_⟩
    rw [List.foldl_cons, hp, predBit_setPred h]
    by_cases hq : q = a
    · subst hq; simp [ha]
    · simp [hq]

/-- Settles O19: the predicate rows write one predicate under the mask of the acting threads, pr.unpack the eight in turn. -/
theorem lanePredicateResults : Obligations.LanePredicateResults := by
  unfold Obligations.LanePredicateResults
  refine ⟨fun i op c w p s s1 x hi hf hx hp => ?_, fun c w s s1 x hx hp => ?_⟩
  · obtain ⟨g, hexec, hg⟩ := exec_of_predResult hi hf
    obtain ⟨rfl, rfl, -⟩ := ctx_of hx.1
    have hbit := predBit_setPred hp (fD x.w % 8) x.act (g x)
    refine ⟨_, (hexec s).trans (body_of hx), rfl, fun j _ ha => ?_, fun j ha => ?_, fun n hn => ?_⟩
    · rw [← hg x j]
      exact (hbit (fD x.w % 8) j).trans (if_pos ⟨rfl, ha⟩) ▸ Iff.rfl
    · exact (hbit (fD x.w % 8) j).trans (if_neg (by simp [ha]))
    · exact (Coach.pred_setPred hp _ _ _ n).trans (if_neg hn)
  · obtain ⟨rfl, rfl, -⟩ := ctx_of hx.1
    obtain ⟨p, e, hbit⟩ := foldl_setPred hp x.act (fun p j => (opA x.k x.w j).getLsbD p) (List.range 8) List.nodup_range
    refine ⟨_, body_of hx, by rw [LaneCtx.threads, e]; rfl, fun j q hj hq => ?_⟩
    exact (hbit q j).trans (by simp [hq])

/-! ### Results across threads -/

theorem bitsOf_low (a : W32) (n : Nat) : bitsOf a.toNat 0 n = a.toNat % 2 ^ n := by rw [bitsOf, Nat.pow_zero, Nat.div_one]

theorem exec_of_coachResult {i : Instr} {op : Nat} {c : CoachRef} {w : LaneWord} {f : State → LaneCtx → Nat → W32}
    (hi : laneRow i = some (1, op, c, w)) (hf : coachResult i = some f) :
    ∃ g : LaneCtx → Nat → W32, (∀ s, exec i s = s.lane c 1 op w fun s x => aluBody (fun _ _ => g x) s x) ∧ ∀ s x j, g x j = f s x j := by
  unfold coachResult at hf
  split at hf <;> cases hf <;> cases hi
  · exact ⟨fun x => cxGet x.k x.w, fun _ => rfl, fun s x j => by simp only [cxGet, bitsOf_low] <;> rfl⟩
  · exact ⟨fun x _ => cqMaskOf x, fun _ => rfl, fun s x j => rfl⟩
  · refine ⟨fun x _ => BitVec.ofNat 32 (popcount 32 (cqMaskOf x).toNat), fun _ => rfl, fun s x j => ?_⟩
    have hbits : (cqMaskOf x).getLsbD = fun i => x.act.getLsbD i && predBit x.k (fA x.w % 8) i :=
      funext fun i => (cqMaskOf_getLsbD x i).trans (Bool.and_comm _ _)
    simp only [popcount_toNat, hbits]
  · exact ⟨fun x j => packPreds x.k j, fun _ => rfl, fun s x j => rfl⟩

/-- Settles O20: each of these writes D with what it reads of the coach; mov.sr latches the tick as well. -/
theorem laneCoachResults : Obligations.LaneCoachResults := by
  unfold Obligations.LaneCoachResults
  refine ⟨fun i op c w f s s1 x hi hf hx => ?_, fun c w s s1 x hx => ?_⟩
  · obtain ⟨g, hexec, hg⟩ := exec_of_coachResult hi hf
    obtain ⟨rfl, rfl, -⟩ := ctx_of hx.1
    simp only [← hg s1]
    exact (hexec s).trans (body_of hx)
  · obtain ⟨rfl, rfl, -⟩ := ctx_of hx.1
    exact body_of hx

end Sys2Proof.Machine
end

section
/-! Floating-point and conversion instructions (R167, R313–R315): each writes its result, and reading a number and rounding it back gives
the number. -/

namespace Sys2Proof.Machine

/-! ### Floating-point instructions -/

theorem exec_of_floatResult {i : Instr} {op : Nat} {c : CoachRef} {w : LaneWord} {f : W32 → W32 → W32 → W32}
    (hi : laneRow i = some (2, op, c, w)) (hf : floatResult i = some f) (s : State) :
    exec i s = s.lane c 2 op w (aluBody fun k w j => f (opA k w j) (opBF k w j) (opC k w j)) := by
  unfold floatResult at hf
  split at hf <;> cases hf <;> cases hi
  all_goals rfl

/-- Settles O21: each row writes D of each thread with its rounded result; fcmp writes predicate D with its condition. -/
theorem laneFloatResults : Obligations.LaneFloatResults := by
  unfold Obligations.LaneFloatResults
  refine ⟨fun i op c w f s s1 x hi hf hx => ?_, fun c w s s1 x hx => ?_⟩
  · rw [exec_of_floatResult hi hf, lane_aluBody _ hx]
  · obtain ⟨rfl, rfl, -⟩ := ctx_of hx.1
    exact body_of hx

/-! ### Conversions -/

/-- The state after a conversion: its counts, and its words in D. -/
def State.converted (s : State) (x : LaneCtx) (f : Nat → CvtOut) : State :=
  ((s.count (cntCvtNan x.cohort.cluster) ((x.threads.map fun j => (f j).nan).sum)).count (cntCvtSat x.cohort.cluster)
    ((x.threads.map fun j => (f j).sat).sum)).setCoach x.ref (x.k.writeD x.w x.threads fun j => (f j).words).step

section
variable {s s1 : State} {c : CoachRef} {cls op : Nat} {w : LaneWord} {x : LaneCtx}

theorem lane_cvtBody (g : Coach → LaneWord → Nat → CvtOut) (h : Issues s c cls op w s1 x) :
    s.lane c cls op w (cvtBody g) = .next (s1.converted x (g x.k x.w)) := body_of h

/-- R315: a fixed-point conversion, where its exponent is one that it takes. -/
theorem lane_cvtExpBody (g : Coach → LaneWord → Nat → CvtOut) (h : Issues s c cls op w s1 x) :
    s.lane c cls op w (cvtExpBody g)
      = .next (if cvtExp w < -96 ∨ 31 < cvtExp w then s1.instrFault x 8 x.low else s1.converted x (g x.k x.w)) := by
  obtain ⟨-, rfl, -⟩ := ctx_of h.1
  exact body_of h

end

theorem exec_of_cvtResult {i : Instr} {op : Nat} {c : CoachRef} {w : LaneWord} {f : LaneCtx → Nat → CvtOut}
    (hi : laneRow i = some (3, op, c, w)) (hf : cvtResult i = some f) :
    ∃ g : Coach → LaneWord → Nat → CvtOut, (∀ s, exec i s = s.lane c 3 op w (cvtBody g)) ∧ ∀ x : LaneCtx, g x.k x.w = f x := by
  unfold cvtResult at hf
  split at hf <;> cases hf <;> cases hi
  all_goals exact ⟨_, fun _ => rfl, fun _ => rfl⟩

/-- Settles O22: each row is one conversion body; the two fixed-point rows look at their exponent first. -/
theorem laneConversionResults : Obligations.LaneConversionResults := by
  unfold Obligations.LaneConversionResults
  intro c w s s1 x writes
  have hwrites : ∀ {cls op f}, Issues s c cls op w s1 x → s1.converted x f = writes f := fun hx => by
    obtain ⟨rfl, rfl, -⟩ := ctx_of hx.1
    rfl
  refine ⟨fun i op f hi hf hx => ?_, fun hx h1 h2 => ?_, fun hx h1 h2 => ?_, fun he => ⟨fun hx => ?_, fun hx => ?_⟩⟩
  · obtain ⟨g, hexec, hg⟩ := exec_of_cvtResult hi hf
    rw [hexec, lane_cvtBody g hx, hg, hwrites hx]
  · have hin : ¬(cvtExp w < -96 ∨ 31 < cvtExp w) := by omega
    obtain ⟨-, hw, -⟩ := ctx_of hx.1
    refine (lane_cvtExpBody _ hx).trans ?_
    rw [if_neg hin, hwrites hx]
    simp only [words64_eq, hw]
    rfl
  · have hin : ¬(cvtExp w < -96 ∨ 31 < cvtExp w) := by omega
    obtain ⟨-, hw, -⟩ := ctx_of hx.1
    refine (lane_cvtExpBody _ hx).trans ?_
    rw [if_neg hin, hwrites hx]
    simp only [hw]
    rfl
  · exact (lane_cvtExpBody _ hx).trans (by rw [if_pos he])
  · exact (lane_cvtExpBody _ hx).trans (by rw [if_pos he])

/-! ### A number read and rounded -/

/-- A magnitude that the format holds exactly, at the exponent where its last bit stands, is not rounded. -/
theorem roundCode_exact {m : Nat} {e : Int} (h : max (-149) (e + Nat.log2 m - 23) = e) :
    roundCode f32Fmt m e false = magCode f32Fmt m e := by
  have hcut : cutTo f32Fmt m e = ⟨m, 0, 0, e⟩ := by
    have hq : max (1 - (f32Fmt.bias : Int) - f32Fmt.mb) (e + Nat.log2 m - f32Fmt.mb) = e := h
    simp [cutTo, hq]
  rw [roundCode, hcut]
  rfl

/-- R167: a subnormal number of FP32. -/
theorem roundCode_subnormal {c : Nat} (h : c < 2 ^ 23) : roundCode f32Fmt c (-149) false = c := by
  have hlog : c = 0 ∨ Nat.log2 c < 23 := by
    by_cases h0 : c = 0
    · exact .inl h0
    · exact .inr ((Nat.log2_lt h0).2 h)
  have hexp : max (-149) (-149 + (Nat.log2 c : Int) - 23) = -149 := by
    rcases hlog with rfl | hlog
    · rfl
    · omega
  rw [roundCode_exact hexp]
  by_cases h0 : c = 0
  · simp [magCode, h0]
  · simp [magCode, h0, f32Fmt]

/-- R167: a normal number of FP32. -/
theorem roundCode_normal {c : Nat} (h : 2 ^ 23 ≤ c) :
    roundCode f32Fmt (2 ^ 23 + c % 2 ^ 23) ((c / 2 ^ 23 : Nat) - 150) false = c := by
  have hlog : Nat.log2 (2 ^ 23 + c % 2 ^ 23) = 23 := (Nat.log2_eq_iff (by omega)).2 (by omega)
  have hdiv : 1 ≤ c / 2 ^ 23 := by omega
  rw [roundCode_exact (by rw [hlog]; omega)]
  have hne : 2 ^ 23 + c % 2 ^ 23 ≠ 0 := by omega
  rw [magCode, if_neg hne]
  have hq : ((c / 2 ^ 23 : Nat) - 150 - (1 - (f32Fmt.bias : Int) - f32Fmt.mb)).toNat = c / 2 ^ 23 - 1 := by
    simp only [f32Fmt]
    omega
  rw [hq]
  simp only [f32Fmt]
  omega

/-- R167: what an FP32 word stands for. -/
theorem f32_eq (a : W32) : f32 a =
    if a.toNat % 2 ^ 31 = 0x7F800000 then .inf (bitOf a.toNat 31)
    else if 0x7F7FFFFF < a.toNat % 2 ^ 31 then .nan
    else if a.toNat % 2 ^ 31 < 2 ^ 23 then .fin (bitOf a.toNat 31) (a.toNat % 2 ^ 31) (-149)
    else .fin (bitOf a.toNat 31) (2 ^ 23 + a.toNat % 2 ^ 31 % 2 ^ 23) ((a.toNat % 2 ^ 31 / 2 ^ 23 : Nat) - 150) := by
  have hexp : ∀ x : Int, x - (127 : Nat) - (23 : Nat) = x - 150 := fun x => by omega
  have hlow : (1 : Int) - 150 = -149 := rfl
  simp only [f32, fDecode, f32Fmt, hexp, hlow, Option.some.injEq, gt_iff_lt, eq_comm (a := 0x7F800000)]

/-- An FP32 word is an infinity, a NaN, or a number that rounds to its own magnitude. -/
theorem f32_cases (a : W32) :
    (a.toNat % 2 ^ 31 = 0x7F800000 ∧ f32 a = .inf (bitOf a.toNat 31))
      ∨ (0x7F800000 < a.toNat % 2 ^ 31 ∧ f32 a = .nan)
      ∨ (a.toNat % 2 ^ 31 < 0x7F800000
        ∧ ∃ m e, f32 a = .fin (bitOf a.toNat 31) m e ∧ roundCode f32Fmt m e false = a.toNat % 2 ^ 31) := by
  rw [f32_eq]
  split
  · next h1 => exact .inl ⟨h1, rfl⟩
  · split
    · exact .inr (.inl ⟨by omega, rfl⟩)
    · split
      · next h3 => exact .inr (.inr ⟨by omega, _, _, rfl, roundCode_subnormal h3⟩)
      · next h3 => exact .inr (.inr ⟨by omega, _, _, rfl, roundCode_normal (Nat.not_lt.1 h3)⟩)

/-- A magnitude of 31 bits under a sign. -/
theorem getLsbD_withSign {c : Nat} (h : c < 2 ^ 31) (neg : Bool) (i : Nat) :
    (BitVec.ofNat 32 (withSign f32Fmt neg c)).getLsbD i = if i < 31 then c.testBit i else (decide (i = 31) && neg) := by
  have hs : withSign f32Fmt neg c = 2 ^ 31 * b2n neg + c := by
    simp only [withSign, f32Fmt]
    omega
  rw [hs, BitVec.getLsbD_ofNat, Nat.testBit_two_pow_mul_add _ h]
  by_cases hi : i < 31
  · simp [hi, Nat.lt_trans hi]
  · by_cases h31 : i = 31
    · subst h31
      cases neg <;> simp [b2n]
    · have hge : ¬i < 32 := by omega
      simp [hi, h31, hge]

theorem testBit_mod_toNat (a : W32) {i : Nat} (h : i < 31) : (a.toNat % 2 ^ 31).testBit i = a.getLsbD i := by
  rw [Nat.testBit_mod_two_pow, decide_eq_true h, Bool.true_and]
  rfl

theorem mod_two_pow_lt (n k : Nat) : n % 2 ^ k < 2 ^ k := Nat.mod_lt _ (Nat.two_pow_pos k)

/-- A word is its magnitude under its sign. -/
theorem withSign_self (a : W32) : BitVec.ofNat 32 (withSign f32Fmt (bitOf a.toNat 31) (a.toNat % 2 ^ 31)) = a := by
  refine BitVec.eq_of_getLsbD_eq fun i hi => ?_
  rw [getLsbD_withSign (mod_two_pow_lt _ 31), bitOf_eq_testBit]
  by_cases h : i < 31
  · rw [if_pos h, testBit_mod_toNat a h]
  · obtain rfl : i = 31 := by omega
    rfl

theorem withSign_false (a : W32) : BitVec.ofNat 32 (withSign f32Fmt false (a.toNat % 2 ^ 31)) = a &&& 0x7FFFFFFF := by
  refine BitVec.eq_of_toNat_eq ?_
  have hand : (a &&& 0x7FFFFFFF).toNat = a.toNat % 2 ^ 31 := Nat.and_two_pow_sub_one_eq_mod a.toNat 31
  have hsign : withSign f32Fmt false (a.toNat % 2 ^ 31) = a.toNat % 2 ^ 31 := by simp [withSign, b2n]
  rw [hand, hsign, BitVec.toNat_ofNat]
  omega

theorem withSign_not (a : W32) :
    BitVec.ofNat 32 (withSign f32Fmt (!bitOf a.toNat 31) (a.toNat % 2 ^ 31)) = a ^^^ 0x80000000 := by
  refine BitVec.eq_of_getLsbD_eq fun i hi => ?_
  have hmask : (0x80000000 : W32).getLsbD i = decide (i = 31) := by
    rw [show (0x80000000 : W32) = BitVec.twoPow 32 31 from rfl, BitVec.getLsbD_twoPow]
    simp [eq_comm]
  rw [getLsbD_withSign (mod_two_pow_lt _ 31), bitOf_eq_testBit, BitVec.getLsbD_xor, hmask]
  by_cases h : i < 31
  · rw [if_pos h, testBit_mod_toNat a h, decide_eq_false (by omega), Bool.xor_false]
  · obtain rfl : i = 31 := by omega
    simp [BitVec.getLsbD]

/-- R313: a number that rounds to a magnitude that is finite. -/
theorem rn32_fin {m c : Nat} {e : Int} (neg : Bool) (h : roundCode f32Fmt m e false = c) (hc : c < 0x7F800000) :
    rn32 (.fin neg m e) = BitVec.ofNat 32 (withSign f32Fmt neg c) := by
  rw [rn32, rn32Sticky, h, Nat.min_eq_left (Nat.le_of_lt hc)]

/-- Settles O23: each word is an infinity, a NaN or a number that rounds to its own magnitude. -/
theorem floatReadsBack : Obligations.FloatReadsBack := by
  unfold Obligations.FloatReadsBack
  intro a
  have hself := withSign_self a
  have habs := withSign_false a
  have hneg := withSign_not a
  obtain ⟨hc, he⟩ | ⟨hc, he⟩ | ⟨hc, m, e, he, hr⟩ := f32_cases a
  · rw [hc] at hself habs hneg
    rw [he]
    exact ⟨hself, fun _ => ⟨habs, hneg⟩⟩
  · rw [he]
    exact ⟨rfl, fun h => by simp [FVal.isNan] at h⟩
  · rw [he]
    exact ⟨(rn32_fin _ hr hc).trans hself, fun _ => ⟨(rn32_fin _ hr hc).trans habs, (rn32_fin _ hr hc).trans hneg⟩⟩

end Sys2Proof.Machine
end

section
/-! The whole machine: a step, an idle tick, the decoder on written-out words, and what every reset leaves (R33, R297, R448–R453). -/

namespace Sys2Proof.Machine

/-! ### Steps -/

/-- Settles O1: the two arms of `step`. -/
theorem stepRunsFront : Obligations.StepRunsFront := by
  unfold Obligations.StepRunsFront
  intro c cs s h
  rw [step, h]

/-- Settles O5. -/
theorem wordsDecode : Obligations.WordsDecode := by
  unfold Obligations.WordsDecode
  decide

/-- Settles O7. -/
theorem resetShape : Obligations.ResetShape := by
  unfold Obligations.ResetShape State.Shape Cohort.Canonical Coach.Canonical
  decide

/-! ### An idle tick may write memory

A request of a stream that leaves after its dry tick is counted (R222) at the boundary. With the counter at its maximum its overflow
writes a record (R434), and with the event ring enabled the record goes to the ring in memory (R445). -/

/-- An order of a mover whose stream runs dry in tick 0. -/
def dryOrder : Order :=
  { id := 0, unit := .mover 0, queue := 0, ten := 0, ctx := 0, task := 0, cohort := 0, cluster := 0, op := 0, addr := 0, ac := 0
    amount := 0, ticket := none, mode := 0, nan := 0, self := 0, fsize := 0, accepted := 0
    body := .stRun { (default : StreamDesc) with deadline := 0, prio := true } {} }

/-- The block in tick 1, with a request of that stream not yet sent, the counter of late requests at its maximum and the event ring
enabled. -/
def lateBlock : State :=
  { State.reset with
    tick := 1, orders := [dryOrder], cnt := [(cntLate 0, Config.cntMax)], ev := { State.reset.ev with en := true }
    mem := { reqs := [{ link := 0, tag := 0, op := .read, pa := 0, len := 64, latency := false, ten := 0, va := none, unit := 0
                        who := .xfer 0 0 }] } }

/-- The record of the overflow, code 0xAA, is the second in the event ring. -/
theorem lateBlock_atTick_pool : memGet (lateBlock.atTick 2).mem.pool 32 = 0xAA := by decide

/-- Refutes O2: where a late request overflows its counter, the idle tick writes the event ring in memory. -/
theorem not_idleTick : ¬ Obligations.IdleTick := by
  unfold Obligations.IdleTick
  intro h
  have hpass : lateBlock.mayPass (lateBlock.tick + 1) = true := by decide
  obtain ⟨t, hstep, -, -, -, -, -, -, -, -, -, -, hpool, -⟩ := (h lateBlock rfl).2 hpass
  have ht : lateBlock.atTick 2 = t := by
    have hs : step lateBlock = .next (lateBlock.atTick 2) := by
      rw [step, show lateBlock.pending = [] from rfl]
      exact congrArg Host.Outcome.next (if_pos hpass)
    exact Host.Outcome.next.inj (hs.symm.trans hstep)
  have hbyte := lateBlock_atTick_pool
  rw [ht, hpool] at hbyte
  exact absurd hbyte (by decide)

/-! ### Resets (R448–R453) -/

/-- The block wiped, in a state and with an on-die queue of records. -/
def State.wipedTo (s : State) (b : BlockSt) (q : List EvRec) (n : W32) : State := { s.wiped with st := b, ev := { queue := q, seq := n } }

section
variable (s : State) (b : BlockSt) (q : List EvRec) (n : W32)

theorem State.wipedTo_readSlot (t m a : Nat) : (s.wipedTo b q n).readSlot t m a = State.reset.readSlot t m a := by
  have hten : (s.wipedTo b q n).ten t = {} := State.reset_ten t
  simp only [State.readSlot, hten, State.reset_ten, Tenancy.slot_default]

theorem State.wipedTo_readTen (t a : Nat) : (s.wipedTo b q n).readTen t a = State.reset.readTen t a := by
  have hten : (s.wipedTo b q n).ten t = {} := State.reset_ten t
  simp only [State.readTen, State.wipedTo_readSlot, hten, State.reset_ten]

/-- Outside `CTL_` a wiped block reads as after reset: no register there shows what the wipe keeps. -/
theorem State.wipedTo_regValue_of_ge {a : Nat} (h : 0x1000 ≤ a) (hb : b ≠ .contained) :
    (s.wipedTo b q n).regValue a = State.reset.regValue a := by
  have hst : (b == .contained) = false := beq_false_of_ne hb
  have hfw (x) : (s.wipedTo b q n).readFw x = State.reset.readFw x := rfl
  have hring (r x) : (s.wipedTo b q n).readRing r x = State.reset.readRing r x := rfl
  have hxlt (x) : (s.wipedTo b q n).readXlt x = State.reset.readXlt x := rfl
  have hmem (x) : (s.wipedTo b q n).readMem x = State.reset.readMem x := rfl
  have hline (p x) : (s.wipedTo b q n).readLine p x = State.reset.readLine p x := rfl
  have htt (x) : (s.wipedTo b q n).readTt x = State.reset.readTt x := rfl
  have hled (x) : (s.wipedTo b q n).readLed x = State.reset.readLed x := rfl
  have herr (x) : (s.wipedTo b q n).readErr x = State.reset.readErr x := by
    simp only [State.readErr, show (s.wipedTo b q n).st = b from rfl, hst]
    rfl
  have hport (p) : (s.wipedTo b q n).port p = State.reset.port p := rfl
  have hpwr (x) : (s.wipedTo b q n).readPwr x = State.reset.readPwr x := rfl
  have hcnt (x) : (s.wipedTo b q n).readCnt x = State.reset.readCnt x := rfl
  simp only [State.regValue, if_neg (Nat.not_lt.2 h), hfw, State.wipedTo_readTen, hring, hxlt, hmem, hline, htt, hled, herr, hport,
    hpwr, hcnt]

/-- In `CTL_` it does but for the state and the tick. -/
theorem State.wipedTo_readCtl {a : Nat} (h1 : a ≠ 8) (h6 : a ≠ 48) : (s.wipedTo b q n).readCtl a = State.reset.readCtl a := by
  have h1' : ¬8 = a := fun h => h1 h.symm
  have h6' : ¬48 = a := fun h => h6 h.symm
  simp only [State.readCtl, atOffset, if_neg h1', if_neg h6']
  rfl

theorem State.wipedTo_regValue {m : Nat} (h1 : m ≠ 1) (h6 : m ≠ 6) (hb : b ≠ .contained) :
    (s.wipedTo b q n).regValue (8 * m) = resetValue (8 * m) := by
  by_cases hctl : 8 * m < 0x1000
  · rw [State.regValue, if_pos hctl, State.wipedTo_readCtl s b q n (by omega) (by omega), State.reset_readCtl hctl, if_neg (by omega)]
  · rw [State.wipedTo_regValue_of_ge s b q n (by omega) hb, State.reset_regValue_of_ge (by omega) (Nat.not_lt.1 hctl)]

end

/-- A record written with the event ring disabled and a queue with room waits in the queue. -/
theorem State.event_of_disabled {s : State} (h : s.ev = {}) (code detail : Nat) (who : EvWho) (resp i0 i1 : Nat) :
    ∃ r, s.event code detail who resp i0 i1 = { s with ev := { queue := [r], seq := 1 } } := by
  simp only [State.event, State.evWrite, h, State.evFlush]
  exact ⟨_, rfl⟩

/-- A reset, whatever the state it finds, leaves the block wiped in SAFE or in OFF. -/
theorem State.toSafe_eq (s : State) : ∃ b q n, b ≠ .contained ∧ s.toSafe = s.wipedTo b q n := by
  unfold State.toSafe State.moveBlock
  dsimp only
  split
  · next hp =>
    split
    · next hs => exact ⟨.safe, [], 0, by decide, by rw [State.wipedTo, hs]; rfl⟩
    · obtain ⟨r, hr⟩ := State.event_of_disabled (s := { s.wiped with st := .safe }) rfl 0xAF 0 {} 0
        (blockCode .safe + blockCode s.st * 8 + 0) feWord
      exact ⟨.safe, [r], 1, by decide, hr⟩
  · next hp => exact ⟨.off, [], 0, by decide, by simp only [State.wipedTo, State.wiped, hp]; rfl⟩

/-- Settles O9: each of the four resets wipes the block, and no register shows what the wipe keeps. -/
theorem everyResetIsTheSame : Obligations.EveryResetIsTheSame := by
  unfold Obligations.EveryResetIsTheSame
  intro i s hi
  have key : ∃ (s' : State) (b : BlockSt) (q : List EvRec) (n : W32), exec i s = .next (s'.wipedTo b q n) ∧ b ≠ .contained
      ∧ s'.mem.pool = s.mem.pool ∧ s'.pending = s.pending := by
    rcases hi with rfl | ⟨rfl, hst, hlow⟩ | ⟨rfl, hp⟩ | ⟨rfl, hp⟩
    · obtain ⟨b, q, n, hb, he⟩ := (State.nextTick { s with resetLow := true }).toSafe_eq
      exact ⟨_, b, q, n, congrArg Host.Outcome.next he, hb, rfl, rfl⟩
    · obtain ⟨b, q, n, hb, he⟩ := s.nextTick.toSafe_eq
      exact ⟨s.nextTick, b, q, n, congrArg Host.Outcome.next ((if_neg (by simp [hst, hlow])).trans he), hb, rfl, rfl⟩
    · exact ⟨State.nextTick { s with powered := false }, .off, [], 0, when_next.2 ⟨hp, rfl⟩, by decide, rfl, rfl⟩
    · obtain ⟨b, q, n, hb, he⟩ := State.toSafe_eq { s with powered := true, st := .off }
      exact ⟨_, b, q, n, when_next.2 ⟨by rw [hp]; rfl, he.symm⟩, hb, rfl, rfl⟩
  obtain ⟨s', b, q, n, he, hb, hpool, hpend⟩ := key
  exact ⟨_, he, fun m _ h1 h6 => State.wipedTo_regValue s' b q n h1 h6 hb, rfl, rfl, rfl, rfl, rfl, rfl, rfl, rfl, rfl, hpool, hpend⟩

end Sys2Proof.Machine
end

section
/-! Faults of encoding and of fetch (R56, R299, R324, R330, R369): each aborts the task, and an aborted task leaves neither cohort nor
order (R236). -/

namespace Sys2Proof.Machine

/-- The cohorts and orders of a state. -/
def State.work (s : State) : List Cohort × List Order := (s.cohorts, s.orders)

/-- An operation repeated over a list keeps cohorts and orders where each use of it does. -/
theorem foldl_work {α : Type} {f : State → α → State} (h : ∀ s a, (f s a).work = s.work) (l : List α) (s : State) :
    (l.foldl f s).work = s.work :=
  List.foldlRecOn (motive := fun t => t.work = s.work) l f rfl fun t ht a _ => (h t a).trans ht

/-! ### The operations of an abort and of a brake order that keep cohorts and orders -/

@[simp] theorem State.event_work (s : State) (c d : Nat) (w : EvWho) (x i j : Nat) : (s.event c d w x i j).work = s.work := by
  simp [State.work]

@[simp] theorem State.complete_work (s : State) (c : CmdRef) (st re x y : Nat) : (s.complete c st re x y).work = s.work := by
  simp [State.work]

@[simp] theorem State.finish_work (s : State) (c : CmdRef) (st re x y : Nat) : (s.finish c st re x y).work = s.work := by
  simp [State.work]

@[simp] theorem State.modTen_work (s : State) (t : Nat) (f : Tenancy → Tenancy) : (s.modTen t f).work = s.work := rfl

@[simp] theorem State.modPort_work (s : State) (p : Nat) (f : Port → Port) : (s.modPort p f).work = s.work := rfl

@[simp] theorem State.modTt_work (s : State) (t : Nat) (f : Timetable → Timetable) : (s.modTt t f).work = s.work := rfl

@[simp] theorem State.movePort_work (s : State) (p : Nat) (st : PortSt) : (s.movePort p st).work = s.work := by
  unfold State.movePort
  split <;> simp

@[simp] theorem State.movePorts_work (s : State) (ps : List Nat) (st : PortSt) : (s.movePorts ps st).work = s.work :=
  foldl_work (fun s p => s.movePort_work p st) ps s

@[simp] theorem State.sendCtl_work (s : State) (ps : List Nat) (n : Nat) (bs : List Byte) : (s.sendCtl ps n bs).work = s.work := by
  apply foldl_work
  exact fun _ _ => rfl

@[simp] theorem State.finishBrakes_work (s : State) (t : Nat) : (s.finishBrakes t).work = s.work := by
  unfold State.finishBrakes
  split
  · rfl
  · exact foldl_work (fun u c => u.finish_work c stDone 0 _ 0) _ s

@[simp] theorem State.abandonStart_work (s : State) (t reason rank : Nat) : (s.abandonStart t reason rank).work = s.work := by
  unfold State.abandonStart
  split
  · rfl
  · dsimp only
    split <;> simp

@[simp] theorem State.cancelDeparture_work (s : State) (t : Nat) (except : Option Nat) : (s.cancelDeparture t except).work = s.work := by
  unfold State.cancelDeparture
  split <;> simp

@[simp] theorem State.withdraw_work (s : State) (t : Nat) (who : Serving) : (s.withdraw t who).work = s.work := by
  apply foldl_work
  exact fun _ _ => rfl

@[simp] theorem State.ckEnd_work (s : State) (t reason : Nat) : (s.ckEnd t reason).work = s.work := by
  unfold State.ckEnd
  split
  · rfl
  · rw [State.finish_work, State.modTen_work, State.withdraw_work]
    rfl

@[simp] theorem State.ckNext_work (s : State) (t : Nat) : (s.ckNext t).work = s.work := by
  unfold State.ckNext
  split <;> rfl

@[simp] theorem State.ckBrake_work (s : State) (t : Nat) : (s.ckBrake t).work = s.work := by
  unfold State.ckBrake State.ckFail
  split
  · rfl
  · split
    · rfl
    · rw [State.ckNext_work, State.ckEnd_work]
      rfl

@[simp] theorem State.orderBrake_work (s : State) (t : Nat) (b : W64) : (s.orderBrake t b).work = s.work := by
  unfold State.orderBrake
  split
  · rfl
  · split
    · rfl
    · simp
    · dsimp only
      split <;> simp

theorem State.releaseFences_work (s : State) (task : Nat) : (s.releaseFences task).work = s.work :=
  foldl_work (fun u c => u.finish_work c stDone 0 0 0) _ _

/-! ### The task's cohorts and orders are gone -/

/-- No cohort and no order of the task is left. -/
def State.Without (s : State) (id : Nat) : Prop := (∀ h ∈ s.cohorts, h.task ≠ id) ∧ ∀ o ∈ s.orders, o.task ≠ id

theorem State.Without.of_work {s t : State} {id : Nat} (h : t.work = s.work) (hs : s.Without id) : t.Without id := by
  obtain ⟨hc, ho⟩ := Prod.mk.inj h
  rw [State.Without, hc, ho]
  exact hs

theorem State.unseal_orders (s : State) (o : Order) : (s.unseal o).orders = s.orders := by
  unfold State.unseal
  split <;> rfl

theorem State.returnTicket_orders (s : State) (t : Nat) (k : Option W32) : (s.returnTicket t k).orders = s.orders := by
  unfold State.returnTicket
  split <;> rfl

theorem State.endOrder_orders (s : State) (o : Order) : (s.endOrder o).orders = s.orders.filter (·.id != o.id) := by
  simp only [State.endOrder, State.modTen_orders, State.returnTicket_orders, State.unseal_orders]

theorem mem_foldl_endOrder_orders {os : List Order} {s : State} {p : Order} (h : p ∈ (os.foldl State.endOrder s).orders) :
    p ∈ s.orders ∧ ∀ o ∈ os, p.id ≠ o.id := by
  induction os generalizing s with
  | nil => exact ⟨h, by simp⟩
  | cons o os ih =>
    obtain ⟨hp, hrest⟩ := ih h
    rw [State.endOrder_orders, List.mem_filter] at hp
    exact ⟨hp.1, List.forall_mem_cons.2 ⟨by simpa using hp.2, hrest⟩⟩

theorem State.endCopy_orders (s : State) (c : Copy) : (s.endCopy c).orders = s.orders := by
  simp only [State.endCopy, State.modTen_orders]

theorem foldl_endCopy_orders (cs : List Copy) (s : State) : (cs.foldl State.endCopy s).orders = s.orders :=
  List.foldlRecOn (motive := fun t => t.orders = s.orders) cs _ rfl fun t ht c _ =>
    (State.endCopy_orders t c).trans ht

theorem State.purge_orders (s : State) (t task : Nat) : (s.purge t task).orders = s.orders := by
  simp only [State.purge, State.modTen_orders]

theorem State.withdraw_orders (s : State) (t : Nat) (who : Serving) : (s.withdraw t who).orders = s.orders :=
  (Prod.mk.inj (s.withdraw_work t who)).2

/-- R236: `clearTask` keeps no cohort and no order of its task. -/
theorem State.without_clearTask (s : State) (k : Task) : (s.clearTask k).Without k.id := by
  refine ⟨fun h hh => ?_, fun p hp hk => ?_⟩
  · simp only [State.clearTask, List.mem_filter] at hh
    simpa using hh.2
  · simp only [State.clearTask, State.withdraw_orders, State.purge_orders, foldl_endCopy_orders] at hp
    obtain ⟨hmem, hne⟩ := mem_foldl_endOrder_orders hp
    exact hne p (List.mem_filter.2 ⟨hmem, by simpa using hk⟩) rfl

theorem State.without_abortTask (s : State) (k : Task) (level : Nat) (cause : W32) (code : Nat) :
    (s.abortTask k level cause code).Without k.id := by
  unfold State.abortTask
  refine .of_work (State.orderBrake_work ..) (.of_work (State.releaseFences_work ..) (.of_work (State.complete_work ..) ?_))
  exact .of_work (State.modTen_work ..) (State.without_clearTask ..)

/-- R437: a fault of a task that stands leaves nothing of it. -/
theorem State.without_failTask {s : State} {k : Task} {id : Nat} (h : s.task? id = some k) (t ctx : Nat) (f : FaultRec) :
    (s.failTask t ctx id f).Without id := by
  obtain rfl : k.id = id := by simpa using List.find?_some h
  simp only [State.failTask, h]
  exact State.without_abortTask ..

/-! ### What bringing a coach up to date keeps -/

theorem modAt_congr {α : Type} {l : List α} {n : Nat} {f g : α → α} (h : ∀ a, l[n]? = some a → f a = g a) : modAt l n f = modAt l n g := by
  unfold modAt
  split
  · next a ha => rw [h a ha]
  · rfl

theorem modAt_eq_self {α : Type} {l : List α} {n : Nat} {f : α → α} (h : ∀ a, l[n]? = some a → f a = a) : modAt l n f = l := by
  unfold modAt
  split
  · next a ha => 
    obtain ⟨hn, rfl⟩ := List.getElem?_eq_some_iff.1 ha
    rw [h _ ha, List.set_getElem_self]
  · rfl

/-- Of the tenancies only hitches differ. -/
def SameButHitches (l m : List Tenancy) : Prop := ∀ n, ∃ hs, m.getD n {} = { l.getD n {} with hitches := hs }

theorem SameButHitches.refl (l : List Tenancy) : SameButHitches l l := fun _ => ⟨_, rfl⟩

theorem SameButHitches.trans {l m n : List Tenancy} (h1 : SameButHitches l m) (h2 : SameButHitches m n) : SameButHitches l n := fun i => by
  obtain ⟨hs, h⟩ := h1 i
  obtain ⟨hs', h'⟩ := h2 i
  exact ⟨hs', by rw [h', h]⟩

theorem sameButHitches_modHitch (s : State) (t h : Nat) (f : Hitch → Hitch) : SameButHitches s.tens (s.modHitch t h f).tens := by
  intro n
  change ∃ hs, (s.modHitch t h f).ten n = { s.ten n with hitches := hs }
  by_cases hn : t = n
  · subst hn
    by_cases ht : t < s.tens.length
    · exact ⟨_, State.ten_modTen s t _ ht⟩
    · refine ⟨(s.ten t).hitches, ?_⟩
      rw [State.modHitch, State.modTen, modAt_eq_self fun y hy => absurd (List.getElem?_eq_some_iff.1 hy).1 ht]
  · exact ⟨_, State.ten_modTen_ne s _ hn⟩

section
variable (s : State) (t : Nat) (c : CoachRef) (k : Coach)

/-- The end of a wait changes hitches alone. -/
theorem State.endWait_frame : ∃ l, (s.endWait t c k).1 = { s with tens := l } ∧ SameButHitches s.tens l := by
  have hsame : ∃ l, s = { s with tens := l } ∧ SameButHitches s.tens l := ⟨_, rfl, .refl _⟩
  unfold State.endWait
  dsimp only
  split
  · split
    · split
      · exact hsame
      · split
        · exact ⟨_, rfl, sameButHitches_modHitch s t _ _⟩
        · exact hsame
    · exact hsame
  · split
    · split
      · exact hsame
      · split
        · exact ⟨_, rfl, sameButHitches_modHitch s t _ _⟩
        · exact hsame
    · exact hsame
  · exact hsame

theorem State.settleStep_frame : ∃ l, (s.settleStep t c k).1 = { s with tens := l } ∧ SameButHitches s.tens l := by
  have hsame : ∃ l, s = { s with tens := l } ∧ SameButHitches s.tens l := ⟨_, rfl, .refl _⟩
  unfold State.settleStep
  split
  · split
    · exact s.endWait_frame t c k
    · split
      · exact hsame
      · split <;> exact hsame
  · split
    · split
      · exact hsame
      · exact hsame
      · split <;> exact hsame
    · exact hsame

theorem settleGo_frame (f : Nat) : ∃ l, (settleGo t c f s k).1 = { s with tens := l } ∧ SameButHitches s.tens l := by
  induction f generalizing s k with
  | zero => exact ⟨_, rfl, .refl _⟩
  | succ f ih =>
    obtain ⟨l, hl, hsame⟩ := s.settleStep_frame t c k
    rw [settleGo]
    split
    · next s' k' h =>
      obtain ⟨m, hm, hsame'⟩ := ih s' k'
      rw [h] at hl
      subst hl
      exact ⟨m, hm, hsame.trans hsame'⟩
    · next h => exact ⟨l, by rw [← hl, h], hsame⟩

end

/-- A coach brought up to date: hitches change, and the coach. -/
theorem State.settle_eq {s : State} {c : CoachRef} {k : Coach} (t : Nat) (h : s.coach? c = some k) :
    ∃ l k', s.settle t c = ({ s with tens := l } : State).setCoach c k' ∧ SameButHitches s.tens l := by
  obtain ⟨l, hl, hsame⟩ := settleGo_frame s t c k 200
  exact ⟨l, (settleGo t c 200 s k).2, by simp only [State.settle, h, hl], hsame⟩

theorem State.settle_of_none {s : State} {c : CoachRef} (t : Nat) (h : s.coach? c = none) : s.settle t c = s := by
  simp only [State.settle, h]

/-- A coach with nothing to bring up to date (R308). -/
theorem State.settle_of_settled {s : State} {c : CoachRef} {k : Coach} (t : Nat) (h : s.coach? c = some k) (hw : k.wait = .none)
    (hr : k.running ≠ 0) (hj : k.joinPc ≠ some k.pc) : s.settle t c = s.setCoach c k := by
  have hstep : s.settleStep t c k = (s, k, false) := by
    rw [State.settleStep, if_neg (by rw [hw]; decide), if_neg (not_or.2 ⟨hr, hj⟩)]
  simp only [State.settle, h, settleGo, hstep]

theorem State.settle_tasks (s : State) (t : Nat) (c : CoachRef) : (s.settle t c).tasks = s.tasks := by
  cases h : s.coach? c with
  | none => rw [State.settle_of_none t h]
  | some k =>
    obtain ⟨l, k', hs, -⟩ := State.settle_eq t h
    rw [hs]
    rfl

/-- The settled state holds the cohort, in its cluster. -/
theorem State.cohort?_settle {s : State} {c : CoachRef} {h : Cohort} (t : Nat) (e : s.cohort? c.task c.cohort = some h) :
    ∃ h', (s.settle t c).cohort? c.task c.cohort = some h' ∧ h'.cluster = h.cluster := by
  cases hk : s.coach? c with
  | none => exact ⟨h, by rw [State.settle_of_none t hk, e], rfl⟩
  | some k =>
    obtain ⟨l, k', hs, -⟩ := State.settle_eq t hk
    exact ⟨h.withCoach c.coach k', by rw [hs, State.cohort?_setCoach (s := { s with tens := l }) k' e], rfl⟩

/-! ### Issue (R299, R507) -/

theorem State.cluster_of_getElem? {s : State} {n : Nat} {y : Cluster} (h : s.clusters[n]? = some y) : s.cluster n = y := by
  rw [State.cluster, List.getD_eq_getElem?_getD, h, Option.getD_some]

/-- The word fetched may go to its cluster's instruction cache, and nothing else changes. -/
theorem State.keepFetched_frame (s : State) (clu t pc : Nat) (word : W64) :
    ∃ l, s.keepFetched clu t pc word = s.modCluster clu fun y => { y with icache := l } := by
  unfold State.keepFetched
  split
  · refine ⟨keepWord (s.cluster clu).icache ⟨t, pc, word⟩, ?_⟩
    have hmod := modAt_congr (l := s.clusters) (n := clu) (f := fun y => { y with icache := keepWord y.icache ⟨t, pc, word⟩ })
      (g := fun y => { y with icache := keepWord (s.cluster clu).icache ⟨t, pc, word⟩ })
      fun y hy => by rw [State.cluster_of_getElem? hy]
    rw [State.modCluster, State.modCluster, hmod]
  · refine ⟨(s.cluster clu).icache, ?_⟩
    rw [State.modCluster, modAt_eq_self fun y hy => by rw [State.cluster_of_getElem? hy]]

/-- The state in which an instruction issues, once the coach is settled at y. -/
theorem State.laneStart_eq {s : State} {t : Task} {c : CoachRef} {y : Coach} (clu : Nat) (word : W64)
    (h : (s.settle t.ten c).coach? c = some y) :
    s.laneStart t c clu word = ((s.settle t.ten c).count (cntLaneIssue clu) 1).keepFetched clu t.ten y.pc word := by
  have hc : ((s.settle t.ten c).count (cntLaneIssue clu) 1).coach? c = some y := by
    rw [← h, State.coach?, State.cohort?, State.count_cohorts]
    rfl
  simp only [State.laneStart, hc]

theorem State.laneStart_tasks (s : State) (t : Task) (c : CoachRef) (clu : Nat) (word : W64) : (s.laneStart t c clu word).tasks = s.tasks := by
  unfold State.laneStart
  dsimp only
  split
  · obtain ⟨l, hl⟩ := State.keepFetched_frame _ _ _ _ _
    rw [hl]
    exact (State.count_tasks ..).trans (State.settle_tasks ..)
  · exact (State.count_tasks ..).trans (State.settle_tasks ..)

theorem State.laneStart_cohorts (s : State) (t : Task) (c : CoachRef) (clu : Nat) (word : W64) :
    (s.laneStart t c clu word).cohorts = (s.settle t.ten c).cohorts := by
  unfold State.laneStart
  dsimp only
  split
  · obtain ⟨l, hl⟩ := State.keepFetched_frame _ _ _ _ _
    rw [hl]
    exact State.count_cohorts ..
  · exact State.count_cohorts ..

/-- The task in which an instruction issues stands in the state in which it does. -/
theorem task?_of_issueOf {s s1 : State} {c : CoachRef} {cls op : Nat} {w : LaneWord} {x : LaneCtx} (h : s.issueOf c cls op w = some (s1, x)) :
    s1.task? x.task.id = some x.task := by
  obtain ⟨t, h0, -, k, ht, -, rfl, -, -, rfl⟩ := issueOf_some h
  obtain hid : t.id = c.task := by simpa using List.find?_some ht
  rw [hid, State.task?_of_tasks (State.laneStart_tasks ..), ht]

/-- An instruction issues at the coach as it is settled, in the cluster of its cohort. -/
theorem settled_of_issueOf {s s1 : State} {c : CoachRef} {cls op : Nat} {w : LaneWord} {x : LaneCtx} (h : s.issueOf c cls op w = some (s1, x)) :
    ∃ h0, s.task? c.task = some x.task ∧ s.cohort? c.task c.cohort = some h0 ∧ x.cohort.cluster = h0.cluster
      ∧ (s.settle x.task.ten c).coach? c = some x.k
      ∧ s1 = ((s.settle x.task.ten c).count (cntLaneIssue h0.cluster) 1).keepFetched h0.cluster x.task.ten x.k.pc (wordBits w cls op) := by
  obtain ⟨t, h0, h', k, ht, hh0, rfl, hh', hk, rfl⟩ := issueOf_some h
  have hcoh := s.laneStart_cohorts t c h0.cluster (wordBits w cls op)
  have hset : (s.settle t.ten c).coach? c = some k := by
    rw [← hk, State.coach?, State.coach?, State.cohort?, State.cohort?, hcoh]
  obtain ⟨h1, hh1, hcl⟩ := State.cohort?_settle t.ten hh0
  rw [State.cohort?, ← hcoh] at hh1
  obtain rfl : h1 = h' := Option.some.inj (hh1.symm.trans hh')
  exact ⟨h0, ht, hh0, hcl, hset, State.laneStart_eq _ _ hset⟩

/-! ### Counting an issue loses no data (R399) -/

/-- No granule of the pool is bad or poisoned that was not before. -/
def State.NoneLost (s t : State) : Prop := (∀ g ∈ t.mem.bad, g ∈ s.mem.bad) ∧ ∀ g ∈ t.mem.poison, g ∈ s.mem.poison

theorem State.NoneLost.refl (s : State) : s.NoneLost s := ⟨fun _ h => h, fun _ h => h⟩

theorem State.NoneLost.trans {s t u : State} (h1 : s.NoneLost t) (h2 : t.NoneLost u) : s.NoneLost u :=
  ⟨fun g hg => h1.1 g (h2.1 g hg), fun g hg => h1.2 g (h2.2 g hg)⟩

theorem State.noneLost_of_mem {s t : State} (h : t.mem = s.mem) : s.NoneLost t := by
  rw [State.NoneLost, h]
  exact ⟨fun _ h => h, fun _ h => h⟩

theorem State.noneLost_poolWrite (s : State) (pa : Nat) (bs : List Byte) : s.NoneLost (s.poolWrite pa bs) :=
  ⟨fun _ h => (List.mem_filter.1 h).1, fun _ h => (List.mem_filter.1 h).1⟩

theorem State.noneLost_evPut (s : State) : s.NoneLost s.evPut := by
  unfold State.evPut
  split
  · exact .refl s
  · dsimp only
    split
    · exact ⟨fun _ h => (List.mem_filter.1 (List.mem_filter.1 h).1).1, fun _ h => (List.mem_filter.1 (List.mem_filter.1 h).1).1⟩
    · exact .refl s

theorem noneLost_evDrain (n : Nat) (s : State) : s.NoneLost (evDrain n s) := by
  induction n generalizing s with
  | zero => exact .refl s
  | succ n ih => exact s.noneLost_evPut.trans (ih _)

theorem State.noneLost_evFlush (s : State) : s.NoneLost s.evFlush := by
  have hd := noneLost_evDrain s.ev.queue.length s
  unfold State.evFlush
  dsimp only
  split
  · exact hd
  · obtain ⟨e, he⟩ := (evDrain s.ev.queue.length s).evSignal_frame
    rw [he]
    exact hd

theorem State.noneLost_event (s : State) (c d : Nat) (w : EvWho) (x i j : Nat) : s.NoneLost (s.event c d w x i j) := by
  unfold State.event State.evWrite
  dsimp only
  split
  · exact State.NoneLost.trans (State.noneLost_of_mem rfl) (State.noneLost_evFlush _)
  · exact State.noneLost_of_mem rfl

theorem State.noneLost_count (s : State) (k n : Nat) : s.NoneLost (s.count k n) := by
  unfold State.count
  split
  · exact .refl s
  · dsimp only
    generalize (if s.cntTick = s.tick then s.cntNow else []) = now
    split
    · exact State.noneLost_of_mem rfl
    · split
      · exact State.noneLost_of_mem rfl
      · exact State.NoneLost.trans (State.noneLost_of_mem rfl) (State.noneLost_event _ _ _ _ _ _ _)

theorem insertAsc_ne_nil (n : Nat) (l : List Nat) : insertAsc n l ≠ [] := by
  unfold insertAsc
  split
  · simp
  · split
    · simp
    · split <;> simp

theorem sortDistinct_eq_nil {l : List Nat} : sortDistinct l = [] ↔ l = [] := by
  cases l with
  | nil => exact ⟨fun _ => rfl, fun _ => rfl⟩
  | cons a l => exact ⟨fun h => absurd h (insertAsc_ne_nil _ _), nofun⟩

theorem State.lost_isSome {s : State} {pa n : Nat} :
    (s.lost pa n).isSome = true ↔ ∃ g, (g ∈ s.mem.bad ∨ g ∈ s.mem.poison) ∧ meets pa n g = true := by
  have hnone : s.lost pa n = none ↔ s.mem.bad.filter (meets pa n) = [] ∧ s.mem.poison.filter (meets pa n) = [] := by
    rw [← sortDistinct_eq_nil, ← sortDistinct_eq_nil (l := s.mem.poison.filter _), State.lost]
    split
    · next h => simp [h]
    · next h h' => simp [h']
    · next h h' => simp [h, h']
  rw [Option.isSome_iff_ne_none, ne_eq, hnone, List.filter_eq_nil_iff, List.filter_eq_nil_iff]
  constructor
  · intro h
    refine Classical.byContradiction fun hc => h ⟨fun g hg hm => hc ⟨g, .inl hg, hm⟩, fun g hg hm => hc ⟨g, .inr hg, hm⟩⟩
  · rintro ⟨g, hg | hg, hm⟩ ⟨hb, hp⟩
    · exact hb g hg hm
    · exact hp g hg hm

theorem State.lost_isSome_of_noneLost {s t : State} (h : s.NoneLost t) {pa n : Nat} (hl : (t.lost pa n).isSome = true) :
    (s.lost pa n).isSome = true := by
  rw [State.lost_isSome] at hl ⊢
  obtain ⟨g, hg, hm⟩ := hl
  exact ⟨g, hg.imp (h.1 g) (h.2 g), hm⟩

end Sys2Proof.Machine
end

section
/-! What an issued instruction can do before its body runs: a forbidden encoding (R300–R302, R324, R330), a fetch that faults (R56, R299,
R369, R397), and issue by itself (R308, R507). -/

namespace Sys2Proof.Machine

/-! ### Forbidden encodings -/

/-- Settles O11: a fetched lane instruction answers its encoding's fault, and a fault of a task that stands leaves nothing of it. -/
theorem laneBadEncodingFaults : Obligations.LaneBadEncodingFaults := by
  unfold Obligations.LaneBadEncodingFaults
  intro i cls op n c w s s1 x hi hf he
  obtain ⟨body, hx⟩ := exec_of_laneRow hi
  have hexec : exec i s = .next (s1.instrFault x n x.low) := by rw [hx, lane_of hf, he]
  obtain ⟨hc, ho⟩ := State.without_failTask (task?_of_issueOf hf.2.2.1) x.task.ten x.task.ctx
    ⟨0x10, n, x.k.pc, laneWordOf x.cohort.cluster + x.low * 2 ^ 16 + x.ref.coach * 2 ^ 21⟩
  exact ⟨_, hexec, rfl, State.task?_failTask .., hc, ho⟩

/-- Settles O12. -/
theorem orderBadEncodingFaults : Obligations.OrderBadEncodingFaults := by
  unfold Obligations.OrderBadEncodingFaults
  intro i cls op c w s s1 x hi hf he
  exact ⟨orderUndef cls op s1 x, (exec_of_orderRow hi s).trans (by rw [order_of hf, he]; rfl), rfl, State.task?_failTask ..⟩

/-! ### Fetches that fault -/

section
variable {s : State} {clu t pc : Nat} {word : W64}

theorem State.keepFetched_pinnedRange (va : Nat) : (s.keepFetched clu t pc word).pinnedRange t va 8 = s.pinnedRange t va 8 := by
  obtain ⟨l, hl⟩ := s.keepFetched_frame clu t pc word
  rw [hl]
  rfl

theorem State.keepFetched_fetchBarred (va : Nat) : (s.keepFetched clu t pc word).fetchBarred t va = s.fetchBarred t va := by
  obtain ⟨l, hl⟩ := s.keepFetched_frame clu t pc word
  rw [hl]
  rfl

theorem State.count_pinnedRange (k n va : Nat) : (s.count k n).pinnedRange t va 8 = s.pinnedRange t va 8 := by
  obtain ⟨_, _, _, _, _, _, _, _, h⟩ := s.count_frame k n
  rw [h]
  rfl

theorem State.count_fetchBarred (k n va : Nat) : (s.count k n).fetchBarred t va = s.fetchBarred t va := by
  obtain ⟨_, _, _, _, _, _, _, _, h⟩ := s.count_frame k n
  rw [h]
  rfl

/-- R299: what is fetched stands in the cluster's cache. -/
theorem State.keptWord_keepFetched (hc : clu < s.clusters.length) (hp : s.pinnedRange t pc 8 = true) (hb : s.fetchBarred t pc = none)
    (hl : s.fetchLost clu t pc = false) : (s.keepFetched clu t pc word).keptWord clu t pc = some word := by
  have hcond : (s.pinnedRange t pc 8 && (s.fetchBarred t pc).isNone && !s.fetchLost clu t pc) = true := by simp [hp, hb, hl]
  rw [State.keepFetched, if_pos hcond, State.keptWord, State.cluster, State.modCluster, modAt_getD _ _ _ hc]
  simp [keepWord]

/-- Keeping a word fetched makes no data lost. -/
theorem State.fetchLost_of_keepFetched (h : (s.keepFetched clu t pc word).fetchLost clu t pc = true) : s.fetchLost clu t pc = true := by
  refine Classical.byContradiction fun hl => ?_
  rw [Bool.not_eq_true] at hl
  by_cases hc : clu < s.clusters.length
  · by_cases hcond : (s.pinnedRange t pc 8 && (s.fetchBarred t pc).isNone && !s.fetchLost clu t pc) = true
    · simp only [Bool.and_eq_true, Option.isNone_iff_eq_none] at hcond
      rw [State.fetchLost, State.keptWord_keepFetched hc hcond.1.1 hcond.1.2 hl] at h
      exact absurd h (by simp)
    · rw [State.keepFetched, if_neg hcond, hl] at h
      cases h
  · obtain ⟨l, hk⟩ := s.keepFetched_frame clu t pc word
    rw [hk, State.modCluster, modAt_eq_self fun y hy => absurd (List.getElem?_eq_some_iff.1 hy).1 hc] at h
    exact absurd (h.symm.trans hl) (by decide)

/-- Nor does counting an issue. -/
theorem State.fetchLost_of_count {k n : Nat} (h : (s.count k n).fetchLost clu t pc = true) : s.fetchLost clu t pc = true := by
  have hheal := s.noneLost_count k n
  have hkept : (s.count k n).keptWord clu t pc = s.keptWord clu t pc := by rw [State.keptWord, State.cluster, State.count_clusters]; rfl
  have hpin : (s.count k n).pinned t pc = s.pinned t pc := by
    obtain ⟨_, _, _, _, _, _, _, _, hf⟩ := s.count_frame k n
    rw [hf]
    rfl
  rw [State.fetchLost, hkept, hpin, Bool.and_eq_true] at h
  rw [State.fetchLost, Bool.and_eq_true]
  refine ⟨h.1, ?_⟩
  cases hp : s.pinned t pc with
  | none => rw [hp] at h; exact absurd h.2 (by simp)
  | some x => rw [hp] at h; exact State.lost_isSome_of_noneLost hheal h.2

end

section
variable {s : State} {l : List Tenancy} (c : CoachRef) (k : Coach)

/-- A coach brought up to date leaves what is pinned, and where, as it was. -/
theorem State.pinned_of_sameButHitches (h : SameButHitches s.tens l) (t va : Nat) :
    (({ s with tens := l } : State).setCoach c k).pinned t va = s.pinned t va := by
  obtain ⟨hs, ht⟩ := h t
  have hten : (({ s with tens := l } : State).setCoach c k).ten t = { s.ten t with hitches := hs } := ht
  rw [State.pinned, hten]
  rfl

theorem State.pinnedRange_of_sameButHitches (h : SameButHitches s.tens l) (t va n : Nat) :
    (({ s with tens := l } : State).setCoach c k).pinnedRange t va n = s.pinnedRange t va n := by
  simp only [State.pinnedRange, State.pinned_of_sameButHitches c k h]

theorem State.fetchBarred_of_sameButHitches (h : SameButHitches s.tens l) (t va : Nat) :
    (({ s with tens := l } : State).setCoach c k).fetchBarred t va = s.fetchBarred t va := by
  obtain ⟨hs, ht⟩ := h t
  have hten : (({ s with tens := l } : State).setCoach c k).ten t = { s.ten t with hitches := hs } := ht
  simp only [State.fetchBarred, State.pinned_of_sameButHitches c k h, State.pinGroup, hten]
  rfl

theorem State.fetchLost_of_sameButHitches (h : SameButHitches s.tens l) (clu t va : Nat) :
    (({ s with tens := l } : State).setCoach c k).fetchLost clu t va = s.fetchLost clu t va := by
  simp only [State.fetchLost, State.pinned_of_sameButHitches c k h]
  rfl

end

section
variable {i : Instr} {cls op : Nat} {c : CoachRef} {w : LaneWord} {s s1 : State} {x : LaneCtx}

/-- A lane gets any word where its fetch faults. -/
theorem laneGets_of_fetchFault (hs : s.issueOf c cls op w = some (s1, x))
    (h : s1.pinnedRange x.task.ten x.k.pc 8 = false ∨ (s1.fetchBarred x.task.ten x.k.pc).isSome = true
      ∨ s1.fetchLost x.cohort.cluster x.task.ten x.k.pc = true) : s.laneGets c (wordBits w cls op) = true := by
  obtain ⟨h0, ht, hh, hcl, hk, rfl⟩ := settled_of_issueOf hs
  obtain ⟨k0, hk0⟩ : ∃ k0, s.coach? c = some k0 := by
    cases hk0 : s.coach? c with
    | none => rw [State.settle_of_none _ hk0, hk0] at hk; cases hk
    | some k0 => exact ⟨k0, rfl⟩
  obtain ⟨l, k', hset, hsame⟩ := State.settle_eq x.task.ten hk0
  rw [State.keepFetched_pinnedRange, State.count_pinnedRange, State.keepFetched_fetchBarred, State.count_fetchBarred, hcl] at h
  have hfault := h.imp_right (Or.imp_right fun hl => State.fetchLost_of_count (State.fetchLost_of_keepFetched hl))
  rw [hset, State.pinnedRange_of_sameButHitches c k' hsame, State.fetchBarred_of_sameButHitches c k' hsame,
    State.fetchLost_of_sameButHitches c k' hsame] at hfault
  simp only [State.laneGets, ht, hh, hk, State.fetchGives]
  rcases hfault with hp | hb | hl
  · simp [hp]
  · simp [hb]
  · simp [hl]

/-- A row whose lane gets its word is its `laneRun`. -/
theorem exec_of_laneGets (hi : laneRow i = some (cls, op, c, w) ∨ orderRow i = some (cls, op, c, w)) (hr : s.laneReady c = true)
    (hg : s.laneGets c (wordBits w cls op) = true) : ∃ undef body, exec i s = .next (s.laneRun c cls op w undef body) := by
  have hcond : (s.laneReady c && s.laneGets c (wordBits w cls op)) = true := by rw [hr, hg]; rfl
  rcases hi with hi | hi
  · obtain ⟨body, hx⟩ := exec_of_laneRow hi
    exact ⟨_, body, (hx s).trans (when_next.2 ⟨hcond, rfl⟩)⟩
  · exact ⟨_, _, (exec_of_orderRow hi s).trans (when_next.2 ⟨hcond, rfl⟩)⟩

end

/-- Settles O13: a faulting fetch gives its lane any word, and the run takes the fetch's checks before it decodes. -/
theorem laneFetchFaults : Obligations.LaneFetchFaults := by
  unfold Obligations.LaneFetchFaults
  intro i cls op c w s s1 x hi hr hs
  refine ⟨fun hp => ?_, fun code d hp hb => ?_, fun hp hb hl => ?_⟩
  · obtain ⟨undef, body, he⟩ := exec_of_laneGets hi hr (laneGets_of_fetchFault hs (.inl hp))
    exact ⟨_, by rw [he, run_of undef body hs, hp]; rfl, rfl, State.task?_failTask ..⟩
  · obtain ⟨undef, body, he⟩ := exec_of_laneGets hi hr (laneGets_of_fetchFault hs (.inr (.inl (by rw [hb]; rfl))))
    exact ⟨_, by rw [he, run_of undef body hs, if_pos hp, hb], rfl, State.task?_failTask ..⟩
  · obtain ⟨undef, body, he⟩ := exec_of_laneGets hi hr (laneGets_of_fetchFault hs (.inr (.inr hl)))
    exact ⟨_, by rw [he, run_of undef body hs, if_pos hp, hb]; exact congrArg _ (if_pos hl), rfl, State.task?_failTask ..⟩

/-! ### Issue by itself -/

/-- A count below the counter's maximum changes the counter, and what it has gained in its tick. -/
theorem State.count_of_lt {s : State} {k : Nat} (h : s.cntOf k < Config.cntMax) :
    ∃ now, s.count k 1 = { s with cnt := smSet 0 s.cnt k (s.cntOf k + 1), cntTick := s.tick, cntNow := now } := by
  refine ⟨_, (if_neg Nat.one_ne_zero).trans (if_pos ?_)⟩
  exact h

/-- Settles O14: a settled coach is written back as it was, the issue is counted, and the word is kept. -/
theorem issueOnlyCounts : Obligations.IssueOnlyCounts := by
  unfold Obligations.IssueOnlyCounts
  intro s t c k cl word hk hw hr hj hcnt
  have hset := State.settle_of_settled t.ten hk hw hr hj
  have hk' : (s.settle t.ten c).coach? c = some k := by rw [hset, State.coach?_setCoach k hk]
  have hstart := State.laneStart_eq cl word hk'
  rw [hset] at hstart
  constructor
  · obtain ⟨now, hcount⟩ := State.count_of_lt (s := s.setCoach c k) hcnt
    obtain ⟨l, hkeep⟩ := State.keepFetched_frame ((s.setCoach c k).count (cntLaneIssue cl) 1) cl t.ten k.pc word
    refine ⟨l, ?_⟩
    rw [hstart, hkeep, hcount]
    rfl
  · intro hc hp hb hl
    rw [hstart]
    refine State.keptWord_keepFetched ?_ ?_ ?_ ?_
    · rwa [State.count_clusters]
    · rwa [State.count_pinnedRange]
    · rwa [State.count_fetchBarred]
    · refine Bool.eq_false_iff.2 fun h => ?_
      have := State.fetchLost_of_count h
      exact absurd (this.symm.trans hl) (by decide)

end Sys2Proof.Machine
end

section
/-! Loads and stores (R54, R307, R316–R318): bytes stored are read back, the highest-numbered thread's stay, the lane-local and scratchpad
accesses within their bounds, and the pinned ones. -/

namespace Sys2Proof.Machine

/-! ### Bytes stored (R307) -/

/-- A byte after bytes were written from a on. -/
theorem memGet_memPut {m : List Host.Cell} (h : Memory.wf m = true) (a : Nat) (bs : List Byte) (c : Nat) :
    memGet (memPut m a bs) c = if a ≤ c ∧ c < a + bs.length then bs.getD (c - a) 0 else memGet m c := by
  induction bs generalizing m a with
  | nil => rw [memPut, if_neg (by simp)]
  | cons b bs ih =>
    rw [memPut, ih (memSet_wf a b h), memGet_memSet h, List.length_cons]
    by_cases hca : c = a
    · subst hca
      rw [if_neg (by omega), if_pos rfl, if_pos (by omega), Nat.sub_self, List.getD_cons_zero]
    · by_cases hin : a + 1 ≤ c ∧ c < a + 1 + bs.length
      · obtain ⟨d, rfl⟩ := Nat.exists_eq_add_of_le hin.1
        rw [if_pos hin, if_pos (by omega), show a + 1 + d - a = d + 1 by omega, List.getD_cons_succ, Nat.add_sub_cancel_left]
      · rw [if_neg hin, if_neg hca, if_neg (by omega)]

/-- Settles O25. -/
theorem storeReadsBack : Obligations.StoreReadsBack := by
  unfold Obligations.StoreReadsBack
  intro m a bs h
  refine ⟨List.ext_getElem (memBytes_length ..) fun i h1 h2 => ?_, fun b hb => ?_⟩
  · have hget : (memBytes (memPut m a bs) a bs.length).getD i 0 = bs.getD i 0 := by
      rw [memBytes_get h2, memGet_memPut h, if_pos (by omega), Nat.add_sub_cancel_left]
    rwa [getD_of_lt _ _ h1, getD_of_lt _ _ h2] at hget
  · rw [memGet_memPut h, if_neg (by omega)]

/-- A byte that none of the listed threads' stores touches. -/
theorem memGet_foldl_memPut_other {js : List Nat} {addr : Nat → Nat} {bytes : Nat → List Byte} {m : List Host.Cell} {c : Nat}
    (h : Memory.wf m = true) (hjs : ∀ j ∈ js, c < addr j ∨ addr j + (bytes j).length ≤ c) :
    memGet (js.foldl (fun m j => memPut m (addr j) (bytes j)) m) c = memGet m c := by
  induction js generalizing m with
  | nil => rfl
  | cons j js ih =>
    obtain ⟨hj, hrest⟩ := List.forall_mem_cons.1 hjs
    rw [List.foldl_cons, ih (memPut_wf _ h) hrest, memGet_memPut h, if_neg (by omega)]

/-- Settles O26: the threads store in rising order; after the last one that touches the byte, none does. -/
theorem highestThreadWins : Obligations.HighestThreadWins := by
  unfold Obligations.HighestThreadWins
  intro x addr m j i hm hj hi hafter
  obtain ⟨l, r, hl⟩ := List.append_of_mem hj
  have hsorted : (l ++ j :: r).Pairwise (· < ·) := hl ▸ threadsOf_sorted x.act
  have hr : ∀ j' ∈ r, addr j + i < addr j' ∨ addr j' + (storeBytes x j').length ≤ addr j + i := fun j' hj' =>
    hafter j' (hl ▸ List.mem_append_right l (.tail _ hj')) ((List.pairwise_cons.1 (List.pairwise_append.1 hsorted).2.1).1 j' hj')
  have hwf : Memory.wf (l.foldl (fun m j => memPut m (addr j) (storeBytes x j)) m) = true :=
    List.foldlRecOn (motive := fun m => Memory.wf m = true) l _ hm fun _ h _ _ => memPut_wf _ h
  rw [storeAll, hl, List.foldl_append, List.foldl_cons, memGet_foldl_memPut_other (memPut_wf _ hwf) hr, memGet_memPut hwf,
    if_pos (by omega), Nat.add_sub_cancel_left]

/-! ### Accesses without a fault -/

theorem firstFault_eq_none {js : List Nat} {f : Nat → Option MemFault} : firstFault js f = none ↔ ∀ j ∈ js, f j = none := by
  simp [firstFault]

theorem spFault_eq_none {limit width off : Nat} (h : off % width = 0 ∧ off + width ≤ limit) : spFault limit width off = none := by
  rw [spFault, if_neg (by simp [h.1]), if_neg (by omega)]

section
variable {c : CoachRef} {w : LaneWord} {s s1 : State} {x : LaneCtx} {cls op : Nat} {f : LaneCtx → State → Nat → Option MemFault}
  {addr : LaneCtx → Nat → Nat} {k : Access} {body : State → LaneCtx → State}

/-- An access none of whose threads faults is made. -/
theorem lane_checked (h : Issues s c cls op w s1 x) (hf : ∀ j ∈ x.threads, f x s1 j = none) :
    s.lane c cls op w (checked f addr k body) = .next (body s1 x) := by
  rw [body_of h, checked, firstFault_eq_none.2 hf]

end

/-- Settles O24. -/
theorem laneLocalMemory : Obligations.LaneLocalMemory := by
  unfold Obligations.LaneLocalMemory
  intro c w s s1 x
  have fits {limit : Nat} (hw : x.w = w)
      (h : ∀ j ∈ x.threads, spOffset x j % widthBytes (fSub w) = 0 ∧ spOffset x j + widthBytes (fSub w) ≤ limit) :
      ∀ j ∈ x.threads, spFault limit (widthBytes (fSub x.w)) (spOffset x j) = none :=
    fun j hj => spFault_eq_none (hw ▸ h j hj)
  refine ⟨fun hx h => ?_, fun hx h => ?_, fun hx h => ?_, fun hx h => ?_⟩ <;> obtain ⟨rfl, rfl, -⟩ := ctx_of hx.1
  · exact lane_checked hx (fits rfl h)
  · exact lane_checked hx (fits rfl h)
  · exact lane_checked hx (fits rfl h)
  · exact lane_checked hx (fits rfl h)

/-! ### Pinned stores (R317, R391): what a store leaves of the translations -/

/-- The pinned leaves, and of the tenancies all but their checkpoints, are as before. -/
def State.KeepsPins (s t : State) : Prop := t.xlt = s.xlt ∧ ∀ n, ∃ ck, t.ten n = { s.ten n with ckpt := ck }

theorem State.KeepsPins.refl (s : State) : s.KeepsPins s := ⟨rfl, fun _ => ⟨_, rfl⟩⟩

theorem State.KeepsPins.trans {s t u : State} (h1 : s.KeepsPins t) (h2 : t.KeepsPins u) : s.KeepsPins u :=
  ⟨h2.1.trans h1.1, fun n => by
    obtain ⟨ck, h⟩ := h1.2 n
    obtain ⟨ck', h'⟩ := h2.2 n
    exact ⟨ck', by rw [h', h]⟩⟩

theorem State.keepsPins_of_eq {s t : State} (hx : t.xlt = s.xlt) (ht : t.tens = s.tens) : s.KeepsPins t :=
  ⟨hx, fun n => ⟨(s.ten n).ckpt, by rw [State.ten, ht]; rfl⟩⟩

theorem State.KeepsPins.pinned {s t : State} (h : s.KeepsPins t) (ten va : Nat) : t.pinned ten va = s.pinned ten va := by
  obtain ⟨ck, ht⟩ := h.2 ten
  have hl : t.lockedAt ten va = s.lockedAt ten va := by rw [State.lockedAt, h.1]; rfl
  rw [State.pinned, ht, hl]
  rfl

theorem State.KeepsPins.foldl {α : Type} {f : State → α → State} (h : ∀ (s : State) a, s.KeepsPins (f s a)) (l : List α) (s : State) :
    s.KeepsPins (l.foldl f s) :=
  List.foldlRecOn (motive := fun t => s.KeepsPins t) l f (.refl s) fun t ht a _ => ht.trans (h t a)

theorem State.keepsPins_count (s : State) (k n : Nat) : s.KeepsPins (s.count k n) :=
  State.keepsPins_of_eq (s.count_xlt k n) (s.count_tens k n)

theorem State.keepsPins_poolWrite (s : State) (pa : Nat) (bs : List Byte) : s.KeepsPins (s.poolWrite pa bs) :=
  State.keepsPins_of_eq rfl rfl

theorem State.keepsPins_pinnedApply (s : State) (a : PinnedAccess) (q : PinnedReq) (cl : Nat) : s.KeepsPins (s.pinnedApply a q cl).2 := by
  unfold State.pinnedApply
  dsimp only
  split
  · exact s.keepsPins_poolWrite _ _
  · exact (s.keepsPins_count _ _).trans (State.keepsPins_poolWrite _ _ _)
  · split
    · exact s.keepsPins_poolWrite _ _
    · exact .refl s
  · exact .refl s

theorem State.keepsPins_settleReq (s : State) (r : MemReq) : s.KeepsPins (s.settleReq r) := by
  unfold State.settleReq
  split
  · split
    · split
      · exact (s.keepsPins_pinnedApply _ _ _).trans (State.keepsPins_of_eq rfl rfl)
      · exact .refl s
    · exact .refl s
  · exact .refl s

theorem State.keepsPins_soil (s : State) (pa n : Nat) : s.KeepsPins (s.soil pa n) := by
  unfold State.soil
  split
  · exact .refl s
  · refine ⟨rfl, fun i => ?_⟩
    by_cases hi : i < s.tens.length
    · simp [State.ten, List.getD_eq_getElem?_getD, List.getElem?_map, List.getElem?_eq_getElem hi]
    · simp [State.ten, List.getD_eq_getElem?_getD, List.getElem?_map, List.getElem?_eq_none (Nat.not_lt.1 hi)]

theorem State.keepsPins_laneWrite (s : State) (pa : Nat) (bs : List Byte) : s.KeepsPins (s.laneWrite pa bs) :=
  ((KeepsPins.foldl State.keepsPins_settleReq _ s).trans (State.keepsPins_soil _ _ _)).trans (State.keepsPins_poolWrite _ _ _)

/-- R317: the stores of the acting threads go where their addresses were translated at issue. -/
theorem foldl_laneWrite_eq {s s' : State} (x : LaneCtx) (h : s.KeepsPins s') (js : List Nat) :
    js.foldl (fun (t : State) j => t.laneWrite (pmPa t x j) (storeBytes x j)) s'
      = js.foldl (fun (t : State) j => t.laneWrite (pmPa s x j) (storeBytes x j)) s' := by
  induction js generalizing s' with
  | nil => rfl
  | cons j js ih =>
    have hpa : pmPa s' x j = pmPa s x j := by rw [pmPa, h.pinned]; rfl
    rw [List.foldl_cons, List.foldl_cons, hpa, ih (h.trans (s'.keepsPins_laneWrite _ _))]

/-! ### Pinned loads and atomics (R317, R318) -/

/-- One request per listed thread: the memory's bytes, the tenancies and the cohorts stay. -/
theorem foldl_memRequest {α : Type} (op : Access) (pa : State → α → Nat) (len : Nat) (ten : Nat) (va : α → Option Nat) (unit : Nat) (lat : Bool)
    (who : α → MemClient) (js : List α) (s : State) :
    let t := js.foldl (fun (s : State) j => s.memRequest op (pa s j) len ten (va j) unit lat (who j)) s
    t.mem.pool = s.mem.pool ∧ t.mem.reqs.length = s.mem.reqs.length + js.length ∧ t.tens = s.tens ∧ t.cohorts = s.cohorts := by
  induction js generalizing s with
  | nil => exact ⟨rfl, rfl, rfl, rfl⟩
  | cons j js ih =>
    obtain ⟨hp, hr, ht, hc⟩ := ih (s.memRequest op (pa s j) len ten (va j) unit lat (who j))
    refine ⟨hp, hr.trans ?_, ht, hc⟩
    simp only [State.memRequest, List.length_append, List.length_cons, List.length_nil]
    omega

theorem coach?_of_cohorts {s t : State} (h : t.cohorts = s.cohorts) (c : CoachRef) : t.coach? c = s.coach? c := by
  rw [State.coach?, State.cohort?, h]
  rfl

/-- R317, R318: a load or an atomic parks its coach, with one request per acting thread. -/
theorem pmIssue_parks {s : State} {x : LaneCtx} (op : Nat) (k : Access) (hk : s.coach? x.ref = some x.k) :
    let t := pmIssue op k s x
    t.mem.pool = s.mem.pool ∧ t.mem.reqs.length = s.mem.reqs.length + x.threads.length ∧ t.tens = s.tens
      ∧ ∃ reqs : List PinnedReq, reqs.map (·.thread) = x.threads ∧ (∀ q ∈ reqs, q.pa = pmPa s x q.thread)
        ∧ t.coach? x.ref = some { x.k with access := some ⟨op, fSub x.w, fUD x.w, fD x.w, reqs, []⟩ } := by
  obtain ⟨hp, hr, ht, hc⟩ := foldl_memRequest k (fun s => pmPa s x) (pmWidth op (fSub x.w)) x.task.ten (fun j => some (pmAddr x j))
    (laneWordOf x.cohort.cluster) false (.pinned x.ref) x.threads s
  refine ⟨hp, hr, ht, _, ?_, ?_, State.coach?_setCoach _ ((coach?_of_cohorts hc x.ref).trans hk)⟩
  · rw [List.map_map]
    exact List.map_id _
  · intro q hq
    obtain ⟨j, -, rfl⟩ := List.mem_map.1 hq
    rfl

/-- Settles O27. -/
theorem lanePinnedMemory : Obligations.LanePinnedMemory := by
  unfold Obligations.LanePinnedMemory
  intro c w s s1 x
  refine ⟨fun hx hc => ?_, fun hx hc => ?_, fun hx hc => ?_, fun hx hc => ?_, fun hx hc => ?_⟩ <;> obtain ⟨rfl, rfl, -, hk, -⟩ := ctx_of hx.1
  · exact ⟨_, lane_checked hx hc, pmIssue_parks 4 .read hk⟩
  · refine (lane_checked hx hc).trans (congrArg Host.Outcome.next ?_)
    rw [pmStBody, State.advance, foldl_laneWrite_eq x (.refl s1)]
  · exact ⟨_, lane_checked hx hc, pmIssue_parks 6 .atomic hk⟩
  · exact ⟨_, lane_checked hx hc, pmIssue_parks 7 .atomic hk⟩
  · exact ⟨_, lane_checked hx hc, pmIssue_parks 8 .atomic hk⟩

theorem leNat_lt (bs : List Byte) : leNat bs < 256 ^ bs.length := by
  induction bs with
  | nil => exact Nat.one_pos
  | cons b bs ih =>
    rw [leNat, List.length_cons, Nat.pow_succ]
    have := b.isLt
    omega

/-- Settles O29: `pinnedApply` at the two operations, the old bytes read as a little-endian number below `2 ^ 64`. -/
theorem pinnedAtomicEffects : Obligations.PinnedAtomicEffects := by
  unfold Obligations.PinnedAtomicEffects
  intro s a q cluster
  refine ⟨fun h => ⟨_, ?_, rfl⟩, fun h => ⟨_, ?_, rfl⟩⟩
  · simp [State.pinnedApply, h, pmWidth]
  · have hlt : leNat (s.poolBytes q.pa 8) < 2 ^ 64 := by
      have := leNat_lt (s.poolBytes q.pa 8)
      rwa [State.poolBytes, memBytes_length] at this
    have hiff : BitVec.ofNat 64 (leNat (s.poolBytes q.pa 8)) = q.b ↔ leNat (s.poolBytes q.pa 8) = q.b.toNat := by
      rw [← BitVec.toNat_inj, BitVec.toNat_ofNat, Nat.mod_eq_of_lt hlt]
    simp [State.pinnedApply, h, pmWidth, hiff]

/-! ### The return of a pinned access

Where two cohorts bear the same numbers, each of their coaches returns at its own pc; the statement puts one coach into both. -/

/-- Two cohorts of one number, whose coaches differ in their pc; each has an access none of whose requests is out. -/
def twinBlock : State :=
  let k : Coach := { pc := 0, access := some ⟨4, 4, false, 0, [], []⟩ }
  { State.reset with cohorts := [⟨0, 0, 0, 0, [k], [], [], 0, []⟩, ⟨0, 0, 0, 0, [{ k with pc := 64 }], [], [], 0, []⟩] }

/-- Refutes O28: in the state with two cohorts of one number the second coach goes on from its own pc, not from the first one's. -/
theorem not_pinnedAccessReturns : ¬ Obligations.PinnedAccessReturns := by
  unfold Obligations.PinnedAccessReturns
  intro h
  obtain ⟨k', he, -⟩ := h ⟨0, 0, 0⟩ twinBlock _ _ rfl rfl rfl rfl rfl
  have hpcs := congrArg (fun t : State => t.cohorts.map fun h => h.coaches.map Coach.pc) (Host.Outcome.next.inj he)
  have hsame : [[8], [72]] = [[k'.pc], [k'.pc]] := hpcs
  simp only [List.cons.injEq, and_true] at hsame
  omega

end Sys2Proof.Machine
end

section
/-! Synchronisation and control instructions (R59–R62, R157, R158, R229–R231, R308–R311, R321, R322): what each leaves, and where it
faults. -/

namespace Sys2Proof.Machine

/-! ### Fences and epochs -/

/-- What `epoch.adv` writes is D of the acting threads, or u where UD is set. -/
theorem epochWrite_eq (k : Coach) (w : LaneWord) {act : W32} (h : act ≠ 0) (v : W32) :
    epochWrite k (fUD w) (fD w) act v = k.writeD w (threadsOf act) fun _ => [v] := by
  unfold epochWrite Coach.writeD
  split
  · obtain ⟨j, js, hj⟩ := List.exists_cons_of_ne_nil (threadsOf_ne_nil h)
    rw [hj]
    rfl
  · rfl

/-- Settles O34. -/
theorem fencesAndEpochs : Obligations.FencesAndEpochs := by
  unfold Obligations.FencesAndEpochs
  intro c w s s1 x
  refine ⟨fun hx => ?_, fun hx => ?_, fun hx => ⟨fun hp hb => ?_, fun hp hb => ?_, fun hp => ?_⟩⟩ <;> obtain ⟨rfl, rfl, -⟩ := ctx_of hx.1
  · exact body_of hx
  · exact body_of hx
  · refine (body_of hx).trans (congrArg Host.Outcome.next ?_)
    simp only [epochAdvBody, hp, hb, Bool.false_eq_true, if_false, epochWrite_eq x.k x.w hx.2.2]
    rfl
  · refine (body_of hx).trans (congrArg Host.Outcome.next ?_)
    simp only [epochAdvBody, hp, hb, Bool.false_eq_true, if_false, if_true]
  · refine (body_of hx).trans (congrArg Host.Outcome.next ?_)
    simp only [epochAdvBody, hp, if_true]

/-! ### Arrival counters -/

theorem not_reached (v target : W32) : (!reached v target) = decide ((v - target).toInt < 0) := by
  rw [reached, ← decide_not]
  simp only [Int.not_le]

/-- One bit of the carts mode set or cleared. -/
theorem getLsbD_setBit (m : W16) (b : Bool) (ac : Nat) {n : Nat} (hn : n < 16) :
    (if b then m ||| BitVec.ofNat 16 (2 ^ ac) else m &&& ~~~(BitVec.ofNat 16 (2 ^ ac))).getLsbD n = if n = ac then b else m.getLsbD n := by
  have hbit : (BitVec.ofNat 16 (2 ^ ac)).getLsbD n = decide (ac = n) := by
    rw [BitVec.getLsbD_ofNat, Nat.testBit_two_pow, decide_eq_true hn, Bool.true_and]
  by_cases h : n = ac
  · rw [if_pos h]
    cases b
    · rw [if_neg (by decide), BitVec.getLsbD_and, BitVec.getLsbD_not, hbit, decide_eq_true h.symm]
      simp
    · rw [if_pos rfl, BitVec.getLsbD_or, hbit, decide_eq_true h.symm, Bool.or_true]
  · rw [if_neg h]
    have hne : decide (ac = n) = false := decide_eq_false fun e => h e.symm
    cases b
    · rw [if_neg (by decide), BitVec.getLsbD_and, BitVec.getLsbD_not, hbit, hne, decide_eq_true hn]
      simp
    · rw [if_pos rfl, BitVec.getLsbD_or, hbit, hne, Bool.or_false]

/-- R59, R62: a cohort with the mode of acN set. -/
def Cohort.setMode (h : Cohort) (ac : Nat) (carts : Bool) : Cohort :=
  { h with acCarts := if carts then h.acCarts ||| BitVec.ofNat 16 (2 ^ ac) else h.acCarts &&& ~~~(BitVec.ofNat 16 (2 ^ ac)) }

section
variable {c : CoachRef} {w : LaneWord} {s s1 : State} {x : LaneCtx} {cls op : Nat}

/-- R59: `ac.add` on an unbound counter: the coach goes on, and the counter advances. -/
theorem acAddBody_of_unbound (h : Fetches s c cls op w s1 x) (hb : x.task.bound (fD x.w % 16) = none) :
    acAddBody s1 x = (s1.setCoach x.ref x.k.step).modCohort x.ref.task x.ref.cohort
      (·.addAc (fD x.w % 16) (if x.w.i then immZ x.w else x.k.reg (fUB x.w) (fB x.w) x.low)) := by
  obtain ⟨rfl, -, -, -, hh, -⟩ := ctx_of h
  obtain ⟨hid, hnum, -⟩ := ids_of h
  have htask : (s1.setCoach x.ref x.k.step).task? x.ref.task = some x.task := by
    have htask := task?_of_issueOf h.2.2.1
    rwa [hid] at htask
  rw [acAddBody, hb, if_neg (by simp), State.advance, hid, hnum]
  simp only [State.contribute, htask, State.cohort?_setCoach x.k.step hh, hb]

/-- Fields of a cohort other than its place, changed in one cohort: the cohort is then read back. -/
theorem cohort?_modCohort_setCoach {f : Cohort → Cohort} (h : Fetches s c cls op w s1 x) (k : Coach)
    (hf : ∀ h, (f h).task = h.task ∧ (f h).num = h.num) :
    ((s1.setCoach c k).modCohort c.task c.cohort f).cohort? c.task c.cohort = some (f (x.cohort.withCoach c.coach k)) := by
  obtain ⟨-, -, -, -, hh, -⟩ := ctx_of h
  exact State.cohort?_modCohort_same (State.cohort?_setCoach k hh) hf

end

/-- Settles O33. -/
theorem arrivalCounters : Obligations.ArrivalCounters := by
  unfold Obligations.ArrivalCounters
  intro c w s s1 x
  refine ⟨fun hx => ?_, fun hx hb hok => ?_, fun hx hb ho => ?_, fun hx hb => ?_, fun hx hb => ?_⟩ <;>
    obtain ⟨rfl, rfl, -, -, hh, -⟩ := ctx_of hx.1
  · refine (body_of hx).trans (congrArg Host.Outcome.next ?_)
    simp only [acWaitBody, not_reached, List.isEmpty_iff]
    split <;> rfl
  · refine ⟨_, _, (body_of hx).trans (congrArg Host.Outcome.next (acAddBody_of_unbound hx.1 hb)),
      cohort?_modCohort_setCoach hx.1 _ fun h => ⟨rfl, rfl⟩, rfl, ?_, ?_⟩
    · simp only [Cohort.addAc, Cohort.withCoach, smGet_smSet hok, if_true]
    · intro n hn
      simp only [Cohort.addAc, Cohort.withCoach, smGet_smSet hok, if_neg hn]
  · obtain ⟨hid, hnum, -⟩ := ids_of hx.1
    have hcond : ¬((x.task.bound (fD x.w % 16)).isSome = true ∨ s1.acOutstanding x.task.id x.cohort.num (fD x.w % 16) = true) := by
      simp [hb, ho]
    refine ⟨_, (x.cohort.setMode (fD x.w % 16) (bitOf (fSub x.w) 0)).withCoach x.ref.coach x.k.step,
      (body_of hx).trans (congrArg Host.Outcome.next (if_neg hcond)), ?_, rfl, fun n hn => getLsbD_setBit _ _ _ hn⟩
    rw [hid, hnum]
    exact State.cohort?_setCoach _ (State.cohort?_modCohort_same (f := (·.setMode _ _)) hh fun h => ⟨rfl, rfl⟩)
  · refine (body_of hx).trans (congrArg Host.Outcome.next ?_)
    rw [acAddBody, if_pos hb]
  · refine (body_of hx).trans (congrArg Host.Outcome.next ?_)
    rw [acModeBody, if_pos hb]

end Sys2Proof.Machine
end

section
/-! Hitch and control instructions (R229–R231, R308–R311, R321, R322): what each leaves, and a branch's missing fault. -/

namespace Sys2Proof.Machine

/-! ### Carts -/

theorem leastFrom_some {p : Nat → Bool} {n i : Nat} (h : leastFrom p n = some i) : i < n ∧ p i = true :=
  ⟨List.mem_range.1 (List.mem_of_find?_eq_some h), List.find?_some h⟩

section
variable (h : Hitch) {i j : Nat} (f : Cart → Cart)

theorem Hitch.cart_modCart (hi : i < h.carts.length) : (h.modCart i f).cart i = f (h.cart i) := modAt_getD h.carts f {} hi

theorem Hitch.cart_modCart_ne (hij : j ≠ i) : (h.modCart i f).cart j = h.cart j := modAt_getD_ne h.carts f {} hij.symm

variable {h}

theorem Hitch.freeCart_some (hf : h.freeCart = some i) : i < h.carts.length ∧ (h.cart i).st = .free := by
  obtain ⟨hi, hst⟩ := leastFrom_some hf
  rw [List.getElem?_eq_getElem hi, Option.any_some, beq_iff_eq] at hst
  exact ⟨hi, by rw [Hitch.cart, getD_of_lt _ _ hi, hst]⟩

theorem Hitch.lt_of_heldBy {st : CartSt} {c : CoachRef} (hh : h.heldBy st c = some i) : i < h.carts.length := (leastFrom_some hh).1

/-- R229: a cart put on a hitch that is no chain. -/
theorem Hitch.put_of_queue (hc : h.cons ≠ 6) (len : Nat) (tag : W32) (first : Nat) :
    h.put i len tag first = { h.modCart i fun c => { c with st := .queued, len := len, tag := tag, holder := .none }
      with queue := h.queue ++ [i], produced := h.produced + 1 } := if_neg hc

/-- R229: a put queues the cart and counts it, whatever the consumer. -/
theorem Hitch.put_queue (len : Nat) (tag : W32) (first : Nat) :
    (h.put i len tag first).queue = h.queue ++ [i] ∧ (h.put i len tag first).produced = h.produced + 1 := by
  unfold Hitch.put
  split <;> exact ⟨rfl, rfl⟩

end

/-- Settles O35. -/
theorem hitchInstructions : Obligations.HitchInstructions := by
  unfold Obligations.HitchInstructions
  intro c w s s1 x h
  refine ⟨fun hx hl hheld => ⟨fun i hi => ?_, fun hf => ?_⟩, fun i hx hl hheld h0 hsz => ?_, fun hx hl hheld => ⟨fun i q hq => ?_, fun hq => ?_⟩,
    fun i hx hl hheld => ?_⟩ <;> obtain ⟨rfl, rfl, -⟩ := ctx_of hx.1
  · obtain ⟨hlen, hfree⟩ := Hitch.freeCart_some hi
    refine ⟨(body_of hx).trans (congrArg Host.Outcome.next ?_), hfree, h.cart_modCart _ hlen, fun j hj => h.cart_modCart_ne _ hj⟩
    simp only [hcGetBody, hl, hheld, hi]
    rfl
  · refine (body_of hx).trans (congrArg Host.Outcome.next ?_)
    simp only [hcGetBody, hl, hheld, hf]
    rfl
  · have hsize : ¬((opA x.k x.w x.low).toNat = 0 ∨ h.size < (opA x.k x.w x.low).toNat) := by omega
    obtain ⟨hqueue, hprod⟩ := Hitch.put_queue (h := h) (i := i) (opA x.k x.w x.low).toNat (opB x.k x.w x.low) h.cluster
    refine ⟨(body_of hx).trans (congrArg Host.Outcome.next ?_), hqueue, hprod, fun hc => ?_⟩
    · simp only [hcPutBody, hl, hheld, if_neg hsize]
      rfl
    · rw [Hitch.put_of_queue hc]
      exact ⟨h.cart_modCart _ (Hitch.lt_of_heldBy hheld), fun j hj => h.cart_modCart_ne _ hj⟩
  · refine ⟨{ h.modCart i fun y => { y with st := .held, holder := .coach x.ref } with queue := q, consumed := h.consumed + 1 },
      (body_of hx).trans (congrArg Host.Outcome.next ?_), rfl, rfl, fun hi => ⟨h.cart_modCart _ hi, fun j hj => h.cart_modCart_ne _ hj⟩⟩
    simp only [hcTakeBody, hl, hheld, Hitch.take, hq]
    rfl
  · refine (body_of hx).trans (congrArg Host.Outcome.next ?_)
    simp only [hcTakeBody, hl, hheld, Hitch.take, hq]
    rfl
  · refine ⟨(body_of hx).trans (congrArg Host.Outcome.next ?_), h.cart_modCart _ (Hitch.lt_of_heldBy hheld), fun j hj => h.cart_modCart_ne _ hj⟩
    simp only [hcRetBody, hl, hheld]
    rfl

/-! ### Control flow -/

/-- A settled coach that a lane issues for does not wait. -/
theorem wait_of_fetches {c : CoachRef} {w : LaneWord} {s s1 : State} {x : LaneCtx} {cls op : Nat} (h : Fetches s c cls op w s1 x) :
    x.k.wait = .none := by
  obtain ⟨h0, ht, hh, -, hk, -⟩ := settled_of_issueOf h.2.2.1
  have hr := h.1
  unfold State.laneReady at hr
  rw [ht, hh] at hr
  split at hr
  · next t _ _ e1 _ _ =>
    cases e1
    simp only [hk, Bool.and_eq_true, beq_iff_eq] at hr
    exact hr.1.1.1.1.1.2
  · cases hr

theorem acting_sub_running (k : Coach) (w : LaneWord) : k.acting w &&& k.running = k.acting w := by
  unfold Coach.acting
  split
  · rw [BitVec.and_comm, ← BitVec.and_assoc, BitVec.and_self]
  · exact BitVec.and_self

/-- The threads of the running path that a branch leaves behind; none where all of it acts. -/
theorem rest_eq_zero_iff (k : Coach) (w : LaneWord) : k.running &&& ~~~k.acting w = 0 ↔ k.acting w = k.running := by
  have hsub := acting_sub_running k w
  constructor
  · intro h
    rw [← hsub]
    refine BitVec.eq_of_getLsbD_eq fun i hi => ?_
    have hi' := congrArg (·.getLsbD i) h
    simp only [BitVec.getLsbD_and, BitVec.getLsbD_not, hi, decide_true, Bool.true_and] at hi' ⊢
    cases hr : k.running.getLsbD i
    · rw [Bool.and_false]
    · simpa [hr] using hi'
  · intro h
    rw [h]
    refine BitVec.eq_of_getLsbD_eq fun i hi => ?_
    simp [hi]

/-- R70: opening a barrier leaves a coach that does not wait where it is. -/
theorem Coach.openBarrier_of_not_waiting {k : Coach} (h : k.wait = .none) (b : Nat) :
    (k.openBarrier b).wait = .none ∧ (k.openBarrier b).x = k.x ∧ (k.openBarrier b).pc = k.pc ∧ (k.openBarrier b).g = k.g := by
  have hne : ¬k.wait = .barrier b := by rw [h]; exact nofun
  rw [Coach.openBarrier, if_neg hne]
  exact ⟨h, rfl, rfl, rfl⟩

/-- R70: barriers that complete leave a coach that does not wait where it is. -/
theorem Cohort.coach_checkBarriers {h : Cohort} {i : Nat} {k : Coach} (hk : h.coaches[i]? = some k) (hw : k.wait = .none) :
    ∃ k', h.checkBarriers.coaches[i]? = some k' ∧ k'.wait = .none ∧ k'.x = k.x ∧ k'.pc = k.pc ∧ k'.g = k.g := by
  refine List.foldlRecOn (motive := fun h' : Cohort =>
    ∃ k', h'.coaches[i]? = some k' ∧ k'.wait = .none ∧ k'.x = k.x ∧ k'.pc = k.pc ∧ k'.g = k.g) _ _ ⟨k, hk, hw, rfl, rfl, rfl⟩ fun h' ih b _ => ?_
  obtain ⟨k', hk', hw', hx, hpc, hg⟩ := ih
  split
  · obtain ⟨ow, ox, opc, og⟩ := k'.openBarrier_of_not_waiting hw' b
    exact ⟨k'.openBarrier b, by rw [Cohort.openBarrier, List.getElem?_map, hk']; rfl, ow, ox.trans hx, opc.trans hpc, og.trans hg⟩
  · exact ⟨k', hk', hw', hx, hpc, hg⟩

theorem Cohort.checkBarriers_ids (h : Cohort) : h.checkBarriers.task = h.task ∧ h.checkBarriers.num = h.num :=
  List.foldlRecOn (motive := fun h' : Cohort => h'.task = h.task ∧ h'.num = h.num) _ _ ⟨rfl, rfl⟩ fun h' ih b _ => by
    split <;> exact ih

section
variable {c : CoachRef} {w : LaneWord} {s s1 : State} {x : LaneCtx} {op : Nat} {f : LaneCtx → Nat ⊕ Coach}

/-- A control instruction writes its coach back, or faults. -/
theorem lane_ctl (h : Issues s c 7 op w s1 x) {k : Coach} (hf : f x = .inr k) : s.lane c 7 op w (ctlBody f) = .next (s1.setCoach c k) := by
  obtain ⟨rfl, -⟩ := ctx_of h.1
  rw [body_of h, ctlBody, hf]

theorem lane_ctl_fault (h : Issues s c 7 op w s1 x) {n : Nat} (hf : f x = .inl n) :
    s.lane c 7 op w (ctlBody f) = .next (s1.instrFault x n x.low) := by
  rw [body_of h, ctlBody, hf]

/-- R308: a branch that the whole running path takes. -/
theorem brResult_whole (h : Issues s c 7 op w s1 x) (ha : x.act = x.k.running) :
    brResult x = .inr { x.k with pc := pcPlus x.k.pc (signedOf (fImm w) 24) } := by
  obtain ⟨-, rfl, hact, -⟩ := ctx_of h.1
  have hrest : x.k.m &&& ~~~x.k.x &&& ~~~x.act = 0 := by
    rw [hact] at ha ⊢
    exact (rest_eq_zero_iff ..).2 ha
  simp only [brResult, if_neg h.2.2, if_pos hrest]

/-- R308: a branch that divides the running path. -/
theorem brResult_divided (h : Issues s c 7 op w s1 x) (ha : x.act ≠ x.k.running) (hj : jofs w ≠ 0)
    (hfit : if x.k.joinPc = some (pcPlus x.k.pc (jofs w)) then x.k.stack.length + 1 ≤ 32 else x.k.stack.length + 2 ≤ 32 ∧ x.k.joins < 16) :
    brResult x = .inr { x.k with
      stack := .path (pcPlus x.k.pc (signedOf (fImm w) 24)) x.act ::
        (if x.k.joinPc = some (pcPlus x.k.pc (jofs w)) then x.k.stack else .join (pcPlus x.k.pc (jofs w)) x.k.m :: x.k.stack)
      m := x.k.running &&& ~~~x.act, pc := nextPc x.k.pc } := by
  obtain ⟨-, rfl, hact, -⟩ := ctx_of h.1
  have hrest : ¬x.k.m &&& ~~~x.k.x &&& ~~~x.act = 0 := by
    rw [hact] at ha ⊢
    exact fun h => ha ((rest_eq_zero_iff ..).1 h)
  simp only [brResult, if_neg h.2.2, if_neg hrest, if_neg hj]
  by_cases hjoin : x.k.joinPc = some (pcPlus x.k.pc (jofs x.w))
  · rw [if_pos hjoin] at hfit
    have hlen : ¬32 < x.k.stack.length + 1 := by omega
    simp [hjoin, hlen, Coach.running]
  · rw [if_neg hjoin] at hfit
    have hlen : ¬32 < x.k.stack.length + 2 := by omega
    have hcount : ¬x.k.joins = 16 := by omega
    simp [hjoin, hlen, hcount, Coach.running]

end

/-- Settles O36. -/
theorem controlFlow : Obligations.ControlFlow := by
  unfold Obligations.ControlFlow
  intro c w s s1 x
  refine ⟨fun hx => ?_, fun hx ha => lane_ctl hx (brResult_whole hx ha), fun hx ha hj hfit => ?_, fun hx ha hc => lane_ctl hx ?_,
    fun pc r hx ha hc => lane_ctl hx ?_, fun hx ha hal => lane_ctl hx ?_, fun hx => ?_⟩ <;> obtain ⟨rfl, rfl, -, hk, -⟩ := ctx_of hx.1
  · exact body_of hx
  · exact lane_ctl hx (brResult_divided hx ha hj (of_decide_eq_true hfit))
  · rw [callResult, wholePath, if_pos ha, if_neg (by omega)]
  · simp only [retResult, wholePath, if_pos ha, hc, if_true]
  · have hmod : (opA64 x.k x.w x.low).toNat % 2 ^ 48 % 8 = 0 := by omega
    simp only [jmpResult, wholePath, if_pos ha, hmod, ne_eq, not_true, if_false]
  · obtain ⟨hid, hnum, -⟩ := ids_of hx.1
    obtain ⟨h', hh', hget⟩ := State.coach?_eq_some.1 hk
    have hcoach : (h'.withCoach x.ref.coach { x.k with x := x.k.x ||| x.act, pc := nextPc x.k.pc }).coaches[x.ref.coach]?
        = some { x.k with x := x.k.x ||| x.act, pc := nextPc x.k.pc } := by
      rw [Cohort.withCoach, getElem?_modAt, if_pos rfl, hget, Option.map_some]
    obtain ⟨k', hk', -, hx', hpc', hg'⟩ := Cohort.coach_checkBarriers hcoach (wait_of_fetches hx.1)
    refine ⟨_, k', body_of hx, rfl, State.coach?_eq_some.2 ⟨_, ?_, hk'⟩, hx', hpc', hg'⟩
    rw [exitBody, hid, hnum]
    exact State.cohort?_modCohort_same (State.cohort?_setCoach _ hh') Cohort.checkBarriers_ids

/-! ### A branch with more JOIN entries than the stack holds

A branch that needs a new JOIN faults where there are 16 (R308); it does not ask for fewer. With 17, which no program reaches, it divides
the path all the same. -/

/-- `br` for the threads whose predicate 1 holds, its join one instruction on. -/
def divideWord : LaneWord := { i := true, g := true, gp := 1, a := 1 }

/-- A block whose one coach, at pc 0 of a pinned page, has 17 JOIN entries, and whose predicate 1 holds for thread 0. -/
def joinBlock : State :=
  { State.reset with
    resetLow := false
    tens := { chgrp := 0xFFFFFFFF, pins := [⟨true, 0, 1, 2, true, false, 0, 0⟩] } :: List.replicate 7 {}
    tasks := [{ id := 1, ten := 0, ctx := 0, cmd := ⟨0, 0, 0, 0, 1, {}⟩, cmask := 1, k := 1, nreg := 64, llm := 0, nthread := 32, spext := 0
                swlim := 0, seed := 0, entry := 0, args := 0, binds := [], rank := 0, fsize := 1, next := 1 }]
    cohorts := [{ task := 1, num := 0, cluster := 0, lane := 0
                  coaches := [{ pc := 0, p := [(1, 1)], stack := List.replicate 17 (.join 800 0) }] }]
    clusters := { icache := [⟨0, 0, wordBits divideWord 7 1⟩] } :: List.replicate 7 {}
    xlt := { State.reset.xlt with btlb := [(0, 0, { ten := 0, big := false, va := 0, pa := 0, w := true, locked := true })] } }

/-- What the refutation needs of the state in which the branch issues. -/
def joinBlockIssues : Bool :=
  joinBlock.laneReady ⟨1, 0, 0⟩ && joinBlock.laneGets ⟨1, 0, 0⟩ (wordBits divideWord 7 1)
    && (joinBlock.issueOf ⟨1, 0, 0⟩ 7 1 divideWord).any fun (s1, x) =>
      s1.pinnedRange x.task.ten x.k.pc 8 && (s1.fetchBarred x.task.ten x.k.pc).isNone && !s1.fetchLost x.cohort.cluster x.task.ten x.k.pc
        && (encFault (opSpec 7 1 divideWord) divideWord x.task.nreg).isNone && decide (x.act = 1) && decide (x.k.running = 0xFFFFFFFF)
        && decide (x.k.joinPc = some 800) && decide (x.k.joins = 17) && decide (x.k.pc = 0) && decide (x.k.stack.length = 17)

theorem joinBlock_issues : joinBlockIssues = true := by decide

/-- Refutes O37: in a coach with 17 JOIN entries a divided branch finds no room, and raises no fault. -/
theorem not_controlAndHitchFaults : ¬ Obligations.ControlAndHitchFaults := by
  unfold Obligations.ControlAndHitchFaults
  intro h
  have hissue := joinBlock_issues
  simp only [joinBlockIssues, Option.any_eq_true, Bool.and_eq_true, decide_eq_true_eq, Option.isNone_iff_eq_none, Bool.not_eq_true'] at hissue
  obtain ⟨⟨hready, hgets⟩, ⟨s1, x⟩, hof, ⟨⟨⟨⟨⟨⟨⟨⟨⟨hpin, hbar⟩, hlost⟩, henc⟩, hact⟩, hrun⟩, hjoin⟩, hjoins⟩, hpc⟩, hlen⟩⟩ := hissue
  have hx : Issues joinBlock ⟨1, 0, 0⟩ 7 1 divideWord s1 x :=
    ⟨⟨hready, hgets, hof, hpin, hbar, hlost⟩, henc, by rw [hact]; decide⟩
  have hpart : x.act ≠ x.k.running := by rw [hact, hrun]; decide
  have hnew : ¬x.k.joinPc = some (pcPlus x.k.pc (jofs divideWord)) := by rw [hjoin, hpc]; decide
  have hfits : decide (if x.k.joinPc = some (pcPlus x.k.pc (jofs divideWord)) then x.k.stack.length + 1 ≤ 32
      else x.k.stack.length + 2 ≤ 32 ∧ x.k.joins < 16) = false := by
    refine decide_eq_false fun h => ?_
    rw [if_neg hnew, hjoins] at h
    exact absurd h.2 (by decide)
  have hfault := (h _ _ _ _ _).2.1 hx hpart (by decide) hfits
  obtain ⟨-, hw, hacting, -⟩ := ctx_of hx.1
  have hrest : ¬x.k.m &&& ~~~x.k.x &&& ~~~x.act = 0 := by
    rw [hacting] at hpart ⊢
    exact fun h => hpart ((rest_eq_zero_iff ..).1 h)
  obtain ⟨k, hk⟩ : ∃ k, brResult x = .inr k := by
    have hj : ¬jofs divideWord = 0 := by decide
    simp only [brResult, if_neg hx.2.2, if_neg hrest, hw, hjoins, hlen, if_neg hj, decide_eq_true hnew, ne_eq]
    exact ⟨_, rfl⟩
  have hgoes : exec (.br ⟨1, 0, 0⟩ divideWord) joinBlock = .next (s1.setCoach ⟨1, 0, 0⟩ k) := lane_ctl hx hk
  have heq : s1.setCoach ⟨1, 0, 0⟩ k = s1.instrFault x 5 x.low := Host.Outcome.next.inj (hgoes.symm.trans hfault)
  have htask := task?_of_issueOf hof
  have hgone : (s1.setCoach ⟨1, 0, 0⟩ k).task? x.task.id = none := by rw [heq, State.instrFault, State.task?_failTask]
  cases htask.symm.trans hgone

end Sys2Proof.Machine
end

section
/-! The issue of asynchronous copies (R319, R320). -/

namespace Sys2Proof.Machine

theorem State.copyMover_div (s : State) (cluster : Nat) : s.copyMover cluster / 8 = cluster := by
  unfold State.copyMover
  have hlt : ∀ o : Option Nat, (∀ m, o = some m → m < 8) → o.getD 0 < 8 := by
    intro o ho
    cases o with
    | none => decide
    | some m => exact ho m rfl
  have := hlt _ fun m hm => (leastFrom_some (p := fun m => bitOf s.enMover.toNat (8 * cluster + m) && !s.quiescing 2 (8 * cluster + m)) hm).1
  omega

/-- R319, R320: copies whose counter may take them, of lengths and with sides within their bounds, are issued in the threads' order. -/
theorem copyBody_of_ok {threads : LaneCtx → List Nat} {s : State} {x : LaneCtx}
    (hac : (x.task.bound (fX x.w 16 4)).isSome = true ∨ bitOf x.cohort.acCarts.toNat (fX x.w 16 4) = false)
    (hjs : ∀ j ∈ threads x, (copyReq x j).len ≤ 4194303 ∧ ((copyReq x j).len = 0
      ∨ (sideOk x.task (copyReq x j).src (copyReq x j).len = true ∧ sideOk x.task (copyReq x j).dst (copyReq x j).len = true))) :
    copyBody threads s x
      = (threads x).foldl (fun (s : State) j => s.issueCopy x (fX x.w 16 4) (copyReq x j)) (s.setCoach x.ref x.k.step) := by
  have hcarts : ((x.task.bound (fX x.w 16 4)).isNone && bitOf x.cohort.acCarts.toNat (fX x.w 16 4)) = false := by
    rcases hac with h | h
    · rw [Option.isNone_eq_false_iff.2 h, Bool.false_and]
    · rw [h, Bool.and_false]
  have hfind : (threads x).find? (fun j => (((x.task.bound (fX x.w 16 4)).isNone && bitOf x.cohort.acCarts.toNat (fX x.w 16 4))
      || decide (4194303 < (copyReq x j).len) || ((copyReq x j).len != 0
        && (!sideOk x.task (copyReq x j).src (copyReq x j).len || !sideOk x.task (copyReq x j).dst (copyReq x j).len)))) = none := by
    rw [List.find?_eq_none]
    intro j hj
    obtain ⟨hlen, h0 | ⟨hsrc, hdst⟩⟩ := hjs j hj
    · simp [hcarts, h0]
    · simp [hcarts, hsrc, hdst, hlen]
  simp only [copyBody, hfind]
  rfl

/-- Settles O31. -/
theorem laneCopiesIssue : Obligations.LaneCopiesIssue := by
  unfold Obligations.LaneCopiesIssue
  intro c w s s1 x
  refine ⟨fun hx ⟨hac, hjs⟩ hlen => ?_, fun hx ⟨hac, hjs⟩ => ?_⟩ <;> obtain ⟨rfl, rfl, -⟩ := ctx_of hx.1
  · have hbody : copyBody (fun x => [x.low]) s1 x = _ := copyBody_of_ok hac hjs
    rw [List.foldl_cons, List.foldl_nil, State.issueCopy, if_neg hlen] at hbody
    exact ⟨_, _, (body_of hx).trans (congrArg Host.Outcome.next hbody), rfl, rfl, rfl, rfl, rfl, rfl, rfl, rfl, State.copyMover_div ..⟩
  · exact (body_of hx).trans (congrArg Host.Outcome.next (copyBody_of_ok hac hjs))

end Sys2Proof.Machine
end

section
/-! Orders (R326–R329): accepted, parked, and accepted once the unit has room. -/

namespace Sys2Proof.Machine

/-- An effect followed by another, which runs on what the first leaves. -/
theorem OM.go_bind {α β : Type} (m : OM α) (f : α → OM β) (s : State) :
    (m >>= f).go s = match m.go s with
      | (.ok a, s1) => (f a).go s1
      | (.error e, s1) => (.error e, s1) := by
  change (StateT.bind m (ExceptT.bindCont f)) s = _
  dsimp only [StateT.bind, bind, OM.go, ExceptT.run]
  rcases m s with ⟨a | e, s1⟩ <;> rfl

theorem OM.go_bind_ok {α β : Type} {m : OM α} {f : α → OM β} {s s2 : State} {b : β} (h : (m >>= f).go s = (.ok b, s2)) :
    ∃ a s1, m.go s = (.ok a, s1) ∧ (f a).go s1 = (.ok b, s2) := by
  rw [OM.go_bind] at h
  split at h
  · next a s1 hm => exact ⟨a, s1, hm, h⟩
  · cases h

/-- What acceptance puts last among the orders (R328). -/
theorem Acc.accept_orders {a : Acc} {s s2 : State} (h : a.accept.go s = (.ok (), s2)) :
    ∃ (o : Order) (l : List Order), s2.orders = l ++ [o] ∧ o.task = a.k.id ∧ o.cohort = a.h.num ∧ o.ten = a.k.ten ∧ o.ctx = a.k.ctx
      ∧ o.addr = a.name.pc ∧ o.unit = a.name.unit ∧ o.op = a.w.op := by
  unfold Acc.accept at h
  obtain ⟨-, s3, -, h⟩ := OM.go_bind_ok h
  obtain ⟨-, s4, -, h⟩ := OM.go_bind_ok h
  obtain ⟨-, s5, -, h⟩ := OM.go_bind_ok h
  obtain ⟨r, s6, -, h⟩ := OM.go_bind_ok h
  obtain ⟨-, s7, -, h⟩ := OM.go_bind_ok h
  obtain ⟨s8, s9, -, h⟩ := OM.go_bind_ok h
  obtain rfl := (Prod.mk.inj h).2
  exact ⟨_, _, rfl, rfl, rfl, rfl, rfl, rfl, rfl, rfl⟩

section
variable {i : Instr} {cls op : Nat} {c : CoachRef} {w : LaneWord} {s s1 s2 : State} {x : LaneCtx}

/-- An order that issues is taken or parked by `orderBody`. -/
theorem exec_of_order (hi : orderRow i = some (cls, op, c, w)) (hx : Issues s c cls op w s1 x) : exec i s = .next (orderBody cls op s1 x) := by
  rw [exec_of_orderRow hi, order_of hx.1, hx.2.1]
  exact congrArg Host.Outcome.next (if_neg hx.2.2)

/-- R328: an acceptance that ends well. -/
theorem Acc.settle_of_ok {a : Acc} (hr : a.ready s = true) (ha : a.accept.go s = (.ok (), s2)) (p : State) (y : Coach) :
    a.settle p c y s = some ((s2.farDrop (.coach c)).setCoach c y) := by
  simp only [Acc.settle, hr, Bool.not_true, Bool.false_eq_true, if_false, ha]

theorem Acc.settle_of_not_ready {a : Acc} (hr : a.ready s = false) (p : State) (y : Coach) : a.settle p c y s = none := by
  simp only [Acc.settle, hr, Bool.not_false, if_true]

end

/-- Settles O38. -/
theorem ordersAreAccepted : Obligations.OrdersAreAccepted := by
  unfold Obligations.OrdersAreAccepted
  intro i cls op c w s s1 s2 x hi hx a hr ha
  obtain ⟨rfl, -⟩ := ctx_of hx.1
  refine ⟨(exec_of_order hi hx).trans (congrArg Host.Outcome.next ?_), Acc.accept_orders ha⟩
  change (a.settle _ x.ref x.k.step s1).getD _ = _
  rw [Acc.settle_of_ok hr ha]
  rfl

/-- Settles O39. -/
theorem ordersPark : Obligations.OrdersPark := by
  unfold Obligations.OrdersPark
  intro i cls op c w s s1 x hi hx hr
  obtain ⟨rfl, -⟩ := ctx_of hx.1
  refine (exec_of_order hi hx).trans (congrArg Host.Outcome.next ?_)
  simp only [orderBody, Acc.settle_of_not_ready hr, Option.getD_none]

/-- Settles O40. -/
theorem parkedOrdersAreAccepted : Obligations.ParkedOrdersAreAccepted := by
  unfold Obligations.ParkedOrdersAreAccepted
  intro c s s2 k h y w hk hh hy hw hr ha
  change execOrderAccept c s = _
  simp only [execOrderAccept, hk, hh, hy, hw, Acc.settle_of_ok hr ha]
  rfl

end Sys2Proof.Machine
end

section
/-! The commands of the front end that DISPATCH, FENCE, TABLE_LOAD, HITCH_BUILD and INVALIDATE_ALL name, taken at the head of their ring
(R46, R75, R79–R84, R116, R224–R228, R232, R299, R355). -/

namespace Sys2Proof.Machine

/-! ### A command's checks -/

section
variable {α β : Type} {s s' : State}

/-- Checks that pass: each passes on what the one before it leaves. -/
theorem CM.go_bind_ok {m : CM α} {f : α → CM β} {b : β} (h : (m >>= f).go s = (.ok b, s')) :
    ∃ a s1, m.go s = (.ok a, s1) ∧ (f a).go s1 = (.ok b, s') := by
  rw [CM.go_bind] at h
  split at h
  · next a s1 hm => exact ⟨a, s1, hm, h⟩
  · cases h

theorem CM.go_need_ok {b : Bool} {n : Nat} {u : Unit} (h : (cNeed b n).go s = (.ok u, s')) : b = true ∧ s' = s := by
  rw [CM.go_need] at h
  cases b
  · cases h
  · cases h
    exact ⟨rfl, rfl⟩

theorem CM.go_pure_ok {a b : α} (h : (pure a : CM α).go s = (.ok b, s')) : b = a ∧ s' = s := by
  cases h
  exact ⟨rfl, rfl⟩

theorem CM.go_get_ok {t : State} (h : (get : CM State).go s = (.ok t, s')) : t = s ∧ s' = s := by
  cases h
  exact ⟨rfl, rfl⟩

theorem CM.go_ten_ok {c : CmdRef} {t : Tenancy} (h : (cTen c).go s = (.ok t, s')) : t = s.ten c.ten ∧ s' = s := by
  cases h
  exact ⟨rfl, rfl⟩

theorem CM.go_throw_ok {n : Nat} {a : α} (h : (throw n : CM α).go s = (.ok a, s')) : False := by cases h

/-- A read that passes leaves no trace (R367). -/
theorem CM.go_read_ok {c : CmdRef} {va n : Nat} {bs : List Byte} (h : (cRead c va n).go s = (.ok bs, s')) : s' = s := by
  unfold cRead at h
  rw [CM.go_bind, CM.go_get] at h
  dsimp only at h
  split at h
  · exact (CM.go_pure_ok h).2
  · exact (CM.go_throw_ok h).elim
  · obtain ⟨-, s2, -, h⟩ := CM.go_bind_ok h
    exact (CM.go_throw_ok h).elim

/-- The first check that fails gives the reason. -/
theorem CM.go_need_bind {p : Nat × Bool} {ps : List (Nat × Bool)} {f : Unit → CM α} {a : α}
    (h : (f ()).go s = match ps.find? fun q => !q.2 with
      | some q => (.error q.1, s)
      | none => (.ok a, s)) :
    (cNeed p.2 p.1 >>= f).go s = match (p :: ps).find? fun q => !q.2 with
      | some q => (.error q.1, s)
      | none => (.ok a, s) := by
  rw [CM.go_bind, CM.go_need, List.find?_cons]
  cases p.2
  · rfl
  · exact h

end

/-- A command that checks nothing is taken. -/
theorem takeFree {s : State} {r op : Nat} {e : CmdEntry} {row : CmdRow} {act : CmdRef → Unit → State → State} (h : Heads s r op e)
    (hr : row.op = op) (hp : row.pick e = true) (hop : op ≠ 0 ∧ op ≤ 12) :
    s.takeCmd r e row (fun _ => pure ()) act = .next (act (s.cmdAt r op e) () (s.moveHead r)) := takeOk h hr hp hop rfl

/-! ### DISPATCH -/

/-- R75: a dispatch's checks, each with its reason, in the order in which they are made. -/
def checksOfDispatch (s : State) (c : CmdRef) (bs : List Byte) : List (Nat × Bool) :=
  let d := dispDesc bs
  let x := (s.ten c.ten).slot (((s.ten c.ten).slotOf c.ctx).getD 0)
  [(0x1B, layoutOk bs dispMasks), (0x01, decide (0 < d.nthread ∧ d.nthread ≤ 2 ^ 30 ∧ 0 < d.k ∧ d.k ≤ 16)),
   (0x02, decide (8 ≤ d.nreg ∧ d.nreg ≤ 64 ∧ d.nreg % 8 = 0)), (0x03, decide (d.cmask ≠ 0) && (setBits 8 d.cmask).all (s.admits c.ten)),
   (0x04, decide (0 < x.cohortSlots)), (0x05, decide (d.k ≤ x.coachSlots)), (0x06, decide (32 * d.k * d.nreg ≤ x.regs)),
   (0x07, decide (d.llm ≤ x.llmBytes ∧ d.llm ≤ 262144)), (0x08, decide (d.spext ≤ x.spLimit)),
   (0x09, decide ((d.binds.map (·.1)).eraseDups.length = d.binds.length) && (d.binds.isEmpty || x.windowsIn d.cmask)),
   (0x0A, s.pinnedRange c.ten d.entry 8 && s.pinnedRange c.ten d.args 8)]

theorem chkDispatch_go {s : State} {c : CmdRef} {bs : List Byte} (h : s.pinRead c.ten c.entry.arg0.toNat 64 = .bytes bs) :
    (chkDispatch c).go s = match (checksOfDispatch s c bs).find? fun p => !p.2 with
      | some p => (.error p.1, s)
      | none => (.ok (dispDesc bs), s) := by
  unfold chkDispatch
  rw [CM.go_bind, CM.go_read c _ _ s bs h]
  dsimp only [checksOfDispatch]
  refine CM.go_need_bind (p := (_, _)) ?_
  rw [CM.go_bind, CM.go_get]
  dsimp only
  iterate 10 refine CM.go_need_bind (p := (_, _)) ?_
  rfl

/-- R46: the task that a dispatch admits, and what else it changes. -/
theorem actDispatch_eq (c : CmdRef) (d : DispDesc) (s : State) : ∃ k : Task,
    actDispatch c d s = { s with
      clusters := s.clusters.map fun y => { y with icache := y.icache.filter (·.ten != c.ten) }
      tasks := s.tasks ++ [k], nextTask := s.nextTask + 1 }
    ∧ k.id = s.nextTask ∧ k.ten = c.ten ∧ k.ctx = c.ctx ∧ k.cmd = c ∧ k.cmask = BitVec.ofNat 8 d.cmask ∧ k.k = d.k ∧ k.nreg = d.nreg
    ∧ k.llm = d.llm ∧ k.nthread = d.nthread ∧ k.spext = d.spext ∧ k.swlim = d.swlim ∧ k.seed = d.seed ∧ k.entry = d.entry
    ∧ k.args = d.args ∧ k.binds = d.binds ∧ k.next = 0 ∧ k.held = s.fenceTasks c.ring :=
  ⟨_, rfl, rfl, rfl, rfl, rfl, rfl, rfl, rfl, rfl, rfl, rfl, rfl, rfl, rfl, rfl, rfl, rfl, rfl⟩

theorem bitsOf_lt (w lo n : Nat) : bitsOf w lo n < 2 ^ n := Nat.mod_lt _ (Nat.two_pow_pos n)

/-- Settles O42. -/
theorem dispatchChecks : Obligations.DispatchChecks := by
  unfold Obligations.DispatchChecks
  intro r e s bs hh hb
  have hgo : (chkDispatch (s.cmdAt r 1 e)).go s = _ := chkDispatch_go hb
  change match (checksOfDispatch s (s.cmdAt r 1 e) bs).find? fun p => !p.2 with | some p => _ | none => _
  split
  · next p hp =>
    rw [hp] at hgo
    exact takeErr hh rfl rfl (by decide) hgo
  · next hp =>
    rw [hp] at hgo
    obtain ⟨k, hact, hid, hten, hctx, hcmd, hmask, hk⟩ := actDispatch_eq (s.cmdAt r 1 e) (dispDesc bs) (s.moveHead r)
    rw [State.moveHead_clusters, State.moveHead_tasks, State.moveHead_nextTask] at hact
    rw [State.moveHead_nextTask] at hid
    have hfence : (s.moveHead r).fenceTasks r = s.fenceTasks r := by rw [State.fenceTasks, State.moveHead_overlaps]; rfl
    refine ⟨k, (takeOk hh rfl rfl (by decide) hgo).trans (congrArg Host.Outcome.next hact), hid, hten, hctx, hcmd, ?_, hfence ▸ hk⟩
    rw [hmask]
    exact Nat.mod_eq_of_lt (bitsOf_lt _ 0 8)

end Sys2Proof.Machine
end

section
/-! The commands FENCE, TABLE_LOAD, HITCH_BUILD and INVALIDATE_ALL taken (R79–R84, R116, R125, R224–R228, R232, R354). -/

namespace Sys2Proof.Machine

/-! ### What the checks of a table guarantee (R80, R84) -/

section
variable {s s' : State} {c : CmdRef} {old : Option Table} {x : Table}

/-- R84: the checks of a load leave the state as it is, and the table has the number asked for and a descriptor that R84 admits. -/
theorem chkTable_ok {num : Option Nat} (h : (chkTable c old num).go s = (.ok x, s')) : num = some x.num ∧ x.desc.ok = true ∧ s' = s := by
  unfold chkTable at h
  obtain ⟨bs, s1, hread, h1⟩ := CM.go_bind_ok h
  obtain rfl := CM.go_read_ok hread
  dsimp only at h1
  obtain ⟨t, s2, hten, h2⟩ := CM.go_bind_ok h1
  obtain ⟨rfl, rfl⟩ := CM.go_ten_ok hten
  obtain ⟨_, s3, hways, h3⟩ := CM.go_bind_ok h2
  obtain ⟨-, rfl⟩ := CM.go_need_ok hways
  cases num with
  | none => exact (CM.go_throw_ok h3).elim
  | some n =>
    obtain ⟨_, s4, hneed, h4⟩ := CM.go_bind_ok h3
    obtain ⟨hok, rfl⟩ := CM.go_need_ok hneed
    rw [Bool.and_eq_true] at hok
    split at h4
    · obtain ⟨_, s5, hfit, h5⟩ := CM.go_bind_ok h4
      obtain ⟨-, rfl⟩ := CM.go_need_ok hfit
      split at h5
      · exact (CM.go_throw_ok h5).elim
      · obtain ⟨rfl, rfl⟩ := CM.go_pure_ok h5
        exact ⟨rfl, hok.1, rfl⟩
    · obtain ⟨rfl, rfl⟩ := CM.go_pure_ok h4
      exact ⟨rfl, hok.1, rfl⟩

/-- R80: the table a replacement or release names is held. -/
theorem chkHeld_ok (h : (chkHeld c).go s = (.ok x, s')) : (s.ten c.ten).table? (bitsOf c.entry.arg1.toNat 0 12) = some x ∧ s' = s := by
  unfold chkHeld at h
  obtain ⟨t, s1, hten, h1⟩ := CM.go_bind_ok h
  obtain ⟨rfl, rfl⟩ := CM.go_ten_ok hten
  split at h1
  · exact (CM.go_throw_ok h1).elim
  · next y hy =>
    obtain ⟨_, s2, hclear, h2⟩ := CM.go_bind_ok h1
    obtain ⟨-, rfl⟩ := CM.go_need_ok hclear
    obtain ⟨rfl, rfl⟩ := CM.go_pure_ok h2
    exact ⟨hy, rfl⟩

theorem Tenancy.table?_num {t : Tenancy} {n : Nat} (h : t.table? n = some x) : x.num = n := by
  simpa using List.find?_some h

/-- R80: the number of a new table: below 4,096, and not held. -/
theorem Tenancy.freeTable_some {t : Tenancy} {n : Nat} (h : t.freeTable = some n) : n < 4096 ∧ t.table? n = none := by
  unfold Tenancy.freeTable at h
  split at h
  · cases h
  · obtain ⟨hn, hfree⟩ := leastFrom_some h
    exact ⟨hn, Option.isNone_iff_eq_none.1 hfree⟩

theorem chkTableLoad_ok (h : (chkTableLoad c).go s = (.ok x, s')) :
    (s.ten c.ten).table? x.num = none ∧ x.num < 4096 ∧ x.desc.ok = true := by
  unfold chkTableLoad at h
  obtain ⟨t, s1, hten, h1⟩ := CM.go_bind_ok h
  obtain ⟨rfl, rfl⟩ := CM.go_ten_ok hten
  obtain ⟨hnum, hok, -⟩ := chkTable_ok h1
  obtain ⟨hlt, hfree⟩ := Tenancy.freeTable_some hnum
  exact ⟨hfree, hlt, hok⟩

theorem chkTableReplace_ok (h : (chkTableReplace c).go s = (.ok x, s')) :
    ((s.ten c.ten).table? x.num).isSome = true ∧ x.desc.ok = true := by
  unfold chkTableReplace at h
  obtain ⟨y, s1, hheld, h1⟩ := CM.go_bind_ok h
  obtain ⟨hy, rfl⟩ := chkHeld_ok hheld
  obtain ⟨hnum, hok, -⟩ := chkTable_ok h1
  have hxy : y.num = x.num := Option.some.inj hnum
  exact ⟨by rw [← hxy, Tenancy.table?_num hy, hy]; rfl, hok⟩

end

/-! ### What the effects leave -/

theorem State.moveHead_ringTasks (s : State) (r q : Nat) : (s.moveHead r).ringTasks q = s.ringTasks q := by
  rw [State.ringTasks, State.moveHead_tasks]
  rfl

/-- R224: a full fence of tasks that are gone completes, and else holds its ring. -/
theorem actFenceFull_eq (c : CmdRef) (u : Unit) (s : State) : actFenceFull c u s =
    if s.ringTasks c.ring = [] then s.finish c stDone 0 0 0 else s.modRing c.ring fun x => { x with hold := .fence c (s.ringTasks c.ring) } := by
  unfold actFenceFull
  cases s.ringTasks c.ring <;> rfl

theorem actFenceOverlap_eq (c : CmdRef) (u : Unit) (s : State) : actFenceOverlap c u s =
    if s.ringTasks c.ring = [] then s.finish c stDone 0 0 0 else { s with overlaps := s.overlaps ++ [⟨c, s.ringTasks c.ring⟩] } := by
  unfold actFenceOverlap
  cases s.ringTasks c.ring <;> rfl

theorem allFree_replicate (h : Hitch) (n : Nat) (hc : h.carts = List.replicate n {}) : h.allFree = true := by
  rw [Hitch.allFree, hc, List.all_eq_true]
  intro y hy
  rw [List.eq_of_mem_replicate hy]
  rfl

/-- Settles O43. -/
theorem frontCommandsTaken : Obligations.FrontCommandsTaken := by
  unfold Obligations.FrontCommandsTaken
  intro r e s s'
  refine ⟨fun hh h0 => ?_, fun hh h0 => ?_, fun x hh hrep hidle hgo => ?_, fun x hh hrep harg hidle hgo => ?_,
    fun x hh hrep harg hidle hgo => ?_, fun p hh hd hgo => ?_, fun n h hh hd hgo hhitch => ?_, fun hh hinv => ?_⟩
  · refine (takeFree (row := ⟨2, fun e => !bitOf e.arg0.toNat 0⟩) (act := actFenceFull) hh rfl (by simp [h0]) (by decide)).trans
      (congrArg Host.Outcome.next ?_)
    rw [actFenceFull_eq, show (s.cmdAt r 2 e).ring = r from rfl, State.moveHead_ringTasks]
  · refine (takeFree (row := ⟨2, fun e => bitOf e.arg0.toNat 0⟩) (act := actFenceOverlap) hh rfl h0 (by decide)).trans
      (congrArg Host.Outcome.next ?_)
    rw [actFenceOverlap_eq, show (s.cmdAt r 2 e).ring = r from rfl, State.moveHead_ringTasks]
  · obtain ⟨hfree, hlt, hok⟩ := chkTableLoad_ok hgo
    refine ⟨hfree, hlt, hok, (if_neg ?_).trans (takeOk hh rfl (by simp [hrep]) (by decide) hgo)⟩
    simp [State.tableIdle, hidle]
  · obtain ⟨hheld, hok⟩ := chkTableReplace_ok hgo
    refine ⟨hheld, hok, (if_neg ?_).trans (takeOk hh rfl (by simpa [hrep] using harg) (by decide) hgo)⟩
    simp [State.tableIdle, hidle]
  · refine (if_neg ?_).trans (takeOk hh rfl (by simp [hrep, harg]) (by decide) hgo)
    simp [State.tableIdle, hidle]
  · exact ⟨_, takeOk hh rfl (by simp [hd]) (by decide) hgo, rfl, rfl, rfl, rfl, rfl, List.length_replicate, allFree_replicate _ _ rfl, rfl⟩
  · refine (takeOk hh rfl hd (by decide) hgo).trans (congrArg Host.Outcome.next ?_)
    have hhitch' : (s'.moveHead r).hitch? (s.cmdAt r 5 e).ten n = some h := hhitch
    simp only [actDismantle, hhitch']
    rfl
  · exact (if_neg (Classical.not_not.2 hinv)).trans (takeFree hh rfl rfl (by decide))

end Sys2Proof.Machine
end

section
/-! The commands TIMETABLE_LOAD, ARM, BRAKE, CHECKPOINT, PARK, UNPARK and AUDIT taken (R252, R255, R258, R261, R293, R354, R416, R418,
R431). -/

namespace Sys2Proof.Machine

/-! ### What their checks guarantee -/

section
variable {s s' : State} {c : CmdRef}

/-- R252: a timetable that passes its checks, which leave the state as it is. -/
theorem chkTimetable_ok {x : Timetable} (h : (chkTimetable c).go s = (.ok x, s')) :
    x.stamp ≠ 0 ∧ x.rank < x.fsize ∧ (s.ten c.ten).tt = none := by
  unfold chkTimetable at h
  obtain ⟨bs, s1, hread, h1⟩ := CM.go_bind_ok h
  obtain rfl := CM.go_read_ok hread
  obtain ⟨t, s2, hget, h2⟩ := CM.go_bind_ok h1
  obtain ⟨rfl, rfl⟩ := CM.go_get_ok hget
  obtain ⟨_, s3, hfits, h3⟩ := CM.go_bind_ok h2
  obtain ⟨-, rfl⟩ := CM.go_need_ok hfits
  obtain ⟨_, s4, hhead, h4⟩ := CM.go_bind_ok h3
  obtain ⟨hok, rfl⟩ := CM.go_need_ok hhead
  obtain ⟨ents, s5, -, h5⟩ := CM.go_bind_ok h4
  obtain ⟨_, s6, -, h6⟩ := CM.go_bind_ok h5
  obtain ⟨_, s7, -, h7⟩ := CM.go_bind_ok h6
  obtain ⟨rfl, -⟩ := CM.go_pure_ok h7
  simp only [State.ttHeaderOk, Bool.and_eq_true, decide_eq_true_eq, Option.isNone_iff_eq_none] at hok
  obtain ⟨⟨⟨⟨⟨⟨hstamp, -, -, hrank, -⟩, -⟩, -⟩, -⟩, htt⟩, -⟩ := hok
  exact ⟨hstamp, hrank, htt⟩

theorem chkCheckpoint_ok {rs : List CkRegion} (h : (chkCheckpoint c).go s = (.ok rs, s')) : s' = s := by
  unfold chkCheckpoint at h
  obtain ⟨bs, s1, hread, h1⟩ := CM.go_bind_ok h
  obtain rfl := CM.go_read_ok hread
  obtain ⟨_, s2, hneed, h2⟩ := CM.go_bind_ok h1
  obtain ⟨-, rfl⟩ := CM.go_need_ok hneed
  obtain ⟨bs', s3, hread', h3⟩ := CM.go_bind_ok h2
  obtain rfl := CM.go_read_ok hread'
  obtain ⟨_, s4, hneed', h4⟩ := CM.go_bind_ok h3
  obtain ⟨-, rfl⟩ := CM.go_need_ok hneed'
  exact (CM.go_pure_ok h4).2

/-- R419: the slot that PARK names. -/
theorem chkPark_ok {n : Nat} (h : (chkPark c).go s = (.ok n, s')) :
    0 < n ∧ n < 4 ∧ ((s.ten c.ten).slot n).st = .resident ∧ s' = s := by
  unfold chkPark at h
  obtain ⟨t, s1, hten, h1⟩ := CM.go_bind_ok h
  obtain ⟨rfl, rfl⟩ := CM.go_ten_ok hten
  obtain ⟨_, s2, hneed, h2⟩ := CM.go_bind_ok h1
  obtain ⟨hok, rfl⟩ := CM.go_need_ok hneed
  obtain ⟨rfl, rfl⟩ := CM.go_pure_ok h2
  simp only [Bool.and_eq_true, decide_eq_true_eq, beq_iff_eq] at hok
  obtain ⟨⟨⟨hpos, hst⟩, -⟩, -⟩ := hok
  exact ⟨Nat.pos_of_ne_zero hpos, bitsOf_lt _ 0 2, hst, rfl⟩

/-- R416: the slot that UNPARK takes, and no slot that holds the context. -/
theorem chkUnpark_ok {x : Nat × Option Nat} (h : (chkUnpark c).go s = (.ok x, s')) :
    x.1 < 4 ∧ ((s.ten c.ten).slot x.1).st = .empty ∧ (s.ten c.ten).slotOf c.entry.arg0.toNat = none := by
  unfold chkUnpark at h
  obtain ⟨t, s1, hten, h1⟩ := CM.go_bind_ok h
  obtain ⟨rfl, rfl⟩ := CM.go_ten_ok hten
  dsimp only at h1
  split at h1
  · exact (CM.go_throw_ok h1).elim
  · next n hn =>
    obtain ⟨hlt, hfree⟩ := leastFrom_some hn
    simp only [Bool.and_eq_true, beq_iff_eq] at hfree
    obtain ⟨⟨hempty, -⟩, -⟩ := hfree
    obtain ⟨_, s2, hneed, h2⟩ := CM.go_bind_ok h1
    obtain ⟨hslot, rfl⟩ := CM.go_need_ok hneed
    rw [Option.isNone_iff_eq_none] at hslot
    have hx : x.1 = n := by
      split at h2
      · rw [(CM.go_pure_ok h2).1]
      · rw [CM.go_bind, CM.go_get] at h2
        dsimp only at h2
        split at h2
        · exact (CM.go_throw_ok h2).elim
        · exact (CM.go_throw_ok h2).elim
        · obtain ⟨_, s3, -, h3⟩ := CM.go_bind_ok h2
          obtain ⟨_, s4, -, h4⟩ := CM.go_bind_ok h3
          rw [(CM.go_pure_ok h4).1]
    exact ⟨hx ▸ hlt, hx ▸ hempty, hslot⟩

end

/-! ### What the effects leave -/

theorem State.moveHead_ten (s : State) (r t : Nat) : (s.moveHead r).ten t = s.ten t := by rw [State.ten, State.moveHead_tens]; rfl

theorem actArm_eq (c : CmdRef) (x : Timetable) (s : State) : actArm c x s =
    if s.armReason c.ten x c.entry.arg1.toNat = 0 then s.acceptArm c.ten x c.entry.arg1.toNat x.rank (some c)
    else s.finish c stFailed (s.armReason c.ten x c.entry.arg1.toNat) x.rank 0 := by
  unfold actArm
  dsimp only
  split
  · next h => rw [if_pos h]
  · next h => rw [if_neg h]

theorem actAudit_eq (c : CmdRef) (u : Unit) (s : State) : actAudit c u s =
    let bs := s.audited c.ten (bitsOf c.entry.arg0.toNat 0 2)
    if bs = [] then s.finish c stDone 0 0 0
    else bs.foldl (fun (s : State) b => s.actBroken c.ten b) (s.finish c stFailed 0x70 (auditMask bs) 0) := by
  unfold actAudit
  cases s.audited c.ten (bitsOf c.entry.arg0.toNat 0 2) <;> rfl

/-- R354: BRAKE of a membership of another stamp. -/
theorem actBrake_of_none {c : CmdRef} {u : Unit} {s : State} (h : ∀ x, (s.ten c.ten).tt = some x → x.stamp ≠ c.entry.arg0) :
    actBrake c u s = s.finish c stDone 0 0 0 := by
  have hf : (s.ten c.ten).tt.filter (fun x => x.stamp == c.entry.arg0) = none := by
    rw [Option.filter_eq_none_iff]
    exact fun x hx => by simpa using h x hx
  simp only [actBrake, hf]

section
variable {c : CmdRef} {u : Unit} {s : State} {x : Timetable} (htt : (s.ten c.ten).tt = some x) (hst : x.stamp = c.entry.arg0)
include htt hst

/-- R261, R262: BRAKE of a membership that runs or is armed. -/
theorem actBrake_of_runs (h : x.st = .running ∨ x.st = .armed) : actBrake c u s =
    (s.modTt c.ten fun y => { y with brakeCmds := y.brakeCmds ++ [c] }).orderBrake c.ten (BitVec.ofNat 64 s.tick) := by
  have hf : (s.ten c.ten).tt.filter (fun x => x.stamp == c.entry.arg0) = some x := by simp [htt, hst]
  simp only [actBrake, hf]
  rcases h with h | h <;> rw [h]

/-- R261: BRAKE of a membership that rests, or brakes already. -/
theorem actBrake_of_rests (h : x.st = .loaded ∨ x.st = .braking) :
    actBrake c u s = s.finish c stDone 0 (s.ten c.ten).brkt.toNat 0 := by
  have hf : (s.ten c.ten).tt.filter (fun x => x.stamp == c.entry.arg0) = some x := by simp [htt, hst]
  simp only [actBrake, hf]
  rcases h with h | h <;> rw [h]

end

/-- Settles O44: each command by the lemma that says its checks pass, then by what its action leaves of the membership. -/
theorem membershipCommandsTaken : Obligations.MembershipCommandsTaken := by
  unfold Obligations.MembershipCommandsTaken
  intro r e s s'
  refine ⟨fun x hh hu hgo => ?_, fun x hh hu hgo => ?_, fun x hh hgo => ?_, fun hh hno => ?_, fun x hh htt hst hrun => ?_,
    fun x hh htt hst hrest => ?_, fun rs hh hgo => ?_, fun n hh hgo => ?_, fun x hh hgo => ?_, fun hh => ?_⟩
  · obtain ⟨hstamp, hrank, htt⟩ := chkTimetable_ok hgo
    exact ⟨hstamp, hrank, htt, takeOk hh rfl (by simp [hu]) (by decide) hgo⟩
  · exact takeOk hh rfl hu (by decide) hgo
  · exact (takeOk hh rfl rfl (by decide) hgo).trans (congrArg Host.Outcome.next (actArm_eq ..))
  · exact (takeFree hh rfl rfl (by decide)).trans (congrArg Host.Outcome.next (actBrake_of_none fun x hx => hno x (s.moveHead_ten r _ ▸ hx)))
  · refine (takeFree hh rfl rfl (by decide)).trans
      (congrArg Host.Outcome.next ((actBrake_of_runs ((congrArg Tenancy.tt (s.moveHead_ten r _)).trans htt) hst hrun).trans ?_))
    rw [State.moveHead_tick]
    rfl
  · refine (takeFree hh rfl rfl (by decide)).trans
      (congrArg Host.Outcome.next ((actBrake_of_rests ((congrArg Tenancy.tt (s.moveHead_ten r _)).trans htt) hst hrest).trans ?_))
    rw [State.moveHead_ten]
    rfl
  · obtain rfl := chkCheckpoint_ok hgo
    refine (takeOk hh rfl rfl (by decide) hgo).trans (congrArg Host.Outcome.next ?_)
    simp only [actCheckpoint, State.moveHead_ten, Option.isNone_iff_eq_none]
    rfl
  · obtain ⟨hpos, hlt, hst, rfl⟩ := chkPark_ok hgo
    refine ⟨hpos, hlt, hst, (takeOk hh rfl rfl (by decide) hgo).trans (congrArg Host.Outcome.next ?_)⟩
    simp only [actPark, State.moveHead_ten, State.moveHead_tick]
    rfl
  · obtain ⟨hlt, hempty, hslot⟩ := chkUnpark_ok hgo
    refine ⟨hlt, hempty, hslot, (takeOk hh rfl rfl (by decide) hgo).trans (congrArg Host.Outcome.next ?_)⟩
    simp only [actUnpark, State.moveHead_tick]
    rfl
  · exact (takeFree hh rfl rfl (by decide)).trans (congrArg Host.Outcome.next (actAudit_eq ..))

end Sys2Proof.Machine
end

section
/-! The rings' own events (O47): what comes with a host's command that reaches past the pool, and a ring woken, resumed and enabled. -/

namespace Sys2Proof.Machine

/-! ### What comes with a command of the host -/

theorem pastPool_eq_none {hm : HostMem} : pastPool hm = none ↔ InPool hm := pastPool_none

theorem withHost_inPool {s : State} {hm : HostMem} {f : State → Out} (h : InPool hm) : withHost s hm f = f (s.hosted hm) :=
  withHost_of (pastPool_eq_none.2 h)

/-- R277: a command whose writes reach past the pool is a fault, whatever it does. -/
theorem withHost_fault {s : State} {hm : HostMem} {f : State → Out} (h : ¬ InPool hm) :
    ∃ a, 2 ^ 46 ≤ a ∧ withHost s hm f = .fault (.noSuchAddress a) := by
  cases hp : pastPool hm with
  | none => exact absurd (pastPool_eq_none.1 hp) h
  | some a =>
    have ha := List.find?_some (by unfold pastPool at hp; exact hp)
    exact ⟨a, of_decide_eq_true ha, by simp only [withHost, hp]⟩

/-- A row that takes a host's writes makes them before its effect. -/
theorem exec_withHost {i : Instr} {hm : HostMem} (h : hostMem i = some hm) (s : State) : ∃ f, exec i s = withHost s hm f := by
  cases i with
  | ringWake r tail m => cases h; exact ⟨_, show execRingWake r tail hm s = _ from rfl⟩
  | pin t k base size m => cases h; exact ⟨_, show execPin t k base size hm s = _ from rfl⟩
  | faultRetry t fid m => cases h; exact ⟨_, show execFaultRetry t fid hm s = _ from rfl⟩
  | winCommitSend n m => cases h; exact ⟨_, show execWinCommitSend n hm s = _ from rfl⟩
  | winCommitRecv n m => cases h; exact ⟨_, show execWinCommitRecv n hm s = _ from rfl⟩
  | podexpCommit n m => cases h; exact ⟨_, show execPodexpCommit n hm s = _ from rfl⟩
  | go v grant ways m => cases h; exact ⟨_, show execGo v grant ways hm s = _ from rfl⟩
  | update kind utmo sig m => cases h; exact ⟨_, show execUpdate kind utmo sig hm s = _ from rfl⟩
  | _ => cases h

theorem hostWrite_eq (s t : State) : s.hostWrite t = .next (if s.opened then t else s) := rfl

/-! ### Rings -/

/-- Two updates at one place are one update. -/
theorem modAt_modAt {α : Type} (l : List α) (n : Nat) (f g : α → α) : modAt (modAt l n f) n g = modAt l n fun a => g (f a) := by
  cases h : l[n]? with
  | none => simp [modAt, h]
  | some a =>
    have hn : n < l.length := (List.getElem?_eq_some_iff.1 h).1
    simp [modAt, hn]

/-- Two updates of one ring are one update. -/
theorem State.modRing_modRing (s : State) (r : Nat) (f g : Ring → Ring) :
    (s.modRing r f).modRing r g = s.modRing r fun x => g (f x) := by
  simp only [State.modRing, modAt_modAt]

/-- R25: in a block that takes it, a wake writes the tail word where it is pinned, and the front end reads it. -/
theorem execRingWake_inPool {s : State} {r : Nat} {tail : W32} {hm : HostMem} (h : InPool hm) :
    execRingWake r tail hm s =
      let sm := s.hosted hm
      let sw := match sm.pinned (sm.ring r).ten.toNat (sm.ring r).tailVa with
        | some (pa, _) => sm.poolWrite pa (toLe 4 tail.toNat)
        | none => sm
      .next (if sm.opened then sw.readTail r true else sm) := by
  rw [execRingWake, withHost_inPool h]
  rfl

/-- R499: a ring that is off, with a LOG2N that the port takes, starts at index 0. -/
theorem writeRingBase_starts {s : State} {r : Nat} {log2n : BitVec 5} {base : BitVec 36} (hen : (s.ring r).en = false)
    (hlo : 4 ≤ log2n.toNat) (hhi : log2n.toNat ≤ 16)
    (hst : (s.ten (s.ring r).ten.toNat).st = .loading ∨ (s.ten (s.ring r).ten.toNat).st = .running) :
    s.writeRingBase r true log2n base = (s.modRing r fun y => { y with
      log2n := log2n, base := base, en := true, head := 0, tail := 0, stopped := false, reason := 0, hold := .none }).readTail r false := by
  simp only [State.writeRingBase, hen, hlo, hhi, hst, and_self, decide_true, if_true, if_false, Bool.false_eq_true, State.modRing_modRing]

/-- Bits 47:12 of a register, as a field of 36 bits. -/
theorem bitsOf_field (v : W64) : BitVec.ofNat 36 (bitsOf v.toNat 12 36) = v.extractLsb' 12 36 := by
  simp [bitsOf, BitVec.extractLsb', Nat.shiftRight_eq_div_pow, ← BitVec.toNat_inj]

theorem readTail_bytes {s : State} {r : Nat} {w : Bool} {bs : List Byte} (hw : s.watched (s.ring r) = true)
    (hb : s.pinRead (s.ring r).ten.toNat (s.ring r).tailVa 4 true = .bytes bs) :
    s.readTail r w = s.modRing r fun y => { y with tail := BitVec.ofNat 32 (leNat bs) } := by
  simp only [State.readTail, hw, hb, Bool.not_true, Bool.false_eq_true, if_false]

theorem readTail_outside {s : State} {r : Nat} (hw : s.watched (s.ring r) = true)
    (hb : s.pinRead (s.ring r).ten.toNat (s.ring r).tailVa 4 true = .outside) : s.readTail r true = s.refuseAt r 0x0A none := by
  simp only [State.readTail, hw, hb, Bool.not_true, Bool.false_eq_true, if_false, if_true]

/-- Settles O47: a host's write past the pool stops `withHost` before the command; the rings' events are writes of the host, which act
where the block is open and are lost where it is not. -/
theorem ringEvents : Obligations.RingEvents := by
  unfold Obligations.RingEvents
  refine ⟨fun i hm s hi hout => ?_, fun r s hr => ?_⟩
  · obtain ⟨f, hf⟩ := exec_withHost hi s
    exact hf ▸ withHost_fault hout
  intro x
  refine ⟨fun tail hm hin => ?_, ?_, fun log2n base ho hen hlo hhi hst => ?_, fun log2n base ho => ?_, fun w bs => readTail_bytes,
    readTail_outside⟩
  · exact execRingWake_inPool hin
  · refine (hostWrite_eq _ _).trans (congrArg Host.Outcome.next ?_)
    cases ho : s.opened <;> cases hx : (s.ring r).stopped <;> simp [State.resumeRing, hx]
  · refine ⟨_, (hostWrite_opened ho).trans (congrArg Host.Outcome.next (writeRingBase_starts hen hlo hhi hst)), ?_⟩
    rw [bitsOf_field]
  · exact (hostWrite_eq _ _).trans (by rw [ho]; rfl)

end Sys2Proof.Machine
end

section
/-! A host's write of a register (O60): where it reaches nothing, what a byte enable leaves of the value, and the registers whose
write the obligation spells out. -/

namespace Sys2Proof.Machine

/-! ### Where a write reaches -/

theorem State.opened_iff {s : State} :
    s.opened = true ↔ s.resetLow = false ∧ (s.st = .loaded ∨ s.st = .ready ∨ s.st = .serving ∨ s.st = .draining) := by
  cases hr : s.resetLow <;> cases hs : s.st <;> simp [State.opened, hr, hs]

theorem State.reaches_of_opened {s : State} (h : s.opened = true) (a : Nat) : s.reaches a = true := by
  obtain ⟨-, h | h | h | h⟩ := State.opened_iff.1 h <;> simp [State.reaches, h]

/-- R448: the states in which a write reaches no register. -/
theorem State.unreached {s : State} {a : Nat}
    (h : s.st = .off ∨ s.resetLow = true ∨ (s.st = .contained ∧ a ≠ 0x010) ∨ (s.st = .safe ∧ safeRegion a = false)) :
    s.resetLow = true ∨ (!s.reaches a) = true := by
  rcases h with h | h | ⟨h, ha⟩ | ⟨h, ha⟩
  · exact .inr (by simp [State.reaches, h])
  · exact .inl h
  · exact .inr (by simp [State.reaches, h, ha])
  · exact .inr (by simp [State.reaches, h, ha])

/-! ### Byte enables (R489) -/

theorem byteMask_some {be : BitVec 8} (h : be = 0xFF ∨ be = 0x0F ∨ be = 0xF0) : ∃ m, byteMask be = some m := by
  rcases h with rfl | rfl | rfl <;> exact ⟨_, rfl⟩

theorem byteMask_none {be : BitVec 8} (h1 : be ≠ 0xFF) (h2 : be ≠ 0x0F) (h3 : be ≠ 0xF0) : byteMask be = none := by
  simp only [byteMask, if_neg h1, if_neg h2, if_neg h3]

/-- A write of all eight bytes is the value written, whatever the register held. -/
theorem mergeWrite_full {old : Nat} (data : W64) (h : old < 2 ^ 64) : mergeWrite old data.toNat (2 ^ 64 - 1) = ⟨data.toNat, data.toNat⟩ := by
  simp only [mergeWrite, Nat.and_two_pow_sub_one_eq_mod, Nat.mod_eq_of_lt h, Nat.mod_eq_of_lt data.isLt, Nat.sub_self, Nat.zero_add]

theorem execRegisterWrite_opened {s : State} {addr : BitVec 17} {be : BitVec 8} {data : W64} {m : Nat} (ho : s.opened = true)
    (hm : byteMask be = some m) : execRegisterWrite addr be data s =
      .next (s.regWrite (addr.toNat / 8 * 8) (mergeWrite (s.regValue (addr.toNat / 8 * 8)) data.toNat m)) := by
  simp [execRegisterWrite, (State.opened_iff.1 ho).1, State.reaches_of_opened ho, hm]

/-- In an open block a write of all eight bytes of a register meets the value written. -/
theorem exec_writeFull {s : State} {addr : BitVec 17} {data : W64} {a : Nat} (ha : addr.toNat / 8 * 8 = a) (ho : s.opened = true)
    (hv : s.regValue a < 2 ^ 64) : exec (.registerWrite addr 0xFF data) s = .next (s.regWrite a ⟨data.toNat, data.toNat⟩) := by
  subst ha
  exact (execRegisterWrite_opened (be := 0xFF) ho (m := 2 ^ 64 - 1) (by decide)).trans (congrArg _ (congrArg _ (mergeWrite_full data hv)))

/-! ### The registers of the obligation -/

/-- Registers that are read only, and offsets that no map names, keep everything. -/
theorem regWrite_readOnly {s : State} {a : Nat} {w : Wr} (h : a = 0x000 ∨ a = 0x008 ∨ a = 0x030 ∨ (0x4800 ≤ a ∧ a < 0x5000)
      ∨ (0x7000 ≤ a ∧ a < 0x8000) ∨ (0xC000 ≤ a ∧ a < 0xD000) ∨ (0xEC00 ≤ a ∧ a < 0xF000)) : s.regWrite a w = s := by
  rcases h with rfl | rfl | rfl | h | h | h | h
  · rfl
  · rfl
  · rfl
  · unfold State.regWrite; iterate 4 rw [if_neg (by omega)]
    rw [if_pos (by omega)]
  · unfold State.regWrite; iterate 7 rw [if_neg (by omega)]
    rw [if_pos (by omega)]
  · unfold State.regWrite; iterate 9 rw [if_neg (by omega)]
    rw [if_pos (by omega)]
  · unfold State.regWrite; iterate 13 rw [if_neg (by omega)]
    rw [if_pos (by omega)]

/-- R30: what `PWR_LIMIT` holds after a write. -/
def limitOf (v : BitVec 14) : BitVec 14 := if 0x1C20 < v.toNat then 0x1C20 else v

theorem limitOf_toNat (v : BitVec 14) : (limitOf v).toNat = min 0x1C20 v.toNat := by
  unfold limitOf
  split
  · next h => exact (Nat.min_eq_left (Nat.le_of_lt h)).symm
  · next h => exact (Nat.min_eq_right (Nat.le_of_not_lt h)).symm

theorem regWrite_limit (s : State) (w : Wr) :
    s.regWrite 0xF808 w = { s with pwr := { s.pwr with limit := limitOf (w.fld 0 14) } } := rfl

theorem regValue_limit (s : State) : s.regValue 0xF808 = s.pwr.limit.toNat := rfl

/-- The low bits of the value written. -/
theorem Wr.fld_low (v : W64) (d n : Nat) : (Wr.mk v.toNat d).fld 0 n = v.extractLsb' 0 n := by
  simp [Wr.fld, bitsOf, ← BitVec.toNat_inj]

theorem regWrite_faultTmo (s : State) (w : Wr) {n : Nat} (h : n < 8) :
    s.regWrite (0x2098 + 0x400 * n) w = s.modTen n fun x => { x with faultTmo := w.fld 0 32 } := by
  obtain rfl | rfl | rfl | rfl | rfl | rfl | rfl | rfl :
    n = 0 ∨ n = 1 ∨ n = 2 ∨ n = 3 ∨ n = 4 ∨ n = 5 ∨ n = 6 ∨ n = 7 := by omega
  all_goals rfl

theorem regValue_faultTmo (s : State) {n : Nat} (h : n < 8) : s.regValue (0x2098 + 0x400 * n) = (s.ten n).faultTmo.toNat := by
  obtain rfl | rfl | rfl | rfl | rfl | rfl | rfl | rfl :
    n = 0 ∨ n = 1 ∨ n = 2 ∨ n = 3 ∨ n = 4 ∨ n = 5 ∨ n = 6 ∨ n = 7 := by omega
  all_goals rfl

/-- R13, R38: a bit written 1 is cleared unless it was set in this tick. -/
theorem bitOf_cleared (s : State) (v : W64) (m : Nat) {off lo n k : Nat} (h : k < n) :
    bitOf (s.cleared ⟨m, v.toNat⟩ off lo n).toNat k = (v.getLsbD (lo + k) && !bitOf (s.heldBits off) (lo + k)) := by
  have hf : ∀ x : Nat, (BitVec.ofNat n (bitsOf x lo n)).getLsbD k = x.testBit (lo + k) := fun x => by
    simp only [BitVec.getLsbD_ofNat, bitsOf, Nat.testBit_mod_two_pow, Nat.testBit_div_two_pow, h, decide_true, Bool.true_and, Nat.add_comm k]
  rw [bitOf_eq_testBit, BitVec.testBit_toNat, State.cleared, BitVec.getLsbD_and, BitVec.getLsbD_not, hf, hf, bitOf_eq_testBit,
    BitVec.testBit_toNat]
  simp only [h, decide_true, Bool.true_and]

theorem regWrite_blkStat (s : State) (w : Wr) : s.regWrite 0xE000 w = s.writeBlkStat w := rfl

theorem b2n_le (b : Bool) : b2n b ≤ 1 := by cases b <;> decide

theorem regValue_blkStat_lt (s : State) : s.regValue 0xE000 < 2 ^ 64 := by
  have h : s.regValue 0xE000 =
      fields [(b2n s.lockvio, 0), (b2n s.fenceErr, 1), (b2n s.evrlost, 2), (b2n (s.st == .contained), 3), (s.cause.toNat, 4)] := rfl
  have h0 := b2n_le s.lockvio
  have h1 := b2n_le s.fenceErr
  have h2 := b2n_le s.evrlost
  have h3 := b2n_le (s.st == .contained)
  have h4 := s.cause.isLt
  rw [h]
  simp only [fields, List.map_cons, List.map_nil, List.sum_cons, List.sum_nil]
  omega

theorem ackBits_of_logged {s : State} {off bits : Nat} (h : ∀ x ∈ s.setNow, x.offset = off → x.logged = true) : s.ackBits off bits = s := by
  have : (s.setNow.filter fun x => x.offset == off && x.tick == s.tick && !x.logged && bitOf bits x.bit) = [] := by
    refine List.filter_eq_nil_iff.2 fun x hx hg => ?_
    simp only [Bool.and_eq_true, beq_iff_eq, Bool.not_eq_true'] at hg
    obtain ⟨⟨⟨hoff, -⟩, hno⟩, -⟩ := hg
    exact Bool.false_ne_true (hno.symm.trans (h x hx hoff))
  rw [State.ackBits, this]
  rfl

/-- Settles O60: a write that reaches a register is `regWrite` by region of the value that its byte enable leaves. -/
theorem registerWrites : Obligations.RegisterWrites := by
  unfold Obligations.RegisterWrites
  intro addr data s a
  refine ⟨fun be => ?_, fun be h => if_pos (State.unreached h), fun be ho h1 h2 h3 => ?_, fun be ho hbe ha => ?_, fun ha ho => ?_,
    fun n hn ha ho => ?_, fun ha ho => ?_⟩
  · change ∃ t, execRegisterWrite addr be data s = .next t
    simp only [execRegisterWrite]
    split
    · exact ⟨_, rfl⟩
    · split <;> exact ⟨_, rfl⟩
  · have hst : s.st ≠ .contained := fun h => by simp [State.opened_iff, h] at ho
    change execRegisterWrite addr be data s = _
    simp [execRegisterWrite, (State.opened_iff.1 ho).1, State.reaches_of_opened ho, byteMask_none h1 h2 h3, hst]
  · obtain ⟨m, hm⟩ := byteMask_some hbe
    exact (execRegisterWrite_opened ho hm).trans (congrArg _ (regWrite_readOnly ha))
  · have hv : s.regValue 0xF808 < 2 ^ 64 := by rw [regValue_limit]; have := s.pwr.limit.isLt; omega
    refine ⟨_, exec_writeFull ha ho hv, ?_, rfl⟩
    rw [ha, regWrite_limit, Wr.fld_low]
    exact (limitOf_toNat _).trans (by simp)
  · have hv : s.regValue (0x2098 + 0x400 * n) < 2 ^ 64 := by
      rw [regValue_faultTmo s hn]; have := (s.ten n).faultTmo.isLt; omega
    refine (exec_writeFull ha ho hv).trans (congrArg _ ?_)
    simp only [regWrite_faultTmo s _ hn, Wr.fld_low]
  · intro keeps t
    refine ⟨(exec_writeFull ha ho (regValue_blkStat_lt s)).trans (congrArg _ ?_), fun h => ackBits_of_logged h⟩
    rw [regWrite_blkStat]
    simp only [State.writeBlkStat, bitOf_cleared s data _ (show 0 < 3 by decide), bitOf_cleared s data _ (show 1 < 3 by decide),
      bitOf_cleared s data _ (show 2 < 3 by decide), Bool.not_and, Bool.not_not, Nat.zero_add]
    rfl

end Sys2Proof.Machine
end

section
/-! What the abort of a task, the halt of a tenancy and the containment of the block leave of the block's state (R236, R438): the states
of block and tenancies, the firmware, the quiesce, and whose tasks are left. -/

namespace Sys2Proof.Machine

/-- The part of a state that an abort keeps: `owners` names each task with its tenancy. -/
structure Frame where
  st : BlockSt
  cause : BitVec 4
  powered : Bool
  resetLow : Bool
  fw : Firmware
  tick : Nat
  quiesce : Quiesce
  tens : List TenSt
  ports : Nat
  owners : List (Nat × Nat)

def State.frame (s : State) : Frame :=
  ⟨s.st, s.cause, s.powered, s.resetLow, s.fw, s.tick, s.quiesce, s.tens.map (·.st), s.ports.length, s.tasks.map fun k => (k.id, k.ten)⟩

/-- An operation repeated over a list keeps the frame where each use of it does. -/
theorem foldl_frame {α : Type} {f : State → α → State} (h : ∀ s a, (f s a).frame = s.frame) (l : List α) (s : State) :
    (l.foldl f s).frame = s.frame :=
  List.foldlRecOn (motive := fun t => t.frame = s.frame) l f rfl fun t ht a _ => (h t a).trans ht

/-- What no abort's frame looks at may change. -/
theorem State.frame_with (s : State) {free nextTask nextOrder nextCopy : Nat} {rings : List Ring} {overlaps : List Overlap}
    {cohorts : List Cohort} {copies : List Copy} {orders : List Order} {far : List FarRead} {orphans : List Orphan}
    {clusters : List Cluster} {xlt : Xlt} {rc : RowCache} {mem : MemPort} {ev : Events} :
    ({ s with
      free := free, nextTask := nextTask, nextOrder := nextOrder, nextCopy := nextCopy, rings := rings, overlaps := overlaps
      cohorts := cohorts, copies := copies, orders := orders, far := far, orphans := orphans, clusters := clusters, xlt := xlt
      rc := rc, mem := mem, ev := ev } : State).frame = s.frame := rfl

/-! ### Updates of one element -/

theorem modAt_map {α β : Type} {g : α → β} {f : α → α} (h : ∀ a, g (f a) = g a) (l : List α) (n : Nat) : (modAt l n f).map g = l.map g := by
  unfold modAt
  split
  · next a ha =>
    obtain ⟨hn, rfl⟩ := List.getElem?_eq_some_iff.1 ha
    rw [List.map_set, h, ← List.map_set, List.set_getElem_self]
  · rfl

/-- A tenancy changed, but not in its state. -/
theorem State.frame_modTen (s : State) (t : Nat) {f : Tenancy → Tenancy} (h : ∀ x, (f x).st = x.st := by exact fun _ => rfl) :
    (s.modTen t f).frame = s.frame := by
  simp only [State.frame, State.modTen, modAt_map h]

@[simp] theorem State.frame_modPort (s : State) (p : Nat) (f : Port → Port) : (s.modPort p f).frame = s.frame := by
  simp only [State.frame, State.modPort, modAt_length]

@[simp] theorem State.frame_modCluster (s : State) (c : Nat) (f : Cluster → Cluster) : (s.modCluster c f).frame = s.frame := rfl

@[simp] theorem State.frame_modRing (s : State) (r : Nat) (f : Ring → Ring) : (s.modRing r f).frame = s.frame := rfl

@[simp] theorem State.frame_modTt (s : State) (t : Nat) (f : Timetable → Timetable) : (s.modTt t f).frame = s.frame :=
  State.frame_modTen s t

@[simp] theorem State.frame_modTable (s : State) (t n : Nat) (f : Table → Table) : (s.modTable t n f).frame = s.frame :=
  State.frame_modTen s t

/-! ### Records and completions -/

@[simp] theorem State.frame_event (s : State) (c d : Nat) (w : EvWho) (x i j : Nat) : (s.event c d w x i j).frame = s.frame := by
  simp [State.frame]

@[simp] theorem State.frame_complete (s : State) (c : CmdRef) (st re x y : Nat) : (s.complete c st re x y).frame = s.frame := by
  simp [State.frame]

@[simp] theorem State.frame_finish (s : State) (c : CmdRef) (st re x y : Nat) : (s.finish c st re x y).frame = s.frame := by
  simp [State.frame]

/-! ### The line -/

@[simp] theorem State.frame_movePort (s : State) (p : Nat) (st : PortSt) : (s.movePort p st).frame = s.frame := by
  unfold State.movePort
  split <;> simp

@[simp] theorem State.frame_movePorts (s : State) (ps : List Nat) (st : PortSt) : (s.movePorts ps st).frame = s.frame :=
  foldl_frame (fun s p => s.frame_movePort p st) ps s

@[simp] theorem State.frame_portDown (s : State) (p reason : Nat) : (s.portDown p reason).frame = s.frame := by
  simp [State.portDown]

@[simp] theorem State.frame_sendCtl (s : State) (ps : List Nat) (n : Nat) (bs : List Byte) : (s.sendCtl ps n bs).frame = s.frame := by
  apply foldl_frame
  exact fun s p => s.frame_modPort p _

@[simp] theorem State.frame_finishBrakes (s : State) (t : Nat) : (s.finishBrakes t).frame = s.frame := by
  unfold State.finishBrakes
  split
  · rfl
  · rw [State.frame_modTt]
    exact foldl_frame (fun u c => u.frame_finish c stDone 0 _ 0) _ s

@[simp] theorem State.frame_abandonStart (s : State) (t reason rank : Nat) : (s.abandonStart t reason rank).frame = s.frame := by
  unfold State.abandonStart
  split
  · rfl
  · dsimp only
    split <;> simp

@[simp] theorem State.frame_cancelDeparture (s : State) (t : Nat) (except : Option Nat) : (s.cancelDeparture t except).frame = s.frame := by
  unfold State.cancelDeparture
  split <;> simp

/-! ### Checkpoints and brake orders -/

@[simp] theorem State.frame_withdraw (s : State) (t : Nat) (who : Serving) : (s.withdraw t who).frame = s.frame := by
  unfold State.withdraw
  dsimp only
  rw [State.frame_modTen, State.frame_with]
  apply foldl_frame
  exact fun _ _ => rfl

@[simp] theorem State.frame_ckEnd (s : State) (t reason : Nat) : (s.ckEnd t reason).frame = s.frame := by
  unfold State.ckEnd
  split
  · rfl
  · rw [State.frame_finish, State.frame_modTen, State.frame_withdraw]
    rfl

@[simp] theorem State.frame_ckNext (s : State) (t : Nat) : (s.ckNext t).frame = s.frame := by
  unfold State.ckNext
  split
  · rfl
  · exact (State.frame_modTen _ _).trans (State.frame_modTen _ _)

@[simp] theorem State.frame_ckRest (t : Nat) (s : State) : (s.ckRest t).frame = s.frame := by
  unfold State.ckRest
  split <;> simp

@[simp] theorem State.frame_ckBrake (s : State) (t : Nat) : (s.ckBrake t).frame = s.frame := by
  unfold State.ckBrake State.ckFail
  split
  · rfl
  · split
    · rfl
    · rw [State.frame_ckNext, State.frame_ckEnd]
      rfl

@[simp] theorem State.frame_orderBrake (s : State) (t : Nat) (b : W64) : (s.orderBrake t b).frame = s.frame := by
  unfold State.orderBrake
  split
  · rfl
  · split
    · rfl
    · simp
    · dsimp only
      rw [State.frame_modTen, State.frame_modTt, State.frame_movePorts]
      split <;> simp

/-! ### The abort of a task -/

theorem State.frame_undefine (t ctx : Nat) (s : State) (d : Dest) : (State.undefine t ctx s d).frame = s.frame := by
  unfold State.undefine
  dsimp only
  split <;> rfl

@[simp] theorem State.frame_spoil (s : State) (k : Task) : (s.spoil k).frame = s.frame := by
  unfold State.spoil
  dsimp only
  refine (foldl_frame ?_ _ _).trans (foldl_frame (State.frame_undefine k.ten k.ctx) _ s)
  intro s h
  exact foldl_frame (State.frame_undefine k.ten h.ctx) _ s

@[simp] theorem State.frame_spoilShare (s : State) (t ctx : Nat) : (s.spoilShare t ctx).frame = s.frame := by
  unfold State.spoilShare
  split
  · rfl
  · exact foldl_frame (fun s _ => State.frame_undefine t ctx s _) _ s

@[simp] theorem State.frame_unseal (s : State) (o : Order) : (s.unseal o).frame = s.frame := by
  unfold State.unseal
  split
  · exact State.frame_modTable ..
  · rfl

theorem Tenancy.st_returnTicket (x : Tenancy) (e : W32) : (x.returnTicket e).st = x.st := by
  unfold Tenancy.returnTicket
  dsimp only

@[simp] theorem State.frame_returnTicket (s : State) (t : Nat) (e : Option W32) : (s.returnTicket t e).frame = s.frame := by
  unfold State.returnTicket
  split
  · exact State.frame_modTen s t fun x => x.st_returnTicket _
  · rfl

theorem State.frame_endOrder (s : State) (o : Order) : (s.endOrder o).frame = s.frame := by
  unfold State.endOrder
  dsimp only
  rw [State.frame_with, State.frame_modTen, State.frame_returnTicket, State.frame_unseal, State.frame_with]

theorem State.frame_endCopy (s : State) (c : Copy) : (s.endCopy c).frame = s.frame :=
  State.frame_modTen s c.ten

@[simp] theorem State.frame_purge (s : State) (t task : Nat) : (s.purge t task).frame = s.frame :=
  State.frame_modTen s t

theorem State.frame_dropTask (s : State) (far : List FarRead) (cohorts : List Cohort) (id : Nat) :
    ({ s with far := far, cohorts := cohorts, tasks := s.tasks.filter (·.id != id) } : State).frame =
      { s.frame with owners := s.frame.owners.filter (·.1 != id) } := by
  simp only [State.frame, List.filter_map]
  rfl

/-- A task ended: of the frame only its name goes. -/
theorem State.frame_clearTask (s : State) (k : Task) :
    (s.clearTask k).frame = { s.frame with owners := s.frame.owners.filter (·.1 != k.id) } := by
  unfold State.clearTask
  dsimp only
  rw [State.frame_dropTask, State.frame_withdraw, State.frame_purge, foldl_frame State.frame_endCopy, foldl_frame State.frame_endOrder]

theorem State.frame_releaseFences (s : State) (task : Nat) : (s.releaseFences task).frame = s.frame := by
  unfold State.releaseFences
  refine (foldl_frame (fun u c => u.frame_finish c stDone 0 0 0) _ _).trans ?_
  simp [State.frame, Function.comp_def]

theorem State.frame_abortTask (s : State) (k : Task) (level : Nat) (cause : W32) (code : Nat) :
    (s.abortTask k level cause code).frame = { s.frame with owners := s.frame.owners.filter (·.1 != k.id) } := by
  unfold State.abortTask
  rw [State.frame_orderBrake, State.frame_releaseFences, State.frame_complete]
  dsimp only
  rw [State.frame_modTen, State.frame_clearTask]
  split <;> simp

end Sys2Proof.Machine
end

section
/-! The halt of a tenancy and the containment of the block (R438), by what they leave of the frame and of the ports. -/

namespace Sys2Proof.Machine

/-! ### A tenancy halts -/

theorem State.frame_stopCoaches (s : State) (t ctx : Nat) (b : Bool) : (s.stopCoaches t ctx b).frame = s.frame := rfl

theorem State.frame_dropCmds (s : State) (t : Nat) (p : CmdRef → Bool) : (s.dropCmds t p).frame = s.frame := by
  unfold State.dropCmds
  dsimp only
  rw [State.frame_ckRest, State.frame_modTen, foldl_frame fun s y => s.frame_stopCoaches t (Slot.ctx y) false]
  rfl

theorem State.frame_discardAll (s : State) (cs : List CmdRef) : (s.discardAll cs).frame = s.frame :=
  foldl_frame (fun s c => s.frame_complete c stDiscarded 0 0 0) cs s

theorem State.frame_stopRings (s : State) (t : Nat) (p : Ring → Bool) : (s.stopRings t p).frame = s.frame := rfl

theorem State.frame_unserveAll (s : State) (t : Nat) : (s.unserveAll t).frame = s.frame := by
  unfold State.unserveAll State.unserve
  dsimp only
  rw [State.frame_withdraw, foldl_frame fun s x => (rfl : (State.respond s (Served.msg x) rsFault []).frame = s.frame)]
  rfl

/-- The state of a tenancy, as the frame holds it. -/
theorem State.st_ten (s : State) (n : Nat) : (s.ten n).st = s.frame.tens.getD n .free :=
  (getD_map_apply ..).symm

theorem modAt_st (l : List Tenancy) (t : Nat) (st : TenSt) : (modAt l t fun x => { x with st := st }).map (·.st) = (l.map (·.st)).set t st := by
  unfold modAt
  split
  · exact List.map_set
  · next h => rw [List.set_eq_of_length_le (by simpa using h)]

/-- R406: a tenancy moved to a state. -/
theorem State.frame_moveTen (s : State) (t : Nat) (st : TenSt) : (s.moveTen t st).frame = { s.frame with tens := s.frame.tens.set t st } := by
  unfold State.moveTen
  split
  · next h =>
    rw [State.st_ten] at h
    have hself : s.frame.tens.set t st = s.frame.tens := by
      refine List.ext_getElem? fun i => ?_
      rw [List.getElem?_set]
      split
      · next hi =>
        subst hi
        split
        · next hlt => rw [← h, getD_of_lt _ _ hlt, List.getElem?_eq_getElem hlt]
        · next hge => exact (List.getElem?_eq_none (Nat.le_of_not_lt hge)).symm
      · rfl
    rw [hself]
  · rw [State.frame_event]
    simp only [State.frame, State.modTen, modAt_st]

/-- The tasks of a list aborted: their names go. -/
theorem foldl_abortTask_frame (ks : List Task) (level : Nat) (cause : W32) (code : Nat) (s : State) :
    (ks.foldl (fun s k => s.abortTask k level cause code) s).frame =
      { s.frame with owners := s.frame.owners.filter fun o => !ks.any (·.id == o.1) } := by
  induction ks generalizing s with
  | nil =>
    have hall : (s.frame.owners.filter fun _ => true) = s.frame.owners := List.filter_eq_self.2 fun _ _ => rfl
    simp [hall]
  | cons k ks ih =>
    rw [List.foldl_cons, ih, State.frame_abortTask]
    simp only [List.filter_filter, List.any_cons, Bool.not_or]
    congr 2
    funext o
    rw [Bool.and_comm, bne, Bool.beq_comm]

/-- The frame without the tasks of a tenancy. -/
def Frame.without (f : Frame) (t : Nat) : Frame :=
  { f with owners := f.owners.filter fun o => !f.owners.any fun q => q.2 == t && q.1 == o.1 }

theorem Frame.mem_without {f : Frame} {t : Nat} {o : Nat × Nat} (h : o ∈ (f.without t).owners) : o ∈ f.owners ∧ o.2 ≠ t := by
  obtain ⟨hm, hn⟩ := List.mem_filter.1 h
  refine ⟨hm, fun ht => ?_⟩
  simp only [Bool.not_eq_true', List.any_eq_false] at hn
  exact hn o hm (by simp [ht])

theorem State.frame_abortTen (s : State) (t level : Nat) (cause : W32) (code : Nat) :
    ((s.tasks.filter (·.ten == t)).foldl (fun s k => s.abortTask k level cause code) s).frame = s.frame.without t := by
  rw [foldl_abortTask_frame]
  simp [Frame.without, State.frame, List.any_filter, List.any_map, Function.comp_def]

theorem State.frame_haltTen (s : State) (t level : Nat) (cause : W32) (code : Nat) :
    (s.haltTen t level cause code).frame = { s.frame.without t with tens := s.frame.tens.set t .halted } := by
  unfold State.haltTen
  dsimp only
  rw [State.frame_moveTen, State.frame_modTen, State.frame_unserveAll, State.frame_with, State.frame_orderBrake, State.frame_stopRings,
    State.frame_discardAll, State.frame_abortTen, State.frame_dropCmds, State.frame_ckEnd]
  rfl

/-! ### The block is contained -/

theorem State.frame_moveBlock (s : State) (st : BlockSt) : (s.moveBlock st).frame = { s.frame with st := st } := by
  unfold State.moveBlock
  split
  · next h => rw [← h]; rfl
  · rw [State.frame_event]; rfl

/-- The state of a tenancy once those of a list have halted. -/
theorem foldl_haltTen_frame (ts : List Nat) (level : Nat) (cause : W32) (code : Nat) (s : State) :
    ∃ ow, (ts.foldl (fun s t => s.haltTen t level cause code) s).frame =
      { s.frame with tens := ts.foldl (fun l t => l.set t .halted) s.frame.tens, owners := ow } := by
  induction ts generalizing s with
  | nil => exact ⟨_, rfl⟩
  | cons t ts ih =>
    obtain ⟨ow, h⟩ := ih (s.haltTen t level cause code)
    exact ⟨ow, by rw [List.foldl_cons, h, State.frame_haltTen]; rfl⟩

theorem foldl_set_getD {α : Type} (a d : α) (ts : List Nat) (l : List α) (n : Nat) :
    (ts.foldl (fun l t => l.set t a) l).getD n d = if n ∈ ts ∧ n < l.length then a else l.getD n d := by
  induction ts generalizing l with
  | nil => simp
  | cons t ts ih =>
    rw [List.foldl_cons, ih, List.length_set]
    by_cases hn : n = t
    · subst hn
      by_cases hlt : n < l.length <;> simp [hlt, List.getD_eq_getElem?_getD]
    · simp [hn, Ne.symm hn, List.getD_eq_getElem?_getD]

/-! ### Ports that go down -/

theorem State.ports_length (s : State) : s.ports.length = s.frame.ports := rfl

theorem State.st_port_modPort (s : State) (p q : Nat) {f : Port → Port} (h : ∀ x, (f x).st = x.st := by exact fun _ => rfl) :
    ((s.modPort p f).port q).st = (s.port q).st := by
  by_cases hq : p = q
  · subst hq
    by_cases hp : p < s.ports.length
    · rw [State.port_modPort s p f hp, h]
    · rw [State.modPort, modAt_eq_self fun y hy => absurd (List.getElem?_eq_some_iff.1 hy).1 hp]
  · rw [State.port_modPort_ne s f hq]

theorem State.st_movePort (s : State) (p q : Nat) (st : PortSt) (hp : p < s.ports.length) :
    ((s.movePort p st).port q).st = if q = p then st else (s.port q).st := by
  unfold State.movePort
  split
  · next h => by_cases hq : q = p <;> simp [hq, h]
  · change (((s.modPort p _).event _ _ _ _ _ _).ports.getD q {}).st = _
    rw [State.event_ports]
    by_cases hq : q = p
    · subst hq
      rw [if_pos rfl]
      exact congrArg Port.st (State.port_modPort s q _ hp)
    · rw [if_neg hq]
      exact congrArg Port.st (State.port_modPort_ne s _ (Ne.symm hq))

theorem State.st_portDown (s : State) (p q reason : Nat) (hp : p < s.ports.length) :
    ((s.portDown p reason).port q).st = if q = p then .down else (s.port q).st := by
  unfold State.portDown
  dsimp only
  rw [State.st_movePort _ _ _ _ (by rwa [State.ports_length, State.frame_modPort]), State.st_port_modPort]

/-- R439: a port contained. -/
def State.containPort (s : State) (p : Nat) : State := (s.portDown p 7).modPort p fun x => { x with contAt := some s.tick }

theorem State.frame_containPort (s : State) (p : Nat) : (s.containPort p).frame = s.frame := by
  simp [State.containPort]

theorem State.st_containPort (s : State) (p q : Nat) (hp : p < s.ports.length) :
    ((s.containPort p).port q).st = if q = p then .down else (s.port q).st := by
  rw [State.containPort, State.st_port_modPort, State.st_portDown s p q 7 hp]

theorem foldl_containPort_st (ps : List Nat) (s : State) (q : Nat) (h : ∀ p ∈ ps, p < s.ports.length) :
    ((ps.foldl State.containPort s).port q).st = if q ∈ ps then .down else (s.port q).st := by
  induction ps generalizing s with
  | nil => simp
  | cons p ps ih =>
    have hp := h p (by simp)
    rw [List.foldl_cons, ih _ fun r hr => by
        rw [State.ports_length, State.frame_containPort]; exact h r (List.mem_cons_of_mem _ hr),
      State.st_containPort s p q hp]
    by_cases hq : q = p <;> simp [hq]

/-- A state in which the block is moved to CONTAINED with its cause. -/
def State.containing (s : State) (why : Nat) : State := State.moveBlock { s with cause := BitVec.ofNat 4 why } .contained

theorem State.frame_containing (s : State) (why : Nat) :
    (s.containing why).frame = { s.frame with st := .contained, cause := BitVec.ofNat 4 why } := State.frame_moveBlock ..

theorem State.live_containing (s : State) (why n : Nat) : ((s.containing why).ten n).live = true ↔ (s.ten n).st ≠ .free := by
  rw [Tenancy.live, State.st_ten, State.frame_containing, State.st_ten s]
  exact bne_iff_ne

/-- The tenancies that hold the block, halted. -/
def State.haltLive (s : State) (cause : W32) (code : Nat) : State :=
  ((List.range 8).filter fun t => (s.ten t).live).foldl (fun (s : State) t => s.haltTen t 4 cause code) s

theorem State.contain_eq {s : State} (why : Nat) (cause : Option W32) (code : Nat) (h : s.st ≠ .contained) :
    s.contain why cause code =
      let u := (s.containing why).haltLive (cause.getD s.ev.seq) code
      ((List.range 16).filter fun p => (u.port p).st != .down).foldl State.containPort u :=
  if_neg h

/-- R438, R439: containment changes of the frame the block's state and cause, and the tenancies that held the block: they halt. -/
theorem State.frame_contain {s : State} (why : Nat) (cause : Option W32) (code : Nat) (h : s.st ≠ .contained) :
    ∃ ts ow, (s.contain why cause code).frame =
        { s.frame with st := .contained, cause := BitVec.ofNat 4 why, tens := ts, owners := ow }
      ∧ ∀ n, n < 8 → n < s.tens.length → ts.getD n .free = if (s.ten n).st = .free then .free else .halted := by
  obtain ⟨ow, hf⟩ := foldl_haltTen_frame ((List.range 8).filter fun t => ((s.containing why).ten t).live) 4 (cause.getD s.ev.seq) code
    (s.containing why)
  rw [State.frame_containing] at hf
  refine ⟨((List.range 8).filter fun t => ((s.containing why).ten t).live).foldl (fun l t => l.set t .halted) s.frame.tens, ow, ?_,
    fun n hn hlen => ?_⟩
  · rw [State.contain_eq why cause code h]
    exact (foldl_frame State.frame_containPort _ _).trans hf
  · have hlen' : n < s.frame.tens.length := by simpa [State.frame] using hlen
    rw [foldl_set_getD, ← State.st_ten]
    simp only [List.mem_filter, List.mem_range, State.live_containing, hn, hlen', true_and, and_true, ne_eq, ite_not]
    split
    · next hfree => exact hfree
    · rfl

/-- R439: every port of a contained block is down. -/
theorem State.ports_contain {s : State} (why : Nat) (cause : Option W32) (code : Nat) (h : s.st ≠ .contained)
    (hlen : s.ports.length = 16) {p : Nat} (hp : p < 16) : ((s.contain why cause code).port p).st = .down := by
  obtain ⟨ow, hf⟩ := foldl_haltTen_frame ((List.range 8).filter fun t => ((s.containing why).ten t).live) 4 (cause.getD s.ev.seq) code
    (s.containing why)
  have hports : ((s.containing why).haltLive (cause.getD s.ev.seq) code).ports.length = 16 := by
    rw [State.ports_length, State.haltLive, hf, State.frame_containing]
    exact hlen
  rw [State.contain_eq why cause code h]
  dsimp only
  rw [foldl_containPort_st _ _ _ fun q hq => by rw [hports]; exact List.mem_range.1 (List.mem_filter.1 hq).1]
  split
  · rfl
  · next hno =>
    refine Classical.byContradiction fun hst => hno (List.mem_filter.2 ⟨List.mem_range.2 hp, bne_iff_ne.2 hst⟩)

end Sys2Proof.Machine
end

section
/-! What the boundary of a tick leaves (R35, R39, R220), for the rows that are taken in a tick of their own. -/

namespace Sys2Proof.Machine

/-! ### A tick boundary passed (R35) -/

/-- What the end of a tick counts and sends leaves: counters, records and the memory port alone change. -/
theorem State.sendAll_eq (s : State) : ∃ c now ti ov m e l st, s.sendAll =
    { s with cnt := c, cntNow := now, cntTick := ti, cntOvf := ov, mem := m, ev := e, evrlost := l, setNow := st } := by
  unfold State.sendAll
  refine List.foldlRecOn (motive := fun t : State => ∃ c now ti ov m e l st, t =
    { s with cnt := c, cntNow := now, cntTick := ti, cntOvf := ov, mem := m, ev := e, evrlost := l, setNow := st }) _ _
    ⟨_, _, _, _, _, _, _, _, rfl⟩ ?_
  rintro t ⟨c, now, ti, ov, m, e, l, st, rfl⟩ r _
  obtain ⟨c', now', ti', ov', m', e', l', st', h⟩ := State.count_frame _ (cntLate (s.originOf r.who).cluster) 1
  exact ⟨c', now', ti', ov', m', e', l', st', h⟩

theorem getD_map_or {α : Type} (f : α → α) (l : List α) (d : α) (n : Nat) :
    (l.map f).getD n d = l.getD n d ∨ (l.map f).getD n d = f (l.getD n d) := by
  by_cases h : n < l.length
  · exact .inr (by simp [List.getD_eq_getElem?_getD, h])
  · exact .inl (by simp [List.getD_eq_getElem?_getD, h])

theorem getD_mapIdx_or {α : Type} (f : Nat → α → α) (l : List α) (d : α) (n : Nat) :
    (l.mapIdx f).getD n d = l.getD n d ∨ ∃ i, (l.mapIdx f).getD n d = f i (l.getD n d) := by
  by_cases h : n < l.length
  · exact .inr ⟨n, by simp [List.getD_eq_getElem?_getD, h]⟩
  · exact .inl (by simp [List.getD_eq_getElem?_getD, h])

theorem State.observeTen_eq (s : State) (i : Nat) (x : Tenancy) : ∃ sl h, s.observeTen i x = { x with slots := sl, hinted := h } := by
  unfold State.observeTen
  split
  · exact ⟨x.slots, x.hinted, rfl⟩
  · exact ⟨_, _, rfl⟩

/-- A row taken in a tick: of what the rows speak of, only the tick has changed. -/
theorem State.atTick_eq (s : State) (t : Nat) : ∃ tens ports invals c now ti ov m e l st k, s.atTick t =
      { s with
        tens := tens, ports := ports, xlt := { s.xlt with invals := invals }, cnt := c, cntNow := now, cntTick := ti, cntOvf := ov
        mem := m, ev := e, evrlost := l, setNow := st, tick := k }
    ∧ k = max s.tick t ∧ tens.length = s.tens.length ∧ ports.length = s.ports.length
    ∧ (∀ n, ∃ sl h b, tens.getD n {} = { s.ten n with slots := sl, hinted := h, led0 := b })
    ∧ ∀ p, ∃ b, ports.getD p {} = { s.port p with led0 := b } := by
  unfold State.atTick
  split
  · next hlt =>
    obtain ⟨c, now, ti, ov, m, e, l, st, h⟩ := s.sendAll_eq
    refine ⟨_, _, _, c, now, ti, ov, m, e, l, st, t, by rw [State.observe, h], (Nat.max_eq_right (Nat.le_of_lt hlt)).symm, by simp,
      by simp, fun n => ?_, fun p => ?_⟩
    · rcases getD_mapIdx_or (fun i x => { State.observeTen _ i x with led0 := x.led }) s.tens {} n with hn | ⟨i, hn⟩
      · rw [hn]
        exact ⟨_, _, _, rfl⟩
      · obtain ⟨sl, hd, hx⟩ := State.observeTen_eq { s with
          cnt := c, cntNow := now, cntTick := ti, cntOvf := ov, mem := m, ev := e, evrlost := l, setNow := st } i (s.tens.getD n {})
        exact ⟨sl, hd, (s.ten n).led, by rw [hn, hx]; rfl⟩
    · rcases getD_map_or (fun x : Port => { x with led0 := x.led }) s.ports {} p with hp | hp
      · rw [hp]
        exact ⟨_, rfl⟩
      · exact ⟨_, hp⟩
  · next hge =>
    exact ⟨s.tens, s.ports, s.xlt.invals, s.cnt, s.cntNow, s.cntTick, s.cntOvf, s.mem, s.ev, s.evrlost, s.setNow, s.tick, rfl,
      (Nat.max_eq_left (Nat.le_of_not_lt hge)).symm, rfl, rfl, fun n => ⟨(s.ten n).slots, (s.ten n).hinted, (s.ten n).led0, rfl⟩,
      fun p => ⟨(s.port p).led0, rfl⟩⟩

section
variable (s : State) (t : Nat)

theorem State.atTick_st : (s.atTick t).st = s.st := by
  obtain ⟨_, _, _, _, _, _, _, _, _, _, _, _, h, -⟩ := s.atTick_eq t
  rw [h]

theorem State.atTick_resetLow : (s.atTick t).resetLow = s.resetLow := by
  obtain ⟨_, _, _, _, _, _, _, _, _, _, _, _, h, -⟩ := s.atTick_eq t
  rw [h]

theorem State.atTick_fw : (s.atTick t).fw = s.fw := by
  obtain ⟨_, _, _, _, _, _, _, _, _, _, _, _, h, -⟩ := s.atTick_eq t
  rw [h]

theorem State.atTick_pwr : (s.atTick t).pwr = s.pwr := by
  obtain ⟨_, _, _, _, _, _, _, _, _, _, _, _, h, -⟩ := s.atTick_eq t
  rw [h]

theorem State.atTick_fence : (s.atTick t).fence = s.fence := by
  obtain ⟨_, _, _, _, _, _, _, _, _, _, _, _, h, -⟩ := s.atTick_eq t
  rw [h]

theorem State.atTick_tick : (s.atTick t).tick = max s.tick t := by
  obtain ⟨_, _, _, _, _, _, _, _, _, _, _, _, h, hk, -⟩ := s.atTick_eq t
  rw [h]
  exact hk

theorem State.atTick_tens : (s.atTick t).tens.length = s.tens.length := by
  obtain ⟨_, _, _, _, _, _, _, _, _, _, _, _, h, -, hl, -⟩ := s.atTick_eq t
  rw [h]
  exact hl

theorem State.atTick_ports : (s.atTick t).ports.length = s.ports.length := by
  obtain ⟨_, _, _, _, _, _, _, _, _, _, _, _, h, -, -, hl, -⟩ := s.atTick_eq t
  rw [h]
  exact hl

/-- R35: of a tenancy the boundary sees to its slots, its hint and the base of its ledgers. -/
theorem State.atTick_ten (n : Nat) : ∃ sl h b, (s.atTick t).ten n = { s.ten n with slots := sl, hinted := h, led0 := b } := by
  obtain ⟨_, _, _, _, _, _, _, _, _, _, _, _, h, -, -, -, ht, -⟩ := s.atTick_eq t
  rw [h]
  exact ht n

/-- R35: of a port the boundary sees to the base of its ledgers. -/
theorem State.atTick_port (p : Nat) : ∃ b, (s.atTick t).port p = { s.port p with led0 := b } := by
  obtain ⟨_, _, _, _, _, _, _, _, _, _, _, _, h, -, -, -, -, hp⟩ := s.atTick_eq t
  rw [h]
  exact hp p

end

end Sys2Proof.Machine
end

section
/-! Bring-up (O59): the boot check, the self-tests, a live update, the watchdog and the pins. -/

namespace Sys2Proof.Machine

/-! ### What a record leaves of the memory port -/

/-- Of the memory port only the pool's bytes and their faults differ. -/
def MemPort.SameButPool (m n : MemPort) : Prop := ∃ pl po ba, n = { m with pool := pl, poison := po, bad := ba }

theorem MemPort.SameButPool.refl (m : MemPort) : m.SameButPool m := ⟨m.pool, m.poison, m.bad, rfl⟩

theorem MemPort.SameButPool.trans {l m n : MemPort} (h1 : l.SameButPool m) (h2 : m.SameButPool n) : l.SameButPool n := by
  obtain ⟨_, _, _, rfl⟩ := h1
  obtain ⟨_, _, _, rfl⟩ := h2
  exact ⟨_, _, _, rfl⟩

theorem State.poolWrite_mem (s : State) (pa : Nat) (bs : List Byte) : s.mem.SameButPool (s.poolWrite pa bs).mem := ⟨_, _, _, rfl⟩

theorem State.evPut_mem (s : State) : s.mem.SameButPool s.evPut.mem := by
  unfold State.evPut State.poolWrite
  split
  · exact .refl _
  · dsimp only
    split
    · exact ⟨_, _, _, rfl⟩
    · exact .refl _

theorem evDrain_mem (n : Nat) (s : State) : s.mem.SameButPool (evDrain n s).mem := by
  induction n generalizing s with
  | zero => exact .refl _
  | succ n ih => exact s.evPut_mem.trans (ih s.evPut)

theorem State.evFlush_mem (s : State) : s.mem.SameButPool s.evFlush.mem := by
  have hd := evDrain_mem s.ev.queue.length s
  unfold State.evFlush
  dsimp only
  split
  · exact hd
  · obtain ⟨e, he⟩ := (evDrain s.ev.queue.length s).evSignal_frame
    rw [he]
    exact hd

theorem State.event_mem (s : State) (c d : Nat) (w : EvWho) (x i j : Nat) : s.mem.SameButPool (s.event c d w x i j).mem := by
  unfold State.event State.evWrite
  dsimp only
  split
  · exact State.evFlush_mem _
  · exact .refl _

/-! ### Moves of the block -/

theorem State.moveBlock_st (s : State) (st : BlockSt) : (s.moveBlock st).st = st := congrArg Frame.st (s.frame_moveBlock st)

/-- A move of the block writes its record and no more. -/
theorem State.moveBlock_eq (s : State) (st : BlockSt) :
    ∃ m e l sn, s.moveBlock st = { s with st := st, mem := m, ev := e, evrlost := l, setNow := sn } ∧ s.mem.SameButPool m := by
  unfold State.moveBlock
  split
  · next h => exact ⟨s.mem, s.ev, s.evrlost, s.setNow, by rw [← h], .refl _⟩
  · generalize blockCode st + blockCode s.st * 8 + (if st = .contained then s.cause.toNat * 2 ^ 6 else 0) = info
    have hm := State.event_mem { s with st := st } 0xAF 0 {} 0 info feWord
    obtain ⟨m, e, l, sn, h⟩ := State.event_frame { s with st := st } 0xAF 0 {} 0 info feWord
    rw [h] at hm
    exact ⟨m, e, l, sn, h, hm⟩

/-! ### The boot check (R456, R459) -/

theorem State.answering_of_safe {s : State} (h : s.st = .safe) (hr : s.resetLow = false) : s.answering = true := by
  simp [State.answering, h, hr]

theorem State.answering_of_opened {s : State} (h : s.opened = true) : s.answering = true := by
  obtain ⟨hr, hs⟩ := State.opened_iff.1 h
  rcases hs with hs | hs | hs | hs <;> simp [State.answering, hr, hs]

theorem exec_go {v : Verdicts} {grant : W32} {ways : W64} {hm : HostMem} {s : State} (h : InPool hm) (ha : (s.hosted hm).answering = true) :
    exec (.go v grant ways hm) s = .next ((s.hosted hm).writeGo v grant ways) := by
  change execGo v grant ways hm s = _
  rw [execGo, withHost_inPool h, ha]
  rfl

section
variable {s : State} {v : Verdicts} {grant : W32} {ways : W64} (hs : s.st = .safe)
include hs

/-- R459: in SAFE a boot check that passes boots the block. -/
theorem writeGo_passes (h : bootDetail v (s.poolBytes (s.fw.perAddr.toNat * 4096) 256)
      (personalityOf (s.poolBytes (s.fw.perAddr.toNat * 4096) 256)) (fwHeaderOf (s.poolBytes (s.fw.addrFe.toNat * 4096) 64))
      (fwHeaderOf (s.poolBytes (s.fw.addrLn.toNat * 4096) 64)) = none) :
    s.writeGo v grant ways = s.booted (personalityOf (s.poolBytes (s.fw.perAddr.toNat * 4096) 256))
      (fwHeaderOf (s.poolBytes (s.fw.addrFe.toNat * 4096) 64)) (fwHeaderOf (s.poolBytes (s.fw.addrLn.toNat * 4096) 64)) grant ways := by
  simp only [State.writeGo, hs, ne_eq, not_true_eq_false, if_false, h]

/-- R459: in SAFE a boot check that fails is shown with its first failed check. -/
theorem writeGo_fails {d : Nat} (h : bootDetail v (s.poolBytes (s.fw.perAddr.toNat * 4096) 256)
      (personalityOf (s.poolBytes (s.fw.perAddr.toNat * 4096) 256)) (fwHeaderOf (s.poolBytes (s.fw.addrFe.toNat * 4096) 64))
      (fwHeaderOf (s.poolBytes (s.fw.addrLn.toNat * 4096) 64)) = some d) :
    ∃ x y, s.writeGo v grant ways = State.incompat { s with fw := { s.fw with boot := 3 } } d x y :=
  ⟨_, _, by simp only [State.writeGo, hs, ne_eq, not_true_eq_false, if_false, h]; rfl⟩

end

/-- R459, R492: what a boot check that passes leaves. -/
theorem State.booted_spec (s : State) (p : Personality) (f l : FwHeader) (grant : W32) (ways : W64) :
    let t := s.booted p f l grant ways
    t.st = .loaded ∧ t.enCluster = p.clusters ∧ t.enPort = p.ports ∧ t.haddr = p.haddr ∧ t.fw.boot = 2 ∧ t.fw.fe = f.image
      ∧ t.fw.ln = l.image ∧ t.mem.grant = grant := by
  intro t
  obtain ⟨m, e, lo, sn, h, pl, po, ba, rfl⟩ := State.moveBlock_eq _ _
  have ht : t = _ := h
  rw [ht]
  exact ⟨rfl, rfl, rfl, rfl, rfl, rfl, rfl, rfl⟩

/-- R459: a check that fails is shown in `FW_STAT`, with its record. -/
theorem State.incompat_st (s : State) (d x y : Nat) : (s.incompat d x y).st = s.st := State.event_st ..

theorem State.incompat_fw (s : State) (d x y : Nat) : (s.incompat d x y).fw = { s.fw with detail := BitVec.ofNat 8 d } := State.event_fw ..

/-! ### The self-tests (R460–R462) -/

theorem State.setRefused_spec (s : State) : s.setRefused.fw = { s.fw with refused := true } := by
  unfold State.setRefused
  split
  · next h => rw [← h]; rfl
  · exact State.event_fw ..

/-- R462: a test that runs. -/
theorem writeSelftest_runs {s : State} {c : BitVec 3} (hb : s.fw.busy = false) (hd : s.disabledFn 0 c.toNat = true) (ho : s.opened = true)
    (hl : s.st ≠ .loaded) : s.writeSelftest c true = { s with fw := { s.fw with testCl := c, busy := true } } := by
  have hcond : !s.fw.busy ∧ s.disabledFn 0 c.toNat ∧ s.opened ∧ s.st ≠ .loaded := ⟨by rw [hb]; rfl, hd, ho, hl⟩
  refine (if_pos hcond).trans ?_
  simp only [hb, Bool.false_eq_true, if_false]

/-- R462: a test that is refused. -/
theorem writeSelftest_refused {s : State} (c : BitVec 3)
    (h : s.fw.busy = true ∨ s.disabledFn 0 c.toNat = false ∨ s.opened = false ∨ s.st = .loaded) :
    s.writeSelftest c true = State.setRefused { s with fw := { s.fw with testCl := if s.fw.busy then s.fw.testCl else c } } := by
  refine if_neg fun ⟨hb, hd, ho, hl⟩ => ?_
  rcases h with h | h | h | h
  · rw [h] at hb; cases hb
  · exact Bool.false_ne_true (h.symm.trans hd)
  · exact Bool.false_ne_true (h.symm.trans ho)
  · exact hl h

theorem exec_selftestRun {s : State} (c : BitVec 3) (h : s.answering = true) : exec (.selftestRun c) s = .next (s.writeSelftest c true) := by
  change execSelftestRun c s = _
  rw [execSelftestRun, h]
  rfl

/-- The bit of a cluster in the pass map. -/
theorem getLsbD_passBit (pass : Bool) (m : BitVec 8) (c : BitVec 3) (n : Nat) :
    (if pass then m ||| BitVec.ofNat 8 (2 ^ c.toNat) else m &&& ~~~BitVec.ofNat 8 (2 ^ c.toNat)).getLsbD n =
      if n = c.toNat then pass else m.getLsbD n := by
  have hc := c.isLt
  have hbit : (BitVec.ofNat 8 (2 ^ c.toNat)).getLsbD n = decide (n = c.toNat) := by
    rw [BitVec.getLsbD_ofNat, Nat.testBit_two_pow]
    by_cases h : n = c.toNat
    · simp only [h, decide_true, Bool.and_true, decide_eq_true_eq]; omega
    · simp [h, Ne.symm h]
  cases pass
  · simp only [Bool.false_eq_true, if_false, BitVec.getLsbD_and, BitVec.getLsbD_not, hbit]
    split
    · next h => simp [h]
    · next h => 
      by_cases h8 : n < 8
      · simp [h, h8]
      · simp [BitVec.getLsbD_of_ge m n (by omega)]
  · simp only [if_true, BitVec.getLsbD_or, hbit]
    split <;> simp_all

theorem passBits (s : State) (pass : Bool) :
    let t : State := { s with fw := { s.fw with
      busy := false, pass := if pass then s.fw.pass ||| BitVec.ofNat 8 (2 ^ s.fw.testCl.toNat)
        else s.fw.pass &&& ~~~BitVec.ofNat 8 (2 ^ s.fw.testCl.toNat) } }
    t.fw.busy = false ∧ t.fw.pass.getLsbD s.fw.testCl.toNat = pass
      ∧ (∀ n, n ≠ s.fw.testCl.toNat → t.fw.pass.getLsbD n = s.fw.pass.getLsbD n) ∧ t.enCluster = s.enCluster :=
  ⟨rfl, (getLsbD_passBit ..).trans (if_pos rfl), fun _ hn => (getLsbD_passBit ..).trans (if_neg hn), rfl⟩

/-! ### Live update and the watchdog (R437, R467–R469) -/

theorem exec_update {kind : BitVec 2} {utmo : W32} {sig : Bool} {hm : HostMem} {s : State} (h : InPool hm)
    (ho : (s.hosted hm).opened = true) : exec (.update kind utmo sig hm) s = .next ((s.hosted hm).writeUpdate kind utmo sig) := by
  change execUpdate kind utmo sig hm s = _
  rw [execUpdate, withHost_inPool h, State.answering_of_opened ho]
  rfl

section
variable {s : State} {kind : BitVec 2} (utmo : W32) (sig : Bool) (ho : s.opened = true) (hn : s.fw.update = none) (hk : kind = 1 ∨ kind = 2)
include ho hn hk

/-- R467: an update whose checks pass loads its image. -/
theorem writeUpdate_passes (h : s.updateDetail kind.toNat sig
      (fwHeaderOf (s.poolBytes ((if kind = 1 then s.fw.addrFe else s.fw.addrLn).toNat * 4096) 64)) = none) :
    s.writeUpdate kind utmo sig = { s with fw := { s.fw with
      upd := 2
      update := some ⟨kind.toNat, (fwHeaderOf (s.poolBytes ((if kind = 1 then s.fw.addrFe else s.fw.addrLn).toNat * 4096) 64)).image,
        s.tick, if utmo = 0 then 1250000 else utmo.toNat⟩ } } := by
  rcases hk with rfl | rfl <;> simp_all [State.writeUpdate, utmoDefault]

/-- R467, R469: an update whose check fails is FAILED, with the check in `FW_STAT`. -/
theorem writeUpdate_fails {d : Nat} (h : s.updateDetail kind.toNat sig
      (fwHeaderOf (s.poolBytes ((if kind = 1 then s.fw.addrFe else s.fw.addrLn).toNat * 4096) 64)) = some d) :
    ∃ x y, s.writeUpdate kind utmo sig = State.incompat { s with fw := { s.fw with upd := 5 } } d x y := by
  refine ⟨(if kind.toNat = 1 then s.fw.ln else s.fw.fe).ifprov.toNat,
    (fwHeaderOf (s.poolBytes ((if kind = 1 then s.fw.addrFe else s.fw.addrLn).toNat * 4096) 64)).image.ifprov.toNat, ?_⟩
  rcases hk with rfl | rfl <;> simp_all [State.writeUpdate]

end

theorem writeUpdate_refused {s : State} {kind : BitVec 2} (utmo : W32) (sig : Bool)
    (h : s.fw.update.isSome = true ∨ (kind ≠ 1 ∧ kind ≠ 2)) : s.writeUpdate kind utmo sig = s.setLockvio := by
  refine if_pos (h.imp id fun hk => .inr ?_)
  simpa [← BitVec.toNat_inj] using hk

/-- R437: the record of the watchdog, and the standby bank discarded. -/
def State.watchdog (s : State) (image : Nat) : State :=
  let offered := match s.fw.update with
    | some u => if u.kind = image then u.image.ifprov.toNat else 0
    | none => 0
  let u := s.event 0x81 image {} 4 (if image = 1 then s.fw.fe else s.fw.ln).ifprov.toNat (feWord + offered * 2 ^ 16)
  { u with fw := { u.fw with upd := if u.fw.update.isSome then 5 else u.fw.upd, update := none } }

theorem State.watchdog_st (s : State) (image : Nat) : (s.watchdog image).st = s.st := State.event_st ..

theorem exec_fwWatchdog {s : State} {image : Nat} (ho : s.opened = true) (hi : image = 1 ∨ image = 2) :
    exec (.fwWatchdog image) s = .next ((s.watchdog image).contain 2 (some s.ev.seq) 0x81) := by
  refine if_neg ?_
  rw [ho]
  rintro (h | ⟨h1, h2⟩)
  · cases h
  · exact hi.elim h1 h2

/-- R437, R439: the watchdog contains the block, with cause 2. -/
theorem fwWatchdog_contains {s : State} {image : Nat} (ho : s.opened = true) (hi : image = 1 ∨ image = 2) :
    ∃ t, exec (.fwWatchdog image) s = .next t ∧ t.st = .contained ∧ t.cause = 2 ∧ t.fw.update = none := by
  have hst : (s.watchdog image).st ≠ .contained := by
    rw [State.watchdog_st]
    exact fun h => by simp [State.opened_iff, h] at ho
  obtain ⟨ts, ow, h, -⟩ := State.frame_contain 2 (some s.ev.seq) 0x81 hst
  exact ⟨_, exec_fwWatchdog ho hi, congrArg Frame.st h, congrArg Frame.cause h, congrArg (fun f => f.fw.update) h⟩

/-! ### The self-test after LOADED (R460, R461) -/

theorem exec_selfTestDone {s : State} (pass : BitVec 8) (shared : Bool) (hs : s.st = .loaded) (hr : s.resetLow = false) :
    exec (.selfTestDone pass shared) s = .next (
      let u := State.clearTestRegion { s with
        enCluster := s.enCluster &&& (pass &&& s.fw.perClusters), fw := { s.fw with pass := pass &&& s.fw.perClusters, shared := shared } }
      if pass &&& s.fw.perClusters = 0 ∨ !shared then u.contain 3 none 0 else u.moveBlock .ready) :=
  if_neg (by simp [hs, hr])

/-! ### The obligation -/

/-- Settles O59: each row of bring-up is one write or move, and both containments among them are `contain`, by its frame. -/
theorem bringUp : Obligations.BringUp := by
  unfold Obligations.BringUp
  refine ⟨fun v grant ways hm s0 hin => ?_, fun pass shared s hs hr => ?_, fun c s ha => ?_, fun pass s hb => ?_,
    fun kind utmo sig hm s0 hin => ?_, fun s u ho hu => ?_, fun t s u hu hp hlate => ?_, fun image s ho hi => fwWatchdog_contains ho hi,
    fun s => ?_, fun b s hr => ?_, fun op s => rfl, fun op s => rfl⟩
  · intro s bs p f l
    refine ⟨fun hs hr => ?_, fun ho => ?_⟩
    · have hgo := exec_go (v := v) (grant := grant) (ways := ways) hin (State.answering_of_safe hs hr)
      refine ⟨fun hd => ⟨_, hgo.trans (congrArg _ (writeGo_passes hs hd)), State.booted_spec _ p f l grant ways⟩, fun d hd => ?_⟩
      obtain ⟨x, y, hw⟩ := writeGo_fails (grant := grant) (ways := ways) hs hd
      exact ⟨_, hgo.trans (congrArg _ hw), (State.incompat_st ..).trans hs, by rw [State.incompat_fw], by rw [State.incompat_fw]⟩
    · refine (exec_go hin (State.answering_of_opened ho)).trans (congrArg _ (if_pos fun hs => ?_))
      obtain ⟨-, h | h | h | h⟩ := State.opened_iff.1 ho <;> simp_all [s]
  · refine ⟨_, exec_selfTestDone pass shared hs hr, fun hok => ?_, fun hbad => ?_⟩
    · dsimp only
      rw [if_neg (by simpa [hok.2] using hok.1)]
      obtain ⟨_, _, _, _, h, -⟩ := State.moveBlock_eq _ _
      exact ⟨State.moveBlock_st .., by rw [h]; rfl⟩
    · dsimp only
      rw [if_pos (by simpa using hbad)]
      obtain ⟨ts, ow, h, -⟩ := State.frame_contain (s := State.clearTestRegion { s with enCluster := _, fw := _ }) 3 none 0
        (show s.st ≠ .contained by rw [hs]; decide)
      exact ⟨congrArg Frame.st h, congrArg Frame.cause h⟩
  · refine ⟨fun hb hd ho hl => (exec_selftestRun c ha).trans (congrArg _ ?_), fun hno => ⟨_, exec_selftestRun c ha, ?_⟩⟩
    · rw [writeSelftest_runs hb hd ho hl]
    · rw [writeSelftest_refused c hno, State.setRefused_spec]
      exact ⟨rfl, rfl⟩
  · exact ⟨_, when_next.2 ⟨hb, rfl⟩, passBits s pass⟩
  · intro s h
    refine ⟨fun ho hn hk => ⟨fun hd => ?_, fun d hd => ?_⟩, fun ho hno => ?_⟩
    · exact (exec_update hin ho).trans (congrArg _ (writeUpdate_passes utmo sig ho hn hk hd))
    · obtain ⟨x, y, hw⟩ := writeUpdate_fails utmo sig ho hn hk hd
      exact ⟨_, (exec_update hin ho).trans (congrArg _ hw), State.incompat_fw ..⟩
    · exact (exec_update hin ho).trans (congrArg _ (writeUpdate_refused utmo sig hno))
  · refine ⟨fun h2 => when_next.2 ⟨by simp [ho, h2, hu], rfl⟩, fun h3 hsw => ?_⟩
    change execFwSwitch s = _
    simp only [execFwSwitch, hu]
    exact when_next.2 ⟨by simp [ho, h3, hsw], rfl⟩
  · change ∃ v, execFwUpdateTimeout t s = .next v ∧ _
    simp only [execFwUpdateTimeout, hu]
    refine ⟨_, when_next.2 ⟨?_, rfl⟩, ?_⟩
    · rw [hp, Bool.true_and, Bool.or_eq_true, Bool.and_eq_true, beq_iff_eq, decide_eq_true_eq, decide_eq_true_eq]
      exact hlate
    · rw [State.atTick_fw]
  · change execCtlDrain s = _
    simp [execCtlDrain]
  · exact when_next.2 ⟨hr, rfl⟩

end Sys2Proof.Machine
end

section
/-! A corrected error of the row cache may write memory (O58): it is counted (R396, R441), and with the counter at its maximum the overflow
writes a record (R434), which the event ring takes to memory (R445). -/

namespace Sys2Proof.Machine

/-- The block with the counter of array errors at its maximum and the event ring enabled. -/
def fullCounter : State := { State.reset with cnt := [(cntArrayCe, Config.cntMax)], ev := { State.reset.ev with en := true } }

/-- The record of the overflow, code 0xAA, is the second in the event ring. -/
theorem fullCounter_rowCache_pool : memGet (fullCounter.hosted { errs := [.rowCache 0 0 0] }).mem.pool 32 = 0xAA := by decide

/-- Refutes O58: where an array error of the row cache overflows its counter, its record goes to the event ring in memory. -/
theorem not_quiesceAndContainment : ¬ Obligations.QuiesceAndContainment := by
  unfold Obligations.QuiesceAndContainment
  rintro ⟨-, -, -, -, -, -, h⟩
  obtain ⟨-, hrow, -⟩ := h fullCounter (.rowCache 0 0 0) rfl rfl rfl rfl
  obtain ⟨-, hmem, -⟩ := hrow 0 0 0 rfl
  have hbyte := fullCounter_rowCache_pool
  rw [hmem] at hbyte
  exact absurd hbyte (by decide)

end Sys2Proof.Machine
end

section
/-! The governor, its reports and the thermal sensors (O56). -/

namespace Sys2Proof.Machine

/-! ### One evaluation (R30, R483) -/

theorem State.thermal_pwr (s : State) : s.thermal.pwr = s.pwr := State.event_pwr ..

theorem State.setVid_vid (s : State) (v : Nat) : (s.setVid v).pwr.vid = v := by
  unfold State.setVid
  split
  · next h => exact h.symm
  · rfl

theorem State.setVid_lastEval (s : State) (v : Nat) : (s.setVid v).pwr.lastEval = s.pwr.lastEval := by
  unfold State.setVid
  split <;> rfl

theorem State.holdVid_vid (s : State) (h : Bool) : (s.holdVid h).pwr.vid = s.pwr.vid := by
  unfold State.holdVid
  dsimp only
  split
  · rw [State.thermal_pwr]
  · rfl

theorem State.holdVid_lastEval (s : State) (h : Bool) : (s.holdVid h).pwr.lastEval = s.pwr.lastEval := by
  unfold State.holdVid
  dsimp only
  split
  · rw [State.thermal_pwr]
  · rfl

theorem State.staleRec_vid (s : State) : s.staleRec.pwr.vid = s.pwr.vid := by
  unfold State.staleRec
  split
  · rw [State.thermal_pwr]
  · rfl

theorem State.staleRec_lastEval (s : State) : s.staleRec.pwr.lastEval = s.pwr.lastEval := by
  unfold State.staleRec
  split
  · rw [State.thermal_pwr]
  · rfl

/-- R30: what the steps of an evaluation do to VCORE: at most four, up where it is under its floor, and above the floor never under it. -/
theorem State.evalSteps_vid (s : State) (h : s.pwr.vid ≤ 48) :
    let v := s.evalSteps.pwr.vid
    v ≤ s.pwr.vid + 4 ∧ s.pwr.vid ≤ v + 4 ∧ v ≤ 48 ∧ (s.pwr.vid < s.vidFloor → s.pwr.vid < v) ∧ (s.vidFloor ≤ s.pwr.vid → s.vidFloor ≤ v) := by
  have hlo : s.vidFloor ≤ 16 := by unfold State.vidFloor; split <;> decide
  unfold State.evalSteps
  dsimp only
  generalize s.fresh.1.toNat = n
  have hmod : n % 5 < 5 := Nat.mod_lt _ (by decide)
  have hmod4 : n % 4 < 4 := Nat.mod_lt _ (by decide)
  split
  · rw [State.holdVid_vid, State.setVid_vid]
    simp only [vidSteps]
    omega
  · split
    · rw [State.holdVid_vid, State.setVid_vid]
      simp only [vidSteps]
      split <;> omega
    · rw [State.holdVid_vid, State.setVid_vid]
      simp only [vidTop, vidSteps]
      omega

theorem State.evalSteps_lastEval (s : State) : s.evalSteps.pwr.lastEval = s.pwr.lastEval := by
  unfold State.evalSteps
  dsimp only
  split
  · rw [State.holdVid_lastEval, State.setVid_lastEval]; rfl
  · split <;> (rw [State.holdVid_lastEval, State.setVid_lastEval]; rfl)

/-! ### Reports and sensors (R402, R484, R485) -/

theorem mem_insertNew {l : List Nat} {k j : Nat} : j ∈ insertNew l k ↔ j = k ∨ j ∈ l := by
  unfold insertNew
  split
  · next h =>
    refine ⟨.inr, ?_⟩
    rintro (rfl | h')
    · exact List.contains_iff_mem.1 h
    · exact h'
  · rw [List.mem_append, List.mem_singleton, or_comm]

/-- R402: the hot stacks after a report of stack k. -/
theorem mem_hotAfter {l : List Nat} {k temp j : Nat} :
    j ∈ hotAfter l k temp ↔ (if j = k then 190 < temp ∨ (184 < temp ∧ k ∈ l) else j ∈ l) := by
  unfold hotAfter
  split
  · next h => rw [mem_insertNew]; split <;> simp_all <;> omega
  · split
    · next h => rw [List.mem_filter, bne_iff_ne]; split <;> simp_all <;> omega
    · next h => split <;> simp_all <;> omega

theorem State.formationRuns_iff (s : State) : s.formationRuns = true ↔ ∃ n, (s.ten n).timetabled = true := by
  simp only [State.formationRuns, List.any_eq_true, State.ten, List.getD_eq_getElem?_getD]
  constructor
  · rintro ⟨x, hx, ht⟩
    obtain ⟨n, hn, rfl⟩ := List.mem_iff_getElem.1 hx
    exact ⟨n, by rwa [List.getElem?_eq_getElem hn]⟩
  · rintro ⟨n, hn⟩
    cases h : s.tens[n]? with
    | none => rw [h] at hn; cases hn
    | some x => exact ⟨x, List.mem_of_getElem? h, by rwa [h] at hn⟩

/-- A tenancy in a formation stays in it at the boundary of a tick. -/
theorem State.formationRuns_atTick (s : State) (t : Nat) : (s.atTick t).formationRuns = s.formationRuns := by
  have hten : ∀ n, ((s.atTick t).ten n).timetabled = (s.ten n).timetabled := fun n => by
    obtain ⟨_, _, _, h⟩ := s.atTick_ten t n
    rw [h]
    rfl
  rw [Bool.eq_iff_iff, State.formationRuns_iff, State.formationRuns_iff]
  exact exists_congr fun n => by rw [hten]

/-! ### What is due of the governor (R33) -/

theorem dueIf_mem {b : Bool} {t : Nat} (h : b = true) : t ∈ dueIf b t := by rw [h]; exact List.mem_singleton_self t

/-- R33: nothing passes what is due. -/
theorem mayPass_false {s : State} {d t : Nat} (hd : d ∈ s.deadlines) (h1 : d < t) (h2 : s.tick < t) : s.mayPass t = false := by
  rw [State.mayPass, Bool.and_eq_false_iff, List.all_eq_false]
  exact .inr ⟨d, hd, by simpa using by omega⟩

theorem State.mem_deadlines_of_power {s : State} {d : Nat} (h : d ∈ s.powerDue) : d ∈ s.deadlines := by
  simp only [State.deadlines, List.mem_append, h, true_or]

theorem State.lastEval_due {s : State} (h : s.governed = true) : s.pwr.lastEval + 1024 ∈ s.powerDue := by
  simp [State.powerDue, h]

/-! ### The obligation -/

/-- R30: the state in which an evaluation decides. -/
def State.evaluating (s : State) (t : Nat) : State :=
  { s.atTick t with pwr := { (s.atTick t).pwr with lastEval := (s.atTick t).pwr.lastEval + 1024, floor := (s.atTick t).formationRuns } }

theorem State.evaluating_vid (s : State) (t : Nat) : (s.evaluating t).pwr.vid = s.pwr.vid := by rw [State.evaluating, State.atTick_pwr]

theorem State.evaluating_busy (s : State) (t : Nat) : (s.evaluating t).pwr.vidBusy = s.pwr.vidBusy := by rw [State.evaluating, State.atTick_pwr]

theorem State.evaluating_lastEval (s : State) (t : Nat) : (s.evaluating t).pwr.lastEval = s.pwr.lastEval + 1024 := by
  rw [State.evaluating, State.atTick_pwr]

theorem State.evaluating_floor (s : State) (t : Nat) : (s.evaluating t).vidFloor = if s.formationRuns then 16 else 0 := by
  rw [← s.formationRuns_atTick t]
  rfl

theorem exec_governorEvaluation {s : State} {t : Nat} (hg : s.governed = true) (hp : s.mayPass t = true) (hd : s.pwr.lastEval + 1024 ≤ t) :
    exec (.governorEvaluation t) s =
      .next (if (s.evaluating t).pwr.vidBusy then s.evaluating t else (s.evaluating t).evalSteps).staleRec := by
  refine if_neg ?_
  rw [hg, hp]
  simpa using hd

/-- Settles O56: an evaluation takes at most four steps, of which `evalSteps` says where they lead; reports and sensors are one update
each. -/
theorem powerEvents : Obligations.PowerEvents := by
  unfold Obligations.PowerEvents
  refine ⟨fun t s hg hp hd hv => ⟨_, exec_governorEvaluation hg hp hd, ?_⟩, fun t s hg h1 h2 => ?_, fun t mhz s hg hp hd => ?_,
    fun w s => rfl, fun t s hg hst hp hd => ?_, fun s hb => when_next.2 ⟨hb, rfl⟩, fun k temp s hk hok =>
      ⟨_, when_next.2 ⟨by simpa using hk, rfl⟩, ?_⟩⟩
  · rw [State.staleRec_lastEval, State.staleRec_vid, s.evaluating_busy]
    obtain ⟨h1, h2, h3, h4, h5⟩ := State.evalSteps_vid (s.evaluating t) (by rw [s.evaluating_vid]; exact hv)
    rw [s.evaluating_vid] at h1 h2 h4 h5
    rw [s.evaluating_floor] at h4 h5
    cases hb : s.pwr.vidBusy
    · simp only [Bool.false_eq_true, if_false, State.evalSteps_lastEval, State.evaluating_lastEval]
      refine ⟨trivial, nofun, ⟨h1, h2⟩, fun _ hf hlt => h4 (by rwa [if_pos hf]), fun _ hf hge => ⟨?_, h3⟩⟩
      rw [if_pos hf] at h5
      exact h5 hge
    · simp only [if_true, s.evaluating_lastEval, s.evaluating_vid]
      exact ⟨trivial, fun _ => trivial, ⟨Nat.le_add_right .., Nat.le_add_right ..⟩, nofun, nofun⟩
  · exact mayPass_false (State.mem_deadlines_of_power (State.lastEval_due hg)) h2 (Nat.lt_of_le_of_lt h1 h2)
  · refine when_next.2 ⟨by simp [hg, hp, hd], ?_⟩
    simp only [State.atTick_pwr]
  · refine when_next.2 ⟨by simp [hg, hp, hst, hd], ?_⟩
    simp only [State.atTick_pwr]
  · refine ⟨(smGet_smSet hok k temp k).trans (if_pos rfl), fun h => ?_, fun h => ?_, fun h1 h2 => ?_, fun j hj => ?_⟩
    · exact mem_hotAfter.2 (by rw [if_pos rfl]; exact Or.inl h)
    · rw [mem_hotAfter, if_pos rfl]; omega
    · rw [mem_hotAfter, if_pos rfl]
      exact ⟨fun h => h.elim (fun h => absurd h (Nat.not_lt.2 h2)) And.right, fun h => Or.inr ⟨h1, h⟩⟩
    · rw [mem_hotAfter, if_neg hj]

end Sys2Proof.Machine
end

section
/-! Tenancies (O57): OPEN and RUN, epochs, the stateful units' holder, the swap hint and the clear report. -/

namespace Sys2Proof.Machine

/-! ### OPEN and RUN (R406–R408) -/

theorem State.ten_moveTen (s : State) {t : Nat} (st : TenSt) (h : t < s.tens.length) : (s.moveTen t st).ten t = { s.ten t with st := st } := by
  unfold State.moveTen
  split
  · next he => rw [← he]
  · change ((s.modTen t _).event _ _ _ _ _ _).tens.getD t {} = _
    rw [State.event_tens]
    exact State.ten_modTen s t _ h

theorem State.moveTen_tens_length (s : State) (t : Nat) (st : TenSt) : (s.moveTen t st).tens.length = s.tens.length := by
  have h := congrArg (fun f => f.tens.length) (s.frame_moveTen t st)
  simpa [State.frame] using h

/-- Clusters changed one after the other. -/
theorem foldl_clusters {α : Type} {f : State → α → State} (h : ∀ s c, ∃ cl, f s c = { s with clusters := cl }) (cs : List α) (s : State) :
    ∃ cl, cs.foldl f s = { s with clusters := cl } := by
  refine List.foldlRecOn (motive := fun t : State => ∃ cl, t = { s with clusters := cl }) cs f ⟨_, rfl⟩ ?_
  rintro t ⟨cl, rfl⟩ c _
  exact h { s with clusters := cl } c

/-- A share zeroed changes clusters alone. -/
theorem State.zeroShare_eq (s : State) (ten n : Nat) : ∃ cl, s.zeroShare ten n = { s with clusters := cl } := by
  apply foldl_clusters
  exact fun _ _ => ⟨_, rfl⟩

theorem State.moveBlock_tens (s : State) (st : BlockSt) : (s.moveBlock st).tens = s.tens := by
  obtain ⟨_, _, _, _, h, -⟩ := s.moveBlock_eq st
  rw [h]

/-- R408: a tenancy's context 0, fresh in slot 0. -/
def Tenancy.freshZero (t : Tenancy) : Tenancy :=
  { t.modSlot 0 fun x => { x with st := .resident, ctx := 0, xc := [], blockedSince := none, move := none, tcOpen := false } with
    hinted := false, holder := none, holdLost := false, unitsUsed := [], usedPorts := 0 }

theorem Tenancy.freshZero_slot {t : Tenancy} (h : 0 < t.slots.length) : (t.freshZero.slot 0).st = .resident ∧ (t.freshZero.slot 0).ctx = 0 := by
  have hs : t.freshZero.slot 0 = _ := modAt_getD t.slots _ {} h
  rw [hs]
  exact ⟨rfl, rfl⟩

/-- R407: the tenancy LOADING, before the block is SERVING. -/
def State.opening (s : State) (ten : Nat) : State :=
  (State.moveTen { s.modTen ten Tenancy.freshZero with ledClear := s.ledClear &&& ~~~(BitVec.ofNat 8 (2 ^ ten)) } ten .loading).zeroShare ten 0

theorem State.openTen_eq (s : State) (ten : Nat) :
    s.openTen ten = if (s.opening ten).st = .ready then (s.opening ten).moveBlock .serving else s.opening ten := rfl

theorem State.opening_st (s : State) (ten : Nat) : (s.opening ten).st = s.st := by
  obtain ⟨_, h⟩ := State.zeroShare_eq (State.moveTen { s.modTen ten Tenancy.freshZero with
    ledClear := s.ledClear &&& ~~~(BitVec.ofNat 8 (2 ^ ten)) } ten .loading) ten 0
  rw [State.opening, h]
  exact congrArg Frame.st (State.frame_moveTen ..)

theorem State.opening_ten {s : State} {ten : Nat} (h : ten < s.tens.length) :
    (s.opening ten).ten ten = { (s.ten ten).freshZero with st := .loading } := by
  obtain ⟨_, hz⟩ := State.zeroShare_eq (State.moveTen { s.modTen ten Tenancy.freshZero with
    ledClear := s.ledClear &&& ~~~(BitVec.ofNat 8 (2 ^ ten)) } ten .loading) ten 0
  rw [State.opening, hz]
  refine (State.ten_moveTen _ .loading (by simpa [State.modTen, modAt_length] using h)).trans ?_
  exact congrArg (fun x : Tenancy => { x with st := .loading }) (State.ten_modTen s ten Tenancy.freshZero h)

/-- R407, R408: OPEN leaves context 0 fresh in slot 0, the tenancy LOADING and the block SERVING. -/
theorem State.openTen_spec {s : State} {ten : Nat} (hs : s.st = .ready ∨ s.st = .serving) (ht : ten < s.tens.length)
    (hsl : 0 < (s.ten ten).slots.length) :
    let t := s.openTen ten
    (t.ten ten).st = .loading ∧ ((t.ten ten).slot 0).st = .resident ∧ ((t.ten ten).slot 0).ctx = 0 ∧ (t.ten ten).holder = none
      ∧ t.st = .serving := by
  intro t
  have hten : t.ten ten = { (s.ten ten).freshZero with st := .loading } := by
    rw [← State.opening_ten ht, show t = _ from s.openTen_eq ten]
    split
    · rw [State.ten, State.moveBlock_tens]; rfl
    · rfl
  have hst : t.st = .serving := by
    rw [show t = _ from s.openTen_eq ten, s.opening_st]
    split
    · exact State.moveBlock_st ..
    · next h => rw [s.opening_st]; exact hs.resolve_left h
  rw [hten]
  obtain ⟨h1, h2⟩ := Tenancy.freshZero_slot hsl
  exact ⟨rfl, h1, h2, rfl, hst⟩

theorem writeOpen_free {s : State} {ten : Nat} (hs : s.st = .ready ∨ s.st = .serving) (hf : (s.ten ten).st = .free) :
    s.writeOpen ten = if s.openOk ten then s.openTen ten else s.tenErr ten errValue := by
  rcases hs with h | h <;> simp only [State.writeOpen, h, hf, ne_eq, not_true_eq_false, if_false]

theorem writeOpen_taken {s : State} {ten : Nat} (hs : s.st = .ready ∨ s.st = .serving) (hf : (s.ten ten).st ≠ .free) :
    s.writeOpen ten = s.tenErr ten errState := by
  rcases hs with h | h <;> simp only [State.writeOpen, h, ne_eq, hf, not_false_eq_true, if_true]

section
variable {s : State} {ten : Nat} (h : ten < 8)
include h

theorem exec_openTenancy : exec (.openTenancy ten) s = s.hostWrite (s.writeOpen ten) := if_neg (Nat.not_le.2 h)
theorem exec_runTenancy : exec (.runTenancy ten) s = s.hostWrite (s.writeRun ten) := if_neg (Nat.not_le.2 h)
theorem exec_ledEpochAdv : exec (.ledEpochAdv ten) s = s.hostWrite (s.writeEpochAdv ten) := if_neg (Nat.not_le.2 h)

end

/-! ### Epochs (R157, R158) -/

/-- R158: after a deferred advance no coach of the tenancy waits for one. -/
theorem epochGo_waits {s : State} {ten : Nat} {prior : W32} {owner : Option CoachRef} {h : Cohort}
    (hh : h ∈ (s.epochGo ten prior owner).cohorts) (hten : (s.task? h.task).any (·.ten == ten) = true) : ∀ k ∈ h.coaches, k.epochWait = none := by
  obtain ⟨h0, -, rfl⟩ : ∃ h0, h0 ∈ (match owner with
        | none => s
        | some c => s.modCoach c fun k => match k.epochWait with
          | some (ud, d, act) => Coach.step (epochWrite { k with epochWait := none } ud d act prior)
          | none => k : State).cohorts
      ∧ (if (s.task? h0.task).any (·.ten == ten) then { h0 with coaches := h0.coaches.map fun k =>
          { k with epochWait := none } } else h0) = h := by
    cases owner <;> exact List.mem_map.1 hh
  split at hten
  · next hm =>
    rw [if_pos hm]
    intro k hk
    obtain ⟨k0, -, rfl⟩ := List.mem_map.1 hk
    rfl
  · next hm => exact absurd hten hm

theorem epochGo_tens (s : State) (ten : Nat) (prior : W32) (owner : Option CoachRef) : (s.epochGo ten prior owner).tens = s.tens := by
  unfold State.epochGo
  cases owner <;> rfl

/-! ### The stateful units' holder (R412–R415) -/

/-- Unit state moved to a slot's area changes clusters alone. -/
theorem State.saveUnits_eq (s : State) (ten n : Nat) : ∃ cl, s.saveUnits ten n = { s with clusters := cl } := by
  apply foldl_clusters
  exact fun _ _ => ⟨_, rfl⟩

theorem State.releaseUnits_tick (s : State) (ten : Nat) : (s.releaseUnits ten).tick = s.tick := by
  unfold State.releaseUnits
  split
  · next n _ =>
    obtain ⟨cl, h⟩ := s.saveUnits_eq ten n
    rw [h]
    rfl
  · rfl

theorem State.releaseUnits_length (s : State) (ten : Nat) : (s.releaseUnits ten).tens.length = s.tens.length := by
  unfold State.releaseUnits
  split
  · next n _ =>
    obtain ⟨cl, h⟩ := s.saveUnits_eq ten n
    rw [h]
    exact modAt_length ..
  · rfl

theorem State.loadUnits_length (s : State) (ten n : Nat) : (s.loadUnits ten n).tens.length = s.tens.length := by
  unfold State.loadUnits
  dsimp only
  split
  · generalize ((s.ten ten).slot n).areaBase = a
    obtain ⟨cl, h⟩ := foldl_clusters (f := fun (s : State) c => s.modUnits c fun _ => unitsOf (s.spBytes c a Config.unitArea))
      (fun _ _ => ⟨_, rfl⟩) (s.chain ten) s
    rw [h]
  · refine (modAt_length ..).trans ?_
    obtain ⟨cl, h⟩ := foldl_clusters (f := fun (s : State) c => s.modUnits c fun _ => {}) (fun _ _ => ⟨_, rfl⟩) (s.chain ten) s
    rw [h]

/-- R412, R413: the units are the slot's, from this tick on. -/
theorem State.giveUnits_spec {s : State} {ten : Nat} (n : Nat) (h : ten < s.tens.length) :
    ((s.giveUnits ten n).ten ten).holder = some n ∧ ((s.giveUnits ten n).ten ten).holdSince = s.tick
      ∧ ((s.giveUnits ten n).ten ten).holdLost = false := by
  rw [State.giveUnits, State.ten_modTen _ _ _ (by rwa [State.loadUnits_length])]
  exact ⟨rfl, rfl, rfl⟩

theorem exec_holderSwitch {s : State} {ten n : Nat} (hn : s.nextHolder ten = some n)
    (hne : (s.ten ten).holder ≠ some n ∨ (s.ten ten).holdLost = true)
    (hi : s.holderIdle ten = true) : exec (.holderSwitch ten) s = .next ((s.releaseUnits ten).giveUnits ten n) := by
  change execHolderSwitch ten s = _
  simp only [execHolderSwitch, hn]
  rw [if_neg (by rintro ⟨h1, h2⟩; rcases hne with h | h <;> simp_all)]
  exact when_next.2 ⟨hi, rfl⟩

/-! ### The clear report (R289) -/

theorem State.reportClear_spec {s : State} {ten : Nat} (h : ten < 8) (hc : s.ledClear.getLsbD ten = false) :
    (s.reportClear ten).ledClear.getLsbD ten = true ∧ (s.reportClear ten).tens = s.tens := by
  have hbit : bitOf s.ledClear.toNat ten = false := by rw [bitOf_eq_testBit, BitVec.testBit_toNat]; exact hc
  simp only [State.reportClear, hbit, Bool.false_eq_true, if_false, State.event_ledClear, State.event_tens, BitVec.getLsbD_or,
    BitVec.getLsbD_ofNat, Nat.testBit_two_pow_self, h, decide_true, Bool.and_true, Bool.or_true, and_true]

/-! ### The obligation -/

/-- Settles O57: a write to a tenancy is one move or one update of it; the shares and unit states that go with it are of clusters alone. -/
theorem tenancyEvents : Obligations.TenancyEvents := by
  unfold Obligations.TenancyEvents
  intro ten s hten hlen x
  have hlt : ten < s.tens.length := by rw [hlen]; exact hten
  refine ⟨fun ho => ⟨fun hs hf hok hsl => ?_, fun hs hf hok => ?_, fun hs hf => ?_, fun hl => ?_, fun hl => ?_, fun hp hb => ?_, fun hp hb => ?_,
      fun hp => ?_⟩, fun ho => ?_, fun hp hb => ?_, fun n hn hne hidle => ?_, fun n m t hn hnl hm hmn hw hhold hp hdue => ?_,
    fun t hp => ?_, fun ho hst hclr hidle hbooks => ?_⟩
  · refine ⟨_, (exec_openTenancy hten).trans ((hostWrite_opened ho).trans ?_), State.openTen_spec hs hlt hsl⟩
    rw [writeOpen_free hs hf, if_pos hok]
  · refine (exec_openTenancy hten).trans ((hostWrite_opened ho).trans ?_)
    rw [writeOpen_free hs hf, hok, if_neg Bool.false_ne_true]
  · refine (exec_openTenancy hten).trans ((hostWrite_opened ho).trans ?_)
    rw [writeOpen_taken hs hf]
  · refine ⟨_, (exec_runTenancy hten).trans ((hostWrite_opened ho).trans (congrArg _ (if_pos hl))), ?_⟩
    rw [State.ten_moveTen s _ hlt]
  · exact (exec_runTenancy hten).trans ((hostWrite_opened ho).trans (congrArg _ (if_neg hl)))
  · refine (exec_ledEpochAdv hten).trans ((hostWrite_opened ho).trans (congrArg _ ?_))
    simp only [State.writeEpochAdv, show (s.ten ten).epochPend = false from hp, show (s.ten ten).epochBlocked = false from hb,
      Bool.false_eq_true, if_false]
  · refine (exec_ledEpochAdv hten).trans ((hostWrite_opened ho).trans (congrArg _ ?_))
    simp only [State.writeEpochAdv, show (s.ten ten).epochPend = false from hp, show (s.ten ten).epochBlocked = true from hb,
      Bool.false_eq_true, if_false, if_true]
  · exact (exec_ledEpochAdv hten).trans ((hostWrite_opened ho).trans (congrArg _ (if_pos hp)))
  · simp only [exec_openTenancy hten, exec_runTenancy hten, exec_ledEpochAdv hten, hostWrite_eq, ho]
    exact ⟨rfl, rfl, rfl⟩
  · refine ⟨_, when_next.2 ⟨by simp [hp, hb, x], rfl⟩, ?_⟩
    rw [State.ten, epochGo_tens, ← State.ten, State.ten_modTen s ten _ hlt]
    exact ⟨rfl, rfl, fun h hh ht => epochGo_waits hh ht⟩
  · refine ⟨_, exec_holderSwitch hn hne hidle, rfl, ?_⟩
    rw [← s.releaseUnits_tick ten]
    exact State.giveUnits_spec n (by rwa [State.releaseUnits_length])
  · change execHoldTimeout ten t s = _
    simp only [execHoldTimeout, show (s.ten ten).holder = some n from hn]
    refine when_next.2 ⟨?_, rfl⟩
    have hother : s.othersWait ten n = true :=
      List.any_eq_true.2 ⟨m, List.mem_range.2 hm, by rw [hw, Bool.and_true]; exact bne_iff_ne.2 hmn⟩
    simp only [hp, hother, show (s.ten ten).holdLost = false from hnl, Bool.true_and, Bool.and_true, Bool.not_false, decide_eq_true_eq]
    exact ⟨hhold, hdue⟩
  · intro u y hl he hh hr ha
    change execSwapHint ten t s = _
    simp only [execSwapHint, hp, Bool.not_true, Bool.false_eq_true, if_false]
    refine when_next.2 ⟨?_, rfl⟩
    have he' : (y.evrun != 0) = true := bne_iff_ne.2 he
    have hr' : y.residents.isEmpty = false := by rw [Bool.eq_false_iff, ne_eq, List.isEmpty_iff]; exact hr
    change (y.live && y.evrun != 0 && !y.hinted && !y.residents.isEmpty && y.allBlocked t) = true
    rw [hl, he', hh, hr', ha]
    rfl
  · refine ⟨_, when_next.2 ⟨?_, rfl⟩, ?_⟩
    · have hst' : ((s.ten ten).st == .quiescing || (s.ten ten).st == .free) = true := by
        rcases hst with h | h <;> simp [show (s.ten ten).st = _ from h]
      have hclr' : bitOf s.ledClear.toNat ten = false := by rw [bitOf_eq_testBit, BitVec.testBit_toNat]; exact hclr
      rw [ho, hst', hclr', hidle, hbooks, decide_eq_true hten]
      rfl
    · exact State.reportClear_spec hten hclr

end Sys2Proof.Machine
end

section
/-! Ports (O55): trained, disabled, retired and fenced; the spare stepped, switched and jumped; the injector and the hall counter. -/

namespace Sys2Proof.Machine

/-! ### A port moved -/

theorem State.port_movePort (s : State) {p : Nat} (st : PortSt) (h : p < s.ports.length) : (s.movePort p st).port p =
    { s.port p with st := st } := by
  unfold State.movePort
  split
  · next he => rw [← he]
  · change ((s.modPort p _).event _ _ _ _ _ _).ports.getD p {} = _
    rw [State.event_ports]
    exact State.port_modPort s p _ h

/-- R266: a port that goes down shows why. -/
theorem State.portDown_spec (s : State) {p : Nat} (reason : Nat) (h : p < s.ports.length) :
    ((s.portDown p reason).port p).st = .down ∧ ((s.portDown p reason).port p).reason = BitVec.ofNat 8 reason
      ∧ ((s.portDown p reason).port p).lat = (s.port p).lat := by
  unfold State.portDown
  dsimp only
  rw [State.port_movePort _ _ (by rwa [State.ports_length, State.frame_modPort]), State.port_modPort s p _ h]
  exact ⟨rfl, rfl, rfl⟩

/-! ### Training (R463) -/

theorem Port.trainSpare_eq (x : Port) (failed : BitVec 17) (t : Nat) :
    ∃ tx rx r, x.trainSpare failed t = { x with tx := tx, rx := rx, rotating := r } := by
  unfold Port.trainSpare
  split <;> exact ⟨_, _, _, rfl⟩

theorem State.sendCtl_one (s : State) (p n : Nat) (bs : List Byte) :
    s.sendCtl [p] n bs = s.modPort p fun x => { x with ctl := x.ctl ++ [⟨n, bs, s.tick⟩] } := rfl

/-- R463: a trained port is IDLE with its failed lanes and its latency. -/
theorem State.trained_spec (s : State) {p : Nat} (failed inverted : BitVec 17) (lat : Nat) (h : p < s.ports.length) :
    ((s.trained p failed inverted lat).port p).st = .idle ∧ ((s.trained p failed inverted lat).port p).retired = failed
      ∧ ((s.trained p failed inverted lat).port p).lat = BitVec.ofNat 8 lat := by
  unfold State.trained
  dsimp only
  rw [State.sendCtl_one, State.port_movePort _ _ (by simpa [State.ports_length] using h),
    State.port_modPort _ _ _ (by simpa [State.ports_length] using h),
    State.port_modPort s p _ h]
  exact ⟨rfl, rfl, rfl⟩

/-! ### Fences and routes (R288, R503) -/

/-- R288: the ports that a write would newly fence. -/
theorem any_newFenced (v f : W16) (busy : Nat → Bool) :
    (setBits 16 (v &&& ~~~f).toNat).any busy = (List.range 16).any fun p => v.getLsbD p && !f.getLsbD p && busy p := by
  rw [Bool.eq_iff_iff, setBits, List.any_filter, List.any_eq_true, List.any_eq_true]
  refine exists_congr fun p => and_congr_right fun hp => ?_
  rw [bitOf_eq_testBit, BitVec.testBit_toNat, BitVec.getLsbD_and, BitVec.getLsbD_not, decide_eq_true (List.mem_range.1 hp), Bool.true_and]

theorem writeFence_eq (s : State) (v : W16) :
    s.writeFence v = if (List.range 16).any (fun p => v.getLsbD p && !s.fence.getLsbD p && ((s.port p).st == .armed || (s.port p).st == .running
        || (s.port p).st == .braking)) then s.setFenceErr else { s with fence := v } := by
  unfold State.writeFence
  dsimp only
  rw [any_newFenced]
  refine ite_congr (congrArg (· = true) (congrArg (List.any _) (funext fun p => congrArg (and _) ?_))) (fun _ => rfl) fun _ => rfl
  cases (s.port p).st <;> rfl

section
variable {s : State} {p : Nat} (hp : p < 16) (ho : s.opened = true)
include hp ho

theorem exec_lineTrain : exec (.lineTrain p) s = .next (s.trainPort p) := (if_neg (Nat.not_le.2 hp)).trans (hostWrite_opened ho)
theorem exec_lineDown : exec (.lineDown p) s = .next (s.disablePort p) := (if_neg (Nat.not_le.2 hp)).trans (hostWrite_opened ho)
theorem exec_lineRetire (lanes : BitVec 17) : exec (.lineRetire p lanes) s = .next (s.writeRetire p lanes) :=
  (if_neg (Nat.not_le.2 hp)).trans (hostWrite_opened ho)
theorem exec_injectorArm (v : W64) : exec (.injectorArm p v) s = .next (
    if s.injAllowed p then s.modPort p fun x => { x with inj := x.inj.load v s.tick } else s.setLockvio) :=
  (if_neg (Nat.not_le.2 hp)).trans (hostWrite_opened ho)

end

/-! ### The end of training (R463) -/

section
variable {s : State} {p : Nat} (h : (s.port p).st = .training)
include h

theorem exec_trainingComplete_misaligned : exec (.trainingComplete p .misaligned) s = .next (s.portDown p 5) := if_neg (Classical.not_not.2 h)

theorem exec_trainingComplete (good inv : BitVec 17) (lat : Nat) : exec (.trainingComplete p (.trained good inv lat)) s =
    if 2 ≤ (setBits 17 (s.failedLanes p good).toNat).length then .next (s.portDown p 3)
    else if 48 < lat then .next ((s.modPort p fun x => { x with lat := BitVec.ofNat 8 (min lat 255) }).portDown p 4)
    else .next (s.trained p (s.failedLanes p good) inv lat) := if_neg (Classical.not_not.2 h)

end

/-! ### The obligation -/

/-- Settles O55: each row is one update of its port, or of two in turn, where its condition holds. -/
theorem portEvents : Obligations.PortEvents := by
  unfold Obligations.PortEvents
  refine ⟨fun p s hp ho => ⟨exec_lineTrain hp ho, exec_lineDown hp ho, exec_lineRetire hp ho, exec_injectorArm hp ho⟩,
    fun p s hp hst => ⟨⟨_, exec_trainingComplete_misaligned hst, ?_⟩, fun good inv lat hg hl => ?_, fun good inv lat hg => ?_,
      fun good inv lat hg hl => ?_, fun t ht hpass => ?_⟩,
    fun v s ho => (hostWrite_opened ho).trans (congrArg _ (writeFence_eq s v)), fun i m s ho hi => ?_,
    fun p t s hs hpass => ⟨fun hr hh hn ht hd => ?_, fun l hl hn hne => ?_, fun hd => ?_, fun hd => ?_⟩,
    fun p s hs hr hh hn ht => ?_, fun p lane s hs hl hne hj => ?_, fun s => rfl⟩
  · obtain ⟨h1, h2, -⟩ := s.portDown_spec 5 hp
    exact ⟨h1, h2⟩
  · refine ⟨_, (exec_trainingComplete hst good inv lat).trans ?_, s.trained_spec _ inv lat hp⟩
    rw [if_neg (by omega), if_neg (by omega)]
  · obtain ⟨h1, h2, -⟩ := s.portDown_spec 3 hp
    exact ⟨_, (exec_trainingComplete hst good inv lat).trans (if_pos hg), h1, h2⟩
  · obtain ⟨h1, h2, h3⟩ := State.portDown_spec (s.modPort p fun x => { x with lat := BitVec.ofNat 8 (min lat 255) }) 4
      (by rwa [State.ports_length, State.frame_modPort])
    refine ⟨_, (exec_trainingComplete hst good inv lat).trans ?_, h1, h2, h3.trans ?_⟩
    · rw [if_neg (by omega), if_pos hl]
    · rw [State.port_modPort s p _ hp]
  · obtain ⟨h1, h2, -⟩ := State.portDown_spec (s.atTick t) 2 (by rwa [s.atTick_ports])
    exact ⟨_, when_next.2 ⟨by rw [hst, hpass, decide_eq_true (show _ + signalWait ≤ t from ht)]; rfl, rfl⟩, h1, h2⟩
  · refine (hostWrite_opened ho).trans (congrArg _ ?_)
    simp only [State.writeRoute, hi, and_self, if_true]
  · refine when_next.2 ⟨?_, rfl⟩
    simp only [Port.sweeps, hs, hr, hh, hn, ht, hpass, rotationPeriod, hd]
    rfl
  · change execRetirementStep p t s = _
    simp only [execRetirementStep, show (s.port p).tx.target = some l from hl]
    exact when_next.2 ⟨by simpa [Port.retires, hs, hpass, show (s.port p).tx.target = some l from hl] using ⟨hn, Ne.symm hne⟩, rfl⟩
  · exact when_next.2 ⟨by simpa [hs, hpass, Port.sentAt] using hd, rfl⟩
  · exact when_next.2 ⟨by simpa [hs, hpass, Port.sentAt] using hd, rfl⟩
  · have hgo : ¬((!(s.port p).st.sends) = true ∨ (!(s.port p).rotating) = true ∨ (s.port p).tx.held = true ∨ (s.port p).tx.next.isSome = true
        ∨ (s.port p).tx.target.isSome = true) := by simp [hs, hr, hh, hn, ht]
    exact ⟨if_neg hgo, if_neg hgo, if_neg hgo⟩
  · have hgo : ¬((!(s.port p).st.sends) = true ∨ 17 ≤ lane ∨ lane = (s.port p).rx.pos ∨ (s.port p).jreq = some lane) := by
      simp [hs, hne, hj]; omega
    refine (if_neg hgo).trans ?_
    split <;> rfl

end Sys2Proof.Machine
end

section
/-! Carriages that arrive (O54): outside a run, in one, on fenced ports, and those that never came (R40, R247, R248, R265, R288). -/

namespace Sys2Proof.Machine

/-! ### The rows -/

theorem arriveAs_of_class {s : State} {p k : Nat} {c : Carriage} {act : State → Nat → W64 → State} {idle : State → State}
    (h : c.cls.toNat = k) : s.arriveAs p k c act idle = s.arrive p c act idle := if_neg (Classical.not_not.2 h)

/-- A CONTROL carriage with a message of its row's own type. -/
theorem control_of_type {s : State} {p n : Nat} {c : Carriage} {f : State → State} (h1 : c.cls.toNat = 4) (h2 : c.ctype.toNat = n)
    (h3 : 1 ≤ n) (h4 : n ≤ 6) : s.control p n c f = s.arrive p c (fun s _ _ => f s) f := by
  have hk : knownCtype c.ctype.toNat = true := decide_eq_true (by omega)
  rw [State.control, hk]
  exact (if_neg (Classical.not_not.2 h2)).trans (arriveAs_of_class h1)

/-- A row of a carriage that arrives is `arrive`, with what the row does outside a run and in one. -/
theorem exec_carriage {i : Instr} {s : State} {p : Nat} {c : Carriage} {idle : State → State} {act : State → Nat → W64 → State}
    (hr : carriageRow i = some (p, c)) (ha : carriageActs i s = some (idle, act)) (hs : (s.port p).st.sends = true) :
    exec i s = s.arrive p c act idle := by
  cases i with
  | dataCarriage p' c' =>
    obtain ⟨hc, h⟩ := Option.ite_none_right_eq_some.1 hr
    cases h; cases ha
    exact arriveAs_of_class hc
  | vacantCarriage p' c' =>
    obtain ⟨hc, h⟩ := Option.ite_none_right_eq_some.1 hr
    cases h; cases ha
    exact arriveAs_of_class hc
  | rollCarriage p' c' =>
    obtain ⟨hc, h⟩ := Option.ite_none_right_eq_some.1 hr
    cases h; cases ha
    exact arriveAs_of_class hc
  | auditCarriage p' c' =>
    obtain ⟨hc, h⟩ := Option.ite_none_right_eq_some.1 hr
    cases h; cases ha
    exact arriveAs_of_class hc
  | freeCarriage p' c' =>
    obtain ⟨hc, h⟩ := Option.ite_none_right_eq_some.1 hr
    cases h; cases ha
    exact arriveAs_of_class hc
  | armControl p' c' =>
    obtain ⟨⟨hc, ht⟩, h⟩ := Option.ite_none_right_eq_some.1 hr
    cases h; cases ha
    exact control_of_type hc ht (by decide) (by decide)
  | ack p' c' =>
    obtain ⟨⟨hc, ht⟩, h⟩ := Option.ite_none_right_eq_some.1 hr
    cases h; cases ha
    exact control_of_type hc ht (by decide) (by decide)
  | nak p' c' =>
    obtain ⟨⟨hc, ht⟩, h⟩ := Option.ite_none_right_eq_some.1 hr
    cases h; cases ha
    exact control_of_type hc ht (by decide) (by decide)
  | confirm p' c' =>
    obtain ⟨⟨hc, ht⟩, h⟩ := Option.ite_none_right_eq_some.1 hr
    cases h; cases ha
    exact control_of_type hc ht (by decide) (by decide)
  | disarm p' c' =>
    obtain ⟨⟨hc, ht⟩, h⟩ := Option.ite_none_right_eq_some.1 hr
    cases h; cases ha
    exact control_of_type hc ht (by decide) (by decide)
  | link p' c' =>
    obtain ⟨⟨hc, ht⟩, h⟩ := Option.ite_none_right_eq_some.1 hr
    cases h; cases ha
    refine (if_neg fun h => ?_).trans (control_of_type hc ht (by decide) (by decide))
    rw [h.1] at hs
    cases hs
  | _ => cases hr

theorem arrive_taken {s : State} {p : Nat} {c : Carriage} {act : State → Nat → W64 → State} {idle : State → State} (hp : p < 16)
    (hc : s.contained p = false) (hs : (s.port p).st.sends = true) (hj : (s.port p).tx.cannot c = false) :
    s.arrive p c act idle = .next ((s.linkFields p c).taken p c act idle) := by
  simp only [State.arrive, Nat.not_le.2 hp, hc, hs, hj, if_false, Bool.false_eq_true, Bool.not_true]

/-! ### A carriage counted -/

/-- The port a carriage has been counted at. -/
def Port.linkFields (x : Port) (c : Carriage) (t : Nat) : Port :=
  let x := x.startRx c.carno.toNat
  { x with
    fecNow := x.fecNow + c.fec
    taken := x.taken.count c
    credit0 := x.credit0 + c.cret0.toNat, credit1 := x.credit1 + c.cret1.toNat
    rx := x.rx.hear x.jreq c, tx := x.tx.asked c t
    seen := insertNew (x.seen.filter fun n => decide (t ≤ n + Config.linkMax)) c.carno.toNat }

theorem State.linkFields_eq (s : State) (p : Nat) (c : Carriage) :
    s.linkFields p c = (s.count (cntFecCor p) c.fec).modPort p fun x => x.linkFields c s.tick := rfl

theorem Port.startRx_kept (x : Port) (n : Nat) :
    (x.startRx n).st = x.st ∧ (x.startRx n).memb = x.memb ∧ (x.startRx n).fecNow = x.fecNow := by
  unfold Port.startRx
  split <;> exact ⟨rfl, rfl, rfl⟩

theorem State.port_linkFields {s : State} {p : Nat} (c : Carriage) (h : p < s.ports.length) :
    (s.linkFields p c).port p = (s.port p).linkFields c s.tick := by
  rw [State.linkFields_eq, State.port_modPort _ _ _ (by rwa [State.count_ports])]
  rw [State.port, State.count_ports]
  rfl

section
variable (s : State) (p : Nat) (c : Carriage)

theorem State.linkFields_tens : (s.linkFields p c).tens = s.tens := by rw [State.linkFields_eq, State.modPort_tens, State.count_tens]
theorem State.linkFields_fence : (s.linkFields p c).fence = s.fence := by rw [State.linkFields_eq, State.modPort_fence, State.count_fence]
theorem State.linkFields_st : (s.linkFields p c).st = s.st := by rw [State.linkFields_eq, State.modPort_st, State.count_st]
theorem State.linkFields_quiesce : (s.linkFields p c).quiesce = s.quiesce := by
  rw [State.linkFields_eq, State.modPort_quiesce, State.count_quiesce]

/-- Counting a carriage keeps its port's state and membership. -/
theorem State.linkFields_port : ((s.linkFields p c).port p).st = (s.port p).st ∧ ((s.linkFields p c).port p).memb = (s.port p).memb := by
  by_cases h : p < s.ports.length
  · rw [State.port_linkFields c h]
    obtain ⟨h1, h2, -⟩ := (s.port p).startRx_kept c.carno.toNat
    exact ⟨h1, h2⟩
  · rw [State.linkFields_eq, State.modPort, modAt_eq_self fun y hy => absurd (List.getElem?_eq_some_iff.1 hy).1 (by rwa [State.count_ports])]
    change (((s.count _ _).ports.getD p {}).st = _ ∧ ((s.count _ _).ports.getD p {}).memb = _)
    rw [State.count_ports]
    exact ⟨rfl, rfl⟩

theorem State.linkFields_runOf : (s.linkFields p c).runOf p = s.runOf p := by
  obtain ⟨h1, h2⟩ := s.linkFields_port p c
  simp only [State.runOf, State.membOf, State.ten, h1, h2, State.linkFields_tens]

theorem State.linkFields_shutTen (t : Nat) : (s.linkFields p c).shutTen t = s.shutTen t := by
  simp only [State.shutTen, State.ten, State.quiescing, State.linkFields_tens, State.linkFields_st, State.linkFields_quiesce]

end

/-! ### What a carriage does once counted (R248, R288) -/

section
variable {u : State} {p : Nat} {c : Carriage} {act : State → Nat → W64 → State} {idle : State → State}

theorem taken_fenced (hb : bitOf u.fence.toNat p = true) (hf : fencedOff c = true) :
    u.taken p c act idle = u.modPort p fun x => { x with fenceDrop := x.fenceDrop + 1 } := if_pos ⟨hb, hf⟩

variable (hopen : bitOf u.fence.toNat p = false ∨ fencedOff c = false)
include hopen

theorem not_fenced : ¬(bitOf u.fence.toNat p = true ∧ fencedOff c = true) := fun h => by
  rcases hopen with h' | h'
  · exact Bool.false_ne_true (h'.symm.trans h.1)
  · exact Bool.false_ne_true (h'.symm.trans h.2)

theorem taken_idle (hr : u.runOf p = none) : u.taken p c act idle = (idle u).tookCar p c.carno.toNat := by
  refine (if_neg (not_fenced hopen)).trans ?_
  rw [hr]

/-- R248: in a cycle a carriage is checked against its entry. -/
theorem taken_cycle {t j : Nat} {x : Timetable} {e : W64} (hr : u.runOf p = some (t, x)) (hx : (u.ten t).tt = some x) (hb : c.brkt = 0)
    (hp : (u.ten t).plan x p c.carno.toNat = .cycle j e) : u.taken p c act idle =
      match x.check (u.port p).lastCarno e c with
      | some code => u.badCar p t x c (.cycle j e) code
      | none => (if u.shutTen t then u.discard p 1 else act u t e).tookCar p c.carno.toNat := by
  refine (if_neg (not_fenced hopen)).trans ?_
  have hbr : u.hearBrake t x c = u := if_neg fun h => h.1 hb
  simp only [hr, hbr, hx, hp] <;> cases x.check (u.port p).lastCarno e c <;> rfl

end

/-- A run is its membership's. -/
theorem tt_of_runOf {s : State} {p t : Nat} {x : Timetable} (h : s.runOf p = some (t, x)) : (s.ten t).tt = some x := by
  have hm : s.membOf p = some (t, x) := by
    unfold State.runOf at h
    split at h
    · exact (Option.filter_eq_some_iff.1 h).1
    · exact (Option.filter_eq_some_iff.1 h).1
    · cases h
  simp only [State.membOf, Option.bind_eq_bind, Option.bind_eq_some_iff, Option.pure_def, Option.some.injEq, Prod.mk.injEq] at hm
  obtain ⟨_, -, _, h2, rfl, rfl⟩ := hm
  exact h2

/-! ### FREE buffers (R265) -/

section
variable {s : State} {p : Nat} {c : Carriage}

/-- R265: no buffer of the channel is left. -/
def Port.fullFor (x : Port) (vc : Bool) : Bool := if vc then decide (128 ≤ x.vc1.length) else decide (128 ≤ x.vc0.length)

theorem takeFree_full (h : (s.port p).fullFor c.vc = true) : s.takeFree p c = s.discard p 1 := if_pos h

theorem takeFree_buffered (h : (s.port p).fullFor c.vc = false) (hn : msgsOf c.vc 58 (c.payload.take c.len.toNat) ≠ []) :
    s.takeFree p c = s.modPort p fun x =>
      if c.vc then { x with vc1 := x.vc1 ++ [msgsOf c.vc 58 (c.payload.take c.len.toNat)] }
      else { x with vc0 := x.vc0 ++ [msgsOf c.vc 58 (c.payload.take c.len.toNat)] } := by
  have he : (msgsOf c.vc 58 (c.payload.take c.len.toNat)).isEmpty = false := by simpa using hn
  refine (if_neg fun hf => Bool.false_ne_true (h.symm.trans hf)).trans ?_
  simp only [he, Bool.false_eq_true, if_false]

end

/-! ### The obligation -/

/-- Settles O54: every row is `arrive`, which counts the carriage and then takes it by the fence, the run and the check of its entry. -/
theorem carriagesArrive : Obligations.CarriagesArrive := by
  unfold Obligations.CarriagesArrive
  refine ⟨fun i p c idle act s hr ha hp hc hs hj => ?_, fun p c s hp => ?_, fun p c s hp => ?_, fun p n fec s hp hs => ?_,
    fun p n ten s x hp hr he hseen hpass => ?_, fun p c s hst hcls hty => ?_⟩
  · have hexec : exec i s = .next ((s.linkFields p c).taken p c act idle) := (exec_carriage hr ha hs).trans (arrive_taken hp hc hs hj)
    intro u took
    have hopen : ∀ {b}, bitOf s.fence.toNat p = b → bitOf u.fence.toNat p = b := fun h => by rw [s.linkFields_fence]; exact h
    refine ⟨fun hb hf => ?_, fun ho hno => ?_, fun ten x j e ho hrun hbr hpl hsh => ?_⟩
    · exact hexec.trans (congrArg _ (taken_fenced (hopen hb) hf))
    · exact hexec.trans (congrArg _ (taken_idle (ho.imp_left hopen) ((s.linkFields_runOf p c).trans hno)))
    · have hten : u.ten ten = s.ten ten := by rw [State.ten, s.linkFields_tens]; rfl
      have hcyc := taken_cycle (act := act) (idle := idle) (ho.imp_left hopen) ((s.linkFields_runOf p c).trans hrun)
        ((congrArg Tenancy.tt hten).trans (tt_of_runOf hrun)) hbr ((congrArg (·.plan x p c.carno.toNat) hten).trans hpl)
      rw [s.linkFields_shutTen, hsh] at hcyc
      refine ⟨fun hck => ?_, fun code hck => ?_⟩
      · rw [show (s.linkFields p c).port p = u.port p from rfl, hck] at hcyc
        exact hexec.trans (congrArg _ hcyc)
      · rw [show (s.linkFields p c).port p = u.port p from rfl, hck] at hcyc
        exact hexec.trans (congrArg _ hcyc)
  · intro x y
    have hy : y = (s.port p).linkFields c s.tick := State.port_linkFields c hp
    obtain ⟨h1, -⟩ := (s.port p).startRx_kept c.carno.toNat
    rw [hy]
    exact ⟨rfl, rfl, rfl, rfl, mem_insertNew.2 (.inl rfl), h1⟩
  · intro ms x y
    refine ⟨fun hv hl hn => ?_, fun hv hl hn => ?_, fun hv hl => ?_, fun hv hl => ?_⟩
    · have hfull : (s.port p).fullFor c.vc = false := by simpa [Port.fullFor, hv] using hl
      rw [show y = _ from congrArg (·.port p) (takeFree_buffered hfull hn), State.port_modPort s p _ hp, if_neg (by simp [hv])]
    · have hfull : (s.port p).fullFor c.vc = false := by simpa [Port.fullFor, hv] using hl
      rw [show y = _ from congrArg (·.port p) (takeFree_buffered hfull hn), State.port_modPort s p _ hp, if_pos hv]
    · have hfull : (s.port p).fullFor c.vc = true := by simpa [Port.fullFor, hv] using hl
      exact (congrArg (·.port p) (takeFree_full hfull)).trans (State.port_modPort s p _ hp)
    · have hfull : (s.port p).fullFor c.vc = true := by simpa [Port.fullFor, hv] using hl
      exact (congrArg (·.port p) (takeFree_full hfull)).trans (State.port_modPort s p _ hp)
  · refine if_neg ?_
    rintro (h | h)
    · exact Nat.not_lt.2 h hp
    · rcases hs with h' | h' <;> simp [h'] at h
  · have hover : s.overdue p n = true := by simp only [State.overdue, hr, Option.any_some, he, hseen]; rfl
    have hcond : (decide (p < 16) && s.overdue p n && n + 48 == n + Config.linkMax && s.mayPass (n + 48)) = true := by
      rw [hover, hpass, decide_eq_true hp]
      simp [Config.linkMax]
    intro u counted
    refine ⟨fun j e hpl => ?_, fun j e hpl => ?_⟩
    · change execCarriageTimeout p n (n + 48) s = _
      simp only [execCarriageTimeout, hr, hpl]
      exact when_next.2 ⟨hcond, rfl⟩
    · change execCarriageTimeout p n (n + 48) s = _
      simp only [execCarriageTimeout, hr, hpl]
      exact when_next.2 ⟨hcond, rfl⟩
  · exact if_pos ⟨hst, hcls, hty⟩

end Sys2Proof.Machine
end

section
/-! A carriage read back from its header words, its message and its lanes (R243–R245). -/

namespace Sys2Proof.Machine

/-! ### The header (R245) -/

theorem b2n_beq (b : Bool) : (b2n b == 1) = b := by cases b <;> rfl

/-- A field of a word is the number that stands there. -/
theorem ofNat_bitsOf_field {n : Nat} (x : BitVec n) {w lo : Nat} (h : bitsOf w lo n = x.toNat) : BitVec.ofNat n (bitsOf w lo n) = x := by
  rw [h, BitVec.ofNat_toNat, BitVec.setWidth_eq]

theorem bitOf_field {b : Bool} {w lo : Nat} (h : bitsOf w lo 1 = b2n b) : bitOf w lo = b := by rw [bitOf, h, b2n_beq]

/-- R245: a carriage's header is read back from its words. -/
theorem headerOf_carWords (c : Carriage) (h : c.fec = 0) : headerOf (carWords c) = { c with payload := [] } := by
  obtain ⟨cls, vlate, cstart, cend, srank, drank, dhitch, sport, carno, stamp, len, offset, tag, entry, brkt, cret0, cret1, rotm, rotp, rotv,
    jreqp, jreqv, ctype, vc, payload, fec⟩ := c
  obtain rfl : fec = 0 := h
  have hb := b2n_le
  have h0 := cls.isLt
  have h1 := hb vlate
  have h2 := hb cstart
  have h3 := hb cend
  have h4 := srank.isLt
  have h5 := drank.isLt
  have h6 := dhitch.isLt
  have h7 := sport.isLt
  have h8 := len.isLt
  have h9 := offset.isLt
  have h10 := tag.isLt
  have h11 := entry.isLt
  have h12 := cret0.isLt
  have h13 := cret1.isLt
  have h14 := rotm.isLt
  have h15 := rotp.isLt
  have h16 := hb rotv
  have h17 := jreqp.isLt
  have h18 := hb jreqv
  have h19 := ctype.isLt
  have h20 := hb vc
  have h21 := carno.isLt
  have h22 := stamp.isLt
  have h23 := brkt.isLt
  simp only [headerOf, carWords, List.getD_cons_zero, List.getD_cons_succ, Carriage.mk.injEq, and_true]
  refine ⟨ofNat_bitsOf_field _ ?_, bitOf_field ?_, bitOf_field ?_, bitOf_field ?_, ofNat_bitsOf_field _ ?_, ofNat_bitsOf_field _ ?_,
    ofNat_bitsOf_field _ ?_, ofNat_bitsOf_field _ ?_, ofNat_bitsOf_field _ ?_, ofNat_bitsOf_field _ ?_, ofNat_bitsOf_field _ ?_,
    ofNat_bitsOf_field _ ?_, ofNat_bitsOf_field _ ?_, ofNat_bitsOf_field _ ?_, ofNat_bitsOf_field _ ?_, ofNat_bitsOf_field _ ?_,
    ofNat_bitsOf_field _ ?_, ofNat_bitsOf_field _ ?_, ofNat_bitsOf_field _ ?_, bitOf_field ?_, ofNat_bitsOf_field _ ?_, bitOf_field ?_,
    ofNat_bitsOf_field _ ?_, bitOf_field ?_⟩
  all_goals
    unfold bitsOf
    omega

theorem carWords_lt (c : Carriage) : ∀ w ∈ carWords c, w < 2 ^ 64 := by
  have hb := b2n_le
  have h0 := c.cls.isLt
  have h1 := hb c.vlate
  have h2 := hb c.cstart
  have h3 := hb c.cend
  have h4 := c.srank.isLt
  have h5 := c.drank.isLt
  have h6 := c.dhitch.isLt
  have h7 := c.sport.isLt
  have h8 := c.len.isLt
  have h9 := c.offset.isLt
  have h10 := c.tag.isLt
  have h11 := c.entry.isLt
  have h12 := c.cret0.isLt
  have h13 := c.cret1.isLt
  have h14 := c.rotm.isLt
  have h15 := c.rotp.isLt
  have h16 := hb c.rotv
  have h17 := c.jreqp.isLt
  have h18 := hb c.jreqv
  have h19 := c.ctype.isLt
  have h20 := hb c.vc
  simp only [carWords, List.forall_mem_cons]
  refine ⟨by omega, c.carno.isLt, c.stamp.isLt, by omega, by omega, c.brkt.isLt, by omega, by omega, by simp⟩

/-! ### Bytes and bits of a number -/

/-- The bytes of a number that begins with some bytes are those bytes. -/
theorem toLe_leNat_add (bs : List Byte) (x : Nat) : toLe bs.length (leNat bs + x * 256 ^ bs.length) = bs := by
  induction bs with
  | nil => rfl
  | cons b bs ih =>
    have hb := b.isLt
    have hval : leNat (b :: bs) + x * 256 ^ (b :: bs).length = b.toNat + 256 * (leNat bs + x * 256 ^ bs.length) := by
      rw [leNat, List.length_cons, Nat.pow_succ, ← Nat.mul_assoc]
      omega
    have hdiv : (b.toNat + 256 * (leNat bs + x * 256 ^ bs.length)) / 256 = leNat bs + x * 256 ^ bs.length := by omega
    have hmod : BitVec.ofNat 8 (b.toNat + 256 * (leNat bs + x * 256 ^ bs.length)) = b :=
      BitVec.eq_of_toNat_eq (by rw [BitVec.toNat_ofNat]; omega)
    rw [hval, List.length_cons, toLe, hdiv, ih, hmod]

theorem toLe_leNat_mul {bs : List Byte} {n : Nat} (x : Nat) (h : bs.length = n) : toLe n (leNat bs + x * 2 ^ (8 * n)) = bs := by
  subst h
  rw [Nat.pow_mul]
  exact toLe_leNat_add bs x

/-- Whole bytes of a number, as its bits. -/
theorem bitsOf_toLe {n off k : Nat} (m : Nat) (h : off + k ≤ n) : bitsOf m (8 * off) (8 * k) = leAt (toLe n m) off k := by
  rw [leAt_toLe m h, bitsOf, Nat.pow_mul, Nat.pow_mul]

theorem toLe_mod {n k : Nat} (v : Nat) (h : n ≤ k) : toLe n (v % 256 ^ k) = toLe n v := by
  induction n generalizing v k with
  | zero => rfl
  | succ n ih =>
    obtain ⟨k, rfl⟩ : ∃ j, k = j + 1 := ⟨k - 1, by omega⟩
    have hdiv : v % 256 ^ (k + 1) / 256 = v / 256 % 256 ^ k := by rw [Nat.pow_succ', Nat.mod_mul_right_div_self]
    have hmod : BitVec.ofNat 8 (v % 256 ^ (k + 1)) = BitVec.ofNat 8 v := by
      refine BitVec.eq_of_toNat_eq ?_
      rw [BitVec.toNat_ofNat, BitVec.toNat_ofNat, Nat.pow_succ']
      exact Nat.mod_mul_right_mod v 256 _
    rw [toLe, toLe, hdiv, ih _ (by omega), hmod]

theorem toLe_bitsOf {n k : Nat} (m off : Nat) (h : n ≤ k) : toLe n (bitsOf m (8 * off) (8 * k)) = toLe n (m / 256 ^ off) := by
  rw [bitsOf, Nat.pow_mul, Nat.pow_mul]
  exact toLe_mod _ h

/-- Word w of some 64-bit words laid out in bytes. -/
theorem leAt_words {ws : List Nat} {w : Nat} (rest : List Byte) (hw : w < ws.length) (h : ∀ a ∈ ws, a < 2 ^ 64) :
    leAt (ws.flatMap (toLe 8) ++ rest) (8 * w) 8 = ws.getD w 0 := by
  induction ws generalizing w with
  | nil => exact absurd hw (Nat.not_lt_zero w)
  | cons a ws ih =>
    rw [List.flatMap_cons, List.append_assoc, leAt]
    cases w with
    | zero =>
      rw [Nat.mul_zero, List.drop_zero, List.take_left' (toLe_length 8 a), leNat_toLe, List.getD_cons_zero]
      exact Nat.mod_eq_of_lt (h a List.mem_cons_self)
    | succ w =>
      rw [Nat.mul_succ, Nat.add_comm, ← List.drop_drop, List.drop_left' (toLe_length 8 a), List.getD_cons_succ]
      exact ih (Nat.lt_of_succ_lt_succ hw) fun b hb => h b (List.mem_cons_of_mem a hb)

/-! ### The message (R244) -/

section
variable {c : Carriage} (hl : c.payload.length = c.len.toNat) (hm : c.len.toNat ≤ 1856)
include hl hm

theorem carBody_length : (carBody c).length = 1920 := by
  have hw : ((carWords c).flatMap (toLe 8)).length = 64 := by simp [carWords, toLe_length]
  rw [carBody, List.length_append, List.length_append, hw, List.length_take, List.length_replicate, payloadMax]
  omega

theorem carBody_eq : carBody c = (carWords c).flatMap (toLe 8) ++ (c.payload ++ List.replicate (payloadMax - c.payload.length) 0) := by
  rw [carBody, List.append_assoc, List.take_of_length_le (by rw [hl]; exact hm)]

/-- R244: the first 1,920 bytes of a message are the carriage's header and payload. -/
theorem toLe_carMessage : toLe 1920 (carMessage c) = carBody c := by
  unfold carMessage messageOf
  rw [show 15360 = 8 * 1920 from rfl]
  exact toLe_leNat_mul (crc32c (carBody c)) (carBody_length hl hm)

theorem words_carMessage : (List.range 8).map (fun w => bitsOf (carMessage c) (64 * w) 64) = carWords c := by
  refine List.ext_getElem (by simp [carWords]) fun w hw hw' => ?_
  have hw8 : w < 8 := by simpa using hw
  rw [List.getElem_map, List.getElem_range, show 64 * w = 8 * (8 * w) by omega, show 64 = 8 * 8 from rfl,
    bitsOf_toLe (n := 1920) _ (by omega), toLe_carMessage hl hm, carBody_eq hl hm, leAt_words _ hw' (carWords_lt c),
    getD_of_lt _ _ hw']

theorem payload_carMessage : toLe c.len.toNat (bitsOf (carMessage c) 512 (8 * payloadMax)) = c.payload := by
  have hw : ((carWords c).flatMap (toLe 8)).length = 64 := by simp [carWords, toLe_length]
  rw [show 512 = 8 * 64 from rfl, toLe_bitsOf (k := payloadMax) _ _ hm, ← toLe_take (n := 1920 - 64) _ (by omega), ← toLe_drop,
    toLe_carMessage hl hm,
    carBody_eq hl hm, List.drop_left' hw, List.take_left' hl]

end

theorem crcBit_lt {c : Nat} (h : c < 2 ^ 32) : crcBit c < 2 ^ 32 := by
  unfold crcBit
  split
  · exact Nat.xor_lt_two_pow (by omega) (by omega)
  · omega

theorem foldl_lt {α : Type} {f : Nat → α → Nat} {n : Nat} (h : ∀ x a, x < n → f x a < n) (l : List α) {x : Nat} (hx : x < n) :
    l.foldl f x < n :=
  List.foldlRecOn (motive := fun y => y < n) l f hx fun y hy a _ => h y a hy

theorem crc32c_lt (bs : List Byte) : crc32c bs < 2 ^ 32 := by
  refine Nat.xor_lt_two_pow (foldl_lt (fun x b hx => foldl_lt (fun y _ hy => crcBit_lt hy) _ (Nat.xor_lt_two_pow hx ?_)) bs (by omega))
    (by omega)
  exact Nat.lt_trans b.isLt (by omega)

theorem bitsOf_add_mul {a b k n : Nat} (ha : a < 2 ^ k) (hb : b < 2 ^ n) : bitsOf (a + b * 2 ^ k) k n = b := by
  rw [bitsOf, Nat.add_mul_div_right _ _ (Nat.two_pow_pos k), Nat.div_eq_of_lt ha, Nat.zero_add, Nat.mod_eq_of_lt hb]

theorem add_mul_lt {a b k n : Nat} (ha : a < 2 ^ k) (hb : b < 2 ^ n) : a + b * 2 ^ k < 2 ^ (k + n) := by
  rw [Nat.pow_add, Nat.mul_comm (2 ^ k)]
  calc a + b * 2 ^ k < (b + 1) * 2 ^ k := by rw [Nat.succ_mul]; omega
    _ ≤ 2 ^ n * 2 ^ k := Nat.mul_le_mul_right _ hb

/-! ### Digits of a number, and numbers packed from digits -/

/-- The digits of b bits of a number, each in its place, add up to those bits of it. -/
theorem sum_digits (b m lo n : Nat) :
    ((List.range n).map fun k => bitsOf m (lo + b * k) b * 2 ^ (lo + b * k)).sum = bitsOf m lo (b * n) * 2 ^ lo := by
  induction n with
  | zero => simp [bitsOf, Nat.mod_one]
  | succ n ih =>
    rw [List.range_succ, List.map_append, List.sum_append, ih, List.map_singleton, List.sum_singleton]
    simp only [bitsOf]
    rw [Nat.mul_succ, Nat.pow_add 2 (b * n), Nat.mod_mul, Nat.pow_add 2 lo, ← Nat.div_div_eq_div_mul, Nat.add_mul]
    ac_rfl

/-- Digits put above a number below 2 ^ lo, each 10 bits above the one before (R243). -/
def packed (r lo : Nat) (d : Nat → Nat) (n : Nat) : Nat := (List.range n).foldl (fun a j => a + d j * 2 ^ (lo + 10 * j)) r

theorem packed_succ (r lo : Nat) (d : Nat → Nat) (n : Nat) : packed r lo d (n + 1) = packed r lo d n + d n * 2 ^ (lo + 10 * n) := by
  rw [packed, List.range_succ, List.foldl_append]
  rfl

section
variable {r lo n : Nat} {d : Nat → Nat} (hr : r < 2 ^ lo)
include hr

theorem packed_lt (hd : ∀ j, j < n → d j < 2 ^ 10) : packed r lo d n < 2 ^ (lo + 10 * n) := by
  induction n with
  | zero => exact hr
  | succ n ih =>
    rw [packed_succ]
    exact add_mul_lt (ih fun j hj => hd j (by omega)) (hd n (by omega))

theorem bitsOf_packed_low (hd : ∀ j, j < n → d j < 2 ^ 10) : bitsOf (packed r lo d n) 0 lo = r := by
  induction n with
  | zero => rw [bitsOf, Nat.pow_zero, Nat.div_one]; exact Nat.mod_eq_of_lt hr
  | succ n ih =>
    have h := ih fun j hj => hd j (by omega)
    rw [bitsOf, Nat.pow_zero, Nat.div_one] at h ⊢
    rw [packed_succ, Nat.pow_add, Nat.mul_left_comm, Nat.add_mul_mod_self_left, h]

theorem bitsOf_packed {j : Nat} (hj : j < n) (hd : ∀ j, j < n → d j < 2 ^ 10) : bitsOf (packed r lo d n) (lo + 10 * j) 10 = d j := by
  induction n with
  | zero => exact absurd hj (Nat.not_lt_zero j)
  | succ n ih =>
    have hd' : ∀ j, j < n → d j < 2 ^ 10 := fun j hj => hd j (by omega)
    rw [packed_succ]
    by_cases h : j = n
    · subst h
      exact bitsOf_add_mul (packed_lt hr hd') (hd j hj)
    · have hlt : j < n := by omega
      obtain ⟨e, rfl⟩ : ∃ e, n = j + 1 + e := ⟨n - (j + 1), by omega⟩
      have hsplit : d (j + 1 + e) * 2 ^ (lo + 10 * (j + 1 + e)) = 2 ^ (lo + 10 * j) * (2 ^ 10 * (d (j + 1 + e) * 2 ^ (10 * e))) := by
        rw [show lo + 10 * (j + 1 + e) = lo + 10 * j + (10 + 10 * e) by omega, Nat.pow_add, Nat.pow_add, Nat.pow_add 2 10,
          Nat.mul_left_comm (d _), Nat.mul_left_comm (d _)]
      rw [← ih hlt hd', bitsOf, bitsOf, hsplit, Nat.add_mul_div_left _ _ (Nat.two_pow_pos _), Nat.add_mul_mod_self_left]

end

theorem crcGood_message {body : List Byte} {crc : Nat} (hb : leNat body < 2 ^ 15360) (hc : crc < 2 ^ 32) :
    bitsOf (messageOf body crc) 15360 32 = crc := by
  unfold messageOf
  exact bitsOf_add_mul hb hc

theorem messageOf_lt {body : List Byte} {crc : Nat} (hb : leNat body < 2 ^ 15360) (hc : crc < 2 ^ 32) :
    messageOf body crc < 2 ^ 15392 := by
  unfold messageOf
  rw [show 15392 = 15360 + 32 from rfl]
  exact add_mul_lt hb hc

theorem leNat_lt_of_length {bs : List Byte} {m n : Nat} (h : bs.length = n) (hm : m = 8 * n) : leNat bs < 2 ^ m := by
  subst h hm
  rw [Nat.pow_mul]
  exact leNat_lt bs

/-- R244, R245: a carriage is read back from its message. -/
theorem carriageOf_carMessage {c : Carriage} (hl : c.payload.length = c.len.toNat) (hm : c.len.toNat ≤ 1856) (hf : c.fec = 0) :
    carriageOf (carMessage c) = c := by
  unfold carriageOf
  dsimp only
  rw [words_carMessage hl hm, headerOf_carWords c hf]
  dsimp only
  rw [payload_carMessage hl hm]

theorem mapIdx_map_range {α β : Type} (f : Nat → α → β) (g : Nat → α) (n : Nat) :
    ((List.range n).map g).mapIdx f = (List.range n).map fun i => f i (g i) :=
  List.ext_getElem (by simp) fun i _ _ => by simp

/-- R243: a message is read back from its three codewords. -/
theorem joinMessage_codewords {m : Nat} (h : m < 2 ^ (5140 * 3)) : joinMessage (codewords m) = m := by
  have hword : ∀ c, ((rsEncode ((List.range rsMsgLen).map (messageSymbol m c))).take rsMsgLen) = (List.range rsMsgLen).map (messageSymbol m c) :=
    fun c => List.take_left' (by simp)
  have hsum : ∀ c, ((List.range rsMsgLen).map fun k => messageSymbol m c k * 2 ^ (5140 * c + 10 * k)).sum =
      bitsOf m (0 + 5140 * c) 5140 * 2 ^ (0 + 5140 * c) := fun c => by
    rw [Nat.zero_add]
    exact sum_digits 10 m (5140 * c) 514
  rw [joinMessage, codewords, mapIdx_map_range]
  simp only [hword, mapIdx_map_range, hsum]
  rw [sum_digits, bitsOf, Nat.pow_zero, Nat.div_one, Nat.mul_one, Nat.mod_eq_of_lt h]

/-! ### The lanes (R243) -/

/-- R243: a lane is its marker with its symbols put above it. -/
theorem laneBits_eq (cws : List (List Nat)) (l n : Nat) :
    laneBits cws l n = packed ((l + n) % 16) 4 (fun j => symbolAt cws (16 * j + l)) 102 := rfl

theorem codeword_mem {cws : List (List Nat)} (hlen : cws.length = 3) {c : Nat} (hc : c < 3) : cws.getD c [] ∈ cws := by
  rw [getD_of_lt _ _ (by omega)]
  exact List.getElem_mem _

section
variable {cws : List (List Nat)} (hlen : cws.length = 3) (hw : ∀ w ∈ cws, w.length = 544 ∧ ∀ a ∈ w, a < 1024)
include hlen hw

theorem symbolAt_lt {z : Nat} (hz : z < 1632) : symbolAt cws z < 2 ^ 10 := by
  obtain ⟨hl, ha⟩ := hw _ (codeword_mem hlen (Nat.mod_lt z (by omega : 0 < 3)))
  rw [symbolAt, getD_of_lt _ _ (by omega)]
  exact ha _ (List.getElem_mem _)

theorem laneSymbol_laneBits {l j : Nat} (n : Nat) (hl : l < 16) (hj : j < 102) : laneSymbol (laneBits cws l n) j = symbolAt cws (16 * j + l) := by
  rw [laneSymbol, laneBits_eq]
  exact bitsOf_packed (Nat.mod_lt _ (by omega)) hj fun i hi => symbolAt_lt hlen hw (by omega)

/-- R243: a codeword is read back from the lanes. -/
theorem codewordOf_laneBits {c : Nat} (n : Nat) (hc : c < 3) : codewordOf ((List.range 16).map fun l => laneBits cws l n) c = cws.getD c [] := by
  obtain ⟨hl, -⟩ := hw _ (codeword_mem hlen hc)
  refine List.ext_getElem (by rw [hl]; simp [codewordOf, rsLen]) fun k _ hk => ?_
  have hz : (3 * k + c) % 16 < 16 := Nat.mod_lt _ (by omega)
  simp only [codewordOf, List.getElem_map, List.getElem_range]
  rw [getD_of_lt _ _ (by simpa using hz), List.getElem_map, List.getElem_range, laneSymbol_laneBits hlen hw n hz (by omega),
    Nat.div_add_mod, symbolAt, show (3 * k + c) % 3 = c by omega, show (3 * k + c) / 3 = k by omega, getD_of_lt _ _ hk]

/-- R243: each lane begins with its marker and is 1,024 bits long. -/
theorem laneBits_marker {l : Nat} (n : Nat) (hl : l < 16) : bitsOf (laneBits cws l n) 0 4 = (l + n) % 16 ∧ laneBits cws l n < 2 ^ 1024 := by
  have hr : (l + n) % 16 < 2 ^ 4 := Nat.mod_lt _ (by omega)
  have hd : ∀ j, j < 102 → symbolAt cws (16 * j + l) < 2 ^ 10 := fun j hj => symbolAt_lt hlen hw (by omega)
  rw [laneBits_eq, show 1024 = 4 + 10 * 102 from rfl]
  exact ⟨bitsOf_packed_low hr hd, packed_lt hr hd⟩

end

end Sys2Proof.Machine
end

section
/-! What the state's operations keep: the sizes of the block's tables, and the canonical form of its memories and register files with the
highest VCORE code. -/

namespace Sys2Proof.Machine

/-- How many tenancies, rings, ports and clusters a state holds. -/
structure Sizes where
  tens : Nat
  rings : Nat
  ports : Nat
  clusters : Nat

def State.sizes (s : State) : Sizes := ⟨s.tens.length, s.rings.length, s.ports.length, s.clusters.length⟩

/-- Every memory and register file in canonical form, and VCORE in range. -/
def State.Canonical (s : State) : Prop :=
  Memory.wf s.mem.pool = true ∧ (∀ c ∈ s.clusters, Memory.wf c.sp = true) ∧ (∀ h ∈ s.cohorts, h.Canonical)
    ∧ (∀ im ∈ s.saves, ∀ h ∈ im.cohorts, h.Canonical) ∧ smOk 0 0 s.pwr.temps = true ∧ s.pwr.vid ≤ 48

/-- What a state is held against: the sizes of its tables, and, where it names them, the copies that stood before. -/
structure Base where
  sizes : Sizes
  copies : Option (List Copy) := none

/-- No copy stands in m that did not stand in l, and one found by its number is of the same task as before. -/
def CopiesFrom (l m : List Copy) : Prop :=
  ∀ i c, m.find? (·.id == i) = some c → ∃ c0, l.find? (·.id == i) = some c0 ∧ c0.task = c.task

/-- The tables have their sizes, the copies come from those named; and, where P holds, everything is canonical. -/
def State.Kept (P : Prop) (z : Base) (s : State) : Prop :=
  s.sizes = z.sizes ∧ (∀ l ∈ z.copies, CopiesFrom l s.copies) ∧ (P → s.Canonical)

theorem State.shape_iff_kept (s : State) : s.Shape ↔ s.Kept True ⟨⟨8, 32, 16, 8⟩, none⟩ := by
  simp only [State.Shape, State.Kept, State.sizes, State.Canonical, Sizes.mk.injEq, Option.not_mem_none, false_implies, implies_true, true_and]
  constructor
  · rintro ⟨hm, ht, hr, hp, hc, h⟩
    exact ⟨⟨ht, hr, hp, hc⟩, fun _ => ⟨hm, h⟩⟩
  · rintro ⟨⟨ht, hr, hp, hc⟩, h⟩
    obtain ⟨hm, h⟩ := h trivial
    exact ⟨hm, ht, hr, hp, hc, h⟩

/-- The sizes of a state alone. -/
def State.base (s : State) : Base := ⟨s.sizes, none⟩

theorem State.kept_base (s : State) : s.Kept False s.base := ⟨rfl, fun _ h => absurd h (Option.not_mem_none _), False.elim⟩

/-- A state's copies as they stand. -/
theorem State.kept_copies (s : State) : s.Kept False ⟨s.sizes, some s.copies⟩ :=
  ⟨rfl, fun _ h => Option.mem_some.1 h ▸ fun _ c hc => ⟨c, hc, rfl⟩, False.elim⟩

/-! ### The copies -/

theorem CopiesFrom.filter {l m : List Copy} (h : CopiesFrom l m) (j : Nat) : CopiesFrom l (m.filter (·.id != j)) := by
  intro i c hc
  rw [List.find?_filter] at hc
  have hi : i ≠ j := by
    have hp := List.find?_some hc
    simp only [bne_iff_ne, beq_iff_eq, decide_eq_true_eq] at hp
    exact hp.2 ▸ hp.1
  refine h i c (Eq.trans (congrArg (List.find? · m) (funext fun x => ?_)) hc)
  by_cases hx : x.id = i <;> simp [hx, hi]

theorem CopiesFrom.modWhere {l m : List Copy} (h : CopiesFrom l m) {p : Copy → Bool} {f : Copy → Copy}
    (hf : ∀ c, (f c).id = c.id ∧ (f c).task = c.task) : CopiesFrom l (modWhere p f m) := by
  intro i c hc
  have hid : ∀ x : Copy, ((if p x then f x else x).id == i) = (x.id == i) := fun x => by
    split
    · rw [(hf x).1]
    · rfl
  rw [Machine.modWhere, List.find?_map, Option.map_eq_some_iff] at hc
  obtain ⟨x, hx, rfl⟩ := hc
  obtain ⟨c0, h0, ht⟩ := h i x (Eq.trans (congrArg (List.find? · m) (funext fun x => (hid x).symm)) hx)
  refine ⟨c0, h0, ht.trans ?_⟩
  split
  · exact (hf x).2.symm
  · rfl

namespace State.Kept

variable {P : Prop} {z : Base} {s : State}

theorem tens_length (h : s.Kept P z) : s.tens.length = z.sizes.tens := congrArg Sizes.tens h.1
theorem ports_length (h : s.Kept P z) : s.ports.length = z.sizes.ports := congrArg Sizes.ports h.1
theorem clusters_length (h : s.Kept P z) : s.clusters.length = z.sizes.clusters := congrArg Sizes.clusters h.1

/-! ### Changes of one part of the state -/

/-- What `Kept` does not speak of may change. -/
theorem with_rest (h : s.Kept P z) {st : BlockSt} {cause : BitVec 4} {powered resetLow : Bool} {tick free nextTask nextOrder nextCopy : Nat}
    {overlaps : List Overlap} {tasks : List Task} {orders : List Order} {adds : List ArenaAdd} {far : List FarRead} {orphans : List Orphan}
    {xlt : Xlt} {rc : RowCache} {ev : Events} {fw : Firmware} {quiesce : Quiesce} {setNow : List SetBit} :
    ({ s with
      st := st, cause := cause, powered := powered, resetLow := resetLow, tick := tick, free := free, nextTask := nextTask
      nextOrder := nextOrder, nextCopy := nextCopy, overlaps := overlaps, tasks := tasks, orders := orders, adds := adds, far := far
      orphans := orphans, xlt := xlt, rc := rc, ev := ev, fw := fw, quiesce := quiesce, setNow := setNow } : State).Kept P z := h

theorem of_ite {c : Prop} [Decidable c] {t : State} (h : s.Kept P z) (ht : t.Kept P z) : (if c then s else t).Kept P z := by
  split
  · exact h
  · exact ht

theorem with_copies (h : s.Kept P z) {m : List Copy} (hm : ∀ l, CopiesFrom l s.copies → CopiesFrom l m) :
    ({ s with copies := m } : State).Kept P z :=
  ⟨h.1, fun l hl => hm l (h.2.1 l hl), h.2.2⟩

/-- Where they are not held to those before, the copies may be any. -/
theorem with_new_copies (h : s.Kept P z) (hz : z.copies = none) {m : List Copy} {n : Nat} :
    ({ s with copies := m, nextCopy := n } : State).Kept P z :=
  ⟨h.1, hz ▸ fun _ hl => absurd hl (Option.not_mem_none _), h.2.2⟩

theorem with_mem (h : s.Kept P z) {m : MemPort} (hm : (P → Memory.wf s.mem.pool = true) → P → Memory.wf m.pool = true) :
    ({ s with mem := m } : State).Kept P z :=
  ⟨h.1, h.2.1, fun p => ⟨hm (fun p => (h.2.2 p).1) p, (h.2.2 p).2⟩⟩

theorem with_tens (h : s.Kept P z) {l : List Tenancy} (hl : l.length = s.tens.length) : ({ s with tens := l } : State).Kept P z :=
  ⟨h.1 ▸ by simp only [State.sizes, hl], h.2.1, h.2.2⟩

theorem with_rings (h : s.Kept P z) {l : List Ring} (hl : l.length = s.rings.length) : ({ s with rings := l } : State).Kept P z :=
  ⟨h.1 ▸ by simp only [State.sizes, hl], h.2.1, h.2.2⟩

theorem with_ports (h : s.Kept P z) {l : List Port} (hl : l.length = s.ports.length) : ({ s with ports := l } : State).Kept P z :=
  ⟨h.1 ▸ by simp only [State.sizes, hl], h.2.1, h.2.2⟩

theorem with_clusters (h : s.Kept P z) {l : List Cluster} (hl : l.length = s.clusters.length)
    (hw : (∀ c ∈ s.clusters, Memory.wf c.sp = true) → ∀ c ∈ l, Memory.wf c.sp = true) : ({ s with clusters := l } : State).Kept P z :=
  ⟨h.1 ▸ by simp only [State.sizes, hl], h.2.1, fun p => by
    obtain ⟨hm, hc, hrest⟩ := h.2.2 p
    exact ⟨hm, hw hc, hrest⟩⟩

theorem with_cohorts (h : s.Kept P z) {l : List Cohort} (hl : P → (∀ c ∈ s.cohorts, c.Canonical) → ∀ c ∈ l, c.Canonical) :
    ({ s with cohorts := l } : State).Kept P z :=
  ⟨h.1, h.2.1, fun p => by
    obtain ⟨hm, hc, hh, hrest⟩ := h.2.2 p
    exact ⟨hm, hc, hl p hh, hrest⟩⟩

theorem with_saves (h : s.Kept P z) {l : List SaveImage} (hl : P → (∀ im ∈ s.saves, ∀ c ∈ im.cohorts, c.Canonical) →
    ∀ im ∈ l, ∀ c ∈ im.cohorts, c.Canonical) : ({ s with saves := l } : State).Kept P z :=
  ⟨h.1, h.2.1, fun p => by
    obtain ⟨hm, hc, hh, hs, hrest⟩ := h.2.2 p
    exact ⟨hm, hc, hh, hl p hs, hrest⟩⟩

theorem with_pwr (h : s.Kept P z) {w : Power} (ht : smOk 0 0 s.pwr.temps = true → smOk 0 0 w.temps = true)
    (hv : s.pwr.vid ≤ 48 → w.vid ≤ 48) : ({ s with pwr := w } : State).Kept P z :=
  ⟨h.1, h.2.1, fun p => by
    obtain ⟨hm, hc, hh, hs, ht', hv'⟩ := h.2.2 p
    exact ⟨hm, hc, hh, hs, ht ht', hv hv'⟩⟩

/-! ### An operation repeated -/

theorem foldl {α : Type} (h : s.Kept P z) {f : State → α → State} (hf : ∀ u a, u.Kept P z → (f u a).Kept P z) (l : List α) :
    (l.foldl f s).Kept P z :=
  List.foldlRecOn (motive := State.Kept P z) l f h fun u hu a _ => hf u a hu

/-! ### One element changed -/

theorem modTen (h : s.Kept P z) {t : Nat} {f : Tenancy → Tenancy} : (s.modTen t f).Kept P z := h.with_tens (modAt_length ..)
theorem modPort (h : s.Kept P z) {p : Nat} {f : Port → Port} : (s.modPort p f).Kept P z := h.with_ports (modAt_length ..)
theorem modRing (h : s.Kept P z) {r : Nat} {f : Ring → Ring} : (s.modRing r f).Kept P z := h.with_rings (modAt_length ..)
theorem modOrder (h : s.Kept P z) {i : Nat} {f : Order → Order} : (s.modOrder i f).Kept P z := h
theorem modHitch (h : s.Kept P z) {t n : Nat} {f : Hitch → Hitch} : (s.modHitch t n f).Kept P z := h.modTen
theorem modTable (h : s.Kept P z) {t n : Nat} {f : Table → Table} : (s.modTable t n f).Kept P z := h.modTen
theorem modSlot (h : s.Kept P z) {t n : Nat} {f : Slot → Slot} : (s.modSlot t n f).Kept P z := h.modTen
theorem modTt (h : s.Kept P z) {t : Nat} {f : Timetable → Timetable} : (s.modTt t f).Kept P z := h.modTen
theorem freeCart (h : s.Kept P z) {t n i : Nat} : (s.freeCart t n i).Kept P z := h.modTen
theorem useHitch (h : s.Kept P z) {t n k : Nat} : (s.useHitch t n k).Kept P z := h.modTen
theorem stopRing (h : s.Kept P z) {r n : Nat} : (s.stopRing r n).Kept P z := h.modRing

end State.Kept

/-- A member of a list with one element changed is a member, or the element changed. -/
theorem mem_modAt {α : Type} {l : List α} {n : Nat} {f : α → α} {a : α} (h : a ∈ modAt l n f) : a ∈ l ∨ ∃ b ∈ l, a = f b := by
  unfold modAt at h
  split at h
  · next b hb =>
    rcases List.mem_or_eq_of_mem_set h with h | h
    · exact .inl h
    · exact .inr ⟨b, List.mem_of_getElem? hb, h⟩
  · exact .inl h

theorem mem_modWhere {α : Type} {l : List α} {p : α → Bool} {f : α → α} {a : α} (h : a ∈ modWhere p f l) : a ∈ l ∨ ∃ b ∈ l, a = f b := by
  obtain ⟨b, hb, rfl⟩ := List.mem_map.1 h
  split
  · exact .inr ⟨b, hb, rfl⟩
  · exact .inl hb

namespace State.Kept

variable {P : Prop} {z : Base} {s : State}

/-- A cluster changed by what keeps its scratchpad canonical. -/
theorem modCluster (h : s.Kept P z) {c : Nat} {f : Cluster → Cluster}
    (hf : ∀ x, Memory.wf x.sp = true → Memory.wf (f x).sp = true := by exact fun _ h => h) : (s.modCluster c f).Kept P z :=
  h.with_clusters (modAt_length ..) fun hw x hx => by
    rcases mem_modAt hx with hx | ⟨y, hy, rfl⟩
    · exact hw x hx
    · exact hf y (hw y hy)

theorem mapClusters (h : s.Kept P z) {f : Cluster → Cluster}
    (hf : ∀ x, Memory.wf x.sp = true → Memory.wf (f x).sp = true := by exact fun _ h => h) :
    ({ s with clusters := s.clusters.map f } : State).Kept P z :=
  h.with_clusters (List.length_map ..) fun hw x hx => by
    obtain ⟨y, hy, rfl⟩ := List.mem_map.1 hx
    exact hf y (hw y hy)

theorem spWrite (h : s.Kept P z) {c a : Nat} {bs : List Byte} : (s.spWrite c a bs).Kept P z := h.modCluster fun _ hx => memPut_wf a hx

theorem modCohort (h : s.Kept P z) {t n : Nat} {f : Cohort → Cohort} (hf : P → ∀ c ∈ s.cohorts, c.Canonical → (f c).Canonical) :
    (s.modCohort t n f).Kept P z :=
  h.with_cohorts fun p hw x hx => by
    rcases mem_modWhere hx with hx | ⟨y, hy, rfl⟩
    · exact hw x hx
    · exact hf p y hy (hw y hy)

theorem mapCohorts (h : s.Kept P z) {f : Cohort → Cohort} (hf : ∀ c, c.Canonical → (f c).Canonical) :
    ({ s with cohorts := s.cohorts.map f } : State).Kept P z :=
  h.with_cohorts fun _ hw x hx => by
    obtain ⟨y, hy, rfl⟩ := List.mem_map.1 hx
    exact hf y (hw y hy)

theorem filterCohorts (h : s.Kept P z) {p : Cohort → Bool} : ({ s with cohorts := s.cohorts.filter p } : State).Kept P z :=
  h.with_cohorts fun _ hw x hx => hw x (List.mem_filter.1 hx).1

end State.Kept

/-! ### Cohorts and coaches -/

theorem Cohort.Canonical.with_coaches {h : Cohort} (hc : h.Canonical) {l : List Coach}
    (hl : (∀ k ∈ h.coaches, k.Canonical) → ∀ k ∈ l, k.Canonical) : ({ h with coaches := l } : Cohort).Canonical := by
  obtain ⟨hm, ha, hr, hk⟩ := hc
  exact ⟨hm, ha, hr, hl hk⟩

theorem Cohort.Canonical.modCoach {h : Cohort} (hc : h.Canonical) {n : Nat} {f : Coach → Coach}
    (hf : ∀ k ∈ h.coaches, k.Canonical → (f k).Canonical) : ({ h with coaches := modAt h.coaches n f } : Cohort).Canonical :=
  hc.with_coaches fun hk k hm => by
    rcases mem_modAt hm with hm | ⟨y, hy, rfl⟩
    · exact hk k hm
    · exact hf y hy (hk y hy)

theorem Cohort.Canonical.mapCoaches {h : Cohort} (hc : h.Canonical) {f : Coach → Coach} (hf : ∀ k, k.Canonical → (f k).Canonical) :
    ({ h with coaches := h.coaches.map f } : Cohort).Canonical :=
  hc.with_coaches fun hk k hm => by
    obtain ⟨y, hy, rfl⟩ := List.mem_map.1 hm
    exact hf y (hk y hy)

theorem Coach.Canonical.onCounter {k : Coach} (h : k.Canonical) (ac : Nat) (v : W32) : (k.onCounter ac v).Canonical := h

theorem Cohort.Canonical.addAc {h : Cohort} (hc : h.Canonical) (ac : Nat) (n : W32) : (h.addAc ac n).Canonical := by
  obtain ⟨hm, ha, hr, hk⟩ := hc.mapCoaches fun k hk => hk.onCounter ac (smGet 0 h.ac ac + n)
  exact ⟨hm, smSet_ok _ _ ha, hr, hk⟩

namespace State.Kept

variable {P : Prop} {z : Base} {s : State}

theorem cohort (h : s.Kept P z) (p : P) {c : Cohort} (hm : c ∈ s.cohorts) : c.Canonical := (h.2.2 p).2.2.1 c hm

theorem cohort? (h : s.Kept P z) (p : P) {a b : Nat} {c : Cohort} (hm : s.cohort? a b = some c) : c.Canonical :=
  h.cohort p (List.mem_of_find?_eq_some hm)

theorem coach? (h : s.Kept P z) (p : P) {c : CoachRef} {k : Coach} (hm : s.coach? c = some k) : k.Canonical := by
  obtain ⟨x, hx, hk⟩ := Option.bind_eq_some_iff.1 hm
  obtain ⟨-, -, -, hks⟩ := h.cohort? p hx
  exact hks k (List.mem_of_getElem? hk)

theorem modCoach (h : s.Kept P z) {c : CoachRef} {f : Coach → Coach} (hf : P → ∀ k, k.Canonical → (f k).Canonical := by exact fun _ _ h => h) :
    (s.modCoach c f).Kept P z :=
  h.modCohort fun p _ _ hc => hc.modCoach fun k _ => hf p k

theorem setCoach (h : s.Kept P z) {c : CoachRef} {k : Coach} (hk : P → k.Canonical) : (s.setCoach c k).Kept P z :=
  h.modCoach fun p _ _ => hk p

/-! ### Records and counts -/

theorem poolWrite (h : s.Kept P z) {pa : Nat} {bs : List Byte} : (s.poolWrite pa bs).Kept P z :=
  h.with_mem fun hm p => memPut_wf _ (hm p)

theorem markSet (h : s.Kept P z) {o b : Nat} {l : Bool} : (s.markSet o b l).Kept P z := h

theorem evSignal (h : s.Kept P z) : s.evSignal.Kept P z := by
  unfold State.evSignal
  split
  · exact h
  · exact of_ite h h

theorem evPut (h : s.Kept P z) : s.evPut.Kept P z := by
  unfold State.evPut
  split
  · exact h
  · dsimp only
    split
    · exact (h.poolWrite.poolWrite).with_rest
    · exact h

theorem evDrain (h : s.Kept P z) (n : Nat) : (evDrain n s).Kept P z := by
  induction n generalizing s with
  | zero => exact h
  | succ n ih => exact ih h.evPut

theorem evFlush (h : s.Kept P z) : s.evFlush.Kept P z := by
  unfold State.evFlush
  dsimp only
  split
  · exact h.evDrain _
  · exact (h.evDrain _).evSignal

theorem evWrite (h : s.Kept P z) {r : EvRec} : (s.evWrite r).Kept P z := by
  unfold State.evWrite
  dsimp only
  split
  · exact evFlush h
  · exact h

theorem event (h : s.Kept P z) {c d : Nat} {w : EvWho} {x i j : Nat} : (s.event c d w x i j).Kept P z := h.evWrite

theorem errRecord (h : s.Kept P z) {o b : Nat} : (s.errRecord o b).Kept P z := h.event

theorem tenErr (h : s.Kept P z) {t b : Nat} : (s.tenErr t b).Kept P z := by
  unfold State.tenErr
  split
  · exact h
  · dsimp only
    split
    · exact h
    · exact (h.markSet.with_tens (List.length_set ..)).errRecord

theorem setLockvio (h : s.Kept P z) : s.setLockvio.Kept P z := by
  unfold State.setLockvio
  dsimp only
  split
  · exact h
  · refine errRecord ?_
    exact h

theorem setFenceErr (h : s.Kept P z) : s.setFenceErr.Kept P z := by
  unfold State.setFenceErr
  dsimp only
  split
  · exact h
  · refine errRecord ?_
    exact h

theorem setLost (h : s.Kept P z) : s.setLost.Kept P z := by
  unfold State.setLost
  dsimp only
  split
  · exact h
  · refine errRecord ?_
    exact h

theorem setIgn (h : s.Kept P z) : s.setIgn.Kept P z := by
  unfold State.setIgn
  dsimp only
  split
  · exact h
  · refine errRecord ?_
    exact h

theorem count (h : s.Kept P z) {k n : Nat} : (s.count k n).Kept P z := by
  unfold State.count
  dsimp only
  generalize (if s.cntTick = s.tick then s.cntNow else []) = now
  repeat' split
  · exact h
  · exact h
  · exact h
  · refine event ?_
    exact h

end State.Kept

end Sys2Proof.Machine
end

section
/-! The shared operations, translation, and what ends work: each keeps the sizes of the tables and the canonical form. -/

namespace Sys2Proof.Machine

/-- The state a translated access leaves. -/
def VRes.state {α : Type} : VRes α → State
  | .ok _ s => s
  | .bad _ s => s
  | .miss _ s => s

namespace State.Kept

variable {P : Prop} {z : Base} {s : State}

/-! ### Memory errors -/

theorem addPoison (h : s.Kept P z) {gs : List Nat} : (s.addPoison gs).Kept P z := h

theorem logError (h : s.Kept P z) {pa t : Nat} : (s.logError pa t).Kept P z := by
  unfold State.logError
  split
  · refine markSet ?_
    exact h
  · exact h.setLost

theorem marginStop (h : s.Kept P z) {g : Nat} : (s.marginStop g).Kept P z := by
  unfold State.marginStop
  split <;> exact h

theorem foundBad (h : s.Kept P z) {t : Nat} {gs : List Nat} : (s.foundBad t gs).Kept P z := by
  have hp : (s.poisonBad gs).Kept P z := h
  unfold State.foundBad
  dsimp only
  split
  · exact hp
  · exact hp.logError.marginStop

theorem meetBad (h : s.Kept P z) {t pa n : Nat} : (s.meetBad t pa n).Kept P z := h.foundBad

theorem meetPinned (h : s.Kept P z) {t va n : Nat} : (s.meetPinned t va n).Kept P z := h.foldl (fun _ _ hu => hu.meetBad) _

theorem pinWrite (h : s.Kept P z) {t va : Nat} {bs : List Byte} : (s.pinWrite t va bs).Kept P z := by
  unfold State.pinWrite
  split
  · split
    · exact h.poolWrite
    · exact h
  · exact h

/-! ### Commands -/

theorem fresh (h : s.Kept P z) : s.fresh.2.Kept P z := h

theorem complete (h : s.Kept P z) {c : CmdRef} {st re x y : Nat} : (s.complete c st re x y).Kept P z := by
  have hf : (if st = stDiscarded then (s.fresh.1.toNat % 256, s.fresh.2) else (re, s)).2.Kept P z := by
    split <;> exact h
  unfold State.complete
  dsimp only
  generalize (if st = stDiscarded then (s.fresh.1.toNat % 256, s.fresh.2) else (re, s)) = r at hf
  have hw : ∀ bs, (if c.entry.result.toNat = 0 ∨ c.entry.result.toNat % 32 ≠ 0 then r.2 else r.2.pinWrite c.ten c.entry.result.toNat bs).Kept P z := by
    intro bs
    split
    · exact hf
    · exact hf.pinWrite
  split
  · exact (hw _).event
  · exact hw _

theorem releaseRing (h : s.Kept P z) {c : CmdRef} : (s.releaseRing c).Kept P z := h.modRing
theorem finish (h : s.Kept P z) {c : CmdRef} {st re x y : Nat} : (s.finish c st re x y).Kept P z := h.complete.releaseRing

/-! ### Tickets, counters -/

theorem returnTicket (h : s.Kept P z) {t : Nat} {e : Option W32} : (s.returnTicket t e).Kept P z := by
  unfold State.returnTicket
  split
  · exact h.modTen
  · exact h

theorem onShared (h : s.Kept P z) {t ctx cl m : Nat} {v : W32} : (s.onShared t ctx cl m v).Kept P z := by
  refine h.mapCohorts fun c hc => ?_
  split
  · next k _ =>
    split
    · refine hc.with_coaches fun hk => ?_
      refine List.foldlRecOn (motive := fun l : List Coach => ∀ k ∈ l, k.Canonical) k.binds _ hk fun l hl b _ x hx => ?_
      repeat' split at hx
      · obtain ⟨y, hy, rfl⟩ := List.mem_map.1 hx
        exact hl y hy
      · exact hl x hx
    · exact hc
  · exact hc

theorem addShared (h : s.Kept P z) {t ctx cl m : Nat} {n : W32} : (s.addShared t ctx cl m n).Kept P z := by
  unfold State.addShared
  split
  · exact h
  · exact h.modSlot.onShared

theorem contribute (h : s.Kept P z) {task co ac : Nat} {n : W32} : (s.contribute task co ac n).Kept P z := by
  unfold State.contribute
  split
  · split
    · exact h.addShared
    · exact h.modCohort fun _ _ _ hc => hc.addAc ac n
  · exact h

/-! ### Translation -/

theorem l1Install (h : s.Kept P z) {u : UnitRef} {e : TlbEntry} : (s.l1Install u e).Kept P z := by
  unfold State.l1Install
  split
  · exact h
  · exact h.modCluster
  · exact h.modCluster
  · exact h

theorem xlate (h : s.Kept P z) {u : UnitRef} {tn va : Nat} {k : Access} : (s.xlate u tn va k).2.Kept P z := by
  unfold State.xlate
  split
  · exact h.l1Install
  · exact h

theorem xlateNow (h : s.Kept P z) {u : UnitRef} {tn va : Nat} {k : Access} : (s.xlateNow u tn va k).2.Kept P z := by
  have hx := h.xlate (u := u) (tn := tn) (va := va) (k := k)
  unfold State.xlateNow
  split
  · next s' he =>
    rw [he] at hx
    dsimp only
    split
    · exact hx.count
    · exact hx.count.meetBad
    · refine l1Install ?_
      exact hx.count
  · exact hx

theorem piece (h : s.Kept P z) {u : UnitRef} {tn va n : Nat} {k : Access} {now : Bool} : (s.piece u tn va n k now).state.Kept P z := by
  have hx : (if now then s.xlateNow u tn (va % 2 ^ 48) k else s.xlate u tn (va % 2 ^ 48) k).2.Kept P z := by
    split
    · exact h.xlateNow
    · exact h.xlate
  unfold State.piece
  dsimp only
  generalize (if now then s.xlateNow u tn (va % 2 ^ 48) k else s.xlate u tn (va % 2 ^ 48) k) = r at hx
  split
  · split
    · split
      · exact hx.meetBad
      · exact hx
    · exact hx
  · exact hx
  · exact hx
  · exact hx

theorem vReadGo (h : s.Kept P z) {u : UnitRef} {tn : Nat} {now : Bool} (f : Nat) {va n : Nat} {acc : List Byte} :
    (vReadGo u tn now f s va n acc).state.Kept P z := by
  induction f generalizing s va n acc with
  | zero => exact h
  | succ f ih =>
    rw [Machine.vReadGo]
    split
    · exact h
    · dsimp only
      have hp := h.piece (u := u) (tn := tn) (va := va) (n := min n (2 ^ 21 - va % 2 ^ 21)) (k := .read) (now := now)
      split
      · next he => exact ih (by rwa [he] at hp)
      · next he => rwa [he] at hp
      · next he => rwa [he] at hp

theorem vRead (h : s.Kept P z) {u : UnitRef} {tn va n : Nat} {now : Bool} : (s.vRead u tn va n now).state.Kept P z := h.vReadGo _

/-! ### Pinned accesses and writes -/

theorem pinnedApply (h : s.Kept P z) {a : PinnedAccess} {q : PinnedReq} {c : Nat} : (s.pinnedApply a q c).2.Kept P z := by
  unfold State.pinnedApply
  dsimp only
  split
  · exact h.poolWrite
  · exact h.count.poolWrite
  · dsimp only
    split
    · exact h.poolWrite
    · exact h
  · exact h

theorem settleReq (h : s.Kept P z) {r : MemReq} : (s.settleReq r).Kept P z := by
  unfold State.settleReq
  split
  · split
    · split
      · dsimp only
        exact h.pinnedApply.with_mem fun hm => hm
      · exact h
    · exact h
  · exact h

theorem serveBefore (h : s.Kept P z) {pa n : Nat} : (s.serveBefore pa n).Kept P z := h.foldl (fun _ _ hu => hu.settleReq) _

theorem soil (h : s.Kept P z) {pa n : Nat} : (s.soil pa n).Kept P z := by
  unfold State.soil
  split
  · exact h
  · exact h.with_rest.with_tens (List.length_map ..)

theorem engineWrite (h : s.Kept P z) {pa : Nat} {bs : List Byte} : (s.engineWrite pa bs).Kept P z :=
  h.serveBefore.poolWrite.with_rest

theorem laneWrite (h : s.Kept P z) {pa : Nat} {bs : List Byte} : (s.laneWrite pa bs).Kept P z := h.serveBefore.soil.poolWrite

theorem vWriteGo (h : s.Kept P z) {u : UnitRef} {tn : Nat} {now : Bool} (f : Nat) {va : Nat} {bs : List Byte} :
    (vWriteGo u tn now f s va bs).state.Kept P z := by
  induction f generalizing s va bs with
  | zero => exact h
  | succ f ih =>
    rw [Machine.vWriteGo]
    split
    · exact h
    · dsimp only
      have hp := h.piece (u := u) (tn := tn) (va := va) (n := min bs.length (2 ^ 21 - va % 2 ^ 21)) (k := .write) (now := now)
      split
      · next pa u he =>
        have hu : u.Kept P z := by rwa [he] at hp
        exact ih hu.engineWrite
      · next he => rwa [he] at hp
      · next he => rwa [he] at hp

theorem vWrite (h : s.Kept P z) {u : UnitRef} {tn va : Nat} {bs : List Byte} {now : Bool} : (s.vWrite u tn va bs now).state.Kept P z :=
  h.vWriteGo _

/-! ### States that are reported when they change -/

theorem movePort (h : s.Kept P z) {p : Nat} {st : PortSt} : (s.movePort p st).Kept P z := by
  unfold State.movePort
  split
  · exact h
  · exact h.modPort.event

theorem moveTen (h : s.Kept P z) {t : Nat} {st : TenSt} : (s.moveTen t st).Kept P z := by
  unfold State.moveTen
  split
  · exact h
  · exact h.modTen.event

theorem moveBlock (h : s.Kept P z) {st : BlockSt} : (s.moveBlock st).Kept P z := by
  unfold State.moveBlock
  split
  · exact h
  · exact h.with_rest.event

theorem sendCtl (h : s.Kept P z) {ps : List Nat} {n : Nat} {bs : List Byte} : (s.sendCtl ps n bs).Kept P z :=
  h.foldl (fun _ _ hu => hu.modPort) _

theorem movePorts (h : s.Kept P z) {ps : List Nat} {st : PortSt} : (s.movePorts ps st).Kept P z := h.foldl (fun _ _ hu => hu.movePort) _

theorem finishBrakes (h : s.Kept P z) {t : Nat} : (s.finishBrakes t).Kept P z := by
  unfold State.finishBrakes
  split
  · exact h
  · exact (h.foldl (fun _ _ hu => hu.finish) _).modTt

theorem abandonStart (h : s.Kept P z) {t re ra : Nat} : (s.abandonStart t re ra).Kept P z := by
  unfold State.abandonStart
  split
  · exact h
  · dsimp only
    split
    · exact h.movePorts.finish.modTt
    · exact h.movePorts.modTt

theorem cancelDeparture (h : s.Kept P z) {t : Nat} {e : Option Nat} : (s.cancelDeparture t e).Kept P z := by
  unfold State.cancelDeparture
  split
  · exact h
  · exact h.sendCtl.abandonStart.finishBrakes

theorem portDown (h : s.Kept P z) {p re : Nat} : (s.portDown p re).Kept P z := h.modPort.movePort

/-! ### Requests and faults withdrawn -/

theorem respond (h : s.Kept P z) {m : Msg} {st : Nat} {d : List Byte} : (s.respond m st d).Kept P z := h

theorem unserve (h : s.Kept P z) {t : Nat} {p : Served → Bool} : (s.unserve t p).Kept P z := by
  have ht : (s.takeServed t p).2.Kept P z := h
  exact ht.foldl (fun _ _ hu => hu.respond) _

theorem withdraw (h : s.Kept P z) {t : Nat} {who : Serving} : (s.withdraw t who).Kept P z := by
  unfold State.withdraw
  dsimp only
  refine modTen ?_
  exact with_rest (h.foldl (fun _ _ hu => hu.with_rest) _)

theorem unserveAll (h : s.Kept P z) {t : Nat} : (s.unserveAll t).Kept P z := h.unserve.withdraw

/-! ### Checkpoints and brakes -/

theorem ckBegin (h : s.Kept P z) {c : CmdRef} {rs : List CkRegion} : (s.ckBegin c rs).Kept P z := h.modTen

theorem ckNext (h : s.Kept P z) {t : Nat} : (s.ckNext t).Kept P z := by
  unfold State.ckNext
  split
  · exact h
  · exact h.modTen.ckBegin

theorem ckRest (h : s.Kept P z) {t : Nat} : (State.ckRest t s).Kept P z := by
  unfold State.ckRest
  split
  · exact h.ckNext
  · exact h

theorem ckEnd (h : s.Kept P z) {t re : Nat} : (s.ckEnd t re).Kept P z := by
  unfold State.ckEnd
  split
  · exact h
  · refine finish (modTen (withdraw ?_))
    exact h

theorem ckFail (h : s.Kept P z) {t re : Nat} : (s.ckFail t re).Kept P z := by
  unfold State.ckFail
  split
  · exact h
  · exact h.ckEnd.ckNext

theorem ckBrake (h : s.Kept P z) {t : Nat} : (s.ckBrake t).Kept P z := by
  unfold State.ckBrake
  split
  · exact h
  · exact h.fresh.ckFail

theorem orderBrake (h : s.Kept P z) {t : Nat} {b : W64} : (s.orderBrake t b).Kept P z := by
  unfold State.orderBrake
  split
  · exact h
  · split
    · exact h
    · exact h.ckBrake.cancelDeparture
    · dsimp only
      split
      · exact h.ckBrake.movePorts.modTt.modTen
      · exact h.movePorts.modTt.modTen

/-! ### The abort of a task -/

theorem unsealed (h : s.Kept P z) {o : Order} : (s.unseal o).Kept P z := by
  unfold State.unseal
  split
  · exact h.modTable
  · exact h

theorem endOrder (h : s.Kept P z) {o : Order} : (s.endOrder o).Kept P z := by
  unfold State.endOrder
  dsimp only
  refine with_rest (mapClusters (s := State.modTen _ _ _) ?_)
  refine modTen (returnTicket (unsealed ?_))
  exact h

theorem endCopy (h : s.Kept P z) {c : Copy} : (s.endCopy c).Kept P z :=
  with_rest (s := { s.modTen c.ten _ with copies := _ }) (h.modTen.with_copies fun _ hc => hc.filter c.id)

theorem purge (h : s.Kept P z) {t k : Nat} : (s.purge t k).Kept P z := h.modTen

theorem releaseFences (h : s.Kept P z) {k : Nat} : (s.releaseFences k).Kept P z := by
  unfold State.releaseFences
  refine foldl ?_ (fun _ _ hu => hu.finish) _
  exact with_rest (s := { s with rings := _ }) (h.with_rings (List.length_map ..))

theorem undefine (h : s.Kept P z) {t ctx : Nat} {d : Dest} : (State.undefine t ctx s d).Kept P z := by
  unfold State.undefine
  dsimp only
  split
  · refine modCluster ?_ fun _ hx => memFree_wf _ _ _ hx
    exact h
  · exact with_rest (s := { s with mem := { s.mem with pool := _ } }) (h.with_mem fun hm p => memFree_wf _ _ _ (hm p))

theorem spoil (h : s.Kept P z) {k : Task} : (s.spoil k).Kept P z := by
  unfold State.spoil
  exact (h.foldl (fun _ _ hu => hu.undefine) _).foldl (fun _ _ hu => hu.foldl (fun _ _ hv => hv.undefine) _) _

theorem spoilShare (h : s.Kept P z) {t ctx : Nat} : (s.spoilShare t ctx).Kept P z := by
  unfold State.spoilShare
  split
  · exact h
  · exact h.foldl (fun _ _ hu => hu.undefine) _

theorem clearTask (h : s.Kept P z) {k : Task} : (s.clearTask k).Kept P z := by
  unfold State.clearTask
  dsimp only
  generalize hu : State.withdraw _ _ _ = u
  have hk : u.Kept P z := hu ▸ (foldl (h.foldl (fun _ _ hv => hv.endOrder) _) (fun _ _ hv => hv.endCopy) _).purge.withdraw
  exact hk.filterCohorts.with_rest

theorem abortTask (h : s.Kept P z) {k : Task} {l : Nat} {c : W32} {code : Nat} : (s.abortTask k l c code).Kept P z := by
  unfold State.abortTask
  dsimp only
  repeat' split
  · exact h.event.spoil.clearTask.modTen.complete.releaseFences.orderBrake
  · exact h.event.spoil.clearTask.modTen.complete.releaseFences.orderBrake
  · exact h.event.clearTask.modTen.complete.releaseFences.orderBrake
  · exact h.event.clearTask.modTen.complete.releaseFences.orderBrake

theorem failTask (h : s.Kept P z) {t ctx k : Nat} {f : FaultRec} : (s.failTask t ctx k f).Kept P z := by
  unfold State.failTask
  split
  · exact h.event
  · exact h.event.abortTask

/-! ### Levels 2 to 4 -/

theorem stopCoaches (h : s.Kept P z) {t ctx : Nat} {b : Bool} : (s.stopCoaches t ctx b).Kept P z :=
  h.with_cohorts fun _ hw x hx => by
    rcases mem_modWhere hx with hx | ⟨y, hy, rfl⟩
    · exact hw x hx
    · exact (hw y hy).mapCoaches fun _ hk => hk

theorem dropCmds (h : s.Kept P z) {t : Nat} {p : CmdRef → Bool} : (s.dropCmds t p).Kept P z := by
  unfold State.dropCmds
  dsimp only
  refine ckRest (modTen (foldl ?_ (fun _ _ hu => hu.stopCoaches) _))
  exact with_rest (s := { s with rings := _ }) (h.with_rings (List.length_map ..))

theorem discardAll (h : s.Kept P z) {cs : List CmdRef} : (s.discardAll cs).Kept P z := h.foldl (fun _ _ hu => hu.complete) _

theorem stopRings (h : s.Kept P z) {t : Nat} {p : Ring → Bool} : (s.stopRings t p).Kept P z := h.with_rings (List.length_map ..)

theorem abortCtx (h : s.Kept P z) {t ctx : Nat} {c : W32} {code : Nat} : (s.abortCtx t ctx c code).Kept P z :=
  ((h.dropCmds (t := t)).foldl (fun _ _ hu => hu.abortTask) _).discardAll.stopRings.spoilShare

theorem haltTen (h : s.Kept P z) {t l : Nat} {c : W32} {code : Nat} : (s.haltTen t l c code).Kept P z := by
  unfold State.haltTen
  dsimp only
  refine moveTen (modTen (unserveAll ?_))
  exact ((h.ckEnd.dropCmds (t := t)).foldl (fun _ _ hu => hu.abortTask) _).discardAll.stopRings.orderBrake.with_rest

theorem contain (h : s.Kept P z) {why : Nat} {c : Option W32} {code : Nat} : (s.contain why c code).Kept P z := by
  unfold State.contain
  split
  · exact h
  · refine foldl (foldl ?_ (fun _ _ hu => hu.haltTen) _) (fun _ _ hu => hu.portDown.modPort) _
    exact h.with_rest.moveBlock

theorem pendFault (h : s.Kept P z) {t ctx : Nat} {u : UnitRef} {w : Serving} {f : AccFault} : (s.pendFault t ctx u w f).Kept P z := by
  unfold State.pendFault
  dsimp only
  split
  · exact h.modTen.with_rest
  · exact h.event.modTen.with_rest

theorem accFault (h : s.Kept P z) {t ctx k : Nat} {u : UnitRef} {f : AccFault} : (s.accFault t ctx k u f).Kept P z := by
  unfold State.accFault
  split
  · exact h.pendFault
  · exact h.failTask

theorem imbalanceTen (h : s.Kept P z) {t b i n u : Nat} : (s.imbalanceTen t b i n u).Kept P z := h.event.haltTen
theorem imbalanceCtx (h : s.Kept P z) {t ctx b i n u : Nat} : (s.imbalanceCtx t ctx b i n u).Kept P z := h.event.abortCtx

end State.Kept

end Sys2Proof.Machine
end

section
/-! What a port's sending keeps (R240, R252, R253). -/

namespace Sys2Proof.Machine

namespace State.Kept

variable {P : Prop} {z : Base} {s : State}

theorem failTen (h : s.Kept P z) {t : Nat} {f : FaultRec} : (s.failTen t f).Kept P z := by
  unfold State.failTen
  exact (h.event.foldl (fun _ _ hu => hu.abortTask) _).orderBrake

theorem discard (h : s.Kept P z) {p n : Nat} : (s.discard p n).Kept P z := h.modPort

theorem dropLineCarts (h : s.Kept P z) {t : Nat} : (s.dropLineCarts t).Kept P z := by
  unfold State.dropLineCarts
  split
  · exact h
  · exact (h.foldl (fun _ _ hu => hu.freeCart) _).modTt

/-! ### Status counters -/

theorem statusAdd (h : s.Kept P z) {t table off n : Nat} {u : State} (hu : s.statusAdd t table off n = some u) : u.Kept P z := by
  unfold State.statusAdd at hu
  split at hu
  · exact Option.some.inj hu ▸ h
  · cases hu
  · split at hu
    · cases hu
    · exact Option.some.inj hu ▸ h.engineWrite

theorem statusFault (h : s.Kept P z) {t table off : Nat} : (s.statusFault t table off).2.Kept P z := by
  unfold State.statusFault
  dsimp only
  split
  · exact h.meetBad
  · exact h

theorem rowsSent (h : s.Kept P z) {t : Nat} {r : Option SentRows} : (s.rowsSent t r).Kept P z := by
  unfold State.rowsSent
  split
  · exact h
  · dsimp only
    split
    · next hu => exact h.modTable.statusAdd hu
    · exact h.modTable.statusFault.failTask

/-! ### One carriage composed -/

theorem sendBytes (h : s.Kept P z) {p t n : Nat} {e : W64} {y : Hitch} {c : LineCart} : (s.sendBytes p t n e y c).2.Kept P z := by
  unfold State.sendBytes
  dsimp only
  split
  · exact h.modTt.freeCart.rowsSent
  · exact h.modTt

theorem dataCar (h : s.Kept P z) {p t n : Nat} {e : W64} : (s.dataCar p t n e).2.Kept P z := by
  unfold State.dataCar
  extract_lets num line cart u
  split
  · have hu : u.Kept P z := by
      dsimp only [u]
      split
      · exact h.discard.freeCart.modTt.failTen
      · exact h
    split
    · exact hu.modHitch.modTt.sendBytes
    · exact hu.modPort
  · split
    · exact h.sendBytes
    · exact h

theorem controlCar (h : s.Kept P z) {p n : Nat} {r : Carriage × State} (hr : s.controlCar p n = some r) : r.2.Kept P z := by
  unfold State.controlCar at hr
  dsimp only at hr
  split at hr
  · cases hr
  · cases hr
    exact h.modPort

theorem msgsSent (h : s.Kept P z) {p : Nat} {vc : Bool} {ms : List Msg} : (s.msgsSent p vc ms).Kept P z := by
  unfold State.msgsSent
  split
  · exact h
  · exact (h.foldl (fun _ _ hu => hu.modTen) _).with_rest

theorem freeCar (h : s.Kept P z) {p n : Nat} {r : Carriage × State} (hr : s.freeCar p n = some r) : r.2.Kept P z := by
  unfold State.freeCar at hr
  dsimp only at hr
  split at hr
  · cases hr
  · split at hr <;> cases hr
    · exact h.msgsSent.modPort
    · exact h.msgsSent.modPort

theorem classCar (h : s.Kept P z) {p t n : Nat} {x : Timetable} {e : W64} : (s.classCar p t n x e).2.Kept P z := by
  unfold State.classCar
  dsimp only
  split
  · exact h.dataCar
  · exact h
  · cases hr : s.controlCar p n with
    | none => exact h
    | some r => exact h.controlCar hr
  · cases hr : s.freeCar p n with
    | none => exact h
    | some r => exact h.freeCar hr
  · exact h

theorem entryCar (h : s.Kept P z) {p t n : Nat} {x : Timetable} {e : W64} : (s.entryCar p t n x e).2.Kept P z := h.classCar

theorem idleCar (h : s.Kept P z) {p n : Nat} : (s.idleCar p n).2.Kept P z := by
  unfold State.idleCar
  split
  · exact h
  · split
    · next hr => exact h.controlCar hr
    · split
      · exact h
      · cases hr : s.freeCar p n with
        | none => exact h
        | some r => exact h.freeCar hr

theorem compose (h : s.Kept P z) {p n : Nat} : (s.compose p n).2.Kept P z := by
  unfold State.compose
  split
  · split
    · exact h.entryCar
    · exact h.entryCar
    · exact h
    · exact h
  · exact h.idleCar

theorem injected (h : s.Kept P z) {p : Nat} {c : Carriage} : (s.injected p c).Kept P z := h.modPort.event

theorem make (h : s.Kept P z) {p n : Nat} : (s.make p n).2.Kept P z := h.modPort.compose.modPort

theorem send (h : s.Kept P z) {p n : Nat} {c : Carriage} {hit : Option Nat} {l : Option Carriage} : (s.send p n c hit l).Kept P z := h.modPort

theorem depart (h : s.Kept P z) {p n : Nat} : (s.depart p n).Kept P z := by
  unfold State.depart
  split
  · exact h.send
  · dsimp only
    repeat' split
    · exact h.make.send
    · exact h.make.injected.send
    · exact h.make.send
    · exact h.make.injected.make.send

/-! ### The tick boundary -/

theorem sendAll (h : s.Kept P z) : s.sendAll.Kept P z := by
  unfold State.sendAll
  refine foldl ?_ (fun _ _ hu => hu.count) _
  exact h.with_mem fun hm => hm

theorem atTick (h : s.Kept P z) {t : Nat} : (s.atTick t).Kept P z := by
  unfold State.atTick
  split
  · unfold State.observe
    dsimp only
    generalize hu : s.sendAll = u
    have hk : u.Kept P z := hu ▸ h.sendAll
    exact with_rest (s := { u with tens := _, ports := _ })
      (with_ports (s := { u with tens := _ }) (hk.with_tens (List.length_mapIdx ..)) (List.length_map ..))
  · exact h

end State.Kept

end Sys2Proof.Machine
end

section
/-! Departures, stop carriages, roll calls and the end of a brake (R240, R258–R264). -/

namespace Sys2Proof.Machine

/-! ### The timetables held -/

/-- The timetables of the tenancies. -/
def State.tts (s : State) : List (Option Timetable) := s.tens.map (·.tt)

theorem State.tt_ten (s : State) (n : Nat) : (s.ten n).tt = s.tts.getD n none := (getD_map_apply ..).symm

/-- A tenancy changed, but not in its timetable. -/
theorem State.tts_modTen (s : State) (t : Nat) {f : Tenancy → Tenancy} (h : ∀ x, (f x).tt = x.tt := by exact fun _ => rfl) :
    (s.modTen t f).tts = s.tts := by
  rw [State.tts, State.modTen, modAt_map h, State.tts]

theorem State.tts_of_tens {s u : State} (h : u.tens = s.tens) : u.tts = s.tts := by rw [State.tts, h, State.tts]

theorem State.tts_event (s : State) (c d : Nat) (w : EvWho) (x i j : Nat) : (s.event c d w x i j).tts = s.tts :=
  State.tts_of_tens (State.event_tens ..)

theorem State.tts_finish (s : State) (c : CmdRef) (st re x y : Nat) : (s.finish c st re x y).tts = s.tts :=
  State.tts_of_tens (State.finish_tens ..)

theorem foldl_tts {α : Type} {f : State → α → State} (h : ∀ s a, (f s a).tts = s.tts) (l : List α) (s : State) : (l.foldl f s).tts = s.tts :=
  List.foldlRecOn (motive := fun t => t.tts = s.tts) l f rfl fun t ht a _ => (h t a).trans ht

theorem State.tts_movePort (s : State) (p : Nat) (st : PortSt) : (s.movePort p st).tts = s.tts := by
  unfold State.movePort
  split
  · rfl
  · exact State.tts_event ..

theorem State.tts_movePorts (s : State) (ps : List Nat) (st : PortSt) : (s.movePorts ps st).tts = s.tts :=
  foldl_tts (fun s p => s.tts_movePort p st) ps s

theorem State.tts_withdraw (s : State) (t : Nat) (who : Serving) : (s.withdraw t who).tts = s.tts := by
  unfold State.withdraw
  dsimp only
  refine (State.tts_modTen _ _).trans (Eq.trans (b := State.tts (List.foldl _ s (s.ten t).faults)) rfl ?_)
  apply foldl_tts
  exact fun _ _ => rfl

theorem State.tts_ckBrake (s : State) (t : Nat) : (s.ckBrake t).tts = s.tts := by
  have hend : ∀ u : State, ∀ n, (u.ckEnd t n).tts = u.tts := fun u n => by
    unfold State.ckEnd
    split
    · rfl
    · rw [State.tts_finish, State.tts_modTen, State.tts_withdraw]
      rfl
  have hnext : ∀ u : State, (u.ckNext t).tts = u.tts := fun u => by
    unfold State.ckNext
    split
    · rfl
    · exact (State.tts_modTen _ _).trans (State.tts_modTen _ _)
  unfold State.ckBrake State.ckFail
  split
  · rfl
  · split
    · rfl
    · rw [hnext, hend]
      rfl

theorem State.tts_atTick (s : State) (t n : Nat) : ((s.atTick t).ten n).tt = (s.ten n).tt := by
  obtain ⟨_, _, _, h⟩ := s.atTick_ten t n
  rw [h]

theorem State.tt_modTt {s : State} {t : Nat} (f : Timetable → Timetable) (h : t < s.tens.length) :
    ((s.modTt t f).ten t).tt = (s.ten t).tt.map f := by
  rw [State.modTt, State.ten_modTen _ _ _ h]

/-- R262: a membership that has departed brakes once it is told to. -/
theorem State.tt_orderBrake {s : State} {t : Nat} {x : Timetable} (b : W64) (h : t < s.tens.length) (hx : (s.ten t).tt = some x)
    (hd : x.departed = true) : ∃ y, ((s.orderBrake t b).ten t).tt = some y ∧ y.st = .braking := by
  have hkept : (if x.st = .running then s.ckBrake t else s).Kept False s.base := by
    split
    · exact s.kept_base.ckBrake
    · exact s.kept_base
  have htts : (if x.st = .running then s.ckBrake t else s).tts = s.tts := by
    split
    · exact s.tts_ckBrake t
    · rfl
  have hrun : s.orderBrake t b = (((if x.st = .running then s.ckBrake t else s).movePorts
      ((portsOf x.ports).filter fun p => ((if x.st = .running then s.ckBrake t else s).port p).st == .running) .braking).modTt t
        fun y => { y with st := .braking }).modTen t fun y => { y with brkt := earlier y.brkt b } := by
    unfold State.orderBrake
    cases hst : x.st <;> simp_all [Timetable.departed]
  generalize (if x.st = .running then s.ckBrake t else s) = u at hrun hkept htts
  generalize hps : ((portsOf x.ports).filter fun p => (u.port p).st == .running) = ps at hrun
  have hlen : t < (u.movePorts ps .braking).tens.length := by rw [(hkept.movePorts (ps := ps) (st := .braking)).tens_length]; exact h
  have htt : ((u.movePorts ps .braking).ten t).tt = some x := by rw [State.tt_ten, State.tts_movePorts, htts, ← State.tt_ten, hx]
  refine ⟨{ x with st := .braking }, ?_, rfl⟩
  rw [hrun, State.tt_ten, State.tts_modTen, ← State.tt_ten, State.tt_modTt _ hlen, htt]
  rfl

/-! ### Ports moved together -/

theorem State.st_movePort_of_lt (s : State) (p : Nat) {q : Nat} (st : PortSt) (hq : q < s.ports.length) :
    ((s.movePort p st).port q).st = if q = p then st else (s.port q).st := by
  by_cases hp : p < s.ports.length
  · exact s.st_movePort p q st hp
  · have hne : q ≠ p := fun h => hp (h ▸ hq)
    rw [if_neg hne]
    unfold State.movePort
    split
    · rfl
    · rw [State.port, State.event_ports]
      exact congrArg Port.st (State.port_modPort_ne s _ (Ne.symm hne))

theorem State.movePorts_st (s : State) (ps : List Nat) (st : PortSt) {q : Nat} (hq : q < s.ports.length) :
    ((s.movePorts ps st).port q).st = if q ∈ ps then st else (s.port q).st := by
  induction ps generalizing s with
  | nil => rfl
  | cons p ps ih =>
    have hlen : q < (s.movePort p st).ports.length := by rwa [(s.kept_base.movePort (p := p) (st := st)).ports_length]
    rw [State.movePorts, List.foldl_cons]
    refine (ih (s.movePort p st) hlen).trans ?_
    rw [State.st_movePort_of_lt _ _ _ hq]
    by_cases h1 : q = p <;> by_cases h2 : q ∈ ps <;> simp [h1, h2]

/-! ### The end of a brake -/

theorem State.dropLineCarts_ports (s : State) (t : Nat) : (s.dropLineCarts t).ports = s.ports := by
  unfold State.dropLineCarts
  split
  · rfl
  · next x _ =>
    exact List.foldlRecOn (motive := fun u : State => u.ports = s.ports) (x.sending ++ x.filling) _ rfl fun _ hu _ _ => hu

theorem State.finishBrakes_ports (s : State) (t : Nat) : (s.finishBrakes t).ports = s.ports := by
  unfold State.finishBrakes
  split
  · rfl
  · next x _ =>
    exact List.foldlRecOn (motive := fun u : State => u.ports = s.ports) x.brakeCmds _ rfl
      fun _ hu _ _ => (State.finish_ports ..).trans hu

theorem State.tt_dropLineCarts {s : State} {t : Nat} {x : Timetable} (h : t < s.tens.length) (hx : (s.ten t).tt = some x) :
    ((s.dropLineCarts t).ten t).tt = some { x with sending := [], filling := [], ended := [] } := by
  have hk : ∀ l : List LineCart, (l.foldl (fun (s : State) c => s.freeCart t c.hitch c.cart) s).Kept False s.base := fun l =>
    s.kept_base.foldl (fun _ _ hu => hu.freeCart) l
  have htts : ∀ l : List LineCart, (l.foldl (fun (s : State) c => s.freeCart t c.hitch c.cart) s).tts = s.tts := fun l =>
    foldl_tts (fun u c => State.tts_modTen u t) l s
  unfold State.dropLineCarts
  simp only [hx]
  rw [State.tt_modTt _ (by rw [(hk _).tens_length]; exact h), State.tt_ten, htts, ← State.tt_ten, hx]
  rfl

theorem State.tt_finishBrakes {s : State} {t : Nat} {x : Timetable} (h : t < s.tens.length) (hx : (s.ten t).tt = some x) :
    ((s.finishBrakes t).ten t).tt = some { x with brakeCmds := [] } := by
  unfold State.finishBrakes
  simp only [hx]
  generalize hu : x.brakeCmds.foldl (fun (u : State) c => u.finish c stDone 0 (u.ten t).brkt.toNat 0) s = u
  have hk : u.Kept False s.base := hu ▸ s.kept_base.foldl (fun _ _ hv => hv.finish) _
  have htts : u.tts = s.tts := hu ▸ foldl_tts (fun v c => v.tts_finish c stDone 0 _ 0) x.brakeCmds s
  rw [State.tt_modTt _ (by rw [hk.tens_length]; exact h), State.tt_ten, htts, ← State.tt_ten, hx]
  rfl

/-! ### Departure -/

/-- R240: whatever is composed, the port sends one carriage in the tick. -/
theorem State.depart_port {s : State} {p n : Nat} (hp : p < s.ports.length) :
    ((s.depart p n).port p).lastSent = some n ∧ ((s.depart p n).port p).out.length = 1 := by
  have hsend : ∀ {u : State} {c : Carriage} {hit : Option Nat} {l : Option Carriage}, u.Kept False s.base →
      ((u.send p n c hit l).port p).lastSent = some n ∧ ((u.send p n c hit l).port p).out.length = 1 := fun hu => by
    rw [State.send, State.port_modPort _ _ _ (by rw [hu.ports_length]; exact hp)]
    exact ⟨rfl, rfl⟩
  have h := s.kept_base
  unfold State.depart
  split
  · exact hsend h
  · dsimp only
    repeat' split
    · exact hsend h.make
    · exact hsend h.make.injected
    · exact hsend h.make
    · exact hsend h.make.injected.make

theorem exec_carriageDeparture {s : State} {p t : Nat} (hp : p < 16) (hs : (s.port p).st.sends = true) (hm : s.mayPass t = true)
    (hl : ∀ n, (s.port p).lastSent = some n → n < t) (hw : s.waitsFor p t = false) :
    exec (.carriageDeparture p t) s = .next ((s.atTick t).depart p t) := by
  have hany : (s.port p).lastSent.any (fun n => decide (t ≤ n)) = false := by
    cases hn : (s.port p).lastSent with
    | none => rfl
    | some n => exact decide_eq_false (Nat.not_le.2 (hl n hn))
  refine (if_neg ?_).trans (if_neg (by rw [hw]; exact Bool.false_ne_true))
  simp [hs, hm, hany, Nat.not_le.2 hp]

/-- R33: a port that has sent in a tick sends no more in it. -/
theorem exec_carriageDeparture_twice {s : State} {p t : Nat} (hl : (s.port p).lastSent = some t) (v : State) :
    exec (.carriageDeparture p t) s ≠ .next v := by
  have hno : exec (.carriageDeparture p t) s = no "the port does not send a carriage in this tick" := by
    refine if_pos (.inr (.inr (.inr ?_)))
    rw [hl]
    exact decide_eq_true (Nat.le_refl t)
  rw [hno]
  exact fun h => by cases h

/-- R240: no tick passes before a port that sends has sent its carriage. -/
theorem mayPass_before_departure {s : State} {p n t : Nat} (hp : p < s.ports.length) (hs : (s.port p).st.sends = true)
    (hl : (s.port p).lastSent = some n) (h1 : s.tick ≤ n + 1) (h2 : n + 1 < t) : s.mayPass t = false := by
  have hmem : s.port p ∈ s.ports := by
    rw [State.port, getD_of_lt _ _ hp]
    exact List.getElem_mem hp
  have hdue : n + 1 ∈ (s.port p).due := by
    have h := dueIf_mem (t := (s.port p).lastSent.getD 0 + 1) hs
    rw [hl] at h
    simp only [Port.due, List.mem_append]
    exact .inl (.inl (.inl (.inl (.inl (hl ▸ h)))))
  have hall : n + 1 ∈ s.deadlines := by
    simp only [State.deadlines, List.mem_append]
    exact .inl (.inl (.inl (.inl (.inl (.inl (.inr (List.mem_flatMap.2 ⟨_, hmem, hdue⟩)))))))
  exact mayPass_false hall h2 (Nat.lt_of_le_of_lt h1 h2)

theorem exec_stopCarriage {s : State} {ten t : Nat} {x : Timetable} (hx : (s.ten ten).tt = some x) (hb : x.st = .braking)
    (hs : (s.ten ten).stopAt = some t) (hm : s.mayPass t = true)
    (hps : ((portsOf x.ports).filter fun p => (s.port p).st == .braking && !(s.port p).lastSent.any fun n => decide (t ≤ n)) ≠ []) :
    exec (.stopCarriage ten t) s = .next (((portsOf x.ports).filter fun p =>
      (s.port p).st == .braking && !(s.port p).lastSent.any fun n => decide (t ≤ n)).foldl (fun (s : State) p => s.depart p t) (s.atTick t)) := by
  change execStopCarriage ten t s = _
  unfold execStopCarriage
  simp only [hx, hs]
  refine when_next.2 ⟨?_, rfl⟩
  rw [hb, hm]
  simpa using hps

/-- R264: once the last arrivals may no longer come, the membership is idle. -/
theorem exec_brakeIdle {s : State} {ten t stop : Nat} {x : Timetable} (hlen : ten < s.tens.length) (hx : (s.ten ten).tt = some x)
    (hb : x.st = .braking) (hs : (s.ten ten).stopAt = some stop) (ht : stop + 48 ≤ t) (hm : s.mayPass t = true) :
    ∃ u y, exec (.brakeIdle ten t) s = .next u ∧ (u.ten ten).tt = some y ∧ y.st = .loaded ∧ y.stamp = x.stamp ∧ y.ports = x.ports
      ∧ y.sending = [] ∧ y.filling = [] ∧ ∀ p, p ∈ portsOf x.ports → p < s.ports.length → (u.port p).st ≠ .braking := by
  generalize hv : (s.atTick t).movePorts ((portsOf x.ports).filter fun p => ((s.atTick t).port p).st == .braking) .idle = v
  have hk : v.Kept False s.base := hv ▸ s.kept_base.atTick.movePorts
  have hvx : (v.ten ten).tt = some x := by
    rw [← hv, State.tt_ten, State.tts_movePorts, ← State.tt_ten, State.tts_atTick, hx]
  have hd := State.tt_dropLineCarts (by rw [hk.tens_length]; exact hlen) hvx
  have hmod : (((v.dropLineCarts ten).modTt ten fun y => { y with st := .loaded, confirmed := false }).ten ten).tt =
      some { x with sending := [], filling := [], ended := [], st := .loaded, confirmed := false } := by
    rw [State.tt_modTt _ (by rw [hk.dropLineCarts.tens_length]; exact hlen), hd]
    rfl
  refine ⟨_, { x with sending := [], filling := [], ended := [], st := .loaded, confirmed := false, brakeCmds := [] },
    ?_, State.tt_finishBrakes (s := (v.dropLineCarts ten).modTt ten fun y => { y with st := .loaded, confirmed := false })
      (by rw [hk.dropLineCarts.modTt.tens_length]; exact hlen) hmod, rfl, rfl, rfl, rfl, rfl, fun p hp hlt => ?_⟩
  · change execBrakeIdle ten t s = _
    unfold execBrakeIdle
    simp only [hx, hs]
    refine when_next.2 ⟨?_, by rw [← hv]⟩
    rw [hb, hm, decide_eq_true (show stop + Config.linkMax ≤ t from ht)]
    rfl
  · have hst : (v.port p).st ≠ .braking := by
      rw [← hv, State.movePorts_st _ _ _ (by rw [s.kept_base.atTick.ports_length]; exact hlt)]
      split
      · decide
      · next hno => exact fun hbr => hno (List.mem_filter.2 ⟨hp, beq_iff_eq.2 hbr⟩)
    rwa [State.port, State.finishBrakes_ports, State.modTt, State.modTen_ports, State.dropLineCarts_ports]

theorem exec_departure {s : State} {ten t : Nat} {x : Timetable} (hx : (s.ten ten).tt = some x) (ha : x.st = .armed)
    (ht : (s.ten ten).td.toNat ≤ t) (hm : s.mayPass t = true) :
    exec (.departure ten t) s = .next (if x.confirmed then (s.atTick t).startRun ten x else (s.atTick t).startOff ten x) := by
  change execDeparture ten t s = _
  unfold execDeparture
  simp only [hx]
  refine when_next.2 ⟨?_, rfl⟩
  rw [ha, hm, decide_eq_true ht]
  rfl

/-- R260: the state in which a roll call has been taken. -/
def State.rollTaken (s : State) (ten t : Nat) (x : Timetable) : State :=
  (portsOf x.ports).foldl (fun (s : State) p => s.modPort p fun y => { y with rollMiss := BitVec.ofNat 512 (maskOf x.missing) })
    ((s.atTick t).modTt ten fun y => { y with rolled := true })

theorem State.rollTaken_tt {s : State} {ten : Nat} (t : Nat) {x : Timetable} (hlen : ten < s.tens.length) (hx : (s.ten ten).tt = some x) :
    ((s.rollTaken ten t x).ten ten).tt = some { x with rolled := true } := by
  have htts : (s.rollTaken ten t x).tts = ((s.atTick t).modTt ten fun y => { y with rolled := true }).tts := by
    apply foldl_tts
    exact fun _ _ => rfl
  rw [State.tt_ten, htts, ← State.tt_ten, State.tt_modTt _ (by rw [s.atTick_tens]; exact hlen), State.tts_atTick, hx]
  rfl

theorem State.rollTaken_kept (s : State) (ten t : Nat) (x : Timetable) : (s.rollTaken ten t x).Kept False s.base :=
  s.kept_base.atTick.modTt.foldl (fun _ _ hu => hu.modPort) _

/-- R260: the roll call brakes where a rank is missing. -/
theorem exec_rollCallCheck {s : State} {ten t : Nat} {x : Timetable} (hlen : ten < s.tens.length) (hx : (s.ten ten).tt = some x)
    (hd : x.departed = true) (hr : x.rolled = false) (ht : (s.ten ten).td.toNat + 303 ≤ t) (hm : s.mayPass t = true) :
    ∃ u, exec (.rollCallCheck ten t) s = .next u
      ∧ (x.missing = [] → ∃ y, (u.ten ten).tt = some y ∧ y.st = x.st ∧ y.rolled = true)
      ∧ (x.missing ≠ [] → ∃ y, (u.ten ten).tt = some y ∧ y.st = .braking) := by
  have htt := State.rollTaken_tt t hlen hx
  have hexec : exec (.rollCallCheck ten t) s = match x.missing with
      | [] => .next (s.rollTaken ten t x)
      | r :: _ => .next (((s.rollTaken ten t x).event 0xA3 1 (tenCtx ten 0) 0 x.stamp.toNat
          (feWord + r * 2 ^ 16 + x.missing.length % 1024 * 2 ^ 25)).orderBrake ten (BitVec.ofNat 64 ((s.ten ten).td.toNat + 256))) := by
    change execRollCallCheck ten t s = _
    unfold execRollCallCheck
    simp only [hx]
    rw [if_neg (by simp [hd, hr, hm, Nat.not_lt.2 ht])] <;> rfl
  rw [hexec]
  cases hmiss : x.missing with
  | nil => exact ⟨_, rfl, fun _ => ⟨_, htt, rfl, rfl⟩, fun h => absurd rfl h⟩
  | cons r l =>
    refine ⟨_, rfl, fun h => absurd h (List.cons_ne_nil r l), fun _ => State.tt_orderBrake (x := { x with rolled := true }) _ ?_ ?_ hd⟩
    · rw [(s.rollTaken_kept ten t x).event.tens_length]
      exact hlen
    · rw [State.tt_ten, State.tts_event, ← State.tt_ten, htt]

/-- Settles O53, clause by clause: the sending ports by what they send (`depart_port`), memberships by their timetables, and the line's
code by reading fields, bytes and digits back. -/
theorem carriagesDepart : Obligations.CarriagesDepart := by
  refine ⟨fun p t s hp hlen hs hm hl hw => ?_, fun p n t s hp hs hl => mayPass_before_departure hp hs hl,
    fun ten t s x hx hb hs hm => exec_stopCarriage hx hb hs hm, fun ten t stop s x => exec_brakeIdle, fun ten t s x => exec_departure,
    fun ten t s x => exec_rollCallCheck, fun c hl hm hf => ?_, fun cws n hlen hw => ?_⟩
  · obtain ⟨h1, h2⟩ := State.depart_port (s := s.atTick t) (n := t) (by rw [s.atTick_ports]; exact hlen)
    exact ⟨_, exec_carriageDeparture hp hs hm hl hw, rfl, h1, h2, exec_carriageDeparture_twice h1⟩
  · have hbody : leNat (carBody c) < 2 ^ 15360 := leNat_lt_of_length (carBody_length hl hm) rfl
    have hlt : carMessage c < 2 ^ 15392 := messageOf_lt hbody (crc32c_lt _)
    refine ⟨headerOf_carWords c hf, carriageOf_carMessage hl hm hf, ?_, hlt, joinMessage_codewords (Nat.lt_of_lt_of_le hlt ?_)⟩
    · rw [crcGood, toLe_carMessage hl hm, carMessage, crcGood_message hbody (crc32c_lt _), beq_self_eq_true]
    · exact Nat.pow_le_pow_right (by omega) (by omega)
  · refine ⟨fun c => codewordOf_laneBits hlen hw n, fun l hl => ?_⟩
    have hget : ((List.range 16).map fun l => laneBits cws l n).getD l 0 = laneBits cws l n := by
      rw [getD_of_lt _ _ (by simpa using hl), List.getElem_map, List.getElem_range]
    rw [hget]
    exact laneBits_marker hlen hw n hl

end Sys2Proof.Machine
end

section
/-! What memory traffic, translation, records and completions leave alone, and the settlement of O46. -/

namespace Sys2Proof.Machine

/-- A state less what memory traffic, translation, records, counts and completions change. -/
def State.still (s : State) : State :=
  { s with
    mem := {}, ev := {}, evrlost := false, cnt := [], cntNow := [], cntTick := 0, cntOvf := [], setNow := [], rc := {}, xlt := {}
    gtlb := [], clusters := [], rings := [], free := 0 }

theorem State.tens_of_still {s t : State} (h : t.still = s.still) : t.tens = s.tens :=
  show t.still.tens = s.still.tens from congrArg _ h
theorem State.ports_of_still {s t : State} (h : t.still = s.still) : t.ports = s.ports :=
  show t.still.ports = s.still.ports from congrArg _ h
theorem State.saves_of_still {s t : State} (h : t.still = s.still) : t.saves = s.saves :=
  show t.still.saves = s.still.saves from congrArg _ h

theorem State.ten_of_still {s t : State} (h : t.still = s.still) (n : Nat) : t.ten n = s.ten n := by
  rw [State.ten, State.tens_of_still h, State.ten]

theorem foldl_still {α : Type} {f : State → α → State} (h : ∀ s a, (f s a).still = s.still) (l : List α) (s : State) :
    (l.foldl f s).still = s.still :=
  List.foldlRecOn (motive := fun t => t.still = s.still) l f rfl fun t ht a _ => (h t a).trans ht

/-! ### Records, counts, completions -/

theorem State.still_event (s : State) (c d : Nat) (w : EvWho) (x i j : Nat) : (s.event c d w x i j).still = s.still := by
  obtain ⟨_, _, _, _, h⟩ := s.event_frame c d w x i j
  rw [h]
  rfl

theorem State.still_count (s : State) (k n : Nat) : (s.count k n).still = s.still := by
  obtain ⟨_, _, _, _, _, _, _, _, h⟩ := s.count_frame k n
  rw [h]
  rfl

theorem State.still_complete (s : State) (c : CmdRef) (st re x y : Nat) : (s.complete c st re x y).still = s.still := by
  obtain ⟨_, _, _, _, _, h⟩ := s.complete_frame c st re x y
  rw [h]
  rfl

theorem State.still_finish (s : State) (c : CmdRef) (st re x y : Nat) : (s.finish c st re x y).still = s.still := by
  obtain ⟨_, _, _, _, _, _, h⟩ := s.finish_frame c st re x y
  rw [h]
  rfl

theorem State.still_pinWrite (s : State) (t va : Nat) (bs : List Byte) : (s.pinWrite t va bs).still = s.still := by
  obtain ⟨_, h⟩ := s.pinWrite_frame t va bs
  rw [h]
  rfl

theorem State.still_setLost (s : State) : s.setLost.still = s.still := by
  unfold State.setLost
  dsimp only
  split
  · rfl
  · exact State.still_event ..

/-! ### Memory errors -/

theorem State.still_meetBad (s : State) (t pa n : Nat) : (s.meetBad t pa n).still = s.still := by
  have hlog : ∀ (u : State) a b, (u.logError a b).still = u.still := fun u a b => by
    unfold State.logError
    split
    · rfl
    · exact u.still_setLost
  have hstop : ∀ (u : State) g, (u.marginStop g).still = u.still := fun u g => by
    unfold State.marginStop
    split <;> rfl
  unfold State.meetBad State.foundBad
  dsimp only
  split
  · rfl
  · exact (hstop _ _).trans (hlog _ _ _)

theorem State.still_meetPinned (s : State) (t va n : Nat) : (s.meetPinned t va n).still = s.still := by
  apply foldl_still
  exact fun u p => u.still_meetBad t p.1 p.2

theorem State.still_feLost (s : State) (t code pa va n : Nat) : (s.feLost t code pa va n).still = s.still :=
  (State.still_event ..).trans (s.still_meetPinned t va n)

/-! ### Translation -/

theorem State.still_l1Install (s : State) (u : UnitRef) (e : TlbEntry) : (s.l1Install u e).still = s.still := by
  unfold State.l1Install
  split <;> rfl

theorem State.still_xlate (s : State) (u : UnitRef) (tn va : Nat) (k : Access) : (s.xlate u tn va k).2.still = s.still := by
  unfold State.xlate
  split
  · exact s.still_l1Install u _
  · rfl

theorem State.still_xlateNow (s : State) (u : UnitRef) (tn va : Nat) (k : Access) : (s.xlateNow u tn va k).2.still = s.still := by
  have hx := s.still_xlate u tn va k
  unfold State.xlateNow
  split
  · next s' he =>
    rw [he] at hx
    have hc := (s'.still_count cntWalk 1).trans hx
    dsimp only
    split
    · exact hc
    · exact (State.still_meetBad ..).trans hc
    · exact (State.still_l1Install ..).trans hc
  · exact hx

theorem State.still_piece (s : State) (u : UnitRef) (tn va n : Nat) (k : Access) (now : Bool) :
    (s.piece u tn va n k now).state.still = s.still := by
  have hx : (if now then s.xlateNow u tn (va % 2 ^ 48) k else s.xlate u tn (va % 2 ^ 48) k).2.still = s.still := by
    split
    · exact s.still_xlateNow u tn _ k
    · exact s.still_xlate u tn _ k
  unfold State.piece
  dsimp only
  generalize (if now then s.xlateNow u tn (va % 2 ^ 48) k else s.xlate u tn (va % 2 ^ 48) k) = r at hx
  split
  · split
    · split
      · exact (State.still_meetBad ..).trans hx
      · exact hx
    · exact hx
  · exact hx
  · exact hx
  · exact hx

/-! ### Writes -/

theorem State.still_poolWrite (s : State) (pa : Nat) (bs : List Byte) : (s.poolWrite pa bs).still = s.still := rfl

theorem State.still_pinnedApply (s : State) (a : PinnedAccess) (q : PinnedReq) (c : Nat) : (s.pinnedApply a q c).2.still = s.still := by
  unfold State.pinnedApply
  dsimp only
  split
  · exact State.still_poolWrite ..
  · exact (State.still_poolWrite ..).trans (State.still_count ..)
  · dsimp only
    split
    · exact State.still_poolWrite ..
    · rfl
  · rfl

theorem State.still_settleReq (s : State) (r : MemReq) : (s.settleReq r).still = s.still := by
  unfold State.settleReq
  split
  · split
    · split
      · exact State.still_pinnedApply ..
      · rfl
    · rfl
  · rfl

theorem State.still_serveBefore (s : State) (pa n : Nat) : (s.serveBefore pa n).still = s.still :=
  foldl_still State.still_settleReq _ s

theorem State.still_engineWrite (s : State) (pa : Nat) (bs : List Byte) : (s.engineWrite pa bs).still = s.still :=
  ((s.serveBefore pa bs.length).still_poolWrite pa bs).trans (s.still_serveBefore pa bs.length)

theorem still_vWriteGo (u : UnitRef) (tn : Nat) (now : Bool) (f : Nat) (s : State) (va : Nat) (bs : List Byte) :
    (vWriteGo u tn now f s va bs).state.still = s.still := by
  induction f generalizing s va bs with
  | zero => rfl
  | succ f ih =>
    have hp := s.still_piece u tn va (min bs.length (2 ^ 21 - va % 2 ^ 21)) .write now
    rw [vWriteGo]
    split
    · rfl
    · dsimp only
      split
      · next he =>
        rw [he] at hp
        exact (ih _ _ _).trans ((State.still_engineWrite ..).trans hp)
      · next he => rwa [he] at hp
      · next he => rwa [he] at hp

theorem State.still_vWrite (s : State) (u : UnitRef) (tn va : Nat) (bs : List Byte) (now : Bool) :
    (s.vWrite u tn va bs now).state.still = s.still := still_vWriteGo ..

/-! ### Rings -/

theorem State.still_refuseAt (s : State) (r reason : Nat) : (s.refuseAt r reason none).still = s.still := State.still_event ..

theorem State.still_readTail (s : State) (r : Nat) (w : Bool) : (s.readTail r w).still = s.still := by
  unfold State.readTail
  dsimp only
  split
  · rfl
  · split
    · rfl
    · split
      · exact s.still_refuseAt r _
      · rfl
    · exact (State.still_refuseAt ..).trans (State.still_feLost ..)

theorem State.still_watchAgain (s : State) (ten ctx : Nat) : (s.watchAgain ten ctx).still = s.still :=
  foldl_still (fun u r => u.still_readTail r false) _ s

/-! ### Banks -/

theorem still_pinZeroGo (t f va n : Nat) (s : State) : (pinZeroGo t f va n s).still = s.still := by
  induction f generalizing s va n with
  | zero => rfl
  | succ f ih =>
    rw [pinZeroGo]
    dsimp only
    split
    · rfl
    · rw [ih]
      split
      · exact State.still_serveBefore ..
      · rfl

theorem State.still_writeBank (s : State) (ten : Nat) (d : TableDesc) (b : Bank) (send : Bool) : (s.writeBank ten d b send).still = s.still := by
  unfold State.writeBank State.bankPut
  split
  · exact (State.still_engineWrite ..).trans (still_pinZeroGo ..)
  · exact still_pinZeroGo ..

end Sys2Proof.Machine
end

section
/-! The ends of the commands that hold a ring (R80, R116, R232, R291, R293, R354, R416–R419). -/

namespace Sys2Proof.Machine

/-! ### Loads -/

theorem Tenancy.table?_dropTable (x : Tenancy) (o : Table) (num : Nat) (h : o.num = num) : (x.dropTable o).table? num = none := by
  subst h
  refine List.find?_eq_none.2 fun t ht => ?_
  have hne : t.num ≠ o.num := bne_iff_ne.1 (List.mem_filter.1 ht).2
  exact fun hb => hne (beq_iff_eq.1 hb)

/-- R80: the tenancy in which a table that was loaded is held, in place of the one of its number. -/
def Tenancy.holdTable (x : Tenancy) (t : Table) : Tenancy :=
  let x := match x.table? t.num with
    | some o => x.dropTable o
    | none => x
  { x with tables := x.tables ++ [t], scwayRsv := x.scwayRsv ||| t.ways, loading := none }

theorem Tenancy.holdTable_spec (x : Tenancy) (t : Table) :
    (x.holdTable t).loading = none ∧ (x.holdTable t).table? t.num = some t ∧ (x.holdTable t).scwayRsv &&& t.ways = t.ways := by
  have hways : ∀ a b : W64, (a ||| b) &&& b = b := fun a b => by
    refine BitVec.eq_of_getLsbD_eq fun i _ => ?_
    rw [BitVec.getLsbD_and, BitVec.getLsbD_or]
    cases a.getLsbD i <;> cases b.getLsbD i <;> rfl
  have hadd : ∀ y : Tenancy, y.table? t.num = none → (y.tables ++ [t]).find? (fun z => z.num == t.num) = some t := fun y hy => by
    rw [List.find?_append, show y.tables.find? (fun z => z.num == t.num) = none from hy, List.find?_singleton, if_pos (beq_self_eq_true _)]
    rfl
  unfold Tenancy.holdTable
  cases ho : x.table? t.num with
  | none => exact ⟨rfl, hadd x ho, hways x.scwayRsv t.ways⟩
  | some o =>
    have hnum : o.num = t.num := beq_iff_eq.1 (List.find?_some (p := fun z : Table => z.num == t.num) ho)
    exact ⟨rfl, hadd _ (x.table?_dropTable o _ hnum), hways (x.dropTable o).scwayRsv t.ways⟩

theorem exec_tableLoadDone {ten : Nat} {s : State} {c : CmdRef} {x : Table} {b : Bool} (hl : (s.ten ten).loading = some (c, x, b)) :
    exec (.tableLoadDone ten) s = .next (((((if x.desc.train then (s.writeBank ten x.desc x.recv false).writeBank ten x.desc x.send true
      else s).modTen ten fun y => y.holdTable x).clearStatus ten x.num).finish c stDone 0 (tableRes x).1 (tableRes x).2)) := by
  change execTableLoadDone ten s = _
  unfold execTableLoadDone
  simp only [hl]
  rfl

theorem tableLoadDone_holds {ten : Nat} {s : State} {c : CmdRef} {x : Table} {b : Bool} (hlen : ten < s.tens.length)
    (hl : (s.ten ten).loading = some (c, x, b)) : ∃ t, exec (.tableLoadDone ten) s = .next t ∧
      (t.ten ten).loading = none ∧ (t.ten ten).table? x.num = some x ∧ (t.ten ten).scwayRsv &&& x.ways = x.ways := by
  refine ⟨_, exec_tableLoadDone hl, ?_⟩
  have hs : (if x.desc.train then (s.writeBank ten x.desc x.recv false).writeBank ten x.desc x.send true else s).still = s.still := by
    split
    · exact (State.still_writeBank ..).trans (State.still_writeBank ..)
    · rfl
  generalize (if x.desc.train then (s.writeBank ten x.desc x.recv false).writeBank ten x.desc x.send true else s) = u at hs
  rw [State.ten_of_still (State.still_finish ..), State.clearStatus, State.ten_of_still (State.still_pinWrite ..),
    State.ten_modTen _ _ _ (by rw [State.tens_of_still hs]; exact hlen)]
  exact (u.ten ten).holdTable_spec x

theorem mem_portsOf {m : W16} {p : Nat} (hp : p < 16) : p ∈ portsOf m ↔ m.getLsbD p = true := by
  rw [portsOf, setBits, List.mem_filter, List.mem_range, bitOf_eq_testBit, BitVec.testBit_toNat]
  exact and_iff_right hp

/-- R354: the ports of a list carry the membership, and the others keep theirs. -/
theorem State.memb_setMemb (s : State) (ps : List Nat) (m : Option Nat) {p : Nat} (hp : p < s.ports.length) :
    ((s.setMemb ps m).port p).memb = if p ∈ ps then m else (s.port p).memb := by
  induction ps generalizing s with
  | nil => rfl
  | cons q ps ih =>
    refine (ih (s.modPort q fun x => { x with memb := m }) (by rw [State.modPort, modAt_length]; exact hp)).trans ?_
    by_cases hq : q = p
    · subst hq
      rw [State.port_modPort _ _ _ hp]
      simp
    · rw [State.port_modPort_ne _ _ hq]
      simp [Ne.symm hq]

theorem State.setMemb_tens (s : State) (ps : List Nat) (m : Option Nat) : (s.setMemb ps m).tens = s.tens :=
  List.foldlRecOn (motive := fun u : State => u.tens = s.tens) ps _ rfl fun _ hu _ _ => hu

theorem timetableLoadDone_holds {ten : Nat} {s : State} {c : CmdRef} {x : Timetable} (hlen : ten < s.tens.length)
    (hl : (s.ten ten).ttLoading = some (c, x)) : ∃ t, exec (.timetableLoadDone ten) s = .next t ∧
      (t.ten ten).ttLoading = none ∧ (t.ten ten).tt = some x ∧
      ∀ p, p < s.ports.length → p < 16 → (t.port p).memb = if x.ports.getLsbD p then some ten else (s.port p).memb := by
  have hexec : exec (.timetableLoadDone ten) s = .next (((s.modTen ten fun t =>
      { t with ttLoading := none, tt := some x, usedPorts := t.usedPorts ||| x.ports }).setMemb (portsOf x.ports) (some ten)).finish c
      stDone 0 x.stamp.toNat 0) := by
    change execTimetableLoadDone ten s = _
    unfold execTimetableLoadDone
    simp only [hl]
  refine ⟨_, hexec, ?_⟩
  have hten : ∀ u : State, u.tens = (s.modTen ten fun t =>
      { t with ttLoading := none, tt := some x, usedPorts := t.usedPorts ||| x.ports }).tens → (u.ten ten) =
      { s.ten ten with ttLoading := none, tt := some x, usedPorts := (s.ten ten).usedPorts ||| x.ports } := fun u hu => by
    rw [State.ten, hu]
    exact State.ten_modTen s ten _ hlen
  have hfin := hten _ ((State.finish_tens _ c stDone 0 x.stamp.toNat 0).trans (State.setMemb_tens _ (portsOf x.ports) (some ten)))
  refine ⟨by rw [hfin], by rw [hfin], fun p hp h16 => ?_⟩
  rw [State.port, State.finish_ports]
  change ((State.setMemb _ (portsOf x.ports) (some ten)).port p).memb = _
  rw [State.memb_setMemb _ _ _ (by exact hp)]
  simp only [mem_portsOf h16]
  rfl

/-! ### Dismantles and clears -/

theorem dismantleComplete_releases {ten : Nat} {s : State} {h : Hitch} (hlen : ten < s.tens.length) (hh : s.hitch? ten h.num = some h)
    (hd : h.dismantle ≠ []) (hf : h.allFree = true) :
    ∃ t, exec (.dismantleComplete ten h.num) s = .next t ∧ t.hitch? ten h.num = none := by
  refine ⟨s.finishDismantle ten h, ?_, ?_⟩
  · change execDismantleComplete ten h.num s = _
    unfold execDismantleComplete
    rw [hh]
    refine when_next.2 ⟨?_, rfl⟩
    simp [hd, hf]
  · have htens : (s.finishDismantle ten h).still = (s.modTen ten fun t => { t with hitches := t.hitches.filter (·.num != h.num) }).still :=
      foldl_still (fun u c => u.still_finish c stDone 0 0 0) h.dismantle _
    rw [State.hitch?, State.ten_of_still htens, State.ten_modTen _ _ _ hlen]
    exact List.find?_eq_none.2 fun y hy hb => bne_iff_ne.1 (List.mem_filter.1 hy).2 (beq_iff_eq.1 hb)

theorem invalidateAllDone_clears {ten : Nat} {s : State} (hlen : ten < s.tens.length) (hne : (s.ten ten).invTaken ≠ (s.ten ten).invDone) :
    ∃ t, exec (.invalidateAllDone ten) s = .next t ∧ (t.ten ten).invDone = (s.ten ten).invDone + 1 ∧ (t.ten ten).invCmd = none
      ∧ t.rc.lines = s.rc.lines.filter fun l => !bitOf (s.ten ten).rcway.toNat l.way := by
  generalize hu : ((s.clearWays ten (s.ten ten).rcway).modTen ten fun t => { t with invDone := t.invDone + 1, invCmd := none }) = u
  have hten : u.ten ten = { s.ten ten with invDone := (s.ten ten).invDone + 1, invCmd := none } := by
    rw [← hu]
    exact State.ten_modTen _ _ _ hlen
  have hrc : u.rc.lines = s.rc.lines.filter fun l => !bitOf (s.ten ten).rcway.toNat l.way := by rw [← hu]; rfl
  have hexec : exec (.invalidateAllDone ten) s = match (s.ten ten).invCmd with
      | some c => .next (u.finish c stDone 0 0 0)
      | none => .next u := by
    rw [← hu]
    exact if_neg hne
  rw [hexec]
  cases (s.ten ten).invCmd with
  | none => exact ⟨u, rfl, by rw [hten], by rw [hten], hrc⟩
  | some c =>
    refine ⟨_, rfl, ?_, ?_, ?_⟩
    · rw [State.ten_of_still (State.still_finish ..), hten]
    · rw [State.ten_of_still (State.still_finish ..), hten]
    · rw [State.finish_rc, hrc]

/-! ### Checkpoints -/

theorem exec_checkpointDone_writing {ten : Nat} {s : State} {k : Checkpoint} (hk : (s.ten ten).ckpt = some k) (hw : k.writing = true)
    (hb : s.ckBusy ten = false) : exec (.checkpointDone ten) s = .next (s.ckFinish ten k) := by
  change execCheckpointDone ten s = _
  unfold execCheckpointDone
  simp only [hk, hw, hb]
  rfl

theorem exec_checkpointDone_written {ten : Nat} {s s' : State} {k : Checkpoint} (hk : (s.ten ten).ckpt = some k) (hw : k.writing = false)
    (hs : s.stalled (.mover (s.anyMover ten)) = false)
    (hr : ckWrite (moverEng (.ckpt ten) (.mover (s.anyMover ten)) ten) k.image s = (none, [], s')) :
    let t := s'.modTen ten fun y => { y with ckpt := some { k with image := [], writing := true } }
    exec (.checkpointDone ten) s = .next (if t.ckBusy ten then t else t.ckFinish ten k) := by
  change execCheckpointDone ten s = _
  unfold execCheckpointDone
  simp only [hk, hw, hs, hr]
  rfl

/-! ### Slots -/

theorem State.slot_modSlot {s : State} {ten n : Nat} (f : Slot → Slot) (h : ten < s.tens.length) (hn : n < (s.ten ten).slots.length) :
    ((s.modSlot ten n f).ten ten).slot n = f ((s.ten ten).slot n) := by
  rw [State.modSlot, State.ten_modTen _ _ _ h]
  exact modAt_getD _ _ _ hn

theorem State.endMove_slot {s : State} {ten n : Nat} (st : SlotSt) (h : ten < s.tens.length) (hn : n < (s.ten ten).slots.length) :
    ((s.endMove ten n st).ten ten).slot n = { (s.ten ten).slot n with st := st, move := none, blockedSince := none } := by
  have hlen : ten < (s.modSlot ten n fun x => { x with st := st, move := none, blockedSince := none }).tens.length := by
    rw [State.modSlot, State.modTen, modAt_length]
    exact h
  rw [State.endMove, State.ten_modTen _ _ _ hlen]
  exact State.slot_modSlot _ h hn

/-- R419: a context whose PARK has ended in time goes on in its slot. -/
theorem State.unpauseCtx_slot {s : State} {ten n : Nat} (m : Move) (reason : Nat) (h : ten < s.tens.length)
    (hn : n < (s.ten ten).slots.length) : (((s.unpauseCtx ten n m reason).ten ten).slot n).st = .resident := by
  have htens : (s.unpauseCtx ten n m reason).tens = (s.endMove ten n .resident).tens :=
    (State.tens_of_still (State.still_watchAgain ..)).trans (State.finish_tens ..)
  rw [State.ten, htens, ← State.ten, State.endMove_slot _ h hn]

/-- The boundary of a tick keeps how many slots a tenancy has. -/
theorem State.atTick_slots (s : State) (t n : Nat) : ((s.atTick t).ten n).slots.length = (s.ten n).slots.length := by
  unfold State.atTick
  split
  · have hobs : ∀ (u : State) i (x : Tenancy), (u.observeTen i x).slots.length = x.slots.length := fun u i x => by
      unfold State.observeTen
      split
      · rfl
      · exact List.length_mapIdx ..
    have htens : s.sendAll.tens = s.tens := by
      obtain ⟨_, _, _, _, _, _, _, _, h⟩ := s.sendAll_eq
      rw [h]
    change ((s.sendAll.tens.mapIdx fun i t => { s.sendAll.observeTen i t with led0 := t.led }).getD n {}).slots.length = _
    rw [htens]
    rcases getD_mapIdx_or (fun i (t : Tenancy) => { s.sendAll.observeTen i t with led0 := t.led }) s.tens {} n with h | ⟨i, h⟩
    · rw [h]
      rfl
    · rw [h]
      exact hobs _ _ _
  · rfl

/-! ### PARK and UNPARK -/

/-- A context's state gone from the block: of its tenancy, the slot's shared counters. -/
theorem State.ten_dropCtx {s : State} {ten : Nat} (n : Nat) (h : ten < s.tens.length) :
    (s.dropCtx ten n).ten ten = (s.ten ten).modSlot n fun x => { x with xc := [] } := State.ten_modTen s ten _ h

theorem State.dropCtx_length (s : State) (ten n : Nat) : (s.dropCtx ten n).tens.length = s.tens.length := modAt_length ..

theorem Tenancy.modSlot_length (x : Tenancy) (n : Nat) (f : Slot → Slot) : (x.modSlot n f).slots.length = x.slots.length := modAt_length ..

/-- A tenancy changed, but not in its slots. -/
theorem State.slots_modTen (s : State) (t n : Nat) {f : Tenancy → Tenancy} (h : ∀ x, (f x).slots = x.slots := by exact fun _ => rfl) :
    ((s.modTen t f).ten n).slots = (s.ten n).slots := by
  have hg : ∀ u : State, (u.ten n).slots = (u.tens.map (·.slots)).getD n (Tenancy.slots {}) := fun u => (getD_map_apply ..).symm
  rw [hg, hg, State.modTen, modAt_map h]

/-- Taking the units from their holder keeps every slot. -/
theorem State.releaseUnits_slots (s : State) (ten n : Nat) : ((s.releaseUnits ten).ten n).slots = (s.ten n).slots := by
  unfold State.releaseUnits
  split
  · next m _ =>
    obtain ⟨cl, h⟩ := s.saveUnits_eq ten m
    rw [State.slots_modTen, h]
    rfl
  · rfl

theorem parkDone_frees {ten slot : Nat} {s s1 s' : State} {m : Move} (hlen : ten < s.tens.length) (hslot : slot < (s.ten ten).slots.length)
    (hp : s.parkOf ten slot = some m) (hd : s.drained ten ((s.ten ten).slot slot).ctx = true)
    (hs1 : s1 = if (s.ten ten).holder = some slot then s.releaseUnits ten else s)
    (hw : s1.vWrite (.mover (s1.anyMover ten)) ten m.area (s1.saveHeader ten slot) true = .ok () s') :
    ∃ t, exec (.parkDone ten slot) s = .next t ∧ ((t.ten ten).slot slot).st = .empty ∧ s1.saveImage ten slot m.area ∈ t.saves := by
  generalize hu : ({ s' with saves := s'.saves.filter (fun y => !(y.ten == ten && y.area == m.area)) ++ [s1.saveImage ten slot m.area] } :
    State) = u
  have hexec : exec (.parkDone ten slot) s = .next (((u.dropCtx ten slot).endMove ten slot .empty).finish m.cmd stDone 0 0 0) := by
    subst hs1
    change execParkDone ten slot s = _
    unfold execParkDone
    simp only [hp, hd, Bool.not_true, Bool.false_eq_true, if_false, hw]
    rw [← hu]
  have hstill : s'.still = s1.still := by
    have h := s1.still_vWrite (.mover (s1.anyMover ten)) ten m.area (s1.saveHeader ten slot) true
    rwa [hw] at h
  have hs1len : s1.tens.length = s.tens.length := by
    rw [hs1]
    split
    · exact s.releaseUnits_length ten
    · rfl
  have hs1slots : (s1.ten ten).slots = (s.ten ten).slots := by
    rw [hs1]
    split
    · exact s.releaseUnits_slots ten ten
    · rfl
  have hutens' : s'.tens = s1.tens := State.tens_of_still hstill
  have hutens : u.tens = s1.tens := by rw [← hu]; exact hutens'
  have hulen : ten < u.tens.length := by rw [hutens, hs1len]; exact hlen
  have huslot : slot < (u.ten ten).slots.length := by rw [State.ten, hutens, ← State.ten, hs1slots]; exact hslot
  refine ⟨_, hexec, ?_, ?_⟩
  · have hdlen : ten < (u.dropCtx ten slot).tens.length := by rwa [State.dropCtx_length]
    have hdslot : slot < ((u.dropCtx ten slot).ten ten).slots.length := by rwa [State.ten_dropCtx _ hulen, Tenancy.modSlot_length]
    rw [State.ten_of_still (State.still_finish ..), State.endMove_slot _ hdlen hdslot]
  · rw [State.finish_saves]
    change _ ∈ u.saves
    rw [← hu]
    exact List.mem_append_right _ (List.mem_singleton_self _)

theorem parkTimeout_unpauses {ten slot t0 : Nat} {s : State} {m : Move} (hlen : ten < s.tens.length)
    (hslot : slot < (s.ten ten).slots.length) (hp : s.parkOf ten slot = some m) (hm : s.mayPass t0 = true)
    (ht : m.start + (s.ten ten).ptmo.toNat ≤ t0) (hd : s.drained ten ((s.ten ten).slot slot).ctx = false) :
    ∃ t, exec (.parkTimeout ten slot t0) s = .next t ∧ t = (s.atTick t0).unpauseCtx ten slot m 0x01
      ∧ ((t.ten ten).slot slot).st = .resident := by
  refine ⟨_, ?_, rfl, State.unpauseCtx_slot m 0x01 (by rw [s.atTick_tens]; exact hlen) (by rw [s.atTick_slots]; exact hslot)⟩
  change execParkTimeout ten slot t0 s = _
  unfold execParkTimeout
  rw [hp]
  refine when_next.2 ⟨?_, rfl⟩
  rw [hm, hd, decide_eq_true ht]
  rfl

/-- R416: a context restored keeps the tables' sizes, and its slot but for the shared counters. -/
theorem State.restoreCtx_slot {s : State} {ten n : Nat} (im : SaveImage) (h : ten < s.tens.length) (hn : n < (s.ten ten).slots.length) :
    (s.restoreCtx ten n im).tens.length = s.tens.length ∧ ((s.restoreCtx ten n im).ten ten).slots.length = (s.ten ten).slots.length
      ∧ (((s.restoreCtx ten n im).ten ten).slot n).ctx = ((s.ten ten).slot n).ctx := by
  obtain ⟨v, htens, hv⟩ : ∃ v : State, v.tens = s.tens ∧ s.restoreCtx ten n im = v.modSlot ten n fun y => { y with xc := im.xc } := by
    refine ⟨_, ?_, rfl⟩
    refine List.foldlRecOn (motive := fun u : State => u.tens = s.tens) im.maps _ ?_ fun _ hu _ _ => hu
    exact List.foldlRecOn (motive := fun u : State => u.tens = s.tens) im.scratch _ rfl fun _ hu _ _ => hu
  have hvt : v.ten ten = s.ten ten := by rw [State.ten, htens, State.ten]
  rw [hv]
  refine ⟨by rw [State.modSlot, State.modTen, modAt_length, htens], ?_, ?_⟩
  · rw [State.modSlot, State.ten_modTen _ _ _ (by rw [htens]; exact h), hvt]
    exact modAt_length ..
  · rw [State.slot_modSlot _ (by rw [htens]; exact h) (by rw [hvt]; exact hn), hvt]

/-- R416: the same of a fresh context. -/
theorem State.freshCtx_slot {s : State} {ten n : Nat} (h : ten < s.tens.length) (hn : n < (s.ten ten).slots.length) :
    (s.freshCtx ten n).tens.length = s.tens.length ∧ ((s.freshCtx ten n).ten ten).slots.length = (s.ten ten).slots.length
      ∧ (((s.freshCtx ten n).ten ten).slot n).ctx = ((s.ten ten).slot n).ctx := by
  have hrel : ∀ (u : State) id, (u.releaseFences id).tens = u.tens := fun u id => by
    unfold State.releaseFences
    dsimp only
    refine List.foldlRecOn (motive := fun v : State => v.tens = u.tens) _ _ rfl fun _ hv _ _ => (State.finish_tens ..).trans hv
  obtain ⟨v, htens, hv⟩ : ∃ v : State, v.tens = (s.dropCtx ten n).tens ∧ (s.freshCtx ten n).tens = (v.modTen ten fun t =>
      { t with
        hitches := t.hitches.filter (·.ctx != ((s.ten ten).slot n).ctx)
        unitsUsed := t.unitsUsed.filter (· != ((s.ten ten).slot n).ctx) }).tens := by
    refine ⟨_, ?_, List.foldlRecOn (motive := fun u : State => u.tens = ((s.dropCtx ten n).forgetCtx ten ((s.ten ten).slot n).ctx).tens)
      _ _ rfl fun _ hu _ _ => hu⟩
    refine List.foldlRecOn (motive := fun u : State => u.tens = (s.dropCtx ten n).tens) _ _ rfl fun u hu k _ => ?_
    exact (hrel _ _).trans ((State.complete_tens ..).trans hu)
  have hdlen := s.dropCtx_length ten n
  have hten : (s.freshCtx ten n).ten ten = { (s.dropCtx ten n).ten ten with
      hitches := ((s.dropCtx ten n).ten ten).hitches.filter (·.ctx != ((s.ten ten).slot n).ctx)
      unitsUsed := ((s.dropCtx ten n).ten ten).unitsUsed.filter (· != ((s.ten ten).slot n).ctx) } := by
    rw [State.ten, hv, ← State.ten, State.ten_modTen _ _ _ (by rw [htens, hdlen]; exact h), State.ten, htens, ← State.ten]
  refine ⟨by rw [hv, State.modTen, modAt_length, htens, hdlen], ?_, ?_⟩
  · rw [hten]
    exact (congrArg (·.slots.length) (s.ten_dropCtx n h)).trans (Tenancy.modSlot_length ..)
  · rw [hten]
    change (((s.dropCtx ten n).ten ten).slot n).ctx = _
    rw [State.ten_dropCtx n h]
    refine (congrArg Slot.ctx (modAt_getD _ (fun x : Slot => { x with xc := [] }) {} hn)).trans ?_
    rfl

theorem unparkDone_resides {ten slot : Nat} {s : State} {m : Move} (hlen : ten < s.tens.length) (hslot : slot < (s.ten ten).slots.length)
    (hst : ((s.ten ten).slot slot).st = .unparking) (hm : ((s.ten ten).slot slot).move = some m) :
    ∃ t, exec (.unparkDone ten slot) s = .next t ∧ ((t.ten ten).slot slot).st = .resident ∧ ((t.ten ten).slot slot).move = none
      ∧ ((t.ten ten).slot slot).ctx = ((s.ten ten).slot slot).ctx := by
  obtain ⟨u, ⟨hulen, huslots, huctx⟩, hexec⟩ : ∃ u : State, (u.tens.length = s.tens.length
      ∧ (u.ten ten).slots.length = (s.ten ten).slots.length ∧ ((u.ten ten).slot slot).ctx = ((s.ten ten).slot slot).ctx)
      ∧ exec (.unparkDone ten slot) s = .next (((u.endMove ten slot .resident).finish m.cmd stDone 0 0 0).watchAgain ten
          ((s.ten ten).slot slot).ctx) := by
    change ∃ u : State, _ ∧ execUnparkDone ten slot s = _
    unfold execUnparkDone
    simp only [hst, hm]
    cases m.restore.bind (s.savedBy (s.ten ten) ((s.ten ten).slot slot).ctx ((s.ten ten).slot slot)) with
    | none => exact ⟨_, State.freshCtx_slot hlen hslot, rfl⟩
    | some im => exact ⟨_, State.restoreCtx_slot im hlen hslot, rfl⟩
  refine ⟨_, hexec, ?_⟩
  rw [State.ten_of_still (State.still_watchAgain ..), State.ten_of_still (State.still_finish ..),
    State.endMove_slot _ (by rw [hulen]; exact hlen) (by rw [huslots]; exact hslot)]
  exact ⟨rfl, rfl, huctx⟩

/-- Settles O46: each clause by the theorem of its command's end. -/
theorem loadsComplete : Obligations.LoadsComplete := by
  intro ten s hlen
  refine ⟨fun c x b => tableLoadDone_holds hlen, fun c x => timetableLoadDone_holds hlen, fun h => dismantleComplete_releases hlen,
    invalidateAllDone_clears hlen, fun k => exec_checkpointDone_writing, fun k s' => exec_checkpointDone_written, fun slot hslot =>
    ⟨fun m s' hp hd => parkDone_frees hlen hslot hp hd rfl, fun m t0 => parkTimeout_unpauses hlen hslot,
      fun m => unparkDone_resides hlen hslot⟩⟩

end Sys2Proof.Machine
end

section
/-! The events of tasks and cohorts (R47–R49, R52, R62, R72, R233, R301, R310), and the settlement of O49. -/

namespace Sys2Proof.Machine

/-! ### Cohorts placed -/

/-- R301: the registers a coach starts with. -/
theorem Task.newCoach_args (k : Task) (n i : Nat) :
    (k.newCoach n i).reg true 0 0 = BitVec.ofNat 32 k.args ∧ (k.newCoach n i).reg true 1 0 = BitVec.ofNat 32 (k.args / 2 ^ 32) := by
  have hnil : smOk (0 : W32) 0 ([] : SMap W32) = true := rfl
  have hone := smSet_ok 0 (BitVec.ofNat 32 k.args) hnil
  constructor
  · change smGet 0 (smSet 0 (smSet 0 [] 0 (BitVec.ofNat 32 k.args)) 1 _) 0 = _
    rw [smGet_smSet hone, if_neg (by decide), smGet_smSet hnil, if_pos rfl]
  · change smGet 0 (smSet 0 (smSet 0 [] 0 (BitVec.ofNat 32 k.args)) 1 _) 1 = _
    rw [smGet_smSet hone, if_pos rfl]

/-- R47: the threads past NTHREAD start in the exited state. -/
theorem Task.missing_getLsbD (k : Task) (n i : Nat) {j : Nat} (hj : j < 32) :
    (k.missing n i).getLsbD j = decide (k.nthread ≤ n * (32 * k.k) + i * 32 + j) := by
  rw [Task.missing, BitVec.getLsbD_ofNat, testBit_maskOf, decide_eq_true hj, Bool.true_and]
  simp [hj]

theorem cohortPlacement_places {s : State} {k : Task} {cl lane : Nat} (hk : s.task? k.id = some k) (hp : s.mayPlace k cl lane = true) :
    exec (.cohortPlacement k.id cl lane) s = .next (s.place k cl lane) := by
  change execCohortPlacement k.id cl lane s = _
  unfold execCohortPlacement
  rw [hk]
  exact when_next.2 ⟨hp, rfl⟩

theorem Task.newCohort_coach {k : Task} {n cl lane i : Nat} {y : Coach} (h : (k.newCohort n cl lane).coaches[i]? = some y) :
    y = k.newCoach n i := by
  rw [Task.newCohort, List.getElem?_map, Option.map_eq_some_iff] at h
  obtain ⟨j, hj, rfl⟩ := h
  obtain ⟨hlt, rfl⟩ := List.getElem?_eq_some_iff.1 hj
  rw [List.getElem_range]

/-! ### Cohorts ended -/

theorem cohortEnd_ends {s : State} {k : Task} {h : Cohort} (hk : s.task? k.id = some k)
    (hh : (s.settleAll k.ten k.id h.num).cohort? k.id h.num = some h) (ho : (s.settleAll k.ten k.id h.num).cohortOver h = true) :
    let s1 := s.settleAll k.ten k.id h.num
    exec (.cohortEnd k.id h.num) s = .next (
      if s1.lastCohort k h.num then
        match s1.leftCart k with
        | some (u, n) => s1.failTask k.ten k.ctx k.id ⟨0x62, 0, h.num, u + n % 256 * 2 ^ 20⟩
        | none => (s1.dropCohort k.id h.num).endTask k
      else s1.dropCohort k.id h.num) := by
  intro s1
  change execCohortEnd k.id h.num s = _
  unfold execCohortEnd
  simp only [hk, hh, ho, Bool.not_true, Bool.false_eq_true, if_false]
  split
  · cases s1.leftCart k <;> rfl
  · rfl

/-! ### Cohorts that are stuck -/

theorem cohortStuck_faults {s : State} {k : Task} {h : Cohort} (hk : s.task? k.id = some k)
    (hh : (s.settleAll k.ten k.id h.num).cohort? k.id h.num = some h) (hst : (s.settleAll k.ten k.id h.num).stuck k h = true) :
    let s1 := s.settleAll k.ten k.id h.num
    ∃ (code n : Nat) (j : Bool), exec (.cohortStuck k.id h.num) s = .next (s1.syncFault k h.num h.cluster code n 0 j)
      ∧ (code = 0x60 ∨ code = 0x61) ∧ (code = 0x60 ↔ (h.waitedAt ≠ [] ∨ h.coaches.any (·.joinHeld) = true)) := by
  intro s1
  obtain ⟨ac, hexec⟩ : ∃ ac, exec (.cohortStuck k.id h.num) s = .next (
      if !h.waitedAt.isEmpty ∨ h.coaches.any (·.joinHeld) then
        s1.syncFault k h.num h.cluster 0x60 (h.waitedAt.headD 0xF) 0 (h.coaches.any (·.joinHeld))
      else s1.syncFault k h.num h.cluster 0x61 ac 0 false) := by
    change ∃ ac, execCohortStuck k.id h.num s = _
    unfold execCohortStuck
    simp only [hk, hh]
    exact ⟨_, when_next.2 ⟨hst, rfl⟩⟩
  have hempty : (!h.waitedAt.isEmpty) = true ↔ h.waitedAt ≠ [] := by
    rw [Bool.not_eq_true', ← Bool.not_eq_true, List.isEmpty_iff]
  rw [hexec]
  by_cases hbar : !h.waitedAt.isEmpty ∨ h.coaches.any (·.joinHeld)
  · rw [if_pos hbar]
    exact ⟨_, _, _, rfl, .inl rfl, fun _ => hbar.imp_left hempty.1, fun _ => rfl⟩
  · rw [if_neg hbar]
    exact ⟨_, _, _, rfl, .inr rfl, fun h => absurd h (by decide), fun hb => absurd (hb.imp_left hempty.2) hbar⟩

theorem sharedWaitLimit_faults {c : CoachRef} {t : Nat} {s : State} {k : Task} {h : Cohort} {y : Coach} {ac since : Nat}
    (hk : s.task? c.task = some k) (hh : s.cohort? c.task c.cohort = some h) (hy : s.coach? c = some y)
    (hw : y.sharedSince k = some (ac, since)) (hm : s.mayPass t = true) (hl : k.swlim ≠ 0) (ht : since + k.swlim < t) :
    exec (.sharedWaitLimit c t) s = .next ((s.atTick t).syncFault k h.num h.cluster 0x61 ac 0 false) := by
  change execSharedWaitLimit c t s = _
  unfold execSharedWaitLimit
  simp only [hk, hh, hy, hw]
  refine when_next.2 ⟨?_, rfl⟩
  rw [hm, decide_eq_true hl, decide_eq_true ht]
  rfl

/-- Settles O49: placement by the new cohort's coaches, the other clauses by the theorem of their event. -/
theorem taskEvents : Obligations.TaskEvents := by
  refine ⟨fun s k cl lane hk hp => ⟨k.newCohort k.next cl lane, cohortPlacement_places hk hp, rfl, rfl, rfl, rfl, ?_, rfl, rfl,
    fun i y hy => ?_⟩, fun s k h hk => cohortEnd_ends hk, fun s k h hk => cohortStuck_faults hk,
    fun c t s k h y ac since => sharedWaitLimit_faults⟩
  · exact (List.length_map ..).trans List.length_range
  · obtain rfl := Task.newCohort_coach hy
    obtain ⟨h0, h1⟩ := k.newCoach_args k.next i
    exact ⟨rfl, rfl, rfl, rfl, h0, h1, fun j hj => k.missing_getLsbD k.next i hj⟩

end Sys2Proof.Machine
end

section
/-! The events of the memory port and the row cache (R111–R116, R397, R403, R404, R474, R501), and the settlement of O50. -/

namespace Sys2Proof.Machine

/-! ### Lists of granules -/

theorem mem_insertAsc {n a : Nat} {l : List Nat} : a ∈ insertAsc n l ↔ a = n ∨ a ∈ l := by
  induction l with
  | nil => simp [insertAsc]
  | cons b l ih =>
    unfold insertAsc
    split
    · simp
    · split
      · next h2 => simp [h2]
      · rw [List.mem_cons, ih, List.mem_cons]
        exact or_left_comm

theorem mem_sortDistinct {a : Nat} {l : List Nat} : a ∈ sortDistinct l ↔ a ∈ l := by
  induction l with
  | nil => rfl
  | cons b l ih => exact mem_insertAsc.trans ((or_congr_right ih).trans List.mem_cons.symm)

/-- R397: the granules a response finds bad. -/
theorem State.mem_newBad {s : State} {r : MemReq} {um : BitVec 8} {g : Nat} :
    g ∈ s.newBad r um ↔ g ∈ maskGranules r.pa um ∨ (g ∈ s.mem.bad ∧ meets r.pa r.len g = true) := by
  rw [State.newBad, mem_sortDistinct, List.mem_append, List.mem_filter]

/-! ### Responses -/

/-- The state in which a response is taken: the requests of its tick sent, its corrected errors counted. -/
def State.responding (s : State) (link tag ce : Nat) : State :=
  (if (s.mem.req? link tag).any (!·.sent) then s.sendAll else s).count cntMemCe ce

/-- R397: the state in which a response's marks have been taken. -/
def State.marked (s : State) (r : MemReq) (link tag : Nat) (um pm : BitVec 8) : State :=
  ((s.serveEarlier r).dropReq link tag).takeMarks r um pm

section
variable {s : State} {link tag : Nat} {um pm : BitVec 8} {sat : Bool} {ce mis : Nat}

/-- R474: a response to no request is counted. -/
theorem memoryResponse_stray (h : s.mem.req? link tag = none) :
    exec (.memoryResponse link tag um pm sat ce mis) s = .next ((s.responding link tag ce).count cntStray 1) := by
  have hresp : s.responding link tag ce = s.count cntMemCe ce := by
    rw [State.responding, h]
    rfl
  have hreq : (s.count cntMemCe ce).mem.req? link tag = none := by
    obtain ⟨pl, po, ba, hm⟩ : s.mem.SameButPool (s.count cntMemCe ce).mem := by
      unfold State.count
      split
      · exact .refl _
      · dsimp only
        generalize (if s.cntTick = s.tick then s.cntNow else []) = now
        split
        · exact .refl _
        · split
          · exact .refl _
          · exact .trans ⟨_, _, _, rfl⟩ (State.event_mem ..)
    rw [hm]
    exact h
  change execMemoryResponse link tag um pm sat ce mis s = _
  unfold execMemoryResponse
  simp only [h, Option.any_none, Bool.false_eq_true, if_false, hreq]
  rw [hresp]

variable {r : MemReq} (hr : (s.responding link tag ce).mem.req? link tag = some r)
include hr

/-- R404: a response to the generator. -/
theorem memoryResponse_margin (hw : r.who = .margin) : exec (.memoryResponse link tag um pm sat ce mis) s =
    .next (((s.responding link tag ce).marked r link tag um pm).marginBack
      ((((s.responding link tag ce).marked r link tag um pm).badGranules r).length + mis)) := by
  change execMemoryResponse link tag um pm sat ce mis s = _
  unfold execMemoryResponse
  change (match (s.responding link tag ce).mem.req? link tag with
    | none => _
    | some r => _) = _
  simp only [hr, hw] <;> rfl

/-- R397, R398: a response to any other client: bad granules found, poison met, or its data. -/
theorem memoryResponse_client (hw : r.who ≠ .margin) : exec (.memoryResponse link tag um pm sat ce mis) s =
    .next (State.tokenHome (match (s.responding link tag ce).newBad r um, ((s.responding link tag ce).marked r link tag um pm).badGranules r with
      | g :: _, _ => ((s.responding link tag ce).marked r link tag um pm).badResponse r true (64 * g)
      | [], g :: _ => ((s.responding link tag ce).marked r link tag um pm).badResponse r false (64 * g)
      | [], [] => ((s.responding link tag ce).marked r link tag um pm).goodResponse r) r.who) := by
  change execMemoryResponse link tag um pm sat ce mis s = _
  unfold execMemoryResponse
  change (match (s.responding link tag ce).mem.req? link tag with
    | none => _
    | some r => _) = _
  simp only [hr]
  cases hwho : r.who <;> first | exact absurd hwho hw | rfl

end

/-! ### Fills (R111, R112, R115) -/

/-- Bytes that reach a waiting read, and a token that comes home, leave the row cache and the memory port as they were. -/
theorem State.mapFetch_rc (s : State) (c : MemClient) (f : Fetch → Fetch) : (s.mapFetch c f).rc = s.rc ∧ (s.mapFetch c f).mem = s.mem := by
  unfold State.mapFetch
  split <;> exact ⟨rfl, rfl⟩

theorem State.tokenHome_rc (s : State) (c : MemClient) : (s.tokenHome c).rc = s.rc ∧ (s.tokenHome c).mem = s.mem := by
  unfold State.tokenHome
  extract_lets busy
  split
  · exact ⟨rfl, rfl⟩
  · split <;> exact ⟨rfl, rfl⟩

/-- The row cache after a register's fill. -/
def State.filled (s : State) (m : MissReg) : RowCache :=
  let rc := { s.rc with
    miss := s.rc.miss.filter fun x => !(x.slice == m.slice && x.n == m.n)
    freed := smSet 0 s.rc.freed m.slice (smGet 0 s.rc.freed m.slice + 1) }
  if m.marked then rc else rc.install (s.ten m.ten).rcway m.line (s.missSectors m)

/-- An installed line changes neither the registers nor their counts, and is placed by the lines alone. -/
theorem RowCache.install_spec (c : RowCache) (ways : W16) (line : Nat) (secs : SMap (List Byte)) (miss : List MissReg) (freed : SMap W32) :
    let u := ({ c with miss := miss, freed := freed } : RowCache).install ways line secs
    u.miss = miss ∧ u.freed = freed ∧ u.lines = (c.install ways line secs).lines := by
  have hway : ({ c with miss := miss, freed := freed } : RowCache).fillWay ways (rcSlice line) (rcSet line) line =
      c.fillWay ways (rcSlice line) (rcSet line) line := rfl
  intro u
  unfold u RowCache.install
  dsimp only
  rw [hway]
  cases c.fillWay ways (rcSlice line) (rcSet line) line <;> exact ⟨rfl, rfl, rfl⟩

theorem State.filled_spec (s : State) (m : MissReg) :
    (s.filled m).miss = s.rc.miss.filter (fun y => !(y.slice == m.slice && y.n == m.n))
      ∧ (s.filled m).freed = smSet 0 s.rc.freed m.slice (smGet 0 s.rc.freed m.slice + 1)
      ∧ (m.marked = true → (s.filled m).lines = s.rc.lines)
      ∧ (m.marked = false → (s.filled m).lines = (s.rc.install (s.ten m.ten).rcway m.line (s.missSectors m)).lines) := by
  obtain ⟨h1, h2, h3⟩ := s.rc.install_spec (s.ten m.ten).rcway m.line (s.missSectors m)
    (s.rc.miss.filter fun y => !(y.slice == m.slice && y.n == m.n)) (smSet 0 s.rc.freed m.slice (smGet 0 s.rc.freed m.slice + 1))
  unfold State.filled
  cases m.marked with
  | true => exact ⟨rfl, rfl, fun _ => rfl, nofun⟩
  | false => exact ⟨h1, h2, nofun, fun _ => h3⟩

theorem rowCacheFill_fills {s : State} {m : MissReg} (hm : (s.rc.miss.find? fun y => y.slice == m.slice && y.n == m.n) = some m)
    (hb : s.memBusy (.miss m.slice m.n) = false) : ∃ t, exec (.rowCacheFill m.slice m.n) s = .next t ∧ t.rc = s.filled m ∧ t.mem = s.mem := by
  refine ⟨m.waits.eraseDups.foldl (fun (s : State) c => s.tokenHome c) (m.waits.foldl
    (fun (s : State) c => s.mapFetch c fun f => f.fill s m.slice m.n) { s with rc := s.filled m }), ?_, ?_⟩
  · change execRowCacheFill m.slice m.n s = _
    unfold execRowCacheFill
    simp only [hm, hb, Bool.false_eq_true, if_false]
    rfl
  · refine List.foldlRecOn (motive := fun t : State => t.rc = s.filled m ∧ t.mem = s.mem) _ _ ?_ fun t ht c _ => ?_
    · refine List.foldlRecOn (motive := fun t : State => t.rc = s.filled m ∧ t.mem = s.mem) _ _ ⟨rfl, rfl⟩ fun t ht c _ => ?_
      obtain ⟨h1, h2⟩ := t.mapFetch_rc c fun f => f.fill t m.slice m.n
      exact ⟨h1.trans ht.1, h2.trans ht.2⟩
    · obtain ⟨h1, h2⟩ := t.tokenHome_rc c
      exact ⟨h1.trans ht.1, h2.trans ht.2⟩

theorem rcwayClearDone_takes {ten : Nat} {s : State} {w : W16} (hlen : ten < s.tens.length) (hw : (s.ten ten).rcwayNew = some w) :
    ∃ t, exec (.rcwayClearDone ten) s = .next t ∧ (t.ten ten).rcway = w ∧ (t.ten ten).rcwayNew = none
      ∧ t.rc.lines = s.rc.lines.filter fun l => !bitOf ((s.ten ten).rcway ^^^ w).toNat l.way := by
  have hexec : exec (.rcwayClearDone ten) s =
      .next ((s.clearWays ten ((s.ten ten).rcway ^^^ w)).modTen ten fun x => { x with rcway := w, rcwayNew := none }) := by
    change execRcwayClearDone ten s = _
    unfold execRcwayClearDone
    simp only [hw]
  have hten := State.ten_modTen (s.clearWays ten ((s.ten ten).rcway ^^^ w)) ten (fun x => { x with rcway := w, rcwayNew := none }) hlen
  exact ⟨_, hexec, by rw [hten], by rw [hten], rfl⟩

/-! ### The traffic generator (R403, R501) -/

section
variable {s : State} {v : W64} (ho : s.opened = true)
include ho

theorem exec_memMargin : exec (.memMargin v) s = .next (s.writeMargin v) := hostWrite_opened ho

theorem memMargin_denied (ha : s.marginAllowed (marginTen (v &&& 0x7FFFF)) (marginGrp (v &&& 0x7FFFF)) = false) :
    exec (.memMargin v) s = .next s.setLockvio := by
  rw [exec_memMargin ho, State.writeMargin]
  exact congrArg _ (if_pos (by rw [ha]; rfl))

variable (ha : s.marginAllowed (marginTen (v &&& 0x7FFFF)) (marginGrp (v &&& 0x7FFFF)) = true)
include ha

theorem memMargin_allowed : exec (.memMargin v) s = .next (
    if marginEn (v &&& 0x7FFFF) ∧ !s.mem.marginStarts (v &&& 0x7FFFF) then { s with mem := { s.mem with margin := v &&& 0x7FFFF &&& 0x7FFFE } }
    else if marginEn (v &&& 0x7FFFF) ∧ !s.memBusy .margin then
      State.marginIssue { s with mem := { s.mem with margin := v &&& 0x7FFFF, marginNext := 0 } }
    else { s with mem := { s.mem with margin := v &&& 0x7FFFF } }) := by
  rw [exec_memMargin ho, State.writeMargin]
  exact congrArg _ (if_neg (by rw [ha]; exact Bool.false_ne_true))

end

/-- Settles O50: the responses by what a response finds, the fill by the row cache it leaves, the margin register by its checks. -/
theorem memoryPortEvents : Obligations.MemoryPortEvents := by
  refine ⟨fun link tag um pm sat ce mis s => ⟨memoryResponse_stray, fun r hr => ⟨memoryResponse_margin hr, fun hw hn hg => ?_,
    fun g gs hw hn hg => ?_, fun g => State.mem_newBad, fun g gs hw hn => ?_⟩⟩, fun s m hm hb => ?_,
    fun ten s w => rcwayClearDone_takes, fun v s ho => ⟨memMargin_denied ho, fun ha he => ?_, fun ha he hs => ?_, fun ha he hs hb => ?_⟩⟩
  · refine (memoryResponse_client hr hw).trans ?_
    rw [show (s.responding link tag ce).newBad r um = [] from hn,
      show ((s.responding link tag ce).marked r link tag um pm).badGranules r = [] from hg]
    rfl
  · refine (memoryResponse_client hr hw).trans ?_
    rw [show (s.responding link tag ce).newBad r um = [] from hn,
      show ((s.responding link tag ce).marked r link tag um pm).badGranules r = g :: gs from hg]
    rfl
  · refine (memoryResponse_client hr hw).trans ?_
    rw [show (s.responding link tag ce).newBad r um = g :: gs from hn]
    rfl
  · obtain ⟨t, ht, hrc, hmem⟩ := rowCacheFill_fills hm hb
    obtain ⟨h1, h2, h3, h4⟩ := s.filled_spec m
    exact ⟨t, ht, by rw [hrc, h1], by rw [hrc, h2], hmem, fun h => by rw [hrc, h3 h], fun h => by rw [hrc, h4 h]⟩
  · refine (memMargin_allowed ho ha).trans (congrArg _ ?_)
    rw [he, if_neg (fun h => Bool.false_ne_true h.1), if_neg (fun h => Bool.false_ne_true h.1)]
  · exact (memMargin_allowed ho ha).trans (congrArg _ (if_pos ⟨he, by rw [hs]; rfl⟩))
  · refine (memMargin_allowed ho ha).trans (congrArg _ ?_)
    rw [hs, if_neg (fun h => Bool.false_ne_true h.2), if_pos ⟨he, by rw [hb]; rfl⟩]

end Sys2Proof.Machine
end

section
/-! The events of windows and tensor cores (R67, R68, R278–R285, R500), and the settlement of O52. -/

namespace Sys2Proof.Machine

/-! ### The tables' copies -/

section
variable {s : State} {pa n : Nat}

theorem tableEntry_ok (h : s.lost pa n = none) : s.tableEntry pa n = .ok (s.poolBytes pa n) := by
  rw [State.tableEntry, h]
  rfl

/-- Log 47: an entry whose data is lost leaves its record and is not taken. -/
theorem tableEntry_lost (h : s.lost pa n ≠ none) : ∃ t, s.tableEntry pa n = .error t ∧
    ∃ f : FaultRec, f = s.badDataRec pa n none xltWord ∧ t = (s.meetBad 0 pa n).event f.code f.detail {} 0 f.info0 f.info1 :=
  ⟨_, if_pos (Option.isSome_iff_ne_none.2 h), _, rfl, rfl⟩

variable {k : Nat}

theorem commitSend_ok {bs : List Byte} (h : s.tableEntry (s.xlt.sendBase.toNat * 2 ^ 12 + 16 * k) 16 = .ok bs) :
    s.commitSend k = { s with xlt := { s.xlt with send := smSet {} s.xlt.send k (sendEntry bs) } } := by
  rw [State.commitSend, h]

theorem commitSend_error {t : State} (h : s.tableEntry (s.xlt.sendBase.toNat * 2 ^ 12 + 16 * k) 16 = .error t) :
    s.commitSend k = t := by
  rw [State.commitSend, h]

theorem commitRecv_ok {bs : List Byte} (h : s.tableEntry (s.xlt.recvBase.toNat * 2 ^ 13 + 32 * k) 32 = .ok bs) :
    s.commitRecv k = { s with xlt := { s.xlt with
      recv := smSet {} s.xlt.recv k (recvEntry bs)
      withdrawn := if (smGet {} s.xlt.recv k).en = true ∧ smGet {} s.xlt.recv k ≠ recvEntry bs then
        insertNew s.xlt.withdrawn k else s.xlt.withdrawn } } := by
  rw [State.commitRecv, h]

theorem commitRecv_error {t : State} (h : s.tableEntry (s.xlt.recvBase.toNat * 2 ^ 13 + 32 * k) 32 = .error t) :
    s.commitRecv k = t := by
  rw [State.commitRecv, h]

theorem commitPod_high (h : 64 ≤ k) : s.commitPod k = s := if_pos h

theorem commitPod_ok {bs : List Byte} (hk : k < 64) (h : s.tableEntry (s.xlt.podBase.toNat * 2 ^ 11 + 32 * k) 32 = .ok bs) :
    s.commitPod k = { s with xlt := { s.xlt with pod := smSet {} s.xlt.pod k (podEntry bs) } } := by
  rw [State.commitPod, if_neg (Nat.not_le.2 hk), h]

theorem commitPod_error {t : State} (hk : k < 64) (h : s.tableEntry (s.xlt.podBase.toNat * 2 ^ 11 + 32 * k) 32 = .error t) :
    s.commitPod k = t := by
  rw [State.commitPod, if_neg (Nat.not_le.2 hk), h]
end

section
variable {n : BitVec 8} {hm : HostMem} {s : State} (h : InPool hm)
include h

theorem exec_winCommitSend :
    exec (.winCommitSend n hm) s = (s.hosted hm).hostWrite ((s.hosted hm).commitSend n.toNat) := by
  change execWinCommitSend n hm s = _
  rw [execWinCommitSend, withHost_inPool h]
theorem exec_winCommitRecv :
    exec (.winCommitRecv n hm) s = (s.hosted hm).hostWrite ((s.hosted hm).commitRecv n.toNat) := by
  change execWinCommitRecv n hm s = _
  rw [execWinCommitRecv, withHost_inPool h]
theorem exec_podexpCommit :
    exec (.podexpCommit n hm) s = (s.hosted hm).hostWrite ((s.hosted hm).commitPod n.toNat) := by
  change execPodexpCommit n hm s = _
  rw [execPodexpCommit, withHost_inPool h]
end

theorem hostWrite_closed {s t : State} (h : s.opened = false) : s.hostWrite t = .next s := by
  rw [hostWrite_eq, h]
  rfl

/-! ### A withdrawn entry released -/

theorem mem_filter_ne {k n : Nat} {l : List Nat} (h : k ≠ n) : k ∈ l.filter (· != n) ↔ k ∈ l := by
  simp [List.mem_filter, h]

theorem windowReleased_next {n : Nat} {s : State} (hn : n ∈ s.xlt.withdrawn) (hs : ∀ x ∈ s.xlt.served, x.win ≠ n) :
    exec (.windowReleased n) s = .next (State.event
      { s with xlt := { s.xlt with withdrawn := s.xlt.withdrawn.filter (· != n) } } 0xA5 0 {} 0 n xltWord) := by
  have hw : (!s.xlt.withdrawn.contains n) = false := by simp [hn]
  have hr : s.xlt.served.any (·.win == n) = false := by simpa using hs
  change execWindowReleased n s = _
  rw [execWindowReleased, hw, hr]
  rfl

/-! ### Requests taken -/

theorem requestRow_eq {i : Instr} {p op : Nat} (h : requestRow i = some (p, op)) (s : State) : exec i s = s.serveNext p op := by
  unfold requestRow at h
  split at h <;> cases h <;> rfl

/-- R266: taking a buffer's first message; the buffer is free again once it is empty. -/
theorem takeMsg_cons (m : Msg) (ms : List Msg) (bs : List (List Msg)) :
    takeMsg ((m :: ms) :: bs) = some (m, if ms = [] then bs else ms :: bs, if ms = [] then 1 else 0) := by
  cases ms <;> rfl

/-- The port without the first message of its buffers. -/
theorem takeRequest_cons {s : State} {p : Nat} {m : Msg} {ms : List Msg} {bs : List (List Msg)}
    (h : (s.port p).vc0 = (m :: ms) :: bs) :
    s.takeRequest p m.op = some (m, s.modPort p fun x => { x with
      vc0 := if ms = [] then bs else ms :: bs, give0 := if ms = [] then x.give0 + 1 else x.give0 }) := by
  rw [State.takeRequest, h, takeMsg_cons]
  cases ms <;> exact if_pos rfl

theorem takeResp_cons {s : State} {p : Nat} {m : Msg} {ms : List Msg} {bs : List (List Msg)}
    (h : (s.port p).vc1 = (m :: ms) :: bs) :
    s.takeResp p = some (m, s.modPort p fun x => { x with
      vc1 := if ms = [] then bs else ms :: bs, give1 := if ms = [] then x.give1 + 1 else x.give1 }) := by
  rw [State.takeResp, h, takeMsg_cons]
  cases ms <;> rfl

section
variable {i : Instr} {p : Nat} {s : State} {m : Msg} {ms : List Msg} {bs : List (List Msg)}

/-- R281: the oldest request of a port served, where some mover can carry it. -/
theorem exec_request (hi : requestRow i = some (p, m.op)) (h : (s.port p).vc0 = (m :: ms) :: bs) (hw : s.serveWaits m = false) :
    exec i s = .next ((s.modPort p fun x => { x with
      vc0 := if ms = [] then bs else ms :: bs, give0 := if ms = [] then x.give0 + 1 else x.give0 }).serve p m) := by
  rw [requestRow_eq hi, State.serveNext, takeRequest_cons h]
  simp only [hw]
  rfl
end

section
variable {s : State} {p : Nat} {m : Msg}

theorem serve_pod_refused (hk : m.kind = 1) (h : s.xlt.podEn = false ∨ s.xlt.pod.any (fun e => e.2.serves m) = false) :
    s.serve p m = s.respond m rsRefused [] := by
  rw [State.serve, if_pos hk, if_neg]
  rintro ⟨h1, h2⟩
  exact h.elim (fun h => Bool.noConfusion (h.symm.trans h1)) fun h => Bool.noConfusion (h.symm.trans h2)

theorem serve_pod (hk : m.kind = 1) (h1 : s.xlt.podEn = true) (h2 : s.xlt.pod.any (fun e => e.2.serves m) = true) :
    s.serve p m = s.servePod m := by
  rw [State.serve, if_pos hk, if_pos ⟨h1, h2⟩]

variable (hk : m.kind ≠ 1)
include hk

theorem serve_withdrawn (h : m.win ∈ s.xlt.withdrawn) : s.serve p m = s.respond m rsRefused [] := by
  rw [State.serve, if_neg hk]
  exact if_pos (List.contains_iff_mem.2 h)

variable (h : m.win ∉ s.xlt.withdrawn)
include h

theorem serve_refused {st : Nat} (hr : (smGet {} s.xlt.recv m.win).refuse m = some st) : s.serve p m = s.respond m st [] := by
  rw [State.serve, if_neg hk]
  simp only [if_neg (mt List.contains_iff_mem.1 h), hr]

theorem serve_taken (hr : (smGet {} s.xlt.recv m.win).refuse m = none) :
    s.serve p m =
      let e := smGet {} s.xlt.recv m.win
      s.serveWindow p e.ten ((e.lbase + m.addr) % 2 ^ 48) ((s.freeMover e.ten).getD (s.anyMover e.ten)) m := by
  rw [State.serve, if_neg hk]
  simp only [if_neg (mt List.contains_iff_mem.1 h), hr]
end

theorem serveWindow_ok {s u : State} {p ten va mover : Nat} {m : Msg} {data : List Byte}
    (h : (serveOp ten (windowTarget (moverEng (.order 0) (.mover mover) ten) va) m).go s = (.ok data, u)) :
    s.serveWindow p ten va mover m = u.respond m rsOk data := by
  rw [State.serveWindow]
  simp only [h]

/-! ### Pod requests -/

section
variable {s : State}

theorem OM.go_get (s : State) : (get : OM State).go s = (.ok s, s) := rfl
theorem OM.go_pure {α : Type} (a : α) (s : State) : (pure a : OM α).go s = (.ok a, s) := rfl
theorem OM.go_modify (f : State → State) (s : State) : (modify f : OM Unit).go s = (.ok (), f s) := rfl

/-- R385: bytes of one leaf in a group that the pod may use. -/
theorem go_oPodGroup {pa n : Nat} {k : Access} (h : leafPieces (n / 2 ^ 21 + 2) pa n = [(pa, n)])
    (hg : bitOf s.mem.svc.toNat (channelGroup pa) = true) : (oPodGroup pa n k).go s = (.ok (), s) := by
  rw [oPodGroup, OM.go_bind, OM.go_get]
  simp only [OM.go_pure, h, List.find?_cons, hg, List.find?_nil, Bool.not_true]

theorem go_oPoison {ten pa n : Nat} (h : s.lost pa n = none) : (oPoison ten pa n).go s = (.ok (), s) := by
  rw [oPoison, OM.go_bind, OM.go_get]
  simp only [h]
  rfl

variable {m : Msg} (hl : leafPieces (m.span / 2 ^ 21 + 2) m.addr m.span = [(m.addr, m.span)])
  (hg : bitOf s.mem.svc.toNat (channelGroup m.addr) = true)
include hl hg

theorem servePod_read (hm : m.op = 1) (hb : s.lost m.addr m.span = none) :
    s.servePod m = s.respond m rsOk (s.poolBytes m.addr m.len) := by
  have hspan : m.span = m.len := if_pos hm
  rw [hspan] at hl hb
  have hgo : (serveOp 0 (podTarget m.addr) m).go s = (.ok (s.poolBytes m.addr m.len), s) := by
    rw [serveOp, if_pos (show m.op = opRead from hm)]
    simp only [podTarget, OM.go_bind, go_oPodGroup hl hg, go_oPoison hb, OM.go_get, OM.go_pure]
  rw [State.servePod, hgo]

theorem servePod_write (hm : m.op = 2) :
    s.servePod m = ((s.soil m.addr m.data.length).engineWrite m.addr m.data).respond m rsOk [] := by
  have hr : m.op ≠ opRead := by rw [hm]; decide
  have hspan : m.span = m.data.length := if_neg hr
  rw [hspan] at hl
  have hgo : (serveOp 0 (podTarget m.addr) m).go s = (.ok [], s.peerWrite m.addr m.data) := by
    rw [serveOp, if_neg hr, if_pos (show m.op = opWrite from hm)]
    simp only [podTarget, OM.go_bind, go_oPodGroup hl hg, OM.go_modify, OM.go_pure]
  rw [State.servePod, hgo]
  rfl
end

/-! ### Responses and timeouts -/

section
variable {s : State} {p : Nat} {m : Msg} {t : State} (h : s.takeResp p = some (m, t))
include h

theorem exec_resp_ok {w : WReq} (hw : t.xlt.wreqs.find? (fun w => w.rtag == m.rtag && w.sent) = some w) (hm : m.status = rsOk) :
    exec (.resp p) s = .next (((t.dropWReq m.rtag).deliver w m).reqHome w) := by
  change execResp p s = _
  rw [execResp, h]
  simp only [hw, if_pos hm]

theorem exec_resp_failed {w : WReq} (hw : t.xlt.wreqs.find? (fun w => w.rtag == m.rtag && w.sent) = some w)
    (hm : m.status ≠ rsOk) : exec (.resp p) s =
      .next (((t.dropWReq m.rtag).failRequest w ((t.dropWReq m.rtag).statusRec w m.status)).reqHome w) := by
  change execResp p s = _
  rw [execResp, h]
  simp only [hw, if_neg hm]

variable (hw : t.xlt.wreqs.find? (fun w => w.rtag == m.rtag && w.sent) = none)
include hw

/-- R284: a response after its request's timeout is counted and discarded. -/
theorem exec_resp_late {l : W32 × Nat} (hl : t.xlt.late.find? (·.1 == m.rtag) = some l) : exec (.resp p) s =
    .next (State.modTen { t with xlt := { t.xlt with late := t.xlt.late.filter (· != l) } } l.2 fun x =>
      { x with ab := { x.ab with late := x.ab.late + 1 } }) := by
  change execResp p s = _
  rw [execResp, h]
  simp only [hw, hl]

theorem exec_resp_stray (hl : t.xlt.late.find? (·.1 == m.rtag) = none) : exec (.resp p) s = .next t := by
  change execResp p s = _
  rw [execResp, h]
  simp only [hw, hl]
end

theorem exec_windowTimeout {s : State} {w : WReq} {t : Nat} (h : s.xlt.wreqs.find? (·.rtag == w.rtag) = some w)
    (ht : w.tick + (s.ten w.ten).winLimit ≤ t) (hp : s.mayPass t = true) : exec (.windowTimeout w.rtag t) s =
      let u := (s.atTick t).dropWReq w.rtag
      let v : State := { u with xlt := { u.xlt with late := if w.sent then u.xlt.late ++ [(w.rtag, w.ten)] else u.xlt.late } }
      .next ((v.failRequest w ⟨0x40, 0, 0, unitWord (v.reqUnit w.client)⟩).reqHome w) := by
  have hc : ¬ (t < w.tick + (s.ten w.ten).winLimit ∨ (!s.mayPass t) = true) := by
    rw [hp]
    simp [ht]
  change execWindowTimeout w.rtag t s = _
  rw [execWindowTimeout, h]
  simp only [if_neg hc]

/-! ### The tensor cores -/

section
variable {s : State} {ten slot cl off n : Nat}

/-- R65, R498: what the model checks of an access to a window. -/
theorem windowHolds_iff : s.windowHolds ten slot cl off n = true ↔
    (((s.ten ten).slot slot).st = .resident ∨ ((s.ten ten).slot slot).st = .parking) ∧ s.granted ten cl = true
      ∧ bitOf ((s.ten ten).slot slot).xwClusters cl = true ∧ off + n ≤ ((s.ten ten).slot slot).xwSize := by
  simp only [State.windowHolds, Bool.and_eq_true, Bool.or_eq_true, beq_iff_eq, decide_eq_true_eq, and_assoc]

end

/-! ### O52 -/

/-- Settles O52: each event is its rule; the state in which a request is served or answered is the one with the message taken, whose
windows, tenancies and memory are as they were. -/
theorem windowEvents : Obligations.WindowEvents := by
  unfold Obligations.WindowEvents
  refine ⟨?_, ?_, ?_, ?_, ?_, ?_, ?_, ?_⟩
  · intro n hm s0 hin s lost
    refine ⟨fun ho => ⟨?_, ?_, ?_⟩, fun ho => ⟨⟨fun hl => ?_, fun hl => ?_⟩, ⟨fun hl => ?_, fun hl => ?_⟩,
      fun hn => ?_, fun hn hl => ?_, fun hn hl => ?_⟩⟩
    · exact (exec_winCommitSend hin).trans (hostWrite_closed ho)
    · exact (exec_winCommitRecv hin).trans (hostWrite_closed ho)
    · exact (exec_podexpCommit hin).trans (hostWrite_closed ho)
    · exact (exec_winCommitSend hin).trans ((hostWrite_opened ho).trans (congrArg _ (commitSend_ok (tableEntry_ok hl))))
    · obtain ⟨t, ht, hf⟩ := tableEntry_lost hl
      exact ⟨t, (exec_winCommitSend hin).trans ((hostWrite_opened ho).trans (congrArg _ (commitSend_error ht))), hf⟩
    · exact (exec_winCommitRecv hin).trans ((hostWrite_opened ho).trans (congrArg _ (commitRecv_ok (tableEntry_ok hl))))
    · obtain ⟨t, ht, hf⟩ := tableEntry_lost hl
      exact ⟨t, (exec_winCommitRecv hin).trans ((hostWrite_opened ho).trans (congrArg _ (commitRecv_error ht))), hf⟩
    · exact (exec_podexpCommit hin).trans ((hostWrite_opened ho).trans (congrArg _ (commitPod_high hn)))
    · exact (exec_podexpCommit hin).trans ((hostWrite_opened ho).trans (congrArg _ (commitPod_ok hn (tableEntry_ok hl))))
    · obtain ⟨t, ht, hf⟩ := tableEntry_lost hl
      exact ⟨t, (exec_podexpCommit hin).trans ((hostWrite_opened ho).trans (congrArg _ (commitPod_error hn ht))), hf⟩
  · intro n s hn hs
    refine ⟨_, windowReleased_next hn hs, ?_⟩
    obtain ⟨_, _, _, _, hf⟩ := State.event_frame { s with xlt := { s.xlt with withdrawn := s.xlt.withdrawn.filter (· != n) } }
      0xA5 0 {} 0 n xltWord
    have hx := congrArg State.xlt hf
    simp only at hx
    rw [hx]
    exact ⟨fun h => by simp at h, fun k hk => mem_filter_ne hk, rfl, rfl⟩
  · intro p s m ms bs i hi hv hw t e va mover
    have hx := exec_request hi hv hw
    refine ⟨⟨_, hx⟩, fun hk h => ?_, fun hk h1 h2 => ?_, fun hk h => ?_, fun st hk h hr => ?_, fun data u hk h hr hgo => ?_⟩
    · exact hx.trans (congrArg _ (serve_pod_refused (s := t) hk h))
    · exact hx.trans (congrArg _ (serve_pod (s := t) hk h1 h2))
    · exact hx.trans (congrArg _ (serve_withdrawn (s := t) hk h))
    · exact hx.trans (congrArg _ (serve_refused (s := t) hk h hr))
    · exact hx.trans (congrArg _ ((serve_taken (s := t) hk h hr).trans (serveWindow_ok hgo)))
  · intro s m hl hb hg
    exact ⟨fun hm => servePod_read hl hg hm hb, servePod_write hl hg⟩
  · intro s m st data
    exact ⟨_, rfl, rfl, rfl, rfl, rfl, rfl⟩
  · intro p s m ms bs hv t
    have ht := takeResp_cons hv
    refine ⟨fun w hw => ?_, fun l hw hl => exec_resp_late ht hw hl, exec_resp_stray ht⟩
    refine ⟨exec_resp_ok ht hw, exec_resp_failed ht hw, fun id pa hc hop => ?_⟩
    rw [State.deliver, hc]
    exact if_pos hop
  · intro t s w
    exact exec_windowTimeout
  · intro ten slot cl s x holds runs fails
    refine ⟨fun off bs => ⟨fun h => if_pos (windowHolds_iff.2 h), fun h => if_neg (mt windowHolds_iff.1 h)⟩,
      fun off n => ⟨fun h => if_pos (windowHolds_iff.2 h), fun h => if_neg (mt windowHolds_iff.1 h)⟩,
      fun xc => ⟨fun h hx => if_pos ⟨windowHolds_iff.2 h, hx⟩, fun h => if_neg ?_⟩,
      fun xc n => ⟨fun h hx => if_pos ⟨windowHolds_iff.2 h, hx⟩, fun h => if_neg ?_⟩,
      fun h => if_pos (windowHolds_iff.2 h), fun h => if_neg (mt windowHolds_iff.1 h), rfl⟩
    · exact fun ⟨hh, hx⟩ => h.elim (absurd (windowHolds_iff.1 hh)) (Nat.not_le.2 hx)
    · exact fun ⟨hh, hx⟩ => h.elim (absurd (windowHolds_iff.1 hh)) (Nat.not_le.2 hx)

end Sys2Proof.Machine
end

section
/-! Coaches and lanes: what brings a coach to its next instruction, and how an instruction issues, keep the tables' sizes and the
canonical form. -/

namespace Sys2Proof.Machine

/-- What an outcome's next state keeps; a fault or a refusal has none. -/
def OutKept (P : Prop) (z : Base) : Out → Prop
  | .next t => t.Kept P z
  | _ => True

theorem OutKept.of_next {P : Prop} {z : Base} {o : Out} {t : State} (h : OutKept P z o) (ho : o = .next t) : t.Kept P z := by
  rwa [ho] at h

theorem OutKept.when {P : Prop} {z : Base} {b : Bool} {why : String} {t : State} (h : t.Kept P z) : OutKept P z (when b why t) := by
  unfold Machine.when
  split
  · exact h
  · trivial

theorem OutKept.hostWrite {P : Prop} {z : Base} {s t : State} (hs : s.Kept P z) (ht : t.Kept P z) : OutKept P z (s.hostWrite t) := by
  change State.Kept P z (if s.opened then t else s)
  split
  · exact ht
  · exact hs

/-! ### A coach's registers and paths -/

namespace Coach.Canonical

variable {k : Coach}

theorem setG (h : k.Canonical) (n j : Nat) (v : W32) : (k.setG n j v).Canonical := by
  obtain ⟨hg, hu, hp⟩ := h
  exact ⟨smSet_ok _ _ hg, hu, hp⟩

theorem setU (h : k.Canonical) (n : Nat) (v : W32) : (k.setU n v).Canonical := by
  obtain ⟨hg, hu, hp⟩ := h
  exact ⟨hg, smSet_ok _ _ hu, hp⟩

theorem setPred (h : k.Canonical) (p : Nat) (m v : W32) : (k.setPred p m v).Canonical := by
  obtain ⟨hg, hu, hp⟩ := h
  exact ⟨hg, hu, smSet_ok _ _ hp⟩

theorem setRegs (h : k.Canonical) (u : Bool) (n j : Nat) (vs : List W32) : (k.setRegs u n j vs).Canonical := by
  induction vs generalizing k n with
  | nil => exact h
  | cons v vs ih =>
    rw [Coach.setRegs]
    split
    · exact ih (h.setU n v) _
    · exact ih (h.setG n j v) _

theorem writeD (h : k.Canonical) (w : LaneWord) (l : List Nat) (f : Nat → List W32) : (k.writeD w l f).Canonical := by
  unfold Coach.writeD
  split
  · split
    · exact h
    · exact h.setRegs ..
  · exact List.foldlRecOn (motive := Coach.Canonical) l _ h fun y hy j _ => hy.setRegs ..

theorem step (h : k.Canonical) : k.step.Canonical := h

theorem resume (h : k.Canonical) (n : Nat) : (k.resume n).Canonical := by
  unfold Coach.resume
  split
  · exact h
  · exact h

theorem putOut (h : k.Canonical) (d : Nat) : (k.putOut d).Canonical := h
theorem swap (h : k.Canonical) (n : Nat) : (k.swap n).Canonical := (h.putOut _).resume n

theorem popStack (h : k.Canonical) : k.popStack.Canonical := by
  unfold Coach.popStack
  split
  · exact h
  · exact h
  · exact h

end Coach.Canonical

/-- The coach and the cohort that an instruction sees are canonical. -/
def LaneCtx.Canonical (x : LaneCtx) : Prop := x.k.Canonical ∧ x.cohort.Canonical

/-- The effect of an instruction keeps what a state is held to. -/
def BodyKept (P : Prop) (z : Base) (body : State → LaneCtx → State) : Prop :=
  ∀ s x, s.Kept P z → (P → x.Canonical) → (body s x).Kept P z

namespace State.Kept

variable {P : Prop} {z : Base} {s : State}

theorem setBody (h : s.Kept P z) {i : Nat} {b : OrderBody} : (s.setBody i b).Kept P z := h
theorem dropOrder (h : s.Kept P z) {i : Nat} : (s.dropOrder i).Kept P z := h
theorem poisonBad (h : s.Kept P z) {gs : List Nat} : (s.poisonBad gs).Kept P z := h
theorem takeServed (h : s.Kept P z) {t : Nat} {p : Served → Bool} : (s.takeServed t p).2.Kept P z := h

/-! ### The path a coach runs next -/

theorem endWait (h : s.Kept P z) {t : Nat} {c : CoachRef} {k : Coach} (hk : P → k.Canonical) :
    (s.endWait t c k).1.Kept P z ∧ (P → (s.endWait t c k).2.Canonical) := by
  unfold State.endWait
  dsimp only
  split
  · split
    · split
      · exact ⟨h, hk⟩
      · split
        · exact ⟨h.modHitch, fun p => Coach.Canonical.setU (k := { k with wait := .none, pc := _ }) (hk p) ..⟩
        · exact ⟨h, hk⟩
    · exact ⟨h, hk⟩
  · split
    · split
      · exact ⟨h, hk⟩
      · split
        · exact ⟨h.modHitch, fun p => Coach.Canonical.setRegs (k := { k with wait := .none, pc := _ }) (hk p) ..⟩
        · exact ⟨h, hk⟩
    · exact ⟨h, hk⟩
  · exact ⟨h, hk⟩

theorem settleStep (h : s.Kept P z) {t : Nat} {c : CoachRef} {k : Coach} (hk : P → k.Canonical) :
    (s.settleStep t c k).1.Kept P z ∧ (P → (s.settleStep t c k).2.1.Canonical) := by
  unfold State.settleStep
  dsimp only
  repeat' split
  · exact h.endWait hk
  · exact ⟨h, fun p => ((hk p).putOut _).popStack⟩
  · exact ⟨h, fun p => (hk p).swap _⟩
  · exact ⟨h, hk⟩
  · exact ⟨h, hk⟩
  · exact ⟨h, fun p => (hk p).popStack⟩
  · exact ⟨h, fun p => (hk p).resume _⟩
  · exact ⟨h, fun p => (hk p).popStack⟩
  · exact ⟨h, hk⟩

theorem settleGo (h : s.Kept P z) {t : Nat} {c : CoachRef} {k : Coach} (hk : P → k.Canonical) (f : Nat) :
    (settleGo t c f s k).1.Kept P z ∧ (P → (Machine.settleGo t c f s k).2.Canonical) := by
  induction f generalizing s k with
  | zero => exact ⟨h, hk⟩
  | succ f ih =>
    have hs := h.settleStep (t := t) (c := c) hk
    rw [Machine.settleGo]
    split
    · next he => exact ih (by rw [he] at hs; exact hs.1) (by rw [he] at hs; exact hs.2)
    · next he => rwa [he] at hs

theorem settle (h : s.Kept P z) {t : Nat} {c : CoachRef} : (s.settle t c).Kept P z := by
  unfold State.settle
  split
  · next k hk =>
    obtain ⟨hs, hc⟩ := h.settleGo (t := t) (c := c) (fun p => h.coach? p hk) 200
    exact hs.setCoach hc
  · exact h

/-! ### Faults of a lane -/

theorem instrFault (h : s.Kept P z) {x : LaneCtx} {a b : Nat} : (s.instrFault x a b).Kept P z := h.failTask
theorem laneXlt (h : s.Kept P z) {x : LaneCtx} {a b : Nat} {k : Access} : (s.laneXlt x a b k).Kept P z := h.failTask
theorem laneBarred (h : s.Kept P z) {x : LaneCtx} {a b d : Nat} {k : Access} : (s.laneBarred x a d b k).Kept P z := h.failTask
theorem syncFault (h : s.Kept P z) {t : Task} {a b c d e : Nat} {j : Bool} : (s.syncFault t a b c d e j).Kept P z := h.failTask
theorem laneLost (h : s.Kept P z) {x : LaneCtx} : (s.laneLost x).Kept P z := h.meetBad.failTask
theorem counterFault (h : s.Kept P z) {x : LaneCtx} {a : Nat} : (s.counterFault x a).Kept P z := h.syncFault

/-! ### An instruction issued -/

theorem keepFetched (h : s.Kept P z) {c t pc : Nat} {w : W64} : (s.keepFetched c t pc w).Kept P z := by
  unfold State.keepFetched
  split
  · exact h.modCluster
  · exact h

theorem laneStart (h : s.Kept P z) {t : Task} {c : CoachRef} {clu : Nat} {w : W64} : (s.laneStart t c clu w).Kept P z := by
  unfold State.laneStart
  dsimp only
  split
  · exact h.settle.count.keepFetched
  · exact h.settle.count

theorem laneRun (h : s.Kept P z) {c : CoachRef} {cls op : Nat} {w : LaneWord} {undef body : State → LaneCtx → State}
    (hu : BodyKept P z undef) (hb : BodyKept P z body) : (s.laneRun c cls op w undef body).Kept P z := by
  unfold State.laneRun
  split
  · have hs : ∀ {t : Task} {n : Nat}, (s.laneStart t c n (wordBits w cls op)).Kept P z := h.laneStart
    dsimp only
    split
    · next hco hk =>
      have hx := fun p => (⟨hs.coach? p hk, hs.cohort? p hco⟩ : _ ∧ _)
      split
      · exact hs.laneXlt
      · split
        · exact hs.laneBarred
        · split
          · exact hs.laneLost
          · split
            · exact hu _ _ hs hx
            · exact hs.instrFault
            · split
              · exact hs.setCoach fun p => (hx p).1.step
              · exact hb _ _ hs hx
    · exact hs
  · exact h

theorem lane (h : s.Kept P z) {c : CoachRef} {cls op : Nat} {w : LaneWord} {body : State → LaneCtx → State} (hb : BodyKept P z body) :
    OutKept P z (s.lane c cls op w body) :=
  .when (h.laneRun (fun _ _ hs _ => hs.instrFault) hb)

theorem advance (h : s.Kept P z) {x : LaneCtx} {k : Coach} (hk : P → k.Canonical) : (s.advance x k).Kept P z :=
  h.setCoach fun p => (hk p).step

end State.Kept

/-! ### The shared shapes of instructions -/

section
variable {P : Prop} {z : Base}

theorem BodyKept.aluBody {f : Coach → LaneWord → Nat → W32} : BodyKept P z (aluBody f) := fun _ _ hs hx =>
  hs.advance fun p => (hx p).1.writeD ..

theorem BodyKept.aluBody64 {f : Coach → LaneWord → Nat → W64} : BodyKept P z (aluBody64 f) := fun _ _ hs hx =>
  hs.advance fun p => (hx p).1.writeD ..

theorem BodyKept.predBody {f : Coach → LaneWord → Nat → Bool} : BodyKept P z (predBody f) := fun _ _ hs hx =>
  hs.advance fun p => (hx p).1.setPred ..
end

end Sys2Proof.Machine
end

section
/-! Requests to memory and to other blocks, walks, and reads through the row cache: each keeps the tables' sizes and the canonical form. -/

namespace Sys2Proof.Machine

namespace State.Kept

variable {P : Prop} {z : Base} {s : State}

/-! ### The memory port's requests -/

theorem memRequest (h : s.Kept P z) {op : Access} {pa len ten unit : Nat} {va : Option Nat} {lat : Bool} {who : MemClient} :
    (s.memRequest op pa len ten va unit lat who).Kept P z := h

theorem memRequests (h : s.Kept P z) {op : Access} {pa n ten unit : Nat} {va : Option Nat} {lat : Bool} {who : MemClient} :
    (s.memRequests op pa n ten va unit lat who).Kept P z := h.foldl (fun _ _ hu => hu.memRequest) _

theorem joinReq (h : s.Kept P z) {m : Merge} {pa n : Nat} {w : MemClient} {t : State} (hj : s.joinReq m pa n = some (w, t)) :
    t.Kept P z := by
  obtain ⟨r, -, hr⟩ := Option.map_eq_some_iff.1 hj
  cases hr
  exact h

/-! ### Requests to other blocks -/

theorem request (h : s.Kept P z) {t pa op len : Nat} {cmp : W64} {data : List Byte} {who : WClient} {va : Option Nat} :
    (s.request t pa op len cmp data who va).Kept P z := h

theorem readRequests (h : s.Kept P z) {t pa n : Nat} {who : Nat → WClient} {va : Option Nat} : (s.readRequests t pa n who va).Kept P z :=
  h.foldl (fun _ _ hu => hu.request) _

theorem writeRequests (h : s.Kept P z) {t pa : Nat} {bs : List Byte} {who : Nat → WClient} {va : Option Nat} :
    (s.writeRequests t pa bs who va).Kept P z := h.foldl (fun _ _ hu => hu.request) _

theorem farAsk (h : s.Kept P z) {t : Nat} {task : Option Nat} {who : FarWho} {ps : List ((Nat × Nat) × Nat)} :
    (s.farAsk t task who ps).Kept P z := h.foldl (fun _ _ hu => hu.with_rest.readRequests) _

theorem farDrop (h : s.Kept P z) {who : FarWho} : (s.farDrop who).Kept P z := h

/-! ### Walks -/

theorem startWalk (h : s.Kept P z) {t va : Nat} {k : Access} {u : UnitRef} {w : Serving} : (s.startWalk t va k u w).Kept P z := by
  unfold State.startWalk
  dsimp only
  split
  · exact h
  · split
    · exact h.with_rest.count
    · exact h

theorem piecesGo (h : s.Kept P z) {u : UnitRef} {t : Nat} {k : Access} (f : Nat) {va n : Nat} {acc : List (Nat × Nat)} :
    (piecesGo u t k f s va n acc).2.Kept P z := by
  induction f generalizing s va n acc with
  | zero => exact h
  | succ f ih =>
    have hhit : ∀ e : Option TlbEntry, State.Kept P z (match e with | some e => s.l1Install u e | none => s) := fun e => by
      cases e
      · exact h
      · exact h.l1Install
    rw [Machine.piecesGo]
    split
    · exact h
    · dsimp only
      split
      · next e _ =>
        split
        · exact hhit e
        · exact ih (hhit e)
      · exact h
      · exact h
      · exact h

theorem tryPieces (h : s.Kept P z) {u : UnitRef} {t va n : Nat} {k : Access} : (s.tryPieces u t va n k).2.Kept P z := h.piecesGo _

/-! ### The row cache -/

theorem fetchSectors (h : s.Kept P z) {t line slice n unit : Nat} {va : Option Nat} {lat : Bool} {l : List Nat} :
    (s.fetchSectors t line slice n va unit lat l).Kept P z := by
  unfold State.fetchSectors
  split
  · exact h
  · exact h.memRequest

theorem joinMiss (h : s.Kept P z) {m : Merge} {slice n line : Nat} {l : List Nat} {t : State} (hj : s.joinMiss m slice n line l = some t) :
    t.Kept P z := by
  unfold State.joinMiss at hj
  split at hj
  · cases hj
  · obtain ⟨⟨w, u⟩, hu, rfl⟩ := Option.map_eq_some_iff.1 hj
    exact h.joinReq hu

theorem rcRead (h : s.Kept P z) {who : MemClient} {t unit : Nat} {va : Option Nat} {m : Merge} {f : Fetch} {p : Nat × Nat} :
    (s.rcRead who t va unit m f p).1.Kept P z := by
  unfold State.rcRead
  dsimp only
  split
  · exact h.count
  · split
    · exact h
    · split
      · next hj => exact (h.joinMiss hj).with_rest
      · exact h.count.fetchSectors.with_rest
    · exact h.count.fetchSectors.with_rest

theorem fetchGo (h : s.Kept P z) {who : MemClient} {t unit : Nat} {m : Merge} (ps : List (Nat × Nat)) {f : Fetch} :
    (fetchGo who t unit m ps s f).1.Kept P z := by
  induction ps generalizing s f with
  | nil => exact h
  | cons p ps ih =>
    have hr := h.rcRead (who := who) (t := t) (unit := unit) (va := f.vaOf p.1) (m := m) (f := f) (p := p)
    rw [Machine.fetchGo]
    split
    · next he =>
      rw [he] at hr
      exact ih hr
    · next he => rwa [he] at hr

theorem fetchMore (h : s.Kept P z) {who : MemClient} {t unit : Nat} {f : Fetch} {m : Merge} : (s.fetchMore who t unit f m).1.Kept P z :=
  h.fetchGo _

theorem fetchPast (h : s.Kept P z) {who : MemClient} {t unit : Nat} {m : Merge} {f : Fetch} {p : Nat × Nat} :
    (s.fetchPast who t unit m f p).1.Kept P z := by
  refine List.foldlRecOn (motive := fun x : State × Fetch => x.1.Kept P z) _ _ h fun x hx q _ => ?_
  split
  · next hj => exact hx.joinReq hj
  · exact hx.memRequest

theorem fetchAdd (h : s.Kept P z) {who : MemClient} {wwho : Nat → WClient} {t unit : Nat} {b : Bool} {f : Fetch} {ps : List (Nat × Nat)}
    {m : Merge} : (s.fetchAdd who wwho t unit b f ps m).1.Kept P z := by
  refine List.foldlRecOn (motive := fun x : State × Fetch => x.1.Kept P z) _ _ h fun x hx q _ => ?_
  split
  · split
    · exact hx.fetchPast
    · exact hx.fetchMore
  · exact hx.fetchPast
  · exact hx.readRequests

theorem fetchStart (h : s.Kept P z) {who : MemClient} {wwho : Nat → WClient} {t unit : Nat} {va : Option Nat} {l b : Bool}
    {ps : List (Nat × Nat)} {m : Merge} : (s.fetchStart who wwho t unit va l b ps m).1.Kept P z := h.fetchAdd

theorem rcNow (h : s.Kept P z) {t : Nat} {p : Nat × Nat} : (s.rcNow t p).2.Kept P z := by
  unfold State.rcNow
  dsimp only
  split
  · exact h.count
  · exact h.with_rest.count

theorem readNow (h : s.Kept P z) {t pa n : Nat} {b : Bool} : (s.readNow t pa n b).2.Kept P z := by
  unfold State.readNow
  split
  · exact h
  · exact List.foldlRecOn (motive := fun x : List Byte × State => x.2.Kept P z) _ _ h fun x hx q _ => hx.rcNow

end State.Kept

/-! ### Effects that may fault -/

/-- An effect of an order keeps what a state is held to, whether it succeeds or stops. -/
def OM.Keeps (P : Prop) (z : Base) {α : Type} (m : OM α) : Prop := ∀ s, s.Kept P z → (m.go s).2.Kept P z

namespace OM.Keeps

variable {P : Prop} {z : Base} {α β : Type}

theorem bind {m : OM α} {f : α → OM β} (hm : m.Keeps P z) (hf : ∀ a, (f a).Keeps P z) : (m >>= f).Keeps P z := fun s hs => by
  have h1 := hm s hs
  rw [OM.go_bind]
  split
  · next he => exact hf _ _ (by rwa [he] at h1)
  · next he => rwa [he] at h1

/-- What follows a read of the state may use that the state is kept. -/
theorem get_bind {f : State → OM β} (hf : ∀ s, s.Kept P z → (f s).Keeps P z) : ((get : OM State) >>= f).Keeps P z :=
  fun s hs => hf s hs s hs

theorem pure (a : α) : (Pure.pure a : OM α).Keeps P z := fun _ hs => hs
theorem throw (e : OFault) : (MonadExcept.throw e : OM α).Keeps P z := fun _ hs => hs
theorem set {t : State} (ht : t.Kept P z) : (MonadStateOf.set t : OM PUnit).Keeps P z := fun _ _ => ht
theorem modified {f : State → State} (hf : ∀ s, s.Kept P z → (f s).Kept P z) : (modify f : OM PUnit).Keeps P z := hf

theorem forM {l : List α} {f : α → OM PUnit} (hf : ∀ a, (f a).Keeps P z) : (l.forM f).Keeps P z := by
  induction l with
  | nil => exact pure _
  | cons a l ih => exact (hf a).bind fun _ => ih

theorem foldlM {l : List α} {f : β → α → OM β} (hf : ∀ b a, (f b a).Keeps P z) (b : β) : (l.foldlM f b).Keeps P z := by
  induction l generalizing b with
  | nil => exact pure _
  | cons a l ih => exact (hf b a).bind ih

theorem mapM {l : List α} {f : α → OM β} (hf : ∀ a, (f a).Keeps P z) : (l.mapM f).Keeps P z := by
  induction l with
  | nil => exact pure _
  | cons a l ih =>
    rw [List.mapM_cons]
    exact (hf a).bind fun _ => ih.bind fun _ => pure _

/-- An early stop before the rest of an effect. -/
theorem guard {c : Prop} [Decidable c] {e : OM PUnit} {f : PUnit → OM β} (he : e.Keeps P z) (hf : (f ⟨⟩).Keeps P z) :
    (if c then e >>= f else f ⟨⟩).Keeps P z := by
  split
  · exact he.bind fun _ => hf
  · exact hf

/-- An effect whose result is not used, made before the rest where the condition holds. -/
theorem guard_of {c : Prop} [Decidable c] {e : OM α} {m : OM β} (he : e.Keeps P z) (hm : m.Keeps P z) :
    (if c then e >>= fun _ => m else m).Keeps P z := by
  split
  · exact he.bind fun _ => hm
  · exact hm

/-- One of two effects before the rest. -/
theorem either {c : Prop} [Decidable c] {m n : OM α} {f : α → OM β} (hm : m.Keeps P z) (hn : n.Keeps P z) (hf : ∀ a, (f a).Keeps P z) :
    (if c then m >>= f else n >>= f).Keeps P z := by
  split
  · exact hm.bind hf
  · exact hn.bind hf

theorem map {m : OM α} {f : α → β} (hm : m.Keeps P z) : (f <$> m).Keeps P z := by
  rw [map_eq_pure_bind]
  exact hm.bind fun _ => pure _

end OM.Keeps

end Sys2Proof.Machine
end

section
/-! What the engine orders share (R326–R330) keeps the tables' sizes and the canonical form. -/

namespace Sys2Proof.Machine

namespace OM.Keeps

variable {P : Prop} {z : Base}

theorem oBad {f : FaultRec} : (oBad f).Keeps P z := throw _
theorem oWait : oWait.Keeps P z := throw _

theorem oCheck {b : Bool} {f : FaultRec} : (oCheck b f).Keeps P z := by
  unfold Machine.oCheck
  split
  · exact pure _
  · exact throw _

/-- A translated access, whose every outcome is kept. -/
theorem oV {α : Type} {k : Access} {f : State → VRes α} (hf : ∀ s, s.Kept P z → (f s).state.Kept P z) : (oV k f).Keeps P z :=
  get_bind fun s hs => by
    have h := hf s hs
    split
    · next he =>
      rw [he] at h
      exact (set h).bind fun _ => pure _
    · next he =>
      rw [he] at h
      exact (set h).bind fun _ => throw _
    · next he =>
      rw [he] at h
      exact (set h).bind fun _ => throw _

/-! ### Memory and scratchpad through a unit -/

theorem spBound {x : Eng} {k : Access} {a n : Nat} : (spBound x k a n).Keeps P z := by
  unfold Machine.spBound
  split
  · exact pure _
  · exact throw _

theorem oSpRead {x : Eng} {a n : Nat} : (oSpRead x a n).Keeps P z := spBound.bind fun _ => get_bind fun _ _ => pure _

theorem oSpWrite {x : Eng} {a : Nat} {bs : List Byte} : (oSpWrite x a bs).Keeps P z :=
  spBound.bind fun _ => modified fun _ hs => hs.spWrite

theorem oPieces {x : Eng} {va n : Nat} {k : Access} : (oPieces x va n k).Keeps P z :=
  get_bind fun _ hs => (set hs.tryPieces).bind fun _ => by
    split
    · exact pure _
    · exact throw _
    · exact throw _

theorem oPool {x : Eng} {va pa n : Nat} {b : Bool} : (oPool x va pa n b).Keeps P z :=
  get_bind fun _ hs => by
    split
    · exact (set hs.readNow).bind fun _ => pure _
    · exact (set hs.meetBad).bind fun _ => throw _

theorem eRead {x : Eng} {va n : Nat} {b : Bool} : (eRead x va n b).Keeps P z :=
  oPieces.bind fun ps => get_bind fun s hs => by
    dsimp only
    repeat' split
    · exact throw _
    · exact throw _
    · refine (mapM fun p => ?_).bind fun _ => pure _
      split
      · exact oPool
      · exact pure _

end OM.Keeps

theorem State.Kept.putPieces {P : Prop} {z : Base} {s : State} (h : s.Kept P z) {t : Nat} {who : Nat → WClient} {ps : List (Nat × Nat)}
    {va : Nat} {bs : List Byte} : (s.putPieces t who ps va bs).Kept P z := by
  induction ps generalizing s va bs with
  | nil => exact h
  | cons p ps ih =>
    refine ih ?_
    split
    · exact h.engineWrite
    · exact h.writeRequests

namespace OM.Keeps

variable {P : Prop} {z : Base}

theorem eWrite {x : Eng} {va : Nat} {bs : List Byte} : (eWrite x va bs).Keeps P z :=
  get_bind fun _ _ => guard (throw _) <| oPieces.bind fun _ => modified fun _ hs => hs.putPieces

theorem oRead {x : Eng} {w a n : Nat} : (oRead x w a n).Keeps P z := by
  unfold Machine.oRead
  repeat' split
  · exact pure _
  · exact oSpRead
  · exact eRead

theorem oWrite {x : Eng} {w a : Nat} {bs : List Byte} : (oWrite x w a bs).Keeps P z := by
  unfold Machine.oWrite
  repeat' split
  · exact pure _
  · exact oSpWrite
  · exact eWrite

theorem oWord {x : Eng} {w a n : Nat} : (oWord x w a n).Keeps P z := oRead.bind fun _ => pure _
theorem oWords {x : Eng} {w a k n : Nat} : (oWords x w a k n).Keeps P z := oRead.bind fun _ => pure _

end OM.Keeps

namespace State.Kept

variable {P : Prop} {z : Base} {s t : State}

/-- What an effect leaves, whatever it comes to. -/
theorem go {α : Type} (h : s.Kept P z) {m : OM α} (hm : m.Keeps P z) {r : Except OFault α} (he : m.go s = (r, t)) : t.Kept P z := by
  have := hm s h
  rwa [he] at this

theorem orderStop (h : s.Kept P z) (ht : t.Kept P z) {ten ctx task : Nat} {u : UnitRef} {who : FarWho} {f : OFault} :
    (s.orderStop t ten ctx task u who f).Kept P z := by
  unfold State.orderStop
  split
  · split
    · exact h.pendFault
    · exact ht.failTask
  · exact ht.failTask
  · exact h
  · exact h.startWalk
  · exact h.farAsk

end State.Kept

namespace OM.Keeps

variable {P : Prop} {z : Base}

theorem oStatus {ten table a n : Nat} : (oStatus ten table a n).Keeps P z := by
  unfold Machine.oStatus
  split
  · exact pure _
  · refine get_bind fun s hs => ?_
    split
    · next ht => exact set (hs.statusAdd ht)
    · exact (set hs.statusFault).bind fun _ => throw _

/-! ### Acceptance -/

theorem oTen {a : Acc} : (oTen a).Keeps P z := get_bind fun _ _ => pure _
theorem need {a : Acc} {b : Bool} {n : Nat} : (a.need b n).Keeps P z := oCheck

theorem desc {a : Acc} {n al : Nat} {p : Bool} : (a.desc n al p).Keeps P z := by
  unfold Acc.desc
  split
  · exact need.bind fun _ => oSpRead
  · exact need.bind fun _ => get_bind fun _ _ => guard (throw _) eRead

theorem descOk {a : Acc} {n al : Nat} {p : Bool} {ms : List Nat} : (a.descOk n al p ms).Keeps P z :=
  desc.bind fun _ => need.bind fun _ => pure _

theorem aw {a : Acc} {w al : Nat} : (a.aw w al).Keeps P z := need.bind fun _ => need

theorem table {a : Acc} {n : Nat} : (a.table n).Keeps P z := oTen.bind fun _ => by
  split
  · exact pure _
  · exact throw _

end OM.Keeps

end Sys2Proof.Machine
end

section
/-! The gather engines (R85–R108, R332–R334) keep the tables' sizes and the canonical form. -/

namespace Sys2Proof.Machine

namespace State.Kept

variable {P : Prop} {z : Base} {s : State}

theorem setMark (h : s.Kept P z) {c t x n p v : Nat} : (s.setMark c t x n p v).Kept P z := h.modCluster
theorem clearMap (h : s.Kept P z) {c t x n : Nat} : (s.clearMap c t x n).Kept P z := h.modCluster
theorem gatherIssued (h : s.Kept P z) {t c : Nat} : (s.gatherIssued t c).Kept P z := h.modTen.count
theorem gtokBack (h : s.Kept P z) {t : Nat} : (s.gtokBack t).Kept P z := h.modTen

end State.Kept

namespace OM.Keeps

variable {P : Prop} {z : Base}

/-! ### Owners and indices -/

theorem excFind {x : Eng} {d : TableDesc} {row : Nat} : (excFind x d row).Keeps P z := eRead.bind fun _ => pure _

theorem ownerOf {x : Eng} {d : TableDesc} {self row : Nat} : (ownerOf x d self row).Keeps P z := by
  unfold Machine.ownerOf
  split
  · exact pure _
  · exact pure _
  · exact pure _
  · refine excFind.bind fun _ => ?_
    split
    · exact pure _
    · exact pure _

theorem lookIndex {x : Eng} {d : TableDesc} {table self fsize entry : Nat} {inForm req : Bool} :
    (lookIndex x d table self fsize inForm req entry).Keeps P z := by
  unfold Machine.lookIndex
  dsimp only
  repeat' split
  · exact pure _
  · exact pure _
  · exact ownerOf.bind fun _ => pure _
  · exact pure _
  · exact pure _
  · exact ownerOf.bind fun _ => get_bind fun _ _ => pure _

/-! ### Acceptance -/

theorem acceptGathQ {a : Acc} : (acceptGathQ a).Keeps P z :=
  descOk.bind fun _ => aw.bind fun _ => need.bind fun _ => table.bind fun _ => need.bind fun _ => spBound.bind fun _ =>
    oStatus.bind fun _ => oTen.bind fun _ => pure _

theorem bucketOf {a : Acc} {bs : List Byte} : (bucketOf a bs).Keeps P z :=
  need.bind fun _ => aw.bind fun _ => aw.bind fun _ => aw.bind fun _ => aw.bind fun _ => aw.bind fun _ => aw.bind fun _ =>
    table.bind fun _ => need.bind fun _ => pure _

theorem readBucket {a : Acc} : (readBucket a).Keeps P z := desc.bind fun _ => bucketOf

theorem acceptGathBk {a : Acc} : (acceptGathBk a).Keeps P z :=
  readBucket.bind fun _ => oTen.bind fun _ => oCheck.bind fun _ => oStatus.bind fun _ => pure _

theorem acceptGathOvf {a : Acc} : (acceptGathOvf a).Keeps P z := readBucket.bind fun _ => pure _

/-! ### Bucketing -/

theorem bucketKeys {o : Order} {x : Eng} {b : Bucket} (l : List (Nat × Nat)) : (bucketKeys o x b l).Keeps P z := by
  induction l with
  | nil => exact pure _
  | cons e l ih =>
    rw [Machine.bucketKeys]
    refine bind ?_ fun k => ?_
    · repeat' split
      · exact pure _
      · exact pure _
      · exact ownerOf.bind fun _ => pure _
    · split
      · exact guard (throw _) (ih.bind fun _ => pure _)
      · exact ih.bind fun _ => pure _

theorem runGathBk {o : Order} {b : Bucket} : (runGathBk o b).Keeps P z :=
  get_bind fun _ _ => oWords.bind fun _ => (bucketKeys _).bind fun _ => oWrite.bind fun _ => (forM fun _ => oWrite).bind fun _ =>
    oWrite.bind fun _ => oWrite.bind fun _ => oWrite.bind fun _ => oStatus.bind fun _ => oStatus.bind fun _ => oStatus.bind fun _ => oStatus

/-! ### Issuing reads -/

theorem remoteRead {o : Order} {d : TableDesc} {pos row own : Nat} : (remoteRead o d pos row own).Keeps P z :=
  get_bind fun _ hs => by
    dsimp only
    split
    · exact throw _
    · exact (set hs.fetchStart.gatherIssued).bind fun _ => pure _

theorem dropEntry {o : Order} {g : GathQ} {x : Eng} {pos : Nat} {l : Look} {d : Drop} : (dropEntry o g x pos l d).Keeps P z :=
  guard (throw _) <| oStatus.bind fun _ =>
    guard oSpWrite <| (modified fun _ hs => hs.setMark).bind fun _ => pure _

theorem issueEntry {o : Order} {g : GathQ} : (issueEntry o g).Keeps P z :=
  get_bind fun _ _ => oWord.bind fun _ => lookIndex.bind fun l => by
    dsimp only
    split
    · exact dropEntry
    · split
      · exact (modified fun _ hs => hs.count).bind fun _ => pure _
      · repeat' split
        · exact remoteRead.bind fun _ => pure _
        · refine bind (eRead.bind fun _ => pure _) fun a => ?_
          split
          · exact dropEntry
          · exact oPieces.bind fun _ => get_bind fun _ hs => (set hs.fetchStart.gatherIssued.count).bind fun _ => pure _
        · exact (pure _).bind fun a => by
            split
            · exact dropEntry
            · exact oPieces.bind fun _ => get_bind fun _ hs => (set hs.fetchStart.gatherIssued.count).bind fun _ => pure _

end OM.Keeps

namespace State.Kept

variable {P : Prop} {z : Base} {s : State}

theorem startGather (h : s.Kept P z) {o : Order} {g : GathQ} : (startGather o g s).1.Kept P z := by
  unfold Machine.startGather
  split
  · exact h.clearMap.setBody
  · exact h

theorem moreFetches (h : s.Kept P z) {o : Order} {fl : List GRead} : (moreFetches o fl s).1.Kept P z := by
  refine List.foldlRecOn (motive := fun x : State × List GRead => x.1.Kept P z) _ _ h fun x hx r _ => ?_
  split
  · exact hx
  · exact hx.fetchMore

theorem pumpGather (h : s.Kept P z) {e q id : Nat} (n : Nat) : (pumpGather e q id n s).Kept P z := by
  induction n generalizing s with
  | zero => exact h
  | succ n ih =>
    rw [Machine.pumpGather]
    split
    · exact h
    · split
      · repeat' split
        · exact h
        · exact h.setBody
        · next he => exact ih (h.go OM.Keeps.issueEntry he).farDrop.setBody
        · next he => exact h.orderStop (h.go OM.Keeps.issueEntry he)
      · exact h

end State.Kept

/-! ### Overflow rows -/

namespace OM.Keeps

variable {P : Prop} {z : Base}

theorem readOverflow {x : Eng} {b : Bucket} : (readOverflow x b).Keeps P z := oWord.bind fun _ => oRead.bind fun _ => pure _

theorem issueOverflow {o : Order} : (issueOverflow o).Keeps P z := by
  unfold Machine.issueOverflow
  split
  · exact get_bind fun _ _ => readOverflow.bind fun _ => pure _
  · dsimp only
    split
    · exact pure _
    · exact remoteRead.bind fun _ => pure _
  · exact pure _

/-! ### Landing -/

theorem secondRead {o : Order} {d : TableDesc} {r : GRead} {slot : Nat} : (secondRead o d r slot).Keeps P z :=
  get_bind fun _ hs => by
    dsimp only
    split
    · exact throw _
    · exact (set hs.fetchStart).bind fun _ => pure _

theorem gtokBack {t : Nat} : (modify fun s => s.gtokBack t : OM Unit).Keeps P z := modified fun _ hs => hs.gtokBack

theorem landGather {o : Order} {g : GathQ} {r : GRead} : (landGather o g r).Keeps P z :=
  get_bind fun _ _ => get_bind fun _ _ => by
    dsimp only
    split
    · split
      · exact secondRead.bind fun _ => pure _
      · exact (foldlM (fun _ _ => dropEntry) _).bind fun _ => gtokBack.bind fun _ => pure _
    · exact (forM fun _ => oSpWrite.bind fun _ => modified fun _ hs => hs.setMark).bind fun _ =>
        gtokBack.bind fun _ => oStatus.bind fun _ => pure _

theorem landOverflow {o : Order} {b : Bucket} {ret done : Nat} {es : Option (List (Nat × Nat))} {fl : List GRead} {r : GRead} :
    (landOverflow o b ret es done fl r).Keeps P z :=
  get_bind fun _ _ => get_bind fun _ _ => by
    dsimp only
    split
    · split
      · exact secondRead.bind fun _ => pure _
      · exact guard (throw _) <| oSpWrite.bind fun _ => gtokBack.bind fun _ => pure _
    · exact oSpWrite.bind fun _ => gtokBack.bind fun _ => pure _

theorem landRead {o : Order} {r : GRead} : (landRead o r).Keeps P z := by
  unfold Machine.landRead
  split
  · exact landGather.bind fun _ => pure _
  · exact landOverflow
  · exact pure _

end OM.Keeps

namespace State.Kept

variable {P : Prop} {z : Base} {s : State}

theorem pumpOverflow (h : s.Kept P z) {e q id : Nat} (n : Nat) : (pumpOverflow e q id n s).Kept P z := by
  induction n generalizing s with
  | zero => exact h
  | succ n ih =>
    rw [Machine.pumpOverflow]
    split
    · exact h
    · split
      · exact h
      · split
        · next he => exact ih (h.go OM.Keeps.issueOverflow he).farDrop.setBody
        · next he => exact h.orderStop (h.go OM.Keeps.issueOverflow he)

theorem pumpQueue (h : s.Kept P z) {e q : Nat} : (s.pumpQueue e q).Kept P z := by
  unfold State.pumpQueue
  split
  · exact h
  · split
    · exact h.startGather.moreFetches.setBody.pumpGather _
    · exact h.pumpOverflow _
    · exact h

theorem landAt (h : s.Kept P z) {e q pos : Nat} {t : State} (ht : s.landAt e q pos = some t) : t.Kept P z := by
  obtain ⟨o, -, ht⟩ := Option.bind_eq_some_iff.1 ht
  obtain ⟨r, -, ht⟩ := Option.bind_eq_some_iff.1 ht
  split at ht
  · split at ht
    · next he =>
      cases ht
      exact (h.go OM.Keeps.landRead he).setBody
    · next he =>
      cases ht
      exact h.orderStop (h.go OM.Keeps.landRead he)
  · cases ht

theorem execGatherRowLands (h : s.Kept P z) {e q pos : Nat} : OutKept P z (execGatherRowLands e q pos s) := by
  unfold Machine.execGatherRowLands
  dsimp only
  split
  · next ht => exact h.pumpQueue.landAt ht
  · exact .when h.pumpQueue

end State.Kept

end Sys2Proof.Machine
end

section
/-! Pooling (R118–R124, R335) and the update arena (R125–R146, R336–R339) keep the tables' sizes and the canonical form. -/

namespace Sys2Proof.Machine

namespace OM.Keeps

variable {P : Prop} {z : Base}

/-! ### Pooling -/

theorem hitch {a : Acc} {n : Nat} {ok : Hitch → Bool} : (a.hitch n ok).Keeps P z :=
  oTen.bind fun _ => by
    split
    · split
      · exact (modified fun _ hs => hs.useHitch).bind fun _ => pure _
      · exact throw _
    · exact throw _

theorem acceptPlBag {a : Acc} : (acceptPlBag a).Keeps P z :=
  descOk.bind fun _ => need.bind fun _ => aw.bind fun _ => aw.bind fun _ => aw.bind fun _ => need.bind fun _ => table.bind fun _ =>
    need.bind fun _ => need.bind fun _ => spBound.bind fun _ => by
      dsimp only
      split
      · exact hitch.bind fun _ => need.bind fun _ => pure _
      · exact spBound.bind fun _ => pure _

theorem poolRow {o : Order} {p : PlBag} {x : Eng} {i : Nat} : (poolRow o p x i).Keeps P z := by
  unfold Machine.poolRow
  split
  · exact oWord.bind fun _ => pure _
  · refine get_bind fun _ _ => ?_
    split
    · exact pure _
    · exact pure _
    · exact pure _

theorem poolPos {o : Order} {p : PlBag} {x : Eng} {st : List (W32 × W32) × Nat} {i : Nat} : (poolPos o p x st i).Keeps P z :=
  poolRow.bind fun _ => by
    split
    · exact throw _
    · exact pure _
    · refine oSpRead.bind fun _ => ?_
      dsimp only
      split
      · exact oWord.bind fun _ => pure _
      · exact (pure _).bind fun _ => pure _

theorem poolOut {o : Order} {p : PlBag} {x : Eng} {bag : Nat} {vals : List W32} : (poolOut o p x bag vals).Keeps P z := by
  unfold Machine.poolOut
  extract_lets jp
  have hjp : ∀ u, (jp u).Keeps P z := fun _ => by
    unfold jp
    split
    · refine get_bind fun _ hs => ?_
      split
      · exact throw _
      · split
        · exact throw _
        · exact set hs.spWrite.modHitch
    · exact oSpWrite
  split
  · split
    · exact (throw _).bind hjp
    · exact hjp ()
  · exact hjp ()

theorem bagSpan {o : Order} {p : PlBag} {x : Eng} {bag : Nat} : (bagSpan o p x bag).Keeps P z :=
  oWord.bind fun _ => oWord.bind fun _ => guard (throw _) <| guard (throw _) <| pure _

theorem poolPass {o : Order} {p : PlBag} {bag : Nat} : (poolPass o p bag).Keeps P z :=
  get_bind fun _ _ => bagSpan.bind fun _ => by
    dsimp only
    refine bind ?_ fun st => (foldlM (fun _ _ => poolPos) _).bind fun r => oSpWrite.bind fun _ => ?_
    · split
      · exact pure _
      · exact oSpRead.bind fun _ => pure _
    · split
      · exact pure _
      · exact poolOut.bind fun _ => (modified fun _ hs => hs.count.count).bind fun _ => pure _

end OM.Keeps

namespace State.Kept

variable {P : Prop} {z : Base} {s : State}

theorem poolTry (h : s.Kept P z) {o : Order} {p : PlBag} (f : Nat) {b : Nat} : (poolTry o p s f b).2.Kept P z := by
  induction f generalizing b with
  | zero => exact h
  | succ f ih =>
    rw [Machine.poolTry]
    split
    · exact ih
    · split
      · exact ih
      · exact OM.Keeps.poolPass s h

theorem execPoolingPass (h : s.Kept P z) {c : Nat} : OutKept P z (execPoolingPass c s) := by
  unfold Machine.execPoolingPass
  split
  · trivial
  · next o _ =>
    split
    · next p _ =>
      have ht : ∀ n b, (Machine.poolTry o p s n b).2.Kept P z := fun n b => h.poolTry n
      repeat' split
      · trivial
      · trivial
      · next he =>
        have ht' := ht (p.nbags - p.bag) p.bag
        rw [he] at ht'
        exact ht'.farDrop.setBody
      · trivial
      · next he =>
        have ht' := ht (p.nbags - p.bag) p.bag
        rw [he] at ht'
        exact h.orderStop ht'
    · trivial

/-! ### Banks -/

theorem bankPut (h : s.Kept P z) {t va : Nat} {bs : List Byte} : (s.bankPut t va bs).Kept P z := by
  unfold State.bankPut
  split
  · exact h.engineWrite
  · exact h

theorem modBank (h : s.Kept P z) {t : Nat} {r : BankRef} {f : Bank → Bank} : (s.modBank t r f).Kept P z := by
  unfold State.modBank
  dsimp only
  split
  · exact h.modTable.bankPut
  · exact h.modTable

theorem bankWrite (h : s.Kept P z) {t va : Nat} {bs : List Byte} : (s.bankWrite t va bs).Kept P z :=
  h.foldl (fun _ _ hu => hu.bankPut) _

theorem clearSlot (h : s.Kept P z) {t : Nat} {d : TableDesc} {b : Bank} {k : Nat} : (s.clearSlot t d b k).Kept P z := h.bankWrite

theorem elemAdd (h : s.Kept P z) {t va : Nat} {c : W64} {r : State × Bool} (hr : s.elemAdd t va c = some r) : r.1.Kept P z := by
  unfold State.elemAdd at hr
  split at hr
  · cases hr
    exact h
  · cases hr
  · split at hr
    · cases hr
    · cases hr
      exact h.engineWrite

theorem elemFault (h : s.Kept P z) {t va u : Nat} : (s.elemFault t va u).2.Kept P z := by
  unfold State.elemFault
  split
  · exact h.meetBad
  · exact h

end State.Kept

namespace OM.Keeps

variable {P : Prop} {z : Base}

theorem oBankGroup {u : UnitRef} {t va n : Nat} {k : Access} : (oBankGroup u t va n k).Keeps P z :=
  get_bind fun _ _ => by
    split
    · exact get_bind fun _ _ => throw _
    · exact pure _

theorem oBankRead {u : UnitRef} {t va n : Nat} : (oBankRead u t va n).Keeps P z :=
  oBankGroup.bind fun _ => get_bind fun _ _ => by
    split
    · exact pure _
    · exact pure _
    · exact (modified fun _ hs => hs.meetPinned).bind fun _ => throw _

/-! ### Acceptance of the arena's orders -/

theorem bankOf {a : Acc} : a.bankOf.Keeps P z := table.bind fun _ => need.bind fun _ => oBankGroup.bind fun _ => pure _
theorem bankNeed {a : Acc} {r : BankRef} {b : Bank} {ok : Bool} : (a.bankNeed r b ok).Keeps P z := oCheck
theorem bankAdd {a : Acc} {r : BankRef} {b : Bank} : (a.bankAdd r b).Keeps P z := bankNeed

theorem readOpenEntry {a : Acc} {bs : List Byte} : (readOpenEntry a bs).Keeps P z :=
  need.bind fun _ => aw.bind fun _ => aw.bind fun _ => pure _

theorem openIds {x : Eng} {d : TableDesc} {e : OpenEntry} : (openIds x d e).Keeps P z := oRead.bind fun _ => pure _

theorem modBank {t : Nat} {r : BankRef} {f : Bank → Bank} : (modify fun s => s.modBank t r f : OM Unit).Keeps P z :=
  modified fun _ hs => hs.modBank

theorem acceptSaddOpen {a : Acc} : (acceptSaddOpen a).Keeps P z :=
  bankOf.bind fun _ => bankNeed.bind fun _ => by
    split
    · exact need.bind fun _ => need.bind fun _ => modBank.bind fun _ => pure _
    · extract_lets m jp
      have hjp : ∀ bs, (jp bs).Keeps P z := fun _ =>
        (mapM fun _ => readOpenEntry).bind fun _ => (mapM fun _ => openIds).bind fun _ => bankNeed.bind fun _ =>
          (forM fun _ => oWrite).bind fun _ => (modified fun _ hs => hs.bankWrite).bind fun _ => modBank.bind fun _ => pure _
      split
      · exact (pure _).bind hjp
      · exact desc.bind hjp

theorem readRecords {a : Acc} : (readRecords a).Keeps P z :=
  need.bind fun _ => mapM fun _ => guard (throw _) <| need.bind fun _ => pure _

theorem oBump {t : Nat} {r : BankRef} {a n : Nat} {f : Bank → W32 → Bank} : (oBump t r a n f).Keeps P z := by
  unfold Machine.oBump
  split
  · exact pure _
  · exact modBank.bind fun _ => oStatus

theorem acceptSaddX64 {a : Acc} : (acceptSaddX64 a).Keeps P z :=
  bankOf.bind fun _ => bankAdd.bind fun _ => readRecords.bind fun _ => by
    extract_lets rs live ks sums clamp last jp
    have hjp : (jp ()).Keeps P z := by
      refine oBump.bind fun _ => oBump.bind fun _ => oBump.bind fun _ => oBump.bind fun _ => oBump.bind fun _ =>
        (modified fun _ hs => hs.with_rest).bind fun _ => oTen.bind fun _ => ?_
      split
      · exact (modified fun _ hs => hs.with_rest).bind fun _ => (throw _).bind fun _ => pure _
      · exact pure _
    split
    · exact (throw _).bind fun _ => hjp
    · exact hjp

/-! ### Adds and seals -/

theorem acceptSaddQ64 {a : Acc} : (acceptSaddQ64 a).Keeps P z :=
  bankOf.bind fun _ => bankAdd.bind fun _ => descOk.bind fun _ => aw.bind fun _ => aw.bind fun _ => need.bind fun _ => pure _

theorem addRow {o : Order} {t : Table} {r : BankRef} {k : Nat} {bs : List Byte} : (addRow o t r k bs).Keeps P z :=
  forM fun _ => get_bind fun _ hs => by
    dsimp only
    split
    · exact (set hs.elemFault).bind fun _ => throw _
    · next he => exact (set (hs.elemAdd he)).bind fun _ => oBump

theorem runSaddQ64 {o : Order} {r : BankRef} {src map : W64} {n st : Nat} : (runSaddQ64 o r src map n st).Keeps P z :=
  get_bind fun _ _ => by
    split
    · exact pure _
    · refine oCheck.bind fun _ => get_bind fun _ _ => oWords.bind fun _ => forM fun e => ?_
      split
      · refine guard (throw _) <| oRead.bind fun _ => addRow.bind fun _ => oBump.bind fun _ => ?_
        split
        · exact (modified fun _ hs => hs.modTable).bind fun _ => oStatus
        · exact pure _
      · exact pure _

theorem acceptSaddSeal {a : Acc} : (acceptSaddSeal a).Keeps P z :=
  bankOf.bind fun _ => bankNeed.bind fun _ => get_bind fun _ _ => (modified fun _ hs => hs.modTable).bind fun _ => pure _

theorem acceptSaddClose {a : Acc} : (acceptSaddClose a).Keeps P z :=
  bankOf.bind fun _ => guard oWait <| bankNeed.bind fun _ => pure _

end OM.Keeps

namespace State.Kept

variable {P : Prop} {z : Base} {s : State}

theorem totals (h : s.Kept P z) {t ctx task table : Nat} {l : List (Nat × Nat)} : (s.totals t ctx task table l).Kept P z := by
  have hr : ((l.forM fun x => oStatus t table x.1 x.2).go s).2.Kept P z := OM.Keeps.forM (fun _ => OM.Keeps.oStatus) s h
  unfold State.totals
  dsimp only
  split
  · exact hr
  · exact hr.failTask
  · exact hr

theorem execArenaAddComplete (h : s.Kept P z) {n : Nat} : OutKept P z (execArenaAddComplete n s) := by
  unfold Machine.execArenaAddComplete
  split
  · trivial
  · have hs : ∀ {i : Nat} {f : Order → Order} {l : List ArenaAdd}, (State.modOrder { s with adds := l } i f).Kept P z := h
    dsimp only
    split
    · exact hs
    · split
      · exact hs.elemFault.failTask
      · next he => exact (hs.elemAdd he).modBank.totals

theorem execSealTakesEffect (h : s.Kept P z) {t table : Nat} {send : Bool} : OutKept P z (execSealTakesEffect t table send s) := by
  unfold Machine.execSealTakesEffect
  split
  · trivial
  · dsimp only
    split
    · trivial
    · repeat' split
      · trivial
      · exact h.modBank
      · exact h.modBank.imbalanceTen

theorem closeBank (h : s.Kept P z) {t : Nat} {r : BankRef} : (s.closeBank t r).Kept P z := by
  have hs : ∀ {l : List Nat} {d : TableDesc} {b : Bank}, (l.foldl (fun (s : State) k => s.clearSlot t d b k) s).Kept P z :=
    h.foldl (fun _ _ hu => hu.clearSlot) _
  unfold State.closeBank
  split
  · exact h
  · dsimp only
    split
    · exact hs.modTen.modBank
    · exact hs.modTen.modBank.imbalanceTen

end State.Kept

end Sys2Proof.Machine
end

section
/-! What happens outside the commands (R396, R397, R441), and the fold orders (R147–R152, R350), keep the tables' sizes and the canonical
form. -/

namespace Sys2Proof.Machine

namespace State.Kept

variable {P : Prop} {z : Base} {s : State}

/-! ### On-die arrays and the host's memory -/

theorem arrayEvent (h : s.Kept P z) {w : EvWho} {r : Nat} {u : BitVec 11} : (s.arrayEvent w r u).Kept P z := h.event

theorem arrayTen (h : s.Kept P z) {t : Nat} {u : BitVec 11} : (s.arrayTen t u).Kept P z := by
  unfold State.arrayTen
  split
  · exact h.arrayEvent
  · exact h.arrayEvent.haltTen

theorem arraySp (h : s.Kept P z) {c a : Nat} {u : BitVec 11} : (s.arraySp c a u).Kept P z := by
  unfold State.arraySp
  split
  · exact h.arrayEvent
  · repeat' split
    · exact h.arrayEvent
    · exact h.arrayEvent.haltTen
    · exact h.arrayEvent.abortCtx

theorem arrayErr (h : s.Kept P z) {e : ArrayErr} : (s.arrayErr e).Kept P z := by
  unfold State.arrayErr
  split
  · exact h.count
  · exact h.with_rest.count
  · exact h
  · exact h
  · exact h.modCluster
  · split
    · exact h.arrayEvent
    · exact h.failTask
  · exact h.arraySp
  · exact h.arrayTen
  · split
    · exact h.arrayEvent
    · exact h.arrayEvent.contain

theorem hosted (h : s.Kept P z) {hm : HostMem} : (s.hosted hm).Kept P z := by
  have hs : (hm.cells.foldl (fun (s : State) c => s.soil c.1 1) s).Kept P z := h.foldl (fun _ _ hu => hu.soil) _
  unfold State.hosted
  dsimp only
  generalize hm.cells.foldl (fun (s : State) c => s.soil c.1 1) s = u at hs
  have hu : ∀ l b, ({ u with mem := { u.mem with pool := memPatch u.mem.pool hm.cells, poison := l, bad := b } } : State).Kept P z :=
    fun _ _ => hs.with_mem fun hw p => memPatch_wf (hw p)
  split
  · exact hu _ _
  · exact (hu _ _).count.foldl (fun _ _ hv => hv.arrayErr) _

theorem withHost (h : s.Kept P z) {hm : HostMem} {f : State → Out} (hf : ∀ u, u.Kept P z → OutKept P z (f u)) :
    OutKept P z (withHost s hm f) := by
  unfold Machine.withHost
  split
  · trivial
  · exact hf _ h.hosted

end State.Kept

namespace OM.Keeps

variable {P : Prop} {z : Base}

/-! ### Folds -/

theorem foldComps {a : Acc} {f : Fold} {d : TableDesc} : (foldComps a f d).Keeps P z :=
  mapM fun _ => table.bind fun _ => need.bind fun _ => pure _

theorem foldBank {a : Acc} {f : Fold} {t : Table} : (foldBank a f t).Keeps P z :=
  oBankGroup.bind fun _ => guard oWait <| bankNeed.bind fun _ => need.bind fun _ => get_bind fun _ _ => oCheck

theorem acceptFold {a : Acc} : (acceptFold a).Keeps P z :=
  descOk.bind fun _ => need.bind fun _ => guard aw <| need.bind fun _ => need.bind fun _ => table.bind fun _ => need.bind fun _ =>
    foldComps.bind fun _ => guard foldBank <| pure _

section
variable {c : FoldCtx} {row sl : Nat}

theorem slot : (c.slot row).Keeps P z := by
  unfold FoldCtx.slot
  repeat' split
  · exact pure _
  · exact pure _
  · exact eRead.bind fun _ => pure _

theorem nanCheck {l : List W32} : (c.nanCheck row l).Keeps P z := by
  unfold FoldCtx.nanCheck
  split
  · split
    · exact throw _
    · exact pure _
  · exact pure _

theorem comp {k n : Nat} : (c.comp k n sl).Keeps P z := by
  unfold FoldCtx.comp
  split
  · exact pure _
  · exact eRead.bind fun _ => pure _

theorem putComp {p : Option (Nat × List W32)} {l : List W32} : (c.putComp p l).Keeps P z := by
  unfold FoldCtx.putComp
  split
  · exact eWrite
  · exact pure _

theorem foldRow {qs : List Int} : (c.foldRow row sl qs).Keeps P z :=
  eRead.bind fun _ => comp.bind fun _ => comp.bind fun _ => nanCheck.bind fun _ => nanCheck.bind fun _ => nanCheck.bind fun _ =>
    (modified fun _ hs => hs.count.count).bind fun _ => eWrite.bind fun _ => putComp.bind fun _ => putComp

theorem miss {d : Drop} : (c.miss row d).Keeps P z := guard (throw _) <| oStatus.bind fun _ => oStatus

theorem one {qs : List Int} : (c.one row qs).Keeps P z := slot.bind fun _ => by
  split
  · exact foldRow
  · exact miss

theorem moving : (c.moving row).Keeps P z := by
  unfold FoldCtx.moving
  split
  · exact pure _
  · refine excFind.bind fun _ => ?_
    split
    · exact pure _
    · exact pure _

theorem slotDone {b : Bool} : (c.slotDone sl b).Keeps P z := (modified fun _ hs => hs.clearSlot).bind fun _ => modBank

theorem slotStep : c.slotStep.Keeps P z :=
  oBankRead.bind fun _ => oBankRead.bind fun _ => by
    dsimp only
    split
    · exact oWrite.bind fun _ => slotDone.bind fun _ => pure _
    · refine moving.bind fun _ => ?_
      split
      · exact oWrite.bind fun _ => slotDone.bind fun _ => pure _
      · exact one.bind fun _ => slotDone.bind fun _ => pure _

theorem recordStep : c.recordStep.Keeps P z := oRead.bind fun _ => one.bind fun _ => pure _
end

theorem foldNext {o : Order} {f : Fold} : (foldNext o f).Keeps P z := get_bind fun _ _ => by
  dsimp only
  split
  · exact recordStep
  · exact slotStep

theorem foldGo {o : Order} (n : Nat) {f : Fold} : (foldGo o n f).Keeps P z := by
  induction n generalizing f with
  | zero => exact pure _
  | succ n ih =>
    refine get_bind fun _ hs => ?_
    split
    · next he => exact (set (hs.go foldNext he).farDrop).bind fun _ => ih
    · exact pure _

theorem runFold {o : Order} {f : Fold} : (runFold o f).Keeps P z := by
  unfold Machine.runFold
  split
  · exact pure _
  · refine get_bind fun _ hs => ?_
    split
    · next he => exact (set (hs.go foldNext he).farDrop).bind fun _ => foldGo _
    · next he => exact (set (hs.go foldNext he)).bind fun _ => throw _

end OM.Keeps

end Sys2Proof.Machine
end

section
/-! The lanes' accesses, synchronisation, control and copies (classes 0x04 to 0x07) keep the tables' sizes and the canonical form. -/

namespace Sys2Proof.Machine

/-! ### Cohorts -/

theorem Coach.Canonical.openBarrier {k : Coach} (h : k.Canonical) (b : Nat) : (k.openBarrier b).Canonical := by
  unfold Coach.openBarrier
  dsimp only
  split
  · exact h
  · exact h

theorem Cohort.Canonical.openBarrier {h : Cohort} (hc : h.Canonical) (b : Nat) : (h.openBarrier b).Canonical := by
  obtain ⟨hm, ha, hr, hk⟩ := hc.mapCoaches fun _ hk => hk.openBarrier b
  exact ⟨hm, ha, List.foldlRecOn (motive := fun m : SMap W32 => smOk 0 0 m = true) _ _ hr fun _ hm i _ => smSet_ok _ _ hm, hk⟩

theorem Cohort.Canonical.checkBarriers {h : Cohort} (hc : h.Canonical) : h.checkBarriers.Canonical :=
  List.foldlRecOn (motive := Cohort.Canonical) _ _ hc fun u hu b _ => by
    split
    · exact hu.openBarrier b
    · exact hu

theorem Coach.Canonical.pinnedReturn {k : Coach} (h : k.Canonical) (a : PinnedAccess) : (pinnedReturn k a).Canonical := by
  have h0 : ({ k with access := none } : Coach).Canonical := h
  unfold Machine.pinnedReturn
  dsimp only
  split
  · exact (h0.setRegs _ _ _ _).step
  · exact Coach.Canonical.step (List.foldlRecOn (motive := Coach.Canonical) _ _ h0 fun _ hk j _ => hk.setRegs ..)

theorem Coach.Canonical.epochWrite {k : Coach} (h : k.Canonical) (ud : Bool) (d : Nat) (act v : W32) :
    (epochWrite k ud d act v).Canonical := by
  unfold Machine.epochWrite
  split
  · exact h.setU ..
  · exact List.foldlRecOn (motive := Coach.Canonical) _ _ h fun _ hk j _ => hk.setG ..

/-! ### Control -/

/-- A control instruction's new coach, where it has one, is canonical. -/
def CtlKept (f : LaneCtx → Nat ⊕ Coach) : Prop := ∀ x k, x.k.Canonical → f x = .inr k → k.Canonical

theorem brResult_kept : CtlKept brResult := fun x k hx hk => by
  unfold brResult at hk
  dsimp only at hk
  repeat' split at hk
  all_goals cases hk
  all_goals exact hx

theorem wholePath_inr {x : LaneCtx} {r : Nat ⊕ Coach} {k : Coach} (h : wholePath x r = .inr k) : r = .inr k := by
  unfold wholePath at h
  split at h
  · exact h
  · cases h

theorem callResult_kept : CtlKept callResult := fun x k hx hk => by
  have h := wholePath_inr hk
  split at h
  · cases h
  · cases h
    exact hx

theorem retResult_kept : CtlKept retResult := fun x k hx hk => by
  have h := wholePath_inr hk
  split at h
  · cases h
  · split at h
    · cases h
      exact hx
    · cases h

theorem jmpResult_kept : CtlKept jmpResult := fun x k hx hk => by
  have h := wholePath_inr hk
  split at h
  · cases h
  · cases h
    exact hx

namespace State.Kept

variable {P : Prop} {z : Base} {s : State}

theorem raiseMem (h : s.Kept P z) {x : LaneCtx} {j va : Nat} {k : Access} {f : MemFault} : (s.raiseMem x j va k f).Kept P z := by
  cases f with
  | odd => exact h.instrFault
  | bound => exact h.laneXlt
  | unpinned => exact h.laneXlt
  | absent => exact h.laneXlt
  | perm d => exact h.laneBarred

theorem hitchFault (h : s.Kept P z) {x : LaneCtx} {n : Nat} : (s.hitchFault x n).Kept P z := h.syncFault

theorem settleAll (h : s.Kept P z) {t task num : Nat} : (s.settleAll t task num).Kept P z := by
  unfold State.settleAll
  split
  · exact h
  · exact h.foldl (fun _ _ hu => hu.settle) _

/-- A new copy, where the copies are not held to those before. -/
theorem issueCopy (h : s.Kept P z) (hz : z.copies = none) {x : LaneCtx} {ac : Nat} {r : CopyReq} : (s.issueCopy x ac r).Kept P z := by
  unfold State.issueCopy
  split
  · exact h.contribute
  · exact h.with_new_copies hz

end State.Kept

/-! ### The bodies of the instructions -/

namespace BodyKept

variable {P : Prop} {z : Base}

theorem checked {f : LaneCtx → State → Nat → Option MemFault} {addr : LaneCtx → Nat → Nat} {k : Access} {body : State → LaneCtx → State}
    (hb : BodyKept P z body) : BodyKept P z (checked f addr k body) := fun s x hs hx => by
  unfold Machine.checked
  split
  · exact hs.raiseMem
  · exact hb s x hs hx

theorem llLd : BodyKept P z llLdBody := fun _ _ hs hx => hs.advance fun p => (hx p).1.writeD ..
theorem spLd : BodyKept P z spLdBody := fun _ _ hs hx => hs.advance fun p => (hx p).1.writeD ..

theorem llSt : BodyKept P z llStBody := fun _ _ hs hx => by
  refine (hs.modCohort ?_).advance fun p => (hx p).1
  exact fun _ _ _ ⟨hm, hrest⟩ => ⟨storeAll_wf _ _ hm, hrest⟩

theorem spSt : BodyKept P z spStBody := fun _ _ hs hx => (hs.modCluster fun _ hw => storeAll_wf _ _ hw).advance fun p => (hx p).1

theorem pmIssue {op : Nat} {k : Access} : BodyKept P z (pmIssue op k) := fun _ _ hs hx =>
  (hs.foldl (fun _ _ hu => hu.memRequest) _).setCoach fun p => (hx p).1

theorem pmSt : BodyKept P z pmStBody := fun _ _ hs hx => (hs.foldl (fun _ _ hu => hu.laneWrite) _).advance fun p => (hx p).1

theorem barSync : BodyKept P z barSyncBody := fun _ _ hs _ =>
  hs.modCohort fun _ _ _ hc => by
    obtain ⟨hm, ha, hr, hk⟩ := hc.modCoach (n := _) (f := fun k => { k with wait := .barrier _ }) fun _ _ hk => hk
    exact Cohort.Canonical.checkBarriers ⟨hm, ha, smSet_ok _ _ hr, hk⟩

theorem acWait : BodyKept P z acWaitBody := fun _ _ hs hx => by
  unfold acWaitBody
  dsimp only
  split
  · exact hs.advance fun p => (hx p).1
  · exact hs.setCoach fun p => (hx p).1

theorem acAdd : BodyKept P z acAddBody := fun _ _ hs hx => by
  unfold acAddBody
  dsimp only
  repeat' split
  · exact hs.counterFault
  · exact (hs.advance fun p => (hx p).1).contribute
  · exact (hs.advance fun p => (hx p).1).contribute

theorem acMode : BodyKept P z acModeBody := fun _ _ hs hx => by
  unfold acModeBody
  dsimp only
  split
  · exact hs.counterFault
  · refine (hs.modCohort ?_).advance fun p => (hx p).1
    exact fun _ _ _ hc => hc

theorem fence : BodyKept P z fenceBody := fun _ _ hs hx => hs.advance fun p => (hx p).1

theorem epochAdv : BodyKept P z epochAdvBody := fun _ _ hs hx => by
  unfold epochAdvBody
  dsimp only
  repeat' split
  · exact hs.setCoach fun p => (hx p).1
  · refine (hs.setCoach ?_).modTen
    exact fun p => (hx p).1
  · exact hs.modTen.advance fun p => (hx p).1.epochWrite ..

theorem hcGet : BodyKept P z hcGetBody := fun _ _ hs hx => by
  unfold hcGetBody
  split
  · exact hs.hitchFault
  · split
    · exact hs.hitchFault
    · dsimp only
      split
      · exact hs.useHitch.modHitch.advance fun p => (hx p).1.setU ..
      · exact hs.useHitch.setCoach fun p => (hx p).1

theorem hcPut : BodyKept P z hcPutBody := fun _ _ hs hx => by
  unfold hcPutBody
  split
  · exact hs.hitchFault
  · dsimp only
    split
    · exact hs.hitchFault
    · split
      · exact hs.hitchFault
      · exact hs.useHitch.modHitch.advance fun p => (hx p).1

theorem hcTake : BodyKept P z hcTakeBody := fun _ _ hs hx => by
  unfold hcTakeBody
  split
  · exact hs.hitchFault
  · split
    · exact hs.hitchFault
    · dsimp only
      split
      · exact hs.useHitch.modHitch.advance fun p => (hx p).1.setRegs ..
      · exact hs.useHitch.setCoach fun p => (hx p).1

theorem hcRet : BodyKept P z hcRetBody := fun _ _ hs hx => by
  unfold hcRetBody
  split
  · exact hs.hitchFault
  · split
    · exact hs.hitchFault
    · exact hs.useHitch.freeCart.advance fun p => (hx p).1

theorem ctl {f : LaneCtx → Nat ⊕ Coach} (hf : CtlKept f) : BodyKept P z (ctlBody f) := fun _ _ hs hx => by
  unfold ctlBody
  split
  · exact hs.instrFault
  · next hk => exact hs.setCoach fun p => hf _ _ (hx p).1 hk

theorem exit : BodyKept P z exitBody := fun _ x hs hx =>
  (hs.advance (k := { x.k with x := x.k.x ||| x.act }) fun p => (hx p).1).modCohort fun _ _ _ hc => hc.checkBarriers

theorem copy (hz : z.copies = none) {threads : LaneCtx → List Nat} : BodyKept P z (copyBody threads) := fun _ _ hs hx => by
  unfold copyBody
  dsimp only
  split
  · repeat' split
    · exact hs.instrFault
    · exact hs.laneXlt
    · exact hs.laneXlt
    · exact hs.counterFault
  · exact (hs.advance fun p => (hx p).1).foldl (fun _ _ hu => hu.issueCopy hz) _

end BodyKept

/-! ### The rows of these classes that are not lane instructions -/

namespace State.Kept

variable {P : Prop} {z : Base} {s : State}

theorem pinnedAnswer (h : s.Kept P z) {c : CoachRef} {j clu : Nat} {d : Option (List Byte)} : (s.pinnedAnswer c j clu d).Kept P z := by
  unfold State.pinnedAnswer
  split
  · exact h
  · split
    · exact h
    · next a _ =>
      split
      · exact h
      · next q _ =>
        have hs : ∀ n, (if a.op ≤ 5 then s else s.soil q.pa n).Kept P z := fun n => by
          split
          · exact h
          · exact h.soil
        cases d with
        | some bs => exact h.modCoach
        | none => exact (hs _).pinnedApply.modCoach

theorem execPinnedAccessReturn (h : s.Kept P z) {c : CoachRef} : OutKept P z (execPinnedAccessReturn c s) := by
  unfold Machine.execPinnedAccessReturn
  split
  · trivial
  · exact .when (h.modCoach fun _ _ hk => hk.pinnedReturn _)

theorem execCohortStuck (h : s.Kept P z) {task co : Nat} : OutKept P z (execCohortStuck task co s) := by
  unfold Machine.execCohortStuck
  split
  · trivial
  · dsimp only
    split
    · trivial
    · refine .when ?_
      split
      · exact h.settleAll.syncFault
      · exact h.settleAll.syncFault

theorem execSharedWaitLimit (h : s.Kept P z) {c : CoachRef} {t : Nat} : OutKept P z (execSharedWaitLimit c t s) := by
  unfold Machine.execSharedWaitLimit
  split
  · split
    · exact .when h.atTick.syncFault
    · trivial
  · trivial

end State.Kept

end Sys2Proof.Machine
end

section
/-! The scan slice, the top-k unit and the interaction array (R180–R208, R340–R345), and the coupling chain, keep the tables' sizes and the
canonical form. -/

namespace Sys2Proof.Machine

namespace State.Kept

variable {P : Prop} {z : Base} {s : State}

theorem modUnits (h : s.Kept P z) {c : Nat} {f : Stateful → Stateful} : (s.modUnits c f).Kept P z := h.modCluster
theorem chainPut (h : s.Kept P z) {t k i : Nat} : (s.chainPut t k i).Kept P z := h.modTen
theorem chainDrop (h : s.Kept P z) {t k i : Nat} : (s.chainDrop t k i).Kept P z := h.modTen

theorem passCart (h : s.Kept P z) {t i : Nat} {x : Hitch} : (s.passCart t x i).Kept P z := by
  unfold State.passCart
  dsimp only
  split
  · exact h.modHitch.chainDrop
  · exact h.spWrite.modHitch

end State.Kept

namespace OM.Keeps

variable {P : Prop} {z : Base}

/-! ### Scans and top-k lists -/

theorem offOk {a : Acc} {al n : Nat} {k : Access} : (a.offOk al n k).Keeps P z := need.bind fun _ => spBound
theorem acceptScanLd {a : Acc} : (acceptScanLd a).Keeps P z := need.bind fun _ => offOk.bind fun _ => pure _

theorem acceptScanB1 {a : Acc} : (acceptScanB1 a).Keeps P z :=
  descOk.bind fun _ => need.bind fun _ => need.bind fun _ => get_bind fun _ _ => need.bind fun _ => need.bind fun _ => pure _

theorem acceptTkRd {a : Acc} : (acceptTkRd a).Keeps P z := offOk.bind fun _ => pure _
theorem acceptTkMerge {a : Acc} : (acceptTkMerge a).Keeps P z := offOk.bind fun _ => pure _
theorem acceptTkClr {a : Acc} : (acceptTkClr a).Keeps P z := pure _

theorem modUnits {c : Nat} {f : Stateful → Stateful} : (modify fun s => s.modUnits c f : OM Unit).Keeps P z :=
  modified fun _ hs => hs.modUnits

theorem runScanLd {o : Order} {off clen : Nat} {m : W32} : (runScanLd o off m clen).Keeps P z :=
  get_bind fun _ _ => oSpRead.bind fun _ => modUnits

theorem runTkRd {o : Order} {off : Nat} : (runTkRd o off).Keeps P z := get_bind fun _ _ => oSpWrite
theorem runTkMerge {o : Order} {off k : Nat} : (runTkMerge o off k).Keeps P z := get_bind fun _ _ => oSpRead.bind fun _ => modUnits
theorem runTkClr {o : Order} {m : W32} : (runTkClr o m).Keeps P z := modUnits

/-! ### The interaction array -/

theorem acceptIaMma {a : Acc} : (acceptIaMma a).Keeps P z :=
  descOk.bind fun _ => need.bind fun _ => need.bind fun _ => need.bind fun _ => hitch.bind fun _ => need.bind fun _ =>
    guard_of hitch <| guard spBound <| guard spBound <| pure _

theorem acceptIaSt {a : Acc} : (acceptIaSt a).Keeps P z := offOk.bind fun _ => pure _
theorem acceptIaLd {a : Acc} : (acceptIaLd a).Keeps P z := offOk.bind fun _ => pure _
theorem acceptIaZero {a : Acc} : (acceptIaZero a).Keeps P z := pure _

theorem acceptEpCvt {a : Acc} : (acceptEpCvt a).Keeps P z :=
  descOk.bind fun _ => need.bind fun _ => need.bind fun _ => guard_of hitch <| guard spBound <| guard spBound <| guard spBound <| by
    split
    · exact hitch.bind fun _ => need.bind fun _ => pure _
    · exact spBound.bind fun _ => pure _

theorem iaNan {o : Order} {b : Bool} {rows : List (List FVal)} : (iaNan o b rows).Keeps P z := by
  unfold Machine.iaNan
  split
  · refine forM fun _ => ?_
    split
    · exact throw _
    · exact pure _
  · exact pure _

theorem takeCart {o : Order} {x : Eng} {n : Nat} : (takeCart o x n).Keeps P z := get_bind fun _ hs => by
  split
  · exact throw _
  · exact (set hs.modHitch).bind fun _ => pure _

theorem giveCart {o : Order} {n i : Nat} : (giveCart o n i).Keeps P z := modified fun _ hs => hs.freeCart

/-- A cart given back where there is one. -/
theorem giveCart? {o : Order} {n : Nat} {c : Option Nat} :
    (match c with | some c => Machine.giveCart o n c | none => Pure.pure ()).Keeps P z := by
  cases c
  · exact pure _
  · exact giveCart

theorem iaRow {o : Order} {m : IaMma} {x : Eng} {i : Nat} : (iaRow o m x i).Keeps P z := by
  unfold Machine.iaRow
  split
  · exact takeCart.bind fun _ => pure _
  · exact oSpRead.bind fun _ => pure _
  · exact oSpRead.bind fun _ => pure _

theorem runIaMma {o : Order} {m : IaMma} : (runIaMma o m).Keeps P z := get_bind fun _ _ => by
  dsimp only
  split
  · exact throw _
  · exact (mapM fun _ => iaRow).bind fun _ => iaNan.bind fun _ => (forM fun _ => giveCart?).bind fun _ =>
      modified fun _ hs => hs.modUnits.count.count.count.count

theorem runIaSt {o : Order} {off : Nat} {b : Bool} : (runIaSt o off b).Keeps P z :=
  get_bind fun _ _ => oSpWrite.bind fun _ => by
    split
    · exact oSpWrite
    · exact pure _

theorem runIaLd {o : Order} {off : Nat} {b : Bool} : (runIaLd o off b).Keeps P z :=
  get_bind fun _ _ => oSpRead.bind fun _ => by
    split
    · exact oSpRead.bind fun _ => modUnits
    · exact (pure _).bind fun _ => modUnits

theorem runIaZero {o : Order} : (runIaZero o).Keeps P z := modUnits

/-! ### The epilogue -/

theorem epRow {o : Order} {p : EpCvt} {x : Eng} {i : Nat} : (epRow o p x i).Keeps P z := by
  unfold Machine.epRow
  split
  · exact get_bind fun _ _ => pure _
  · exact takeCart.bind fun _ => pure _
  · exact oSpRead.bind fun _ => pure _

theorem oVec {x : Eng} {off n : Nat} : (oVec x off n).Keeps P z := oSpRead.bind fun _ => pure _

theorem epValues {o : Order} {p : EpCvt} {x : Eng} {i : Nat} {ys : List W32} : (epValues o p x i ys).Keeps P z := by
  refine bind ?_ fun _ => ?_
  · split
    · exact oVec.bind fun _ => pure _
    · exact oVec.bind fun _ => pure _
    · exact pure _
  · split
    · exact oVec.bind fun _ => pure _
    · refine (pure _).bind fun _ => ?_
      dsimp only
      split
      · split
        · exact (throw _).bind fun _ => pure _
        · exact pure _
      · exact pure _

theorem epOut {o : Order} {p : EpCvt} {x : Eng} {i : Nat} {bs : List Byte} : (epOut o p x i bs).Keeps P z := by
  unfold Machine.epOut
  split
  · refine get_bind fun _ hs => ?_
    split
    · exact throw _
    · exact set hs.spWrite.modHitch
  · exact oSpWrite

theorem epStep {o : Order} {p : EpCvt} : (epStep o p).Keeps P z :=
  get_bind fun _ _ => epRow.bind fun _ => epValues.bind fun _ => epOut.bind fun _ => (modified fun _ hs => hs.count.count).bind fun _ => by
    dsimp only
    split
    · exact giveCart.bind fun _ => pure _
    · exact pure _

theorem runEpRows {o : Order} (n : Nat) {p : EpCvt} : (runEpRows o n p).Keeps P z := by
  induction n generalizing p with
  | zero => exact pure _
  | succ n ih =>
    refine get_bind fun _ hs => ?_
    split
    · next he => exact (set (hs.go epStep he)).bind fun _ => ih
    · split
      · exact throw _
      · exact pure _
    · next he => exact (set (hs.go epStep he)).bind fun _ => throw _

/-! ### The coupling chain -/

theorem loadWeights {o : Order} {m : IaMma} {h : Hitch} {i c : Nat} : (loadWeights o m h i c).Keeps P z :=
  get_bind fun _ hs => iaNan.bind fun _ => set hs.modUnits

theorem scanRead {o : Order} {b : ScanB1} : (scanRead o b).Keeps P z :=
  get_bind fun _ _ => get_bind fun _ _ => oPieces.bind fun _ => get_bind fun _ hs => (set hs.fetchStart).bind fun _ => pure _

theorem scanPack {o : Order} {b : ScanB1} {r : CodeRead} : (scanPack o b r).Keeps P z :=
  get_bind fun _ hs => (set hs.chainPut).bind fun _ => pure _

theorem scanFeed {o : Order} {b : ScanB1} : (scanFeed o b).Keeps P z := get_bind fun _ hs => by
  dsimp only
  split
  · split
    · exact scanRead
    · exact pure _
  · split
    · exact (set hs.fetchMore).bind fun _ => pure _
    · split
      · exact scanPack
      · exact pure _

theorem codeMove {o : Order} {b : ScanB1} {n : Nat} : (codeMove o b n).Keeps P z := get_bind fun _ _ => by
  split
  · exact pure _
  · dsimp only
    split
    · exact pure _
    · refine (modified fun _ hs => hs.modUnits.count).bind fun _ => ?_
      split
      · exact pure _
      · exact (modified fun _ hs => hs.chainDrop).bind fun _ => pure _

theorem codeGo {o : Order} {num : Nat} (n : Nat) {b : ScanB1} : (codeGo o num n b).Keeps P z := by
  induction n generalizing b with
  | zero => exact pure _
  | succ n ih =>
    refine codeMove.bind fun _ => ?_
    split
    · exact (modified fun _ hs => hs.setBody).bind fun _ => ih
    · exact pure _

theorem scanGo {o : Order} {b : ScanB1} : (scanGo o b).Keeps P z :=
  scanFeed.bind fun _ => (modified fun _ hs => hs.setBody).bind fun _ => foldlM (fun _ _ => codeGo _) _

end OM.Keeps

namespace State.Kept

variable {P : Prop} {z : Base} {s : State}

theorem passCode (h : s.Kept P z) {id n : Nat} : OutKept P z (s.passCode id n) := by
  unfold State.passCode
  split
  · trivial
  · split
    · next he => exact (h.go OM.Keeps.codeMove he).setBody
    · trivial

theorem execChainLinkCopy (h : s.Kept P z) {t x c : Nat} : OutKept P z (execChainLinkCopy t x c s) := by
  unfold Machine.execChainLinkCopy
  split
  · exact h.passCode
  · split
    · trivial
    · dsimp only
      split
      · trivial
      · split
        · trivial
        · split
          · exact h.passCart
          · split
            · trivial
            · split
              · trivial
              · split
                · next he => exact (h.go OM.Keeps.loadWeights he).passCart
                · next he => exact h.orderStop (h.go OM.Keeps.loadWeights he)

end State.Kept

end Sys2Proof.Machine
end

section
/-! The stream movers (R209–R223, R319, R320) keep the tables' sizes and the canonical form, and make no copy. -/

namespace Sys2Proof.Machine

namespace OM.Keeps

variable {P : Prop} {z : Base}

/-! ### Transfers -/

theorem bound {c : XCtx} {p : Place} {n : Nat} {k : Access} : (c.bound p n k).Keeps P z := by
  unfold XCtx.bound
  split
  · split
    · exact pure _
    · exact throw _
  · split
    · exact pure _
    · exact throw _
  · exact pure _

theorem pieces {c : XCtx} {p : Option Place} {n : Nat} {k : Access} : (c.pieces p n k).Keeps P z := by
  unfold XCtx.pieces
  split
  · exact oPieces
  · exact pure _

theorem sides {c : XCtx} {src : Option Place} {dst : Place} {n : Nat} : (c.sides src dst n).Keeps P z := by
  unfold XCtx.sides
  split
  · exact bound.bind fun _ => bound.bind fun _ => pieces.bind fun _ => pieces.bind fun _ => pure _
  · exact bound.bind fun _ => pieces.bind fun _ => pieces.bind fun _ => pure _

theorem issue {c : XCtx} {n len group : Nat} {src : Option Place} {dst : Place} {b : Byte} {lat free : Bool} {m : Merge} :
    (c.issue n src dst b len lat group free m).Keeps P z :=
  sides.bind fun _ => get_bind fun _ hs => (set hs.fetchStart.modTen).bind fun _ => pure _

theorem lengthen {c : XCtx} {x : Xfer} {src : Option Place} {dst : Place} {n : Nat} {m : Merge} :
    (c.lengthen x src dst n m).Keeps P z :=
  sides.bind fun _ => get_bind fun _ hs => (set hs.fetchAdd).bind fun _ => pure _

end OM.Keeps

/-- What a landing comes to is kept. -/
def LandedKept (P : Prop) (z : Base) : Landed → Prop
  | .no => True
  | .writing s => s.Kept P z
  | .done s => s.Kept P z

namespace State.Kept

variable {P : Prop} {z : Base} {s t : State}

theorem put (h : s.Kept P z) {c : XCtx} {x : Xfer} {bs : List Byte} : (c.put s x bs).Kept P z := by
  unfold XCtx.put
  split
  · exact h.putPieces
  · refine h.modCohort fun _ _ _ ⟨hm, hrest⟩ => ⟨memPut_wf _ hm, hrest⟩
  · exact h.spWrite

theorem land (h : s.Kept P z) {c : XCtx} {b : Bool} {x : Xfer} : LandedKept P z (c.land s b x) := by
  unfold XCtx.land
  dsimp only
  split
  · trivial
  · split
    · exact h.modTen
    · split
      · exact h.put
      · exact h.put.modTen

/-! ### Copies -/

theorem modCopy (h : s.Kept P z) {i : Nat} {f : Copy → Copy} (hf : ∀ c, (f c).id = c.id ∧ (f c).task = c.task) :
    (s.modCopy i f).Kept P z := h.with_copies fun _ hc => hc.modWhere hf

theorem copyIssue (h : s.Kept P z) {c : Copy} {k : Task} : (s.copyIssue c k).Kept P z := by
  unfold State.copyIssue
  dsimp only
  split
  · exact h
  · split
    · exact h.modCopy fun _ => ⟨rfl, rfl⟩
    · split
      · next he => exact (h.go OM.Keeps.issue he).modCopy fun _ => ⟨rfl, rfl⟩
      · next he => exact h.orderStop (h.go OM.Keeps.issue he)

theorem copyMore (h : s.Kept P z) {c : Copy} : (s.copyMore c).Kept P z := by
  unfold State.copyMore
  split
  · split
    · exact h
    · exact h.fetchMore.modCopy fun _ => ⟨rfl, rfl⟩
  · exact h

theorem copyLand (h : s.Kept P z) {c : Copy} {k : Task} : (s.copyLand c k).Kept P z := by
  unfold State.copyLand
  split
  · exact h
  · next x _ =>
    have hl := h.land (c := s.copyCtx c k) (b := s.copyBusy c.id) (x := x)
    split
    · exact h
    · next he =>
      rw [he] at hl
      exact State.Kept.modCopy hl fun _ => ⟨rfl, rfl⟩
    · next he =>
      rw [he] at hl
      exact (State.Kept.with_copies hl fun _ hc => hc.filter _).contribute

theorem copyGo (h : s.Kept P z) {c : Copy} : (s.copyGo c).Kept P z := by
  unfold State.copyGo
  split
  · exact h
  · split
    · exact h.copyIssue
    · exact h.copyMore

theorem noteDests (h : s.Kept P z) {k : Nat} {x : Xfer} : (s.noteDests k x).Kept P z := h

theorem chained (h : s.Kept P z) {t n i : Nat} : (s.chained t n i).Kept P z := by
  unfold State.chained
  split
  · exact h.chainPut
  · exact h

end State.Kept

namespace OM.Keeps

variable {P : Prop} {z : Base}

/-! ### Acceptance -/

theorem streamNeed {a : Acc} {b : Bool} {n : Nat} : (a.streamNeed b n).Keeps P z := oCheck

theorem streamHitch {a : Acc} {n : Nat} {ok : Hitch → Bool} : (a.streamHitch n ok).Keeps P z := oTen.bind fun _ => by
  split
  · exact streamNeed.bind fun _ => modified fun _ hs => hs.useHitch
  · exact streamNeed

theorem streamCounter {a : Acc} {d : StreamDesc} : (a.streamCounter d).Keeps P z := by
  unfold Acc.streamCounter
  split
  · exact throw _
  · exact pure _

theorem acceptStRun {a : Acc} : (acceptStRun a).Keeps P z :=
  desc.bind fun _ => streamNeed.bind fun _ => streamNeed.bind fun _ => by
    extract_lets _ _ jp
    have hjp : (jp ()).Keeps P z :=
      guard streamHitch <| guard streamHitch <| get_bind fun _ _ => streamNeed.bind fun _ => streamCounter.bind fun _ => pure _
    split
    · exact streamNeed.bind fun _ => hjp
    · exact hjp

/-! ### A stream's words -/

section
variable {c : StreamCtx} {r : StreamRun}

theorem padMiss : c.padMiss.Keeps P z := modified fun _ hs => hs.count
theorem cartOff {n size len : Nat} {a v : Int} : (c.cartOff n size len a v).Keeps P z := guard (throw _) (pure _)

theorem srcCart {v : Int} : (c.srcCart r v).Keeps P z := get_bind fun _ hs => by
  split
  · exact throw _
  · split
    · exact pure _
    · split
      · exact pure _
      · exact (set hs.modHitch).bind fun _ => pure _

theorem dstCart {v : Int} : (c.dstCart r v).Keeps P z := get_bind fun _ hs => by
  split
  · exact throw _
  · split
    · exact pure _
    · split
      · exact pure _
      · exact (set hs.modHitch).bind fun _ => pure _

theorem srcPlace {n : Nat} : (c.srcPlace r n).Keeps P z := by
  unfold StreamCtx.srcPlace
  split
  · refine srcCart.bind fun _ => ?_
    split
    · exact pure _
    · exact cartOff.bind fun _ => pure _
  · exact pure _

theorem dstPlace {n : Nat} : (c.dstPlace r n).Keeps P z := by
  unfold StreamCtx.dstPlace
  split
  · refine dstCart.bind fun _ => ?_
    split
    · exact pure _
    · exact cartOff.bind fun _ => get_bind fun _ _ => pure _
  · exact pure _

theorem send {b : Bool} {f : Byte} {n : Nat} : (c.send r b f n).Keeps P z := get_bind fun s hs => by
  extract_lets m jp
  have hjp : ∀ src, (jp src).Keeps P z := fun src => by
    refine dstPlace.bind fun _ => ?_
    split
    · exact (set hs).bind fun _ => pure _
    · dsimp only
      split
      · exact lengthen.bind fun _ => (modified fun _ hu => hu.noteDests).bind fun _ => pure _
      · split
        · exact (set hs).bind fun _ => pure _
        · exact issue.bind fun _ => (modified fun _ hu => hu.noteDests).bind fun _ => pure _
  split
  · refine srcPlace.bind fun _ => ?_
    split
    · exact pure _
    · exact (pure _).bind hjp
  · exact (pure _).bind hjp

theorem emit {w : Nat} : (c.emit r w).Keeps P z := by
  unfold StreamCtx.emit
  dsimp only
  split
  · exact padMiss.bind fun _ => pure _
  · split
    · exact pure _
    · split
      · refine send.bind fun _ => ?_
        split
        · exact padMiss.bind fun _ => pure _
        · exact pure _
      · exact send

theorem pad {w : Nat} : (c.pad r w).Keeps P z := by
  unfold StreamCtx.pad
  dsimp only
  split
  · exact padMiss.bind fun _ => pure _
  · split
    · exact pure _
    · exact send

theorem close : (c.close r).Keeps P z := by
  unfold StreamCtx.close
  split
  · exact pure _
  · exact (modified fun _ hs => hs.modHitch.chained).bind fun _ => pure _

theorem release : (c.release r).Keeps P z := by
  unfold StreamCtx.release
  split
  · exact pure _
  · exact (modified fun _ hs => hs.freeCart).bind fun _ => pure _

theorem afterEmit {a b : Bool} : (c.afterEmit r a b).Keeps P z := get_bind fun _ _ => by
  split
  · exact pure _
  · split
    · exact pure _
    · exact either release (pure _) fun _ => either close (pure _) fun _ => pure _

theorem entry {w : Nat} : (c.entry r w).Keeps P z := oWord.bind fun _ => pure _

theorem finish : (c.finish r).Keeps P z := by
  unfold StreamCtx.finish
  split
  · exact pure _
  · split
    · split
      · exact (modified fun _ hs => hs.freeCart).bind fun _ => pure _
      · exact close.bind fun _ => pure _
    · exact pure _

theorem step : (c.step r).Keeps P z := by
  unfold StreamCtx.step
  split
  · exact afterEmit
  · dsimp only
    split
    · exact pure _
    · exact pure _
    · split
      · exact pure _
      · exact pure _
    · refine emit.bind fun _ => ?_
      split
      · exact pure _
      · exact pure _
    · refine entry.bind fun _ => ?_
      split
      · exact pure _
      · exact pure _
    · refine pad.bind fun _ => ?_
      split
      · exact pure _
      · exact pure _
    · split
      · exact finish
      · split
        · exact pure _
        · split
          · exact pure _
          · exact pure _
end

end OM.Keeps

/-! ### What a mover issues, and what lands -/

namespace State.Kept

variable {P : Prop} {z : Base} {s t : State}

theorem pumpStream (h : s.Kept P z) (f : Nat) {id : Nat} : (pumpStream f id s).Kept P z := by
  induction f generalizing s with
  | zero => exact h
  | succ f ih =>
    rw [Machine.pumpStream]
    split
    · exact h
    · split
      · split
        · exact h
        · split
          · next he => exact ih (h.go OM.Keeps.step he).farDrop.setBody
          · next he => exact (h.go OM.Keeps.step he).setBody
          · next he => exact h.orderStop (h.go OM.Keeps.step he)
      · exact h

theorem streamMore (h : s.Kept P z) {o : Order} {d : StreamDesc} {r : StreamRun} : (s.streamMore o d r).Kept P z := by
  refine setBody (List.foldlRecOn (motive := fun x : State × List Xfer => x.1.Kept P z) _ _ h fun x hx y _ => ?_)
  split
  · exact hx
  · exact hx.fetchMore

theorem headGo (h : s.Kept P z) {m : MoverHead} : (s.headGo m).Kept P z := by
  cases m with
  | stream o d r => exact h.streamMore.pumpStream _
  | copy c => exact h.copyGo

theorem pumpMover (h : s.Kept P z) {m : Nat} : (s.pumpMover m).Kept P z := by
  refine h.foldl (fun u x hu => ?_) _
  cases u.moverHead m x.2 with
  | none => exact hu
  | some y => exact hu.headGo

theorem landXfer (h : s.Kept P z) {m q n : Nat} (ht : s.landXfer m q n = some t) : t.Kept P z := by
  obtain ⟨o, -, ht⟩ := Option.bind_eq_some_iff.1 ht
  split at ht
  · next d r k _ _ =>
    obtain ⟨x, -, ht⟩ := Option.bind_eq_some_iff.1 ht
    have hl := h.land (c := (s.streamCtx o d k).at n) (b := s.busyRead o.id n) (x := x)
    split at ht
    · cases ht
    · next he =>
      rw [he] at hl
      cases ht
      exact State.Kept.setBody hl
    · next he =>
      rw [he] at hl
      cases ht
      exact State.Kept.setBody hl
  · cases ht

theorem execCopyComplete (h : s.Kept P z) {i : Nat} : OutKept P z (execCopyComplete i s) := by
  unfold Machine.execCopyComplete
  split
  · trivial
  · refine .when ?_
    split
    · exact h.pumpMover.copyLand
    · exact h.pumpMover

theorem execStreamTransferLands (h : s.Kept P z) {m q n : Nat} : OutKept P z (execStreamTransferLands m q n s) := by
  unfold Machine.execStreamTransferLands
  dsimp only
  split
  · next ht => exact h.pumpMover.landXfer ht
  · exact .when h.pumpMover

theorem execBulkPromotion (h : s.Kept P z) {i t : Nat} : OutKept P z (execBulkPromotion i t s) := by
  unfold Machine.execBulkPromotion
  split
  · trivial
  · split
    · split
      · trivial
      · exact .when h.atTick.setBody
    · split
      · trivial
      · exact .when (h.atTick.modCopy fun _ => ⟨rfl, rfl⟩)

end State.Kept

/-- A mover issues what it can without making a copy: one found by its number afterwards is of the same task as before. -/
theorem pumpMover_copies {s : State} {m i : Nat} {c : Copy} (h : (s.pumpMover m).copies.find? (·.id == i) = some c) :
    ∃ c0, s.copies.find? (·.id == i) = some c0 ∧ c0.task = c.task := by
  obtain ⟨-, hc, -⟩ := s.kept_copies.pumpMover (m := m)
  exact hc _ rfl i c h

end Sys2Proof.Machine
end

section
/-! The events of the engines (R59, R98–R100, R119, R131, R132, R143, R216, R221, R234, R320), and the settlement of O48. -/

namespace Sys2Proof.Machine

section
variable {s : State}

/-! ### Rows and transfers that land -/

theorem gatherRowLands_next {e q pos : Nat} {s2 : State} (h : (s.pumpQueue e q).landAt e q pos = some s2) :
    exec (.gatherRowLands e q pos) s = .next s2 := by
  change execGatherRowLands e q pos s = _
  simp only [execGatherRowLands, h]

/-- R100: a row whose bytes are all here takes its effect on the order that heads the queue. -/
theorem landAt_landed {e q pos : Nat} {o : Order} {r : GRead} {b : OrderBody} {s2 : State} (ho : s.headOf (.gather e) q = some o)
    (hr : o.flightAt pos = some r) (hl : s.landable o r = true) (hgo : (landRead o r).go s = (.ok b, s2)) :
    s.landAt e q pos = some (s2.setBody o.id b) := by
  rw [State.landAt, ho, Option.bind_some, hr, Option.bind_some, if_pos hl, hgo]

theorem streamTransferLands_next {m q n : Nat} {s2 : State} (h : (s.pumpMover m).landXfer m q n = some s2) :
    exec (.streamTransferLands m q n) s = .next s2 := by
  change execStreamTransferLands m q n s = _
  simp only [execStreamTransferLands, h]

/-- R219: a landed transfer leaves its stream's transfers in flight and counts in its bytes. -/
theorem landXfer_done {m q n : Nat} {o : Order} {d : StreamDesc} {r : StreamRun} {k : Task} {x : Xfer} {s2 : State}
    (ho : s.headOf (.mover m) q = some o) (hb : o.body = .stRun d r) (hk : s.task? o.task = some k)
    (hx : r.flight.find? (·.n == n) = some x)
    (hl : ((s.streamCtx o d k).at n).land s (s.busyRead o.id n) x = .done s2) :
    s.landXfer m q n = some (s2.setBody o.id (.stRun d { r with
      flight := r.flight.filter (·.n != n), landed := r.landed + x.len })) := by
  rw [State.landXfer, ho, Option.bind_some]
  simp only [hb, hk, hx, Option.bind_some, hl]

/-! ### Pooling -/

/-- R119: the bags before one that have had their last pass, or whose next pass waits, are passed over. -/
theorem poolTry_eq {o : Order} {p p' : PlBag} {s' : State} {bag : Nat} (hlast : (p.run bag).last = false)
    (hgo : (poolPass o p bag).go s = (.ok p', s')) (d n : Nat) (hn : d < n) :
    ∀ b, b + d = bag → (∀ c, b ≤ c → c < bag → (p.run c).last = true ∨ ∃ u, (poolPass o p c).go s = (.error .wait, u)) →
      poolTry o p s n b = (.ok p', s') := by
  induction d generalizing n with
  | zero =>
    intro b hb _
    obtain ⟨n, rfl⟩ := Nat.exists_eq_succ_of_ne_zero (Nat.ne_of_gt hn)
    rw [show b = bag from hb, poolTry, hlast, hgo]
    rfl
  | succ d ih =>
    intro b hb hskip
    obtain ⟨n, rfl⟩ := Nat.exists_eq_succ_of_ne_zero (Nat.ne_of_gt (Nat.zero_lt_of_lt hn))
    have hnext := ih n (by omega) (b + 1) (by omega) fun c hc => hskip c (by omega)
    rw [poolTry]
    obtain hl | ⟨u, hu⟩ := hskip b (Nat.le_refl _) (by omega)
    · rw [if_pos hl, hnext]
    · split
      · exact hnext
      · rw [hu]
        exact hnext

theorem poolingPass_next {cl : Nat} {o : Order} {p p' : PlBag} {s' : State} (ho : s.headOf (.pool cl) 0 = some o)
    (hb : o.body = .plBag p) (hs : s.stalled (s.carrier o.unit) = false) (hn : p.bag < p.nbags)
    (ht : poolTry o p s (p.nbags - p.bag) p.bag = (.ok p', s')) :
    exec (.poolingPass cl) s = .next ((s'.farDrop (.order o.id)).setBody o.id (.plBag p')) := by
  have hstall : ¬ s.stalled (s.carrier o.unit) = true := by simp [hs]
  change execPoolingPass cl s = _
  rw [execPoolingPass, ho]
  simp only [hb, if_neg (Nat.not_le.2 hn), if_neg hstall, ht]

/-! ### Copies -/

/-- A transfer whose source is whole lands at once where nothing of its destination lies beyond the own pool. -/
theorem land_done {c : XCtx} {x : Xfer} (hf : s.fetchHome x.fetch = true) (hw : x.writing = false) (hfree : x.free = false)
    (hr : s.remoteDst x = false) (hck : x.dst.space = .memory → s.ckHolds c.x.ten x.dst.addr x.len = false) :
    c.land s false x = .done ((c.put s x (c.bytes s x)).modTen c.x.ten fun t => { t with mtokRet := t.mtokRet + 1 }) := by
  have hgo : (false || !s.fetchHome x.fetch || (x.dst.space == .memory && !x.writing && s.ckHolds c.x.ten x.dst.addr x.len)) = false := by
    rw [hf, hw]
    by_cases hm : x.dst.space = .memory
    · simp [hck hm]
    · simp [hm]
  rw [XCtx.land, hgo, hw, hr, hfree]
  rfl

theorem contribute_copies (task cohort ac : Nat) (n : W32) : (s.contribute task cohort ac n).copies = s.copies := by
  unfold State.contribute State.addShared
  split
  · split
    · split <;> rfl
    · rfl
  · rfl

theorem copyLand_done {c : Copy} {k : Task} {x : Xfer} {t : State} (hx : c.xfer = some x)
    (hl : (s.copyCtx c k).land s (s.copyBusy c.id) x = .done t) :
    s.copyLand c k = State.contribute { t with copies := t.copies.filter (·.id != c.id) } c.task c.cohort c.ac c.amount := by
  rw [State.copyLand, hx]
  simp only [hl]

/-- R320: a copy lands and is gone, which changes the state. -/
theorem copyComplete_next {c0 c : Copy} {k : Task} {x : Xfer} {t : State} (h0 : s.copies.find? (·.id == c0.id) = some c0)
    (hc : (s.pumpMover c0.mover).copies.find? (·.id == c0.id) = some c) (hk : (s.pumpMover c0.mover).task? c.task = some k)
    (hx : c.xfer = some x)
    (hl : ((s.pumpMover c0.mover).copyCtx c k).land (s.pumpMover c0.mover) ((s.pumpMover c0.mover).copyBusy c.id) x = .done t) :
    exec (.copyComplete c0.id) s =
      .next (State.contribute { t with copies := t.copies.filter (·.id != c.id) } c.task c.cohort c.ac c.amount) := by
  have hid : c.id = c0.id := by simpa using List.find?_some hc
  obtain ⟨c1, h1, htask⟩ := pumpMover_copies hc
  have hsame : c0.task = c.task := (congrArg Copy.task (Option.some.inj (h0.symm.trans h1))).trans htask
  have hk0 : (s.pumpMover c0.mover).task? c0.task = some k := hsame ▸ hk
  change execCopyComplete c0.id s = _
  rw [execCopyComplete, h0]
  simp only [hc, hk0, copyLand_done hx hl]
  refine when_next.2 ⟨decide_eq_true fun he => ?_, rfl⟩
  have hmem : c0 ∈ s.copies := List.mem_of_find?_eq_some h0
  rw [← he, contribute_copies, List.mem_filter, hid] at hmem
  simpa using hmem.2

/-! ### Promotion -/

theorem Xfer.promote_eq (t : Nat) : Xfer.promote t = fun x => if x.ready + 1024 ≤ t then { x with fetch := { x.fetch with lat := true } }
    else x := by
  funext x
  exact ite_congr (propext decide_eq_true_iff) (fun _ => rfl) fun _ => rfl

theorem GRead.promote_eq (t : Nat) : GRead.promote t = fun x => if x.ready + 1024 ≤ t then { x with fetch := { x.fetch with lat := true } }
    else x := by
  funext x
  exact ite_congr (propext decide_eq_true_iff) (fun _ => rfl) fun _ => rfl

/-- A request that has waited 1,024 ticks is found among those that wait. -/
theorem any_waitedAt {l : List Nat} {n t : Nat} (hn : n ∈ l) (ht : n + 1024 ≤ t) : l.any (waitedAt · t) = true :=
  List.any_eq_true.2 ⟨n, hn, decide_eq_true ht⟩

theorem bulkPromotion_order {o : Order} {n t : Nat} (hp : s.mayPass t = true) (ho : s.order? o.id = some o)
    (hn : n ∈ o.body.promoteFrom) (ht : n + 1024 ≤ t) :
    exec (.bulkPromotion (2 * o.id) t) s = .next ((s.atTick t).setBody o.id (o.body.promote t)) := by
  have hpass : ¬ (!s.mayPass t) = true := by simp [hp]
  have hdiv : 2 * o.id / 2 = o.id := by omega
  change execBulkPromotion (2 * o.id) t s = _
  rw [execBulkPromotion, if_neg hpass, if_pos (Nat.mul_mod_right 2 o.id), hdiv, ho]
  exact when_next.2 ⟨any_waitedAt hn ht, rfl⟩

theorem bulkPromotion_copy {c : Copy} {n t : Nat} (hp : s.mayPass t = true) (hc : s.copies.find? (·.id == c.id) = some c)
    (hn : n ∈ c.promoteFrom) (ht : n + 1024 ≤ t) : exec (.bulkPromotion (2 * c.id + 1) t) s =
      .next ((s.atTick t).modCopy c.id fun y => { y with promoted := true, xfer := y.xfer.map (Xfer.promote t) }) := by
  have hpass : ¬ (!s.mayPass t) = true := by simp [hp]
  have hdiv : (2 * c.id + 1) / 2 = c.id := by omega
  have hodd : (2 * c.id + 1) % 2 ≠ 0 := by omega
  change execBulkPromotion (2 * c.id + 1) t s = _
  rw [execBulkPromotion, if_neg hpass, if_neg hodd, hdiv, hc]
  exact when_next.2 ⟨any_waitedAt hn ht, rfl⟩

/-! ### The coupling chain -/

/-- R235: a code cart that may move takes its effect on its scan. -/
theorem chainLinkCopy_code {ten id num : Nat} {o : Order} {b b' : ScanB1} {s' : State} (ho : s.scanOf id = some (o, b))
    (hgo : (codeMove o b num).go s = (.ok (some b'), s')) :
    exec (.chainLinkCopy ten (256 + id) num) s = .next (s'.setBody id (.scanB1 b')) := by
  change execChainLinkCopy ten (256 + id) num s = _
  rw [execChainLinkCopy, if_pos (Nat.le_add_right 256 id), Nat.add_sub_cancel_left, State.passCode, ho]
  simp only [hgo]

section
variable {ten i : Nat} {h : Hitch} (hnum : h.num < 256) (hh : s.hitch? ten h.num = some h) (hi : i ∈ h.queue)
  (hst : (h.cart i).st = .chain)
  (hclear : s.chainClear ten h.num i (h.cart i).clu (s.nextOnChain ten (h.cart i).clu) = true)
include hnum hh hi hst hclear

/-- R234: a cart whose cluster is not in its mask passes on. -/
theorem chainLinkCopy_pass (htag : bitOf (h.cart i).tag.toNat (h.cart i).clu = false) :
    exec (.chainLinkCopy ten h.num i) s = .next (s.passCart ten h i) := by
  have hon : ¬ ((!h.queue.contains i) = true ∨ (h.cart i).st ≠ .chain) := by simp [hi, hst]
  change execChainLinkCopy ten h.num i s = _
  rw [execChainLinkCopy, if_neg (Nat.not_le.2 hnum), hh]
  simp only [if_neg hon, hclear, htag]
  rfl

/-- R197: a cart of weights that its cluster's slice waits for is loaded, and passes on. -/
theorem chainLinkCopy_load {o : Order} {m : IaMma} {s' : State} (htag : bitOf (h.cart i).tag.toNat (h.cart i).clu = true)
    (hw : s.weightWaiter ten h.num (h.cart i).clu = some (o, m)) (hroom : (s.cluster (h.cart i).clu).units.wbufs.length < 2)
    (hgo : (loadWeights o m h i (h.cart i).clu).go s = (.ok (), s')) :
    exec (.chainLinkCopy ten h.num i) s = .next (s'.passCart ten h i) := by
  have hon : ¬ ((!h.queue.contains i) = true ∨ (h.cart i).st ≠ .chain) := by simp [hi, hst]
  change execChainLinkCopy ten h.num i s = _
  rw [execChainLinkCopy, if_neg (Nat.not_le.2 hnum), hh]
  simp only [if_neg hon, hclear, htag, hw, if_neg (Nat.not_le.2 hroom), hgo]
  rfl
end

/-! ### The arena -/

/-- R131, R132: an add request that reaches its element is counted in its bank and its table. -/
theorem arenaAddComplete_next {n : Nat} {t : State} {ad : ArenaAdd} {x : Table} {sat : Bool} (ha : s.adds[n]? = some ad)
    (hx : (s.ten ad.ten).table? ad.bank.table = some x)
    (he : (State.modOrder { s with adds := s.adds.eraseIdx n } ad.order fun o => { o with body := o.body.addDone }).elemAdd ad.ten
      (slotVa x.desc (x.bank ad.bank.send) ad.slot ad.elem) ad.value = some (t, sat)) :
    exec (.arenaAddComplete n) s = .next ((t.modBank ad.ten ad.bank fun b =>
      { b with added := b.added + 1, sat := b.sat + BitVec.ofNat 32 (b2n sat) }).totals ad.ten ad.ctx ad.task ad.bank.table
        [(srAdded, 1), (srSat, b2n sat)]) := by
  have hx' : ((State.modOrder { s with adds := s.adds.eraseIdx n } ad.order fun o => { o with body := o.body.addDone }).ten
      ad.ten).table? ad.bank.table = some x := hx
  change execArenaAddComplete n s = _
  rw [execArenaAddComplete, ha]
  simp only [hx', he]

theorem sub_eq_zero_iff {n : Nat} {x y : BitVec n} : x - y = 0 ↔ x = y := by
  rw [BitVec.sub_eq_iff_eq_add, show (0 : BitVec n) + y = y from BitVec.zero_add y]

/-- R143: with no add of its bank out, a seal takes effect, and short books are reported. -/
theorem sealTakesEffect_next {ten table id : Nat} {send : Bool} {x : Table} (hx : (s.ten ten).table? table = some x)
    (hs : (x.bank send).sealing = some id) (ha : s.addsOf ten table send id = false) :
    exec (.sealTakesEffect ten table send) s = .next (
      let b := s.bankRead ten (x.bank send)
      let t := s.modBank ten ⟨table, send, 0⟩ fun b => { b with st := .sealed, sealing := none }
      if b.conv = b.comb + b.added + b.nan then t
      else t.imbalanceTen ten 8 (2 * table + b2n send) (b.conv - (b.comb + b.added + b.nan)).toNat memWordU) := by
  have hout : ¬ s.addsOf ten table send id = true := by simp [ha]
  change execSealTakesEffect ten table send s = _
  rw [execSealTakesEffect, hx]
  simp only [hs, if_neg hout, sub_eq_zero_iff]
  split <;> rfl
end

/-! ### O48 -/

/-- Settles O48: each event of an engine is the effect its rule names, on the state in which the engine has issued what it can. -/
theorem engineEvents : Obligations.EngineEvents := by
  unfold Obligations.EngineEvents
  refine ⟨?_, ?_, ?_, ?_, ?_, ?_, ?_, ?_, ?_, ?_, ?_⟩
  · intro e q pos s s2 o r b s1 ho hr hl hgo
    exact gatherRowLands_next (landAt_landed ho hr hl hgo)
  · intro cl bag s s' o p p' ho hb hs hle hlt hlast hskip hgo
    exact poolingPass_next ho hb hs (by omega)
      (poolTry_eq hlast hgo (bag - p.bag) (p.nbags - p.bag) (by omega) p.bag (by omega) hskip)
  · intro s c0 c k x h0 s1 hc hk hx hf hw hfree hbusy hr hck
    refine copyComplete_next h0 hc hk hx ?_
    rw [show s1.copyBusy c.id = false from hbusy]
    exact land_done hf hw hfree hr hck
  · intro m q n s s2 o d r k x s1 ho hb hk hx hl
    exact streamTransferLands_next (landXfer_done ho hb hk hx hl)
  · intro s t n o hp ho hn ht
    refine ⟨fun d r hb => ?_, fun g hb => ?_⟩
    · rw [bulkPromotion_order hp ho hn ht, hb, OrderBody.promote, Xfer.promote_eq]
      rfl
    · rw [bulkPromotion_order hp ho hn ht, hb, OrderBody.promote, GRead.promote_eq]
      rfl
  · intro s t n c hp hc hn ht
    rw [bulkPromotion_copy hp hc hn ht, Xfer.promote_eq]
  · intro ten h i s hnum hh hi hst hclear htag
    exact chainLinkCopy_pass hnum hh hi hst hclear htag
  · intro ten id num s s' o b b' ho hgo
    exact chainLinkCopy_code ho hgo
  · intro ten h i s s' o m hnum hh hi hst hclear htag hw hroom hgo
    exact chainLinkCopy_load hnum hh hi hst hclear htag hw hroom hgo
  · intro n s t ad x sat ha hx he
    exact arenaAddComplete_next ha hx he
  · intro ten table id send s x hx hs ha
    exact sealTakesEffect_next hx hs ha

end Sys2Proof.Machine
end

section
/-! The line orders (R346–R349), and the acceptance and completion of every order (R328, R329), keep the tables' sizes and the
canonical form. -/

namespace Sys2Proof.Machine

namespace OM.Keeps

variable {P : Prop} {z : Base}

/-! ### Line orders -/

theorem sealedSend {a : Acc} {n : Nat} : (a.sealedSend n).Keeps P z :=
  table.bind fun _ => need.bind fun _ => oBankGroup.bind fun _ => guard (throw _) <| bankNeed.bind fun _ => pure _

theorem acceptLnPut {a : Acc} : (acceptLnPut a).Keeps P z := descOk.bind fun _ => by
  extract_lets w0 o fin rows
  have hrows : (rows ()).Keeps P z := by
    refine hitch.bind fun _ => ?_
    split
    · refine sealedSend.bind fun _ => need.bind fun _ => ?_
      split
      · exact (modified fun _ hs => hs.modTable).bind fun _ => get_bind fun _ _ => oCheck.bind fun _ => pure _
      · exact pure _
    · exact need.bind fun _ => pure _
  split
  · exact aw.bind fun _ => hrows
  · exact hrows

theorem acceptLnTake {a : Acc} : (acceptLnTake a).Keeps P z :=
  descOk.bind fun _ => aw.bind fun _ => aw.bind fun _ => hitch.bind fun _ => pure _

theorem acceptLnOvf {a : Acc} : (acceptLnOvf a).Keeps P z :=
  descOk.bind fun _ => aw.bind fun _ => need.bind fun _ => sealedSend.bind fun _ => oRead.bind fun _ => bucketOf.bind fun _ => pure _

theorem putBytes {o : Order} {p : LnPut} {x : Eng} : (putBytes o p x).Keeps P z := by
  unfold Machine.putBytes
  split
  · refine get_bind fun _ _ => ?_
    split
    · exact throw _
    · exact oBankRead.bind fun _ => pure _
  · exact oRead.bind fun _ => pure _

theorem runLnPut {o : Order} {p : LnPut} : (runLnPut o p).Keeps P z := get_bind fun _ _ => by
  dsimp only
  split
  · exact throw _
  · exact putBytes.bind fun _ => modified fun _ hs => hs.spWrite.modHitch

theorem runLnTake {o : Order} {p : LnTake} : (runLnTake o p).Keeps P z :=
  get_bind fun _ _ => takeCart.bind fun _ => giveCart.bind fun _ => guard (throw _) <| oWrite.bind fun _ => oWrite

theorem ovfWrite {o : Order} {win off : Nat} {bs : List Byte} : (ovfWrite o win off bs).Keeps P z := get_bind fun _ hs => by
  split
  · exact (set hs.writeRequests).bind fun _ => pure _
  · exact throw _

theorem ovfOwner {o : Order} {p : LnOvf} {t : Table} {es : List ((Nat × Nat) × Nat)} {r : Nat} : (ovfOwner o p t es r).Keeps P z :=
  (mapM fun _ => oBankRead.bind fun _ => ovfWrite.bind fun _ => pure _).bind fun _ => pure _

theorem startOvf {o : Order} {p : LnOvf} : (startOvf o p).Keeps P z := get_bind fun _ _ => by
  split
  · exact throw _
  · exact get_bind fun _ _ => readOverflow.bind fun _ => (mapM fun _ => ovfOwner).bind fun _ => pure _

theorem sealOvf {o : Order} {p : LnOvf} : (sealOvf o p).Keeps P z := get_bind fun _ _ => by
  split
  · exact pure _
  · exact (mapM fun _ => ovfWrite.bind fun _ => pure _).bind fun _ => pure _

theorem stepOvf {o : Order} {p : LnOvf} : (stepOvf o p).Keeps P z := either (pure _) startOvf fun _ => sealOvf

/-! ### Acceptance -/

theorem fenced {a : Acc} : a.fenced.Keeps P z := by
  unfold Acc.fenced
  repeat' split
  · exact desc.bind fun _ => by
      split
      · exact throw _
      · exact pure _
  · exact throw _
  · exact pure _

theorem serves {a : Acc} : a.serves.Keeps P z := get_bind fun _ _ => need.bind fun _ => need

theorem counter {a : Acc} : a.counter.Keeps P z := by
  unfold Acc.counter
  split
  · exact throw _
  · exact pure _

theorem body {a : Acc} : a.body.Keeps P z := by
  unfold Acc.body
  split
  · exact acceptGathQ
  · exact acceptGathBk
  · exact acceptGathOvf
  · exact acceptSaddOpen
  · exact acceptSaddX64
  · exact acceptSaddQ64
  · exact acceptSaddSeal
  · exact acceptSaddClose
  · exact acceptStRun
  · exact acceptPlBag
  · exact acceptScanLd
  · exact acceptScanB1
  · exact acceptTkRd
  · exact acceptTkMerge
  · exact acceptTkClr
  · exact acceptIaMma
  · exact acceptIaSt
  · exact acceptIaLd
  · exact acceptIaZero
  · exact acceptEpCvt
  · exact acceptLnPut
  · exact acceptLnTake
  · exact acceptLnOvf
  · exact acceptFold

theorem scanRoom {b : OrderBody} : (scanRoom b).Keeps P z := by
  unfold Machine.scanRoom
  split
  · refine get_bind fun _ _ => ?_
    split
    · exact pure _
    · exact throw _
  · exact pure _

/-- The order put in its queue. -/
theorem accept {a : Acc} : a.accept.Keeps P z :=
  fenced.bind fun _ => serves.bind fun _ => counter.bind fun _ => body.bind fun _ => scanRoom.bind fun _ => get_bind fun s hs => by
    extract_lets t am o s1 s2
    have h1 : s1.Kept P z := by
      unfold s1
      split
      · exact hs.modTen
      · exact hs
    have h2 : s2.Kept P z := by
      unfold s2
      split
      · exact h1.modTen
      · exact h1
    exact set h2.with_rest

/-! ### Completion -/

theorem whole {o : Order} {m : OM Unit} (hm : m.Keeps P z) : (whole o m).Keeps P z := hm.bind fun _ => pure _

theorem runOrder {o : Order} : (runOrder o).Keeps P z := get_bind fun s hs => by
  cases o.body with
  | gathQ g => exact pure _
  | gathBk b => exact whole runGathBk
  | gathOvf b d es n fl => cases es <;> exact pure _
  | saddOpen r ids clr => exact pure _
  | saddX64 r left => exact pure _
  | saddQ64 r src map n st => exact whole runSaddQ64
  | saddSeal r => exact pure _
  | saddClose r =>
    dsimp only
    split
    · exact pure _
    · exact (set hs.closeBank).bind fun _ => pure _
  | stRun d r => exact pure _
  | plBag p => exact pure _
  | scanLd off mask clen => exact whole runScanLd
  | scanB1 b => exact scanGo.bind fun _ => pure _
  | tkRd off => exact whole runTkRd
  | tkMerge off slot => exact whole runTkMerge
  | tkClr mask => exact whole runTkClr
  | iaMma m => exact whole runIaMma
  | iaSt off comp => exact whole runIaSt
  | iaLd off comp => exact whole runIaLd
  | iaZero => exact whole runIaZero
  | epCvt p => exact (runEpRows _).bind fun _ => pure _
  | lnPut p => exact whole runLnPut
  | lnTake p => exact whole runLnTake
  | lnOvf p => exact stepOvf.bind fun _ => pure _
  | fold f => exact runFold.bind fun _ => pure _
  | sent n => exact pure _

end OM.Keeps

namespace State.Kept

variable {P : Prop} {z : Base} {s t : State}

theorem ovfAnswered (h : s.Kept P z) {o : Order} {p : LnOvf} {g : W32} : (s.ovfAnswered o p g).Kept P z := by
  unfold State.ovfAnswered
  dsimp only
  split
  · split
    · exact h
    · exact h.setBody.modTable.totals
  · exact h

/-- An order accepted at its coach, or stopped there. -/
theorem settled (h : s.Kept P z) {a : Acc} {p : State} (hp : p.Kept P z) {c : CoachRef} {y : Coach} (hy : P → y.Canonical)
    (ht : a.settle p c y s = some t) : t.Kept P z := by
  unfold Acc.settle at ht
  split at ht
  · cases ht
  · split at ht
    · next he =>
      cases ht
      exact (h.go OM.Keeps.accept he).farDrop.setCoach hy
    · cases ht
    · next he =>
      cases ht
      exact hp.orderStop (h.go OM.Keeps.accept he)

theorem retire (h : s.Kept P z) {o : Order} {n : W32} : (s.retire o n).Kept P z := by
  unfold State.retire
  dsimp only
  split
  · exact h.dropOrder.returnTicket
  · exact h.dropOrder.returnTicket.contribute

end State.Kept

namespace BodyKept

variable {P : Prop} {z : Base}

theorem order {cls op : Nat} : BodyKept P z (orderBody cls op) := fun s x hs hx => by
  have hp : (s.setCoach x.ref { x.k with order := some (orderWordOf x cls op) }).Kept P z := hs.setCoach fun p => (hx p).1
  unfold orderBody
  dsimp only
  cases ht : Acc.settle _ _ _ _ _ with
  | none => exact hp
  | some t => exact hs.settled hp (fun p => (hx p).1.step) ht

theorem orderUndef {cls op : Nat} : BodyKept P z (orderUndef cls op) := fun _ _ hs _ => hs.failTask

end BodyKept

namespace State.Kept

variable {P : Prop} {z : Base} {s : State}

theorem issueOrder (h : s.Kept P z) {c : CoachRef} {cls op : Nat} {w : LaneWord} : OutKept P z (s.issueOrder c cls op w) :=
  .when (h.laneRun BodyKept.orderUndef BodyKept.order)

theorem execOrderAccept (h : s.Kept P z) {c : CoachRef} : OutKept P z (execOrderAccept c s) := by
  unfold Machine.execOrderAccept
  split
  · next hk =>
    split
    · trivial
    · split
      · next ht =>
        refine h.settled h ?_ ht
        exact fun p => (h.coach? p hk).step
      · trivial
  · trivial

theorem execOrderComplete (h : s.Kept P z) {i : Nat} : OutKept P z (execOrderComplete i s) := by
  unfold Machine.execOrderComplete
  split
  · trivial
  · repeat' split
    · trivial
    · trivial
    · next he =>
      have hd := (h.go OM.Keeps.runOrder he).farDrop (who := .order i)
      dsimp only
      split
      · exact hd.setBody
      · exact hd.retire
    · next he => exact (h.go OM.Keeps.runOrder he).farDrop.setBody
    · trivial
    · trivial
    · next he => exact h.orderStop (h.go OM.Keeps.runOrder he)

end State.Kept

end Sys2Proof.Machine
end

section
/-! Requests served for other blocks (R277–R285) and the translation unit's own events (R55–R57, R364–R382) keep the tables' sizes and
the canonical form. -/

namespace Sys2Proof.Machine

/-- What an access's target does keeps what a state is held to. -/
def Target.Keeps (P : Prop) (z : Base) (g : Target) : Prop :=
  (∀ n, (g.read n).Keeps P z) ∧ (∀ bs, (g.write bs).Keeps P z) ∧ ∀ off n, (g.elem off n).Keeps P z

theorem State.Kept.peerWrite {P : Prop} {z : Base} {s : State} (h : s.Kept P z) {pa : Nat} {bs : List Byte} : (s.peerWrite pa bs).Kept P z :=
  h.soil.engineWrite

namespace OM.Keeps

variable {P : Prop} {z : Base}

theorem ownPieces {x : Eng} {va n : Nat} {k : Access} : (ownPieces x va n k).Keeps P z := oPieces.bind fun _ => get_bind fun _ _ => by
  split
  · exact throw _
  · exact pure _

theorem oPoison {t pa n : Nat} : (oPoison t pa n).Keeps P z := get_bind fun _ hs => by
  split
  · exact (set hs.meetBad).bind fun _ => throw _
  · exact pure _

theorem oPodGroup {pa n : Nat} {k : Access} : (oPodGroup pa n k).Keeps P z := get_bind fun _ _ => by
  dsimp only
  split
  · exact throw _
  · exact pure _

theorem windowTarget {x : Eng} {va : Nat} : (windowTarget x va).Keeps P z :=
  ⟨fun _ => ownPieces.bind fun _ => (mapM fun _ => oPool).bind fun _ => pure _,
    fun _ => ownPieces.bind fun _ => modified fun _ hs =>
      List.foldlRecOn (motive := fun x : State × List Byte => x.1.Kept P z) _ _ hs fun _ hx _ _ => hx.peerWrite,
    fun _ _ => ownPieces.bind fun _ => pure _⟩

theorem podTarget {pa : Nat} : (podTarget pa).Keeps P z :=
  ⟨fun _ => oPodGroup.bind fun _ => oPoison.bind fun _ => get_bind fun _ _ => pure _,
    fun _ => oPodGroup.bind fun _ => modified fun _ hs => hs.peerWrite,
    fun _ _ => oPodGroup.bind fun _ => pure _⟩

section
variable {t : Nat} {g : Target} {m : Msg}

theorem serveAtomic (hg : g.Keeps P z) : (serveAtomic t g m).Keeps P z := by
  obtain ⟨-, -, helem⟩ := hg
  exact (mapM fun _ => (helem _ _).bind fun _ => oPoison.bind fun _ => get_bind fun _ _ => (modified fun _ hs => hs.peerWrite).bind fun _ =>
    pure _).bind fun _ => pure _

theorem serveOp (hg : g.Keeps P z) : (serveOp t g m).Keeps P z := by
  have hat := serveAtomic (t := t) (m := m) hg
  obtain ⟨hread, hwrite, -⟩ := hg
  unfold Machine.serveOp
  repeat' split
  · exact hread _
  · exact (hwrite _).bind fun _ => pure _
  · exact hat.bind fun _ => pure _
  · exact hat.bind fun _ => pure _
end

end OM.Keeps

namespace State.Kept

variable {P : Prop} {z : Base} {s : State}

/-! ### Requests served -/

theorem serveWindow (h : s.Kept P z) {p t va mv : Nat} {m : Msg} : (s.serveWindow p t va mv m).Kept P z := by
  unfold State.serveWindow
  dsimp only
  split
  · next he => exact (h.go (OM.Keeps.serveOp OM.Keeps.windowTarget) he).respond
  · next he =>
    have hs := h.go (OM.Keeps.serveOp OM.Keeps.windowTarget) he
    repeat' split
    · exact hs.event.respond
    · exact h.pendFault
    · exact hs.event.respond
  · next he => exact (h.go (OM.Keeps.serveOp OM.Keeps.windowTarget) he).event.respond
  · exact h.startWalk.with_rest
  · next he => exact (h.go (OM.Keeps.serveOp OM.Keeps.windowTarget) he).respond

theorem servePod (h : s.Kept P z) {m : Msg} : (s.servePod m).Kept P z := by
  unfold State.servePod
  split
  · next he => exact (h.go (OM.Keeps.serveOp OM.Keeps.podTarget) he).respond
  · next he => exact (h.go (OM.Keeps.serveOp OM.Keeps.podTarget) he).event.respond
  · next he => exact (h.go (OM.Keeps.serveOp OM.Keeps.podTarget) he).event.respond
  · next he => exact (h.go (OM.Keeps.serveOp OM.Keeps.podTarget) he).respond

theorem serve (h : s.Kept P z) {p : Nat} {m : Msg} : (s.serve p m).Kept P z := by
  unfold State.serve
  dsimp only
  repeat' split
  · exact h.servePod
  · exact h.respond
  · exact h.respond
  · exact h.respond
  · exact h.serveWindow

theorem reserve (h : s.Kept P z) {t : Nat} {u : UnitRef} : (s.reserve t u).Kept P z := h.takeServed.foldl (fun _ _ hu => hu.serveWindow) _

/-! ### Walks -/

theorem nextWalk (h : s.Kept P z) : s.nextWalk.Kept P z := by
  unfold State.nextWalk
  split
  · exact h
  · split
    · refine count ?_
      exact h
    · exact h

theorem walkFault (h : s.Kept P z) {t : Nat} {u : UnitRef} {w : Serving} {f : AccFault} : (s.walkFault t u w f).Kept P z := by
  unfold State.walkFault
  split
  · split
    · exact h.accFault
    · exact h
  · split
    · exact h.pendFault
    · exact h.event.ckFail
  · split
    · exact h.pendFault
    · exact h.event.unserve

theorem installWalk (h : s.Kept P z) {t : Nat} {u : UnitRef} {l : Leaf} : (s.installWalk t u l).Kept P z := by
  unfold State.installWalk
  refine l1Install ?_
  exact h

theorem partyEnd (h : s.Kept P z) {t : Nat} {p : Party} : (State.partyEnd t s p).Kept P z := by
  unfold State.partyEnd
  split
  · dsimp only
    split
    · exact h.installWalk.reserve
    · exact h.installWalk
  · split
    · exact h.meetBad.walkFault
    · exact h.walkFault

theorem execWalkComplete (h : s.Kept P z) {n : Nat} : OutKept P z (execWalkComplete n s) := by
  unfold Machine.execWalkComplete
  split
  · trivial
  · next w _ =>
    have h1 : State.Kept P z { s with xlt := { s.xlt with walks := s.xlt.walks.eraseIdx n } } := h
    exact State.Kept.foldl (s := State.unstallWalk _ w.ten w.va) h1.nextWalk (fun _ _ hu => hu.partyEnd) _

/-! ### Answers to faults -/

theorem answered (h : s.Kept P z) {t : Nat} {f : W16} : (s.answered t f).Kept P z := State.Kept.modTen (s := s.unstallFault t f) h

theorem abortServed (h : s.Kept P z) {t : Nat} {f : PendFault} {p : Party} : (s.abortServed t f p).Kept P z := by
  unfold State.abortServed
  split
  · split
    · exact h.abortTask
    · exact h
  · exact h.ckFail
  · exact h.unserve

theorem answerAbort (h : s.Kept P z) {t : Nat} {f : PendFault} : (s.answerAbort t f).Kept P z :=
  h.answered.foldl (fun _ _ hu => hu.abortServed) _

theorem forget (h : s.Kept P z) {t : Nat} {p : Party} : (s.forget t p).Kept P z := by
  unfold State.forget
  dsimp only
  split
  · exact h
  · refine modCluster ?_
    exact h
  · refine modCluster ?_
    exact h
  · exact h

theorem answerRetry (h : s.Kept P z) {t : Nat} {f : PendFault} : (s.answerRetry t f).Kept P z :=
  h.answered.foldl (fun _ _ hu => hu.forget.startWalk) _

theorem execFaultRetry (h : s.Kept P z) {t : Nat} {f : W16} {hm : HostMem} : OutKept P z (execFaultRetry t f hm s) :=
  h.withHost fun u hu => by
    split
    · exact .hostWrite hu hu.tenErr
    · exact .hostWrite hu hu.answerRetry

theorem execFaultAbort (h : s.Kept P z) {t : Nat} {f : W16} : OutKept P z (execFaultAbort t f s) := by
  unfold Machine.execFaultAbort
  split
  · exact .hostWrite h h.tenErr
  · exact .hostWrite h h.answerAbort

theorem execFaultTimeout (h : s.Kept P z) {t : Nat} {f : W16} {k : Nat} : OutKept P z (execFaultTimeout t f k s) := by
  unfold Machine.execFaultTimeout
  split
  · trivial
  · exact .when h.atTick.answerAbort

/-! ### Pinned ranges -/

theorem modPin (h : s.Kept P z) {t k : Nat} {f : Pin → Pin} : (s.modPin t k f).Kept P z := h.modTen
theorem freePin (h : s.Kept P z) {t k : Nat} : (s.freePin t k).Kept P z := h

theorem pinWriteReg (h : s.Kept P z) {t k : Nat} {en : Bool} {b : BitVec 27} {n : W16} : (s.pinWriteReg t k en b n).Kept P z := by
  unfold State.pinWriteReg
  dsimp only
  repeat' split
  · exact h.tenErr
  · exact h
  · exact h.modPin
  · exact h.freePin.modPin

theorem execPin (h : s.Kept P z) {t k : Nat} {b : BitVec 27} {n : W16} {hm : HostMem} : OutKept P z (execPin t k b n hm s) :=
  h.withHost fun _ hu => .hostWrite hu hu.pinWriteReg

theorem execUnpin (h : s.Kept P z) {t k : Nat} : OutKept P z (execUnpin t k s) := .hostWrite h h.pinWriteReg

theorem pinFails (h : s.Kept P z) {t k c va : Nat} {l : Bool} : (s.pinFails t k c va l).Kept P z := h.freePin.modPin
theorem pinLost (h : s.Kept P z) {t c pa va : Nat} : (s.pinLost t c pa va).Kept P z := h.meetBad.event

theorem pinLock (h : s.Kept P z) {t k va n : Nat} {r : State × Option Bool} (hr : s.pinLock t k va n = r) : r.1.Kept P z := by
  subst hr
  unfold State.pinLock
  split
  · exact h.pinFails
  · exact h.pinLost.pinFails
  · split
    · exact h.pinFails
    · exact h

theorem execPinWalkDone (h : s.Kept P z) {t k : Nat} : OutKept P z (execPinWalkDone t k s) := by
  unfold Machine.execPinWalkDone
  dsimp only
  split
  · trivial
  · split
    · next he => exact (h.pinLock he).modPin
    · next he => exact h.pinLock he

/-! ### Broadcasts -/

theorem broadcast (h : s.Kept P z) {b : Bcast} : OutKept P z (s.broadcast b) := by
  unfold State.broadcast
  split
  · trivial
  · exact h.mapClusters (f := fun c => { c with tlb := c.tlb.filter fun e => !b.leaf s e })

theorem rewalk (h : s.Kept P z) {y : Nat × Nat × TlbEntry} : (s.rewalk y).Kept P z := by
  unfold State.rewalk
  have h1 : State.Kept P z { s with xlt := { s.xlt with btlb := s.xlt.btlb.filter (· != y) } } := h
  dsimp only
  split
  · next he => exact (h1.pinLock he).modPin
  · next he => exact h1.pinLock he

theorem rewalkAll (h : s.Kept P z) {i : Inval} : (s.rewalkAll i).Kept P z := by
  refine h.foldl (fun u y hu => ?_) _
  split
  · exact hu.rewalk
  · exact hu

theorem execInvalidationAck (h : s.Kept P z) {t : Nat} : OutKept P z (execInvalidationAck t s) := by
  unfold Machine.execInvalidationAck
  dsimp only
  split
  · trivial
  · next i _ _ =>
    repeat' split
    · trivial
    · refine event ?_
      exact h.atTick.rewalkAll (i := i)
    · exact h.atTick.rewalkAll (i := i)

end State.Kept

end Sys2Proof.Machine
end

section
/-! The memory port's events (R111–R116, R396–R404) and those of windows (R67, R68, R278–R285) keep the tables' sizes and the canonical
form. -/

namespace Sys2Proof.Machine

namespace State.Kept

variable {P : Prop} {z : Base} {s : State}

/-! ### The clients of a response -/

theorem tokenHome (h : s.Kept P z) {c : MemClient} : (s.tokenHome c).Kept P z := by
  unfold State.tokenHome
  dsimp only
  split
  · exact h
  · refine of_ite h (modTen ?_)
    exact h

theorem mapFetch (h : s.Kept P z) {c : MemClient} {f : Fetch → Fetch} : (s.mapFetch c f).Kept P z := by
  unfold State.mapFetch
  split
  · exact h.modOrder
  · exact h.modOrder
  · exact h.modCopy fun _ => ⟨rfl, rfl⟩
  · exact h

/-! ### The traffic generator -/

theorem marginBytes (h : s.Kept P z) {n : Nat} : (s.marginBytes n).2.Kept P z := by
  unfold State.marginBytes
  split
  · exact h
  · exact h

theorem marginIssue (h : s.Kept P z) : s.marginIssue.Kept P z := by
  have hb := h.marginBytes (n := marginPat s.mem.margin)
  unfold State.marginIssue
  dsimp only
  generalize s.marginBytes (marginPat s.mem.margin) = r at hb ⊢
  have hw := hb.engineWrite (pa := s.mem.marginAt s.mem.marginNext) (bs := r.1)
  generalize r.2.engineWrite (s.mem.marginAt s.mem.marginNext) r.1 = u at hw ⊢
  exact hw

theorem writeMargin (h : s.Kept P z) {v : W64} : (s.writeMargin v).Kept P z := by
  unfold State.writeMargin
  dsimp only
  repeat' split
  · exact h.setLockvio
  · exact h
  · refine marginIssue ?_
    exact h
  · exact h

theorem execMemMargin (h : s.Kept P z) {v : W64} : OutKept P z (execMemMargin v s) := .hostWrite h h.writeMargin

theorem marginBack (h : s.Kept P z) {n : Nat} : (s.marginBack n).Kept P z := by
  unfold State.marginBack
  dsimp only
  split
  · exact h.count.marginIssue
  · exact h.count

/-! ### Responses -/

theorem markMiss (h : s.Kept P z) {c : MemClient} : (s.markMiss c).Kept P z := by
  unfold State.markMiss
  split
  · exact h
  · exact h

theorem badResponse (h : s.Kept P z) {r : MemReq} {b : Bool} {pa : Nat} : (s.badResponse r b pa).Kept P z := by
  unfold State.badResponse
  dsimp only
  split
  · refine h.markMiss.event.foldl (fun u i hu => ?_) _
    cases u.task? i with
    | none => exact hu
    | some k => exact hu.abortTask
  · refine h.markMiss.foldl (fun u i hu => ?_) _
    cases u.task? i with
    | none => exact hu
    | some k => exact hu.failTask

theorem serveEarlier (h : s.Kept P z) {r : MemReq} : (s.serveEarlier r).Kept P z := h.foldl (fun _ _ hu => hu.settleReq) _

theorem goodResponse (h : s.Kept P z) {r : MemReq} : (s.goodResponse r).Kept P z := by
  unfold State.goodResponse
  split
  · exact h.pinnedAnswer
  · exact h

theorem dropReq (h : s.Kept P z) {l t : Nat} : (s.dropReq l t).Kept P z := h

theorem takeMarks (h : s.Kept P z) {r : MemReq} {u p : BitVec 8} : (s.takeMarks r u p).Kept P z := by
  unfold State.takeMarks
  dsimp only
  split
  · exact h.addPoison.poisonBad
  · exact h.addPoison.foundBad

theorem execMemoryResponse (h : s.Kept P z) {l t : Nat} {u p : BitVec 8} {b : Bool} {ce mis : Nat} :
    OutKept P z (execMemoryResponse l t u p b ce mis s) := by
  have h0 : State.Kept P z ((if (s.mem.req? l t).any (!·.sent) then s.sendAll else s).count cntMemCe ce) := by
    split
    · exact h.sendAll.count
    · exact h.count
  unfold Machine.execMemoryResponse
  dsimp only
  generalize (if (s.mem.req? l t).any (!·.sent) then s.sendAll else s).count cntMemCe ce = s0 at h0
  split
  · exact h0.count
  · next r _ =>
    have h1 := (h0.serveEarlier (r := r)).dropReq (l := l) (t := t) |>.takeMarks (r := r) (u := u) (p := p)
    split
    · exact h1.marginBack
    · split
      · exact h1.badResponse.tokenHome
      · exact h1.badResponse.tokenHome
      · exact h1.goodResponse.tokenHome

/-! ### The row cache -/

theorem execRowCacheFill (h : s.Kept P z) {slice n : Nat} : OutKept P z (execRowCacheFill slice n s) := by
  unfold Machine.execRowCacheFill
  split
  · trivial
  · split
    · trivial
    · refine State.Kept.foldl (State.Kept.foldl ?_ (fun _ _ hu => hu.mapFetch) _) (fun _ _ hu => hu.tokenHome) _
      exact h

theorem clearWays (h : s.Kept P z) {t : Nat} {w : W16} : (s.clearWays t w).Kept P z := h

theorem execRcwayClearDone (h : s.Kept P z) {t : Nat} : OutKept P z (execRcwayClearDone t s) := by
  unfold Machine.execRcwayClearDone
  split
  · trivial
  · exact h.clearWays.modTen

/-! ### The window tables' copies -/

theorem tableEntry (h : s.Kept P z) {pa n : Nat} {t : State} (ht : s.tableEntry pa n = .error t) : t.Kept P z := by
  unfold State.tableEntry at ht
  split at ht
  · cases ht
    exact h.meetBad.event
  · cases ht

theorem commitSend (h : s.Kept P z) {n : Nat} : (s.commitSend n).Kept P z := by
  unfold State.commitSend
  split
  · next ht => exact h.tableEntry ht
  · exact h

theorem commitRecv (h : s.Kept P z) {n : Nat} : (s.commitRecv n).Kept P z := by
  unfold State.commitRecv
  split
  · next ht => exact h.tableEntry ht
  · exact h

theorem commitPod (h : s.Kept P z) {n : Nat} : (s.commitPod n).Kept P z := by
  unfold State.commitPod
  split
  · exact h
  · split
    · next ht => exact h.tableEntry ht
    · exact h

theorem execWinCommitSend (h : s.Kept P z) {n : BitVec 8} {hm : HostMem} : OutKept P z (execWinCommitSend n hm s) :=
  h.withHost fun _ hu => .hostWrite hu hu.commitSend

theorem execWinCommitRecv (h : s.Kept P z) {n : BitVec 8} {hm : HostMem} : OutKept P z (execWinCommitRecv n hm s) :=
  h.withHost fun _ hu => .hostWrite hu hu.commitRecv

theorem execPodexpCommit (h : s.Kept P z) {n : BitVec 8} {hm : HostMem} : OutKept P z (execPodexpCommit n hm s) :=
  h.withHost fun _ hu => .hostWrite hu hu.commitPod

theorem execWindowReleased (h : s.Kept P z) {n : Nat} : OutKept P z (execWindowReleased n s) := by
  unfold Machine.execWindowReleased
  repeat' split
  · trivial
  · trivial
  · refine event ?_
    exact h

/-! ### Messages that arrive -/

theorem takeRequest (h : s.Kept P z) {p op : Nat} {r : Msg × State} (hr : s.takeRequest p op = some r) : r.2.Kept P z := by
  unfold State.takeRequest at hr
  split at hr
  · split at hr
    · cases hr
      exact h.modPort
    · cases hr
  · cases hr

theorem takeResp (h : s.Kept P z) {p : Nat} {r : Msg × State} (hr : s.takeResp p = some r) : r.2.Kept P z := by
  unfold State.takeResp at hr
  split at hr
  · cases hr
    exact h.modPort
  · cases hr

theorem serveNext (h : s.Kept P z) {p op : Nat} : OutKept P z (s.serveNext p op) := by
  unfold State.serveNext
  split
  · next hr =>
    split
    · trivial
    · exact (h.takeRequest hr).serve
  · trivial

theorem failRequest (h : s.Kept P z) {w : WReq} {f : FaultRec} : (s.failRequest w f).Kept P z := by
  unfold State.failRequest
  split
  · exact h.event.ckFail
  · exact h.event.ckFail
  · exact h.failTask
  · exact h.event

theorem deliver (h : s.Kept P z) {w : WReq} {m : Msg} : (s.deliver w m).Kept P z := by
  unfold State.deliver
  split
  · split
    · exact h.mapFetch
    · exact h
  · split
    · exact h.mapFetch
    · exact h
  · split
    · exact h.mapFetch
    · exact h
  · split
    · split
      · exact h.ovfAnswered
      · exact h
    · exact h
  · split
    · exact h
    · exact h
  · exact h

theorem dropWReq (h : s.Kept P z) {g : W32} : (s.dropWReq g).Kept P z := h

theorem reqHome (h : s.Kept P z) {w : WReq} : (s.reqHome w).Kept P z := by
  unfold State.reqHome
  split
  · exact h.tokenHome
  · exact h

theorem execResp (h : s.Kept P z) {p : Nat} : OutKept P z (execResp p s) := by
  unfold Machine.execResp
  split
  · trivial
  · next m u hr =>
    have hu : State.Kept P z u := h.takeResp hr
    split
    · dsimp only
      split
      · exact (hu.dropWReq (g := m.rtag)).deliver.reqHome
      · exact (hu.dropWReq (g := m.rtag)).failRequest.reqHome
    · split
      · refine modTen ?_
        exact hu
      · exact hu

theorem execWindowTimeout (h : s.Kept P z) {g : W32} {t : Nat} : OutKept P z (execWindowTimeout g t s) := by
  unfold Machine.execWindowTimeout
  split
  · trivial
  · split
    · trivial
    · refine reqHome (failRequest ?_)
      exact h.atTick.dropWReq (g := g)

/-! ### The tensor cores -/

theorem tcDone (h : s.Kept P z) {l : List Byte} : (s.tcDone l).Kept P z := h

theorem tcDiscard (h : s.Kept P z) {t : Nat} : (s.tcDiscard t).Kept P z := by
  refine modTen ?_
  exact h

theorem execTensorCoreAccess (h : s.Kept P z) {t k c : Nat} {op : TensorOp} : OutKept P z (execTensorCoreAccess t k c op s) := by
  have hno : OutKept P z (.next (s.tcDiscard t)) := h.tcDiscard
  cases op with
  | start =>
    change OutKept P z (ite _ _ _)
    split
    · exact h.modSlot.tcDone
    · exact hno
  | stop => exact h.modSlot.tcDone
  | read off n =>
    change OutKept P z (ite _ _ _)
    split
    · exact h.tcDone
    · exact hno
  | write off bs =>
    change OutKept P z (ite _ _ _)
    split
    · exact h.spWrite.tcDone
    · exact hno
  | readCounter xc =>
    change OutKept P z (ite _ _ _)
    split
    · exact h.tcDone
    · exact hno
  | addCounter xc n =>
    change OutKept P z (ite _ _ _)
    split
    · exact h.addShared.tcDone
    · exact hno

end State.Kept

end Sys2Proof.Machine
end

section
/-! The front end and the commands DISPATCH, FENCE, TABLE_LOAD, HITCH_BUILD and INVALIDATE_ALL keep the tables' sizes and the canonical
form. -/

namespace Sys2Proof.Machine

namespace State.Kept

variable {P : Prop} {z : Base} {s : State}

/-! ### The front end -/

theorem refuseAt (h : s.Kept P z) {r n : Nat} {c : Option CmdRef} : (s.refuseAt r n c).Kept P z := by
  unfold State.refuseAt
  cases c with
  | none => exact h.event.stopRing
  | some c => exact h.event.complete.stopRing

theorem moveHead (h : s.Kept P z) {r : Nat} : (s.moveHead r).Kept P z := h.modRing.pinWrite
theorem holdRing (h : s.Kept P z) {c : CmdRef} : (s.holdRing c).Kept P z := h.modRing
theorem feLost (h : s.Kept P z) {t c pa va n : Nat} : (s.feLost t c pa va n).Kept P z := h.meetPinned.event

end State.Kept

/-- A command's checks keep what a state is held to. -/
def CM.Keeps (P : Prop) (z : Base) {α : Type} (m : CM α) : Prop := ∀ s, s.Kept P z → (m.go s).2.Kept P z

namespace CM.Keeps

variable {P : Prop} {z : Base} {α β : Type}

theorem bind {m : CM α} {f : α → CM β} (hm : m.Keeps P z) (hf : ∀ a, (f a).Keeps P z) : CM.Keeps P z (m >>= f) := fun s hs => by
  have h1 := hm s hs
  rw [CM.go_bind]
  split
  · next he => exact hf _ _ (by rwa [he] at h1)
  · next he => rwa [he] at h1

theorem get_bind {f : State → CM β} (hf : ∀ s, s.Kept P z → CM.Keeps P z (f s)) : CM.Keeps P z ((get : CM State) >>= f) :=
  fun s hs => hf s hs s hs

theorem pure (a : α) : CM.Keeps P z (Pure.pure a : CM α) := fun _ hs => hs
theorem throw (n : Nat) : CM.Keeps P z (MonadExcept.throw n : CM α) := fun _ hs => hs
theorem modified {f : State → State} (hf : ∀ s, s.Kept P z → (f s).Kept P z) : CM.Keeps P z (modify f : CM PUnit) := hf

theorem need {b : Bool} {n : Nat} : CM.Keeps P z (cNeed b n) := by
  cases b
  · exact throw n
  · exact pure _

theorem ten {c : CmdRef} : CM.Keeps P z (cTen c) := get_bind fun _ _ => pure _

theorem read {c : CmdRef} {va n : Nat} : CM.Keeps P z (cRead c va n) := get_bind fun _ _ => by
  split
  · exact pure _
  · exact throw _
  · exact (modified fun _ hs => hs.feLost).bind fun _ => throw _

/-! ### The checks of each command -/

theorem chkDispatch {c : CmdRef} : CM.Keeps P z (chkDispatch c) :=
  read.bind fun _ => need.bind fun _ => get_bind fun _ _ => need.bind fun _ => need.bind fun _ => need.bind fun _ => need.bind fun _ =>
    need.bind fun _ => need.bind fun _ => need.bind fun _ => need.bind fun _ => need.bind fun _ => need.bind fun _ => pure _

theorem chkTable {c : CmdRef} {o : Option Table} {n : Option Nat} : CM.Keeps P z (chkTable c o n) :=
  read.bind fun _ => ten.bind fun _ => need.bind fun _ => by
    cases n with
    | none => exact throw _
    | some n =>
      refine need.bind fun _ => ?_
      split
      · refine need.bind fun _ => ?_
        split
        · exact throw _
        · exact pure _
      · exact pure _

theorem chkHeld {c : CmdRef} : CM.Keeps P z (chkHeld c) := ten.bind fun _ => by
  split
  · exact throw _
  · exact need.bind fun _ => pure _

theorem chkTableLoad {c : CmdRef} : CM.Keeps P z (chkTableLoad c) := ten.bind fun _ => chkTable
theorem chkTableReplace {c : CmdRef} : CM.Keeps P z (chkTableReplace c) := chkHeld.bind fun _ => chkTable

theorem chkHitchBuild {c : CmdRef} : CM.Keeps P z (chkHitchBuild c) :=
  get_bind fun _ _ => need.bind fun _ => need.bind fun _ => need.bind fun _ => pure _

theorem chkDismantle {c : CmdRef} : CM.Keeps P z (chkDismantle c) := ten.bind fun _ => need.bind fun _ => pure _

end CM.Keeps

namespace State.Kept

variable {P : Prop} {z : Base} {s : State}

theorem takeCmd {α : Type} (h : s.Kept P z) {r : Nat} {e : CmdEntry} {row : CmdRow} {chk : CmdRef → CM α} {act : CmdRef → α → State → State}
    (hc : ∀ c, CM.Keeps P z (chk c)) (ha : ∀ c a u, u.Kept P z → (act c a u).Kept P z) : OutKept P z (s.takeCmd r e row chk act) := by
  unfold State.takeCmd
  dsimp only
  split
  · trivial
  · split
    · exact h.refuseAt
    · exact h.feLost.refuseAt
    · next bs _ =>
      have hk := hc (s.cmdAt r (cmdOf bs).1 e) s h
      repeat' split
      · trivial
      · exact h.refuseAt
      · trivial
      · trivial
      · exact h.refuseAt
      · next he =>
        rw [he] at hk
        exact ha _ _ _ hk.moveHead
      · next he =>
        rw [he] at hk
        exact hk.refuseAt

/-! ### The rings' own events -/

theorem readTail (h : s.Kept P z) {r : Nat} {b : Bool} : (s.readTail r b).Kept P z := by
  unfold State.readTail
  dsimp only
  repeat' split
  · exact h
  · exact h.modRing
  · exact h.refuseAt
  · exact h
  · exact h.feLost.refuseAt

theorem execRingWake (h : s.Kept P z) {r : Nat} {v : W32} {hm : HostMem} : OutKept P z (execRingWake r v hm s) :=
  h.withHost fun u hu => by
    refine .hostWrite hu (readTail ?_)
    split
    · exact hu.poolWrite
    · exact hu

theorem resumeRing (h : s.Kept P z) {r : Nat} : (s.resumeRing r).Kept P z := by
  unfold State.resumeRing
  split
  · exact h.modRing.readTail
  · exact h

theorem execRingResume (h : s.Kept P z) {r : Nat} : OutKept P z (execRingResume r s) := .hostWrite h h.resumeRing

theorem writeRingBase (h : s.Kept P z) {r : Nat} {en : Bool} {l : BitVec 5} {b : BitVec 36} : (s.writeRingBase r en l b).Kept P z := by
  unfold State.writeRingBase
  dsimp only
  split
  · have h1 : State.Kept P z (if l ≠ (s.ring r).log2n ∨ b ≠ (s.ring r).base then s.tenErr (s.ring r).ten.toNat errState else s) := by
      split
      · exact h.tenErr
      · exact h
    split
    · exact h1
    · exact h1.modRing
  · have h1 : State.Kept P z (if decide (4 ≤ l.toNat ∧ l.toNat ≤ 16) = true then s.modRing r fun y => { y with log2n := l, base := b }
        else s.modRing r fun y => { y with base := b }) := by
      split
      · exact h.modRing
      · exact h.modRing
    split
    · exact h1.modRing.readTail
    · exact h1

theorem execRingEnable (h : s.Kept P z) {r : Nat} {l : BitVec 5} {b : W64} : OutKept P z (execRingEnable r l b s) := .hostWrite h h.writeRingBase

/-! ### DISPATCH and FENCE -/

theorem clearWords (h : s.Kept P z) {t : Nat} : (s.clearWords t).Kept P z := h.mapClusters

theorem actDispatch (h : s.Kept P z) {c : CmdRef} {d : DispDesc} : (actDispatch c d s).Kept P z := h.clearWords.with_rest

theorem actFenceFull (h : s.Kept P z) {c : CmdRef} : (actFenceFull c () s).Kept P z := by
  unfold Machine.actFenceFull
  split
  · exact h.finish
  · exact h.modRing

theorem actFenceOverlap (h : s.Kept P z) {c : CmdRef} : (actFenceOverlap c () s).Kept P z := by
  unfold Machine.actFenceOverlap
  split
  · exact h.finish
  · exact h

section
variable {r : Nat} {e : CmdEntry}

theorem execDispatch (h : s.Kept P z) : OutKept P z (execDispatch r e s) :=
    h.takeCmd (fun _ => CM.Keeps.chkDispatch) fun _ _ _ hu => hu.actDispatch
theorem execFenceFull (h : s.Kept P z) : OutKept P z (execFenceFull r e s) := h.takeCmd (fun _ => CM.Keeps.pure _) fun _ _ _ hu => hu.actFenceFull
theorem execFenceOverlap (h : s.Kept P z) : OutKept P z (execFenceOverlap r e s) :=
  h.takeCmd (fun _ => CM.Keeps.pure _) fun _ _ _ hu => hu.actFenceOverlap

/-! ### TABLE_LOAD -/

theorem actTable (h : s.Kept P z) {b : Bool} {c : CmdRef} {t : Table} : (actTable b c t s).Kept P z := h.holdRing.modTen
theorem actTableRelease (h : s.Kept P z) {c : CmdRef} {t : Table} : (actTableRelease c t s).Kept P z := h.modTen.finish

theorem execTableLoad (h : s.Kept P z) : OutKept P z (execTableLoad r e s) := by
  unfold Machine.execTableLoad
  split
  · trivial
  · exact h.takeCmd (fun _ => CM.Keeps.chkTableLoad) fun _ _ _ hu => hu.actTable

theorem execTableReplace (h : s.Kept P z) : OutKept P z (execTableReplace r e s) := by
  unfold Machine.execTableReplace
  split
  · trivial
  · exact h.takeCmd (fun _ => CM.Keeps.chkTableReplace) fun _ _ _ hu => hu.actTable

theorem execTableRelease (h : s.Kept P z) : OutKept P z (execTableRelease r e s) := by
  unfold Machine.execTableRelease
  split
  · trivial
  · exact h.takeCmd (fun _ => CM.Keeps.chkHeld) fun _ _ _ hu => hu.actTableRelease
end

theorem pinZeroGo (h : s.Kept P z) {t : Nat} (f : Nat) {va n : Nat} : (pinZeroGo t f va n s).Kept P z := by
  induction f generalizing s va n with
  | zero => exact h
  | succ f ih =>
    rw [Machine.pinZeroGo]
    split
    · exact h
    · refine ih ?_
      split
      · next pa _ =>
        have hb : (s.serveBefore pa (min n (2 ^ 21 - va % 2 ^ 21))).Kept P z := h.serveBefore
        exact (hb.with_rest (rc := _)).with_mem fun hm p => memZero_wf (poolAddr pa) _ (hm p)
      · exact h

theorem writeBank (h : s.Kept P z) {t : Nat} {d : TableDesc} {b : Bank} {send : Bool} : (s.writeBank t d b send).Kept P z :=
  (h.pinZeroGo _).bankPut

theorem clearStatus (h : s.Kept P z) {t n : Nat} : (s.clearStatus t n).Kept P z := h.pinWrite

theorem execTableLoadDone (h : s.Kept P z) {t : Nat} : OutKept P z (execTableLoadDone t s) := by
  unfold Machine.execTableLoadDone
  split
  · trivial
  · refine finish (clearStatus (modTen ?_))
    split
    · exact h.writeBank.writeBank
    · exact h

/-! ### HITCH_BUILD -/

theorem actHitchBuild (h : s.Kept P z) {c : CmdRef} {p : HitchParm} : (actHitchBuild c p s).Kept P z := h.modTen.finish

theorem finishDismantle (h : s.Kept P z) {t : Nat} {x : Hitch} : (s.finishDismantle t x).Kept P z := h.modTen.foldl (fun _ _ hu => hu.finish) _

theorem actDismantle (h : s.Kept P z) {c : CmdRef} {n : Nat} : (actDismantle c n s).Kept P z := by
  unfold Machine.actDismantle
  split
  · exact h
  · dsimp only
    split
    · exact h.finishDismantle
    · exact h.holdRing.modHitch

theorem execHitchBuild (h : s.Kept P z) {r : Nat} {e : CmdEntry} : OutKept P z (execHitchBuild r e s) :=
  h.takeCmd (fun _ => CM.Keeps.chkHitchBuild) fun _ _ _ hu => hu.actHitchBuild

theorem execHitchDismantle (h : s.Kept P z) {r : Nat} {e : CmdEntry} : OutKept P z (execHitchDismantle r e s) :=
  h.takeCmd (fun _ => CM.Keeps.chkDismantle) fun _ _ _ hu => hu.actDismantle

theorem execDismantleComplete (h : s.Kept P z) {t n : Nat} : OutKept P z (execDismantleComplete t n s) := by
  unfold Machine.execDismantleComplete
  split
  · trivial
  · exact .when h.finishDismantle

/-! ### INVALIDATE_ALL -/

theorem actInvalidate (h : s.Kept P z) {c : CmdRef} : (actInvalidate c () s).Kept P z := h.holdRing.modTen

theorem execInvalidateAll (h : s.Kept P z) {r : Nat} {e : CmdEntry} : OutKept P z (execInvalidateAll r e s) := by
  unfold Machine.execInvalidateAll
  dsimp only
  split
  · trivial
  · exact h.takeCmd (fun _ => CM.Keeps.pure _) fun _ _ _ hu => hu.actInvalidate

theorem execInvalidateAllDone (h : s.Kept P z) {t : Nat} : OutKept P z (execInvalidateAllDone t s) := by
  unfold Machine.execInvalidateAllDone
  dsimp only
  split
  · trivial
  · split
    · exact h.clearWays.modTen.finish
    · exact h.clearWays.modTen

end State.Kept

end Sys2Proof.Machine
end

section
/-! Cohorts placed and ended, the holder of the stateful units, audits, and contexts saved and brought back keep the tables' sizes and the
canonical form. -/

namespace Sys2Proof.Machine

/-- A coach as it is placed has canonical registers. -/
theorem Task.newCoach_canonical (k : Task) (n i : Nat) : (k.newCoach n i).Canonical := ⟨rfl, smSet_ok _ _ (smSet_ok _ _ rfl), rfl⟩

theorem Task.newCohort_canonical (k : Task) (n c l : Nat) : (k.newCohort n c l).Canonical :=
  ⟨rfl, rfl, rfl, fun x hx => by
    obtain ⟨i, -, rfl⟩ := List.mem_map.1 hx
    exact k.newCoach_canonical n i⟩

namespace State.Kept

variable {P : Prop} {z : Base} {s : State}

/-! ### Cohorts -/

theorem place (h : s.Kept P z) {k : Task} {c l : Nat} : (s.place k c l).Kept P z :=
  (h.with_cohorts (l := s.cohorts ++ [k.newCohort k.next c l]) fun _ hw x hx => by
    rcases List.mem_append.1 hx with hx | hx
    · exact hw x hx
    · exact List.mem_singleton.1 hx ▸ k.newCohort_canonical ..).with_rest

theorem execCohortPlacement (h : s.Kept P z) {t c l : Nat} : OutKept P z (execCohortPlacement t c l s) := by
  unfold Machine.execCohortPlacement
  split
  · trivial
  · exact .when h.place

theorem forgetUser (h : s.Kept P z) {t k : Nat} : (s.forgetUser t k).Kept P z := h.modTen

theorem endTask (h : s.Kept P z) {k : Task} : (s.endTask k).Kept P z := by
  refine releaseFences (complete (forgetUser ?_))
  exact h

theorem dropCohort (h : s.Kept P z) {t n : Nat} : (s.dropCohort t n).Kept P z := h.filterCohorts

theorem execCohortEnd (h : s.Kept P z) {t c : Nat} : OutKept P z (execCohortEnd t c s) := by
  unfold Machine.execCohortEnd
  split
  · trivial
  · next k _ =>
    have hs : (s.settleAll k.ten t c).Kept P z := h.settleAll
    dsimp only
    repeat' split
    · trivial
    · trivial
    · exact hs.failTask
    · exact hs.dropCohort.endTask
    · exact hs.dropCohort

/-! ### The holder of the stateful units -/

theorem saveUnits (h : s.Kept P z) {t n : Nat} : (s.saveUnits t n).Kept P z := h.foldl (fun _ _ hu => hu.spWrite.modUnits) _

theorem loadUnits (h : s.Kept P z) {t n : Nat} : (s.loadUnits t n).Kept P z := by
  unfold State.loadUnits
  dsimp only
  split
  · exact h.foldl (fun _ _ hu => hu.modUnits) _
  · exact (h.foldl (fun _ _ hu => hu.modUnits) _).modTen

theorem releaseUnits (h : s.Kept P z) {t : Nat} : (s.releaseUnits t).Kept P z := by
  unfold State.releaseUnits
  split
  · exact h.saveUnits.modTen
  · exact h

theorem giveUnits (h : s.Kept P z) {t n : Nat} : (s.giveUnits t n).Kept P z := h.loadUnits.modTen

theorem execHolderSwitch (h : s.Kept P z) {t : Nat} : OutKept P z (execHolderSwitch t s) := by
  unfold Machine.execHolderSwitch
  split
  · trivial
  · split
    · trivial
    · exact .when h.releaseUnits.giveUnits

theorem execHoldTimeout (h : s.Kept P z) {t k : Nat} : OutKept P z (execHoldTimeout t k s) := by
  unfold Machine.execHoldTimeout
  dsimp only
  split
  · trivial
  · exact .when h.atTick.modTen

/-! ### Audits -/

theorem actBroken (h : s.Kept P z) {t : Nat} {b : Broken} : (s.actBroken t b).Kept P z := by
  unfold State.actBroken
  split
  · exact h.event.contain
  · split
    · exact h.imbalanceCtx
    · exact h
  · exact h.imbalanceTen

theorem actAudit (h : s.Kept P z) {c : CmdRef} : (actAudit c () s).Kept P z := by
  unfold Machine.actAudit
  split
  · exact h.finish
  · exact h.finish.foldl (fun _ _ hu => hu.actBroken) _

theorem execAudit (h : s.Kept P z) {r : Nat} {e : CmdEntry} : OutKept P z (execAudit r e s) :=
  h.takeCmd (fun _ => CM.Keeps.pure _) fun _ _ _ hu => hu.actAudit

end State.Kept

/-! ### Checkpoints -/

namespace CM.Keeps

variable {P : Prop} {z : Base} {c : CmdRef}

theorem chkCheckpoint : CM.Keeps P z (chkCheckpoint c) :=
  read.bind fun _ => need.bind fun _ => read.bind fun _ => need.bind fun _ => pure _

theorem chkPark : CM.Keeps P z (chkPark c) := ten.bind fun _ => need.bind fun _ => pure _

theorem set {t : State} (ht : t.Kept P z) : CM.Keeps P z (MonadStateOf.set t : CM PUnit) := fun _ _ => ht

theorem chkUnpark : CM.Keeps P z (chkUnpark c) := ten.bind fun t => by
  dsimp only
  split
  · exact throw _
  · refine need.bind fun _ => ?_
    split
    · exact pure _
    · refine get_bind fun s hs => ?_
      have hr := hs.vRead (u := .mover (s.anyMover c.ten)) (tn := c.ten) (va := c.entry.arg1.toNat) (n := 64) (now := true)
      split
      · exact throw _
      · exact throw _
      · next he =>
        rw [he] at hr
        exact (set hr).bind fun _ => need.bind fun _ => pure _

end CM.Keeps

namespace OM.Keeps

variable {P : Prop} {z : Base} {x : Eng} {p : CkPiece}

theorem ckBytes : (ckBytes x p).Keeps P z := by
  unfold Machine.ckBytes
  split
  · exact (modified fun _ hs => hs.readNow).bind fun _ => pure _
  · exact eRead

theorem ckPiece : (ckPiece x p).Keeps P z := ckBytes.bind fun _ => oPieces.bind fun _ => modified fun _ hs => hs.farDrop.putPieces

end OM.Keeps

namespace State.Kept

variable {P : Prop} {z : Base} {s t : State}

theorem actCheckpoint (h : s.Kept P z) {c : CmdRef} {rs : List CkRegion} : (actCheckpoint c rs s).Kept P z := by
  unfold Machine.actCheckpoint
  split
  · exact h.ckBegin
  · exact h.modTen

theorem execCheckpoint (h : s.Kept P z) {r : Nat} {e : CmdEntry} : OutKept P z (execCheckpoint r e s) :=
  h.takeCmd (fun _ => CM.Keeps.chkCheckpoint) fun _ _ _ hu => hu.actCheckpoint

/-- What the writing of an image leaves, and what it stops at. -/
theorem ckWrite (h : s.Kept P z) {x : Eng} {ps : List CkPiece} {r : Option (OFault × State) × List CkPiece × State}
    (hr : ckWrite x ps s = r) : r.2.2.Kept P z ∧ ∀ f t, r.1 = some (f, t) → t.Kept P z := by
  induction ps generalizing s with
  | nil =>
    subst hr
    exact ⟨h, fun _ _ ht => nomatch ht⟩
  | cons p ps ih =>
    rw [Machine.ckWrite] at hr
    split at hr
    · next he => exact ih (h.go OM.Keeps.ckPiece he) hr
    · next he =>
      subst hr
      refine ⟨h, fun f t ht => ?_⟩
      cases ht
      exact h.go OM.Keeps.ckPiece he

theorem ckStop (h : s.Kept P z) (ht : t.Kept P z) {n : Nat} {x : Eng} {f : OFault} : (s.ckStop t n x f).Kept P z := by
  unfold State.ckStop
  split
  · split
    · exact h.walkFault
    · exact ht.walkFault
  · exact h.startWalk
  · exact h.farAsk
  · exact h

theorem ckFinish (h : s.Kept P z) {n : Nat} {k : Checkpoint} : (s.ckFinish n k).Kept P z := h.modTen.finish.ckNext

theorem execCheckpointDone (h : s.Kept P z) {n : Nat} : OutKept P z (execCheckpointDone n s) := by
  unfold Machine.execCheckpointDone
  split
  · trivial
  · dsimp only
    split
    · exact .when h.ckFinish
    · split
      · trivial
      · obtain ⟨hw, hf⟩ := h.ckWrite rfl
        split
        · next he => exact .when (State.Kept.ckStop hw.modTen (hf _ _ he))
        · split
          · exact hw.modTen
          · exact hw.modTen.ckFinish

/-! ### PARK -/

theorem endMove (h : s.Kept P z) {n k : Nat} {st : SlotSt} : (s.endMove n k st).Kept P z := h.modSlot.modTen

theorem actPark (h : s.Kept P z) {c : CmdRef} {n : Nat} : (actPark c n s).Kept P z := h.holdRing.modSlot.stopCoaches

theorem execPark (h : s.Kept P z) {r : Nat} {e : CmdEntry} : OutKept P z (execPark r e s) :=
  h.takeCmd (fun _ => CM.Keeps.chkPark) fun _ _ _ hu => hu.actPark

/-- The cohorts of a saved context are canonical where those of the block are. -/
theorem saveImage (h : s.Kept P z) (p : P) {n k a : Nat} : ∀ x ∈ (s.saveImage n k a).cohorts, x.Canonical := fun x hx => by
  obtain ⟨y, hy, rfl⟩ := List.mem_map.1 hx
  exact (h.cohort p (List.mem_filter.1 hy).1).mapCoaches fun _ hk => hk

theorem dropCtx (h : s.Kept P z) {n k : Nat} : (s.dropCtx n k).Kept P z :=
  ((h.filterCohorts (p := fun x => !(s.ctxCohorts n ((s.ten n).slot k).ctx).contains x)).mapClusters
    (f := fun c => { c with maps := c.maps.filter fun m => !(m.ten == n && m.ctx == ((s.ten n).slot k).ctx) })).modSlot

theorem watchAgain (h : s.Kept P z) {n k : Nat} : (s.watchAgain n k).Kept P z := h.foldl (fun _ _ hu => hu.readTail) _

theorem unpauseCtx (h : s.Kept P z) {n k : Nat} {m : Move} {re : Nat} : (s.unpauseCtx n k m re).Kept P z :=
  h.endMove.stopCoaches.finish.watchAgain

theorem execParkDone (h : s.Kept P z) {n k : Nat} : OutKept P z (execParkDone n k s) := by
  unfold Machine.execParkDone
  have h1 : (if (s.ten n).holder = some k then s.releaseUnits n else s).Kept P z := by
    split
    · exact h.releaseUnits
    · exact h
  split
  · trivial
  · next m _ =>
    dsimp only
    generalize (if (s.ten n).holder = some k then s.releaseUnits n else s) = s1 at h1
    split
    · trivial
    · have hw := h1.vWrite (u := .mover (s1.anyMover n)) (tn := n) (va := m.area) (bs := s1.saveHeader n k) (now := true)
      split
      · next he =>
        rw [he] at hw
        exact State.Kept.unpauseCtx (State.Kept.event hw)
      · next he =>
        rw [he] at hw
        exact State.Kept.unpauseCtx hw
      · next he =>
        rw [he] at hw
        refine finish (endMove (dropCtx (State.Kept.with_saves hw fun p hs im hi => ?_)))
        rcases List.mem_append.1 hi with hi | hi
        · exact hs im (List.mem_filter.1 hi).1
        · exact List.mem_singleton.1 hi ▸ h1.saveImage p

theorem execParkTimeout (h : s.Kept P z) {n k t : Nat} : OutKept P z (execParkTimeout n k t s) := by
  unfold Machine.execParkTimeout
  split
  · trivial
  · exact .when h.atTick.unpauseCtx

/-! ### UNPARK -/

theorem actUnpark (h : s.Kept P z) {c : CmdRef} {x : Nat × Option Nat} : (actUnpark c x s).Kept P z := h.holdRing.modSlot

theorem execUnpark (h : s.Kept P z) {r : Nat} {e : CmdEntry} : OutKept P z (execUnpark r e s) :=
  h.takeCmd (fun _ => CM.Keeps.chkUnpark) fun _ _ _ hu => hu.actUnpark

theorem forgetCtx (h : s.Kept P z) {n k : Nat} : (s.forgetCtx n k).Kept P z := by
  refine modTen (State.Kept.foldl ?_ (fun _ _ hu => hu.complete.releaseFences) _)
  exact h

theorem freshCtx (h : s.Kept P z) {n k : Nat} : (s.freshCtx n k).Kept P z :=
  h.dropCtx.forgetCtx.foldl (fun _ _ hu => hu.modCluster fun _ hx => memZero_wf _ _ hx) _

theorem restoreTasks (h : s.Kept P z) {n : Nat} {im : SaveImage} : (s.restoreTasks n im).Kept P z := h

/-- A saved context brought back, whose cohorts are canonical. -/
theorem restoreCtx (h : s.Kept P z) {n k : Nat} {im : SaveImage} (hi : P → ∀ c ∈ im.cohorts, c.Canonical) :
    (s.restoreCtx n k im).Kept P z := by
  refine modSlot (with_cohorts (State.Kept.foldl (restoreTasks (State.Kept.foldl h ?_ _)) (fun _ _ hu => hu.modCluster) _) ?_)
  · exact fun _ _ hu => hu.modCluster fun _ hx => memPaste_wf _ _ _ hx
  · intro p hw x hx
    rcases List.mem_append.1 hx with hx | hx
    · exact hw x hx
    · exact hi p x (List.mem_filter.1 hx).1

theorem execUnparkDone (h : s.Kept P z) {n k : Nat} : OutKept P z (execUnparkDone n k s) := by
  unfold Machine.execUnparkDone
  dsimp only
  split
  · refine watchAgain (finish (endMove ?_))
    split
    · next im hm =>
      obtain ⟨tick, -, ht⟩ := Option.bind_eq_some_iff.1 hm
      exact h.restoreCtx fun p => (h.2.2 p).2.2.2.1 im (List.mem_of_find?_eq_some ht)
    · exact h.freshCtx
  · trivial

end State.Kept

end Sys2Proof.Machine
end

section
/-! Memberships: what departs, timetables, the start tree, departure and the end of a brake keep the tables' sizes and the canonical form. -/

namespace Sys2Proof.Machine

namespace CM.Keeps

variable {P : Prop} {z : Base} {c : CmdRef}

theorem chkTimetable : CM.Keeps P z (chkTimetable c) :=
  read.bind fun _ => get_bind fun _ _ => need.bind fun _ => need.bind fun _ => read.bind fun _ => need.bind fun _ => need.bind fun _ => pure _

theorem chkUnload : CM.Keeps P z (chkUnload c) := get_bind fun _ _ => by
  split
  · exact throw _
  · exact need.bind fun _ => pure _

theorem chkArm : CM.Keeps P z (chkArm c) := ten.bind fun _ => by
  split
  · exact pure _
  · exact throw _

end CM.Keeps

namespace State.Kept

variable {P : Prop} {z : Base} {s : State}

/-! ### Carriages that depart -/

theorem execCarriageDeparture (h : s.Kept P z) {p t : Nat} : OutKept P z (execCarriageDeparture p t s) := by
  unfold Machine.execCarriageDeparture
  dsimp only
  repeat' split
  · trivial
  · trivial
  · exact h.atTick.depart

theorem execStopCarriage (h : s.Kept P z) {n t : Nat} : OutKept P z (execStopCarriage n t s) := by
  unfold Machine.execStopCarriage
  split
  · exact .when (h.atTick.foldl (fun _ _ hu => hu.depart) _)
  · trivial

/-! ### Timetables -/

theorem setMemb (h : s.Kept P z) {ps : List Nat} {m : Option Nat} : (s.setMemb ps m).Kept P z := h.foldl (fun _ _ hu => hu.modPort) _

theorem actTimetable (h : s.Kept P z) {c : CmdRef} {x : Timetable} : (actTimetable c x s).Kept P z := h.holdRing.modTen

theorem execTimetableLoad (h : s.Kept P z) {r : Nat} {e : CmdEntry} : OutKept P z (execTimetableLoad r e s) :=
  h.takeCmd (fun _ => CM.Keeps.chkTimetable) fun _ _ _ hu => hu.actTimetable

theorem execTimetableLoadDone (h : s.Kept P z) {n : Nat} : OutKept P z (execTimetableLoadDone n s) := by
  unfold Machine.execTimetableLoadDone
  split
  · trivial
  · exact h.modTen.setMemb.finish

theorem dropTt (h : s.Kept P z) {n : Nat} : (s.dropTt n).Kept P z := by
  unfold State.dropTt
  split
  · exact h
  · exact h.dropLineCarts.setMemb.modTen

theorem actUnload (h : s.Kept P z) {c : CmdRef} {x : Timetable} : (actUnload c x s).Kept P z := h.dropTt.finish

theorem execTimetableUnload (h : s.Kept P z) {r : Nat} {e : CmdEntry} : OutKept P z (execTimetableUnload r e s) :=
  h.takeCmd (fun _ => CM.Keeps.chkUnload) fun _ _ _ hu => hu.actUnload

/-! ### The start tree -/

theorem allAcked (h : s.Kept P z) {t : Nat} : (s.allAcked t).Kept P z := by
  unfold State.allAcked
  split
  · exact h
  · dsimp only
    repeat' split
    · exact h
    · exact h.sendCtl
    · exact h.sendCtl.modTt
    · exact h

theorem acceptArm (h : s.Kept P z) {t td root : Nat} {x : Timetable} {c : Option CmdRef} : (s.acceptArm t x td root c).Kept P z :=
  (h.movePorts.foldl (fun _ _ hu => hu.modPort) _).modTen.sendCtl.allAcked

theorem actArm (h : s.Kept P z) {c : CmdRef} {x : Timetable} : (actArm c x s).Kept P z := by
  unfold Machine.actArm
  dsimp only
  split
  · exact h.acceptArm
  · exact h.finish

theorem execArm (h : s.Kept P z) {r : Nat} {e : CmdEntry} : OutKept P z (execArm r e s) :=
  h.takeCmd (fun _ => CM.Keeps.chkArm) fun _ _ _ hu => hu.actArm

theorem actBrake (h : s.Kept P z) {c : CmdRef} : (actBrake c () s).Kept P z := by
  unfold Machine.actBrake
  dsimp only
  split
  · exact h.finish
  · split
    · exact h.modTt.orderBrake
    · exact h.modTt.orderBrake
    · exact h.finish

theorem execBrake (h : s.Kept P z) {r : Nat} {e : CmdEntry} : OutKept P z (execBrake r e s) :=
  h.takeCmd (fun _ => CM.Keeps.pure _) fun _ _ _ hu => hu.actBrake

section
variable {p : Nat} {bs : List Byte}

theorem sendNak (h : s.Kept P z) {stamp td rank reason : Nat} : (s.sendNak p stamp td rank reason).Kept P z := h.sendCtl

theorem takeArm (h : s.Kept P z) : (s.takeArm p bs).Kept P z := by
  unfold State.takeArm
  dsimp only
  split
  · exact h.fresh.sendNak
  · split
    · exact h
    · split
      · exact h.acceptArm
      · exact h.sendNak

theorem takeAck (h : s.Kept P z) : (s.takeAck p bs).Kept P z := by
  unfold State.takeAck
  split
  · split
    · exact h.modTt.allAcked
    · exact h
  · exact h

theorem takeNak (h : s.Kept P z) : (s.takeNak p bs).Kept P z := by
  unfold State.takeNak
  split
  · repeat' split
    · exact h
    · exact h.modTt
    · exact h.sendCtl
  · exact h

theorem takeConfirm (h : s.Kept P z) : (s.takeConfirm p bs).Kept P z := by
  unfold State.takeConfirm
  split
  · split
    · exact h.sendCtl.modTt
    · exact h
  · exact h

theorem takeDisarm (h : s.Kept P z) : (s.takeDisarm p bs).Kept P z := by
  unfold State.takeDisarm
  split
  · exact h.cancelDeparture
  · exact h

theorem takeLink (h : s.Kept P z) : (s.takeLink p bs).Kept P z := h.modPort
end

/-! ### Departure, roll call, the end of a brake -/

theorem abortPending (h : s.Kept P z) {t : Nat} : (s.abortPending t).Kept P z := h.foldl (fun _ _ hu => hu.answerAbort) _

theorem startRun (h : s.Kept P z) {t : Nat} {x : Timetable} : (s.startRun t x).Kept P z := by
  unfold State.startRun
  dsimp only
  split
  · exact h.movePorts.modTen.finish.abortPending
  · exact h.movePorts.modTen.abortPending

theorem startOff (h : s.Kept P z) {t : Nat} {x : Timetable} : (s.startOff t x).Kept P z := by
  unfold State.startOff
  dsimp only
  split
  · exact h.event.event.abandonStart
  · exact h.event.abandonStart

theorem execDeparture (h : s.Kept P z) {n t : Nat} : OutKept P z (execDeparture n t s) := by
  unfold Machine.execDeparture
  split
  · trivial
  · refine .when ?_
    split
    · exact h.atTick.startRun
    · exact h.atTick.startOff

theorem execRollCallCheck (h : s.Kept P z) {n t : Nat} : OutKept P z (execRollCallCheck n t s) := by
  unfold Machine.execRollCallCheck
  split
  · trivial
  · dsimp only
    split
    · trivial
    · split
      · exact h.atTick.modTt.foldl (fun _ _ hu => hu.modPort) _
      · exact (h.atTick.modTt.foldl (fun _ _ hu => hu.modPort) _).event.orderBrake

theorem execBrakeIdle (h : s.Kept P z) {n t : Nat} : OutKept P z (execBrakeIdle n t s) := by
  unfold Machine.execBrakeIdle
  split
  · exact .when h.atTick.movePorts.dropLineCarts.modTt.finishBrakes
  · trivial

end State.Kept

end Sys2Proof.Machine
end

section
/-! Carriages that arrive, and a port itself, keep the tables' sizes and the canonical form. -/

namespace Sys2Proof.Machine

namespace State.Kept

variable {P : Prop} {z : Base} {s : State}

/-! ### What every carriage carries, and its checks -/

theorem linkFields (h : s.Kept P z) {p : Nat} {c : Carriage} : (s.linkFields p c).Kept P z := h.count.modPort
theorem tookCar (h : s.Kept P z) {p n : Nat} : (s.tookCar p n).Kept P z := h.modPort

theorem badCar (h : s.Kept P z) {p t n : Nat} {x : Timetable} {c : Carriage} {pl : Plan} : (s.badCar p t x c pl n).Kept P z := by
  unfold State.badCar
  dsimp only
  split
  · exact h.discard
  · split
    · exact h.discard.failTen
    · exact h.discard

theorem hearBrake (h : s.Kept P z) {t : Nat} {x : Timetable} {c : Carriage} : (s.hearBrake t x c).Kept P z := by
  unfold State.hearBrake
  split
  · exact h.orderBrake
  · exact h

section
variable {p : Nat} {c : Carriage} {act : State → Nat → W64 → State} {idle : State → State}

theorem taken (h : s.Kept P z) (ha : ∀ u t e, u.Kept P z → (act u t e).Kept P z) (hi : ∀ u, u.Kept P z → (idle u).Kept P z) :
    (s.taken p c act idle).Kept P z := by
  unfold State.taken
  dsimp only
  split
  · exact h.modPort
  · split
    · exact (hi _ h).tookCar
    · next t x _ =>
      have hb : (s.hearBrake t x c).Kept P z := h.hearBrake
      split
      · exact hb
      · next y _ =>
        have hdone : ∀ (bad : Option Nat) (e : W64), State.Kept P z (match bad with
            | some code => (s.hearBrake t x c).badCar p t y c (((s.hearBrake t x c).ten t).plan y p c.carno.toNat) code
            | none => (if (s.hearBrake t x c).shutTen t then (s.hearBrake t x c).discard p 1 else act (s.hearBrake t x c) t e).tookCar p
                c.carno.toNat) := fun bad e => by
          cases bad with
          | some code => exact hb.badCar
          | none =>
            refine tookCar ?_
            split
            · exact hb.discard
            · exact ha _ _ _ hb
        split
        · exact (hi _ hb).tookCar
        · exact hdone _ _
        · exact hdone _ _
        · exact hdone _ _
        · split
          · exact hb.tookCar
          · exact hb.discard

theorem arrive (h : s.Kept P z) (ha : ∀ u t e, u.Kept P z → (act u t e).Kept P z) (hi : ∀ u, u.Kept P z → (idle u).Kept P z) :
    OutKept P z (s.arrive p c act idle) := by
  have ht : ((s.linkFields p c).taken p c act idle).Kept P z := h.linkFields.taken ha hi
  unfold State.arrive
  split
  · trivial
  · split
    · exact h.linkFields.discard
    · split
      · trivial
      · dsimp only
        split
        · exact ht.portDown
        · exact ht

theorem arriveAs (h : s.Kept P z) {k : Nat} (ha : ∀ u t e, u.Kept P z → (act u t e).Kept P z) (hi : ∀ u, u.Kept P z → (idle u).Kept P z) :
    OutKept P z (s.arriveAs p k c act idle) := by
  unfold State.arriveAs
  split
  · trivial
  · exact h.arrive ha hi

/-! ### DATA, VACANT and ROLL -/

theorem leaveCart (h : s.Kept P z) {t n : Nat} : (s.leaveCart p t n).Kept P z := by
  unfold State.leaveCart
  split
  · exact h.discard.freeCart.modTt
  · exact h

theorem takeCartFor (h : s.Kept P z) {t n : Nat} {r : LineCart × State} (hr : s.takeCartFor p t n c = some r) : r.2.Kept P z := by
  unfold State.takeCartFor at hr
  dsimp only at hr
  split at hr
  · split at hr
    · obtain ⟨i, -, rfl⟩ := Option.map_eq_some_iff.1 hr
      exact h.leaveCart.modHitch.modTt
    · cases hr
  · obtain ⟨i, -, rfl⟩ := Option.map_eq_some_iff.1 hr
    exact h

theorem landData (h : s.Kept P z) {t : Nat} {e : W64} : (s.landData p c t e).Kept P z := by
  unfold State.landData
  dsimp only
  split
  · exact h.discard.failTen
  · next hr =>
    have hu := h.takeCartFor hr
    split
    · exact hu
    · repeat' split
      · exact State.Kept.failTen hu.discard.freeCart.modTt
      · exact hu.spWrite.modHitch.modTt
      · exact hu.spWrite

theorem execDataCarriage (h : s.Kept P z) : OutKept P z (execDataCarriage p c s) :=
  h.arriveAs (fun _ _ _ hu => hu.landData) fun _ hu => hu.discard

theorem execVacantCarriage (h : s.Kept P z) : OutKept P z (execVacantCarriage p c s) := h.arriveAs (fun _ _ _ hu => hu) fun _ hu => hu

theorem execRollCarriage (h : s.Kept P z) : OutKept P z (execRollCarriage p c s) :=
  h.arriveAs (fun _ _ _ hu => hu.modTt) fun _ hu => hu.discard

/-! ### AUDIT and FREE -/

theorem auditFails (h : s.Kept P z) {n : Nat} : (s.auditFails p n).Kept P z := by
  unfold State.auditFails
  split
  · split
    · exact h.failTen
    · exact h.event
  · exact h.event

theorem auditFec (h : s.Kept P z) : (s.auditFec p).Kept P z := by
  have h1 := h.modPort (p := p) (f := fun y => { y with fecNow := 0 })
  unfold State.auditFec
  dsimp only
  generalize s.modPort p (fun y => { y with fecNow := 0 }) = u at h1 ⊢
  split
  · exact h1
  · split
    · exact h1
    · exact (State.Kept.modPort h1.markSet).errRecord

theorem execAuditCarriage (h : s.Kept P z) : OutKept P z (execAuditCarriage p c s) := by
  have hf : ∀ (good : Bool) (u : State), u.Kept P z → State.Kept P z ((if good then u else u.auditFails p c.carno.toNat).auditFec p) :=
    fun good u hu => by
      refine auditFec ?_
      split
      · exact hu
      · exact hu.auditFails
  exact h.arriveAs (fun u _ _ hu => hf _ u hu) (hf _)

theorem takeFree (h : s.Kept P z) : (s.takeFree p c).Kept P z := by
  unfold State.takeFree
  extract_lets ms x full
  split
  · exact h.discard
  · exact h.modPort

theorem execFreeCarriage (h : s.Kept P z) : OutKept P z (execFreeCarriage p c s) :=
  h.arriveAs (fun _ _ _ hu => hu.takeFree) fun _ hu => hu.takeFree

/-! ### CONTROL -/

theorem control (h : s.Kept P z) {k : Nat} {f : State → State} (hf : ∀ u, u.Kept P z → (f u).Kept P z) : OutKept P z (s.control p k c f) := by
  unfold State.control
  repeat' split
  · exact h.arriveAs (fun _ _ _ hu => hu) fun _ hu => hu
  · trivial
  · exact h.arriveAs (fun u _ _ hu => hf u hu) hf

theorem execArmControl (h : s.Kept P z) : OutKept P z (execArmControl p c s) := h.control fun _ hu => hu.takeArm
theorem execAck (h : s.Kept P z) : OutKept P z (execAck p c s) := h.control fun _ hu => hu.takeAck
theorem execNak (h : s.Kept P z) : OutKept P z (execNak p c s) := h.control fun _ hu => hu.takeNak
theorem execConfirm (h : s.Kept P z) : OutKept P z (execConfirm p c s) := h.control fun _ hu => hu.takeConfirm
theorem execDisarm (h : s.Kept P z) : OutKept P z (execDisarm p c s) := h.control fun _ hu => hu.takeDisarm

theorem execLink (h : s.Kept P z) : OutKept P z (execLink p c s) := by
  unfold Machine.execLink
  split
  · exact h.takeLink
  · exact h.control fun _ hu => hu.takeLink
end

/-! ### Absent carriages -/

section
variable {p : Nat}

theorem execDiscardedCarriage (h : s.Kept P z) {n fec : Nat} : OutKept P z (execDiscardedCarriage p n fec s) := by
  unfold Machine.execDiscardedCarriage
  split
  · trivial
  · exact h.count.modPort

theorem execCarriageTimeout (h : s.Kept P z) {n t : Nat} : OutKept P z (execCarriageTimeout p n t s) := by
  unfold Machine.execCarriageTimeout
  split
  · trivial
  · refine .when ?_
    dsimp only
    split
    · split
      · exact h.atTick.modPort.failTen
      · exact h.atTick.modPort.discard
    · exact h.atTick.modPort.discard

/-! ### Training -/

theorem trainPort (h : s.Kept P z) : (s.trainPort p).Kept P z := by
  unfold State.trainPort
  split
  · refine movePort ?_
    exact h.modPort (p := p) (f := fun x => { x with trainStart := s.tick, linked := none })
  · exact h

theorem execLineTrain (h : s.Kept P z) : OutKept P z (execLineTrain p s) := by
  unfold Machine.execLineTrain
  split
  · trivial
  · exact .hostWrite h h.trainPort

theorem trained (h : s.Kept P z) {a b : BitVec 17} {n : Nat} : (s.trained p a b n).Kept P z := h.modPort.sendCtl.movePort

theorem execTrainingComplete (h : s.Kept P z) {r : TrainResult} : OutKept P z (execTrainingComplete p r s) := by
  unfold Machine.execTrainingComplete
  split
  · trivial
  · cases r with
    | misaligned => exact h.portDown
    | trained good inverted lat =>
      dsimp only
      repeat' split
      · exact h.portDown
      · exact h.modPort.portDown
      · exact h.trained

theorem execTrainingSignalTimeout (h : s.Kept P z) {t : Nat} : OutKept P z (execTrainingSignalTimeout p t s) := .when h.atTick.portDown

theorem disablePort (h : s.Kept P z) : (s.disablePort p).Kept P z := by
  unfold State.disablePort
  split
  · exact h
  · exact h.portDown
  · exact h.portDown
  · exact h.setLockvio
  · exact h.setLockvio
  · exact h.setLockvio

theorem execLineDown (h : s.Kept P z) : OutKept P z (execLineDown p s) := by
  unfold Machine.execLineDown
  split
  · trivial
  · exact .hostWrite h h.disablePort

/-! ### Retirement, fences and routes -/

theorem laneEvent (h : s.Kept P z) : (s.laneEvent p).Kept P z := h.event
theorem holdSpare (h : s.Kept P z) : (s.holdSpare p).Kept P z := h.modPort.laneEvent

theorem retireLane (h : s.Kept P z) {l : Nat} : (s.retireLane p l).Kept P z := by
  unfold State.retireLane
  split
  · exact h.holdSpare
  · exact h.modPort

theorem writeRetire (h : s.Kept P z) {l : BitVec 17} : (s.writeRetire p l).Kept P z := by
  unfold State.writeRetire
  split
  · exact h.setLockvio
  · dsimp only
    split
    · exact h.modPort
    · split
      · exact h.modPort
      · exact h.modPort.retireLane

theorem execLineRetire (h : s.Kept P z) {l : BitVec 17} : OutKept P z (execLineRetire p l s) := by
  unfold Machine.execLineRetire
  split
  · trivial
  · exact .hostWrite h h.writeRetire

theorem writeFence (h : s.Kept P z) {v : W16} : (s.writeFence v).Kept P z := by
  unfold State.writeFence
  dsimp only
  split
  · exact h.setFenceErr
  · exact h

theorem execLineFence (h : s.Kept P z) {v : W16} : OutKept P z (execLineFence v s) := .hostWrite h h.writeFence

theorem writeRoute (h : s.Kept P z) {i : BitVec 9} {m : W16} {b : Bool} : (s.writeRoute i m b).Kept P z := by
  unfold State.writeRoute
  dsimp only
  split
  · exact h
  · exact h

theorem execRouteWrite (h : s.Kept P z) {i : BitVec 9} {m : W16} : OutKept P z (execRouteWrite i m s) := .hostWrite h h.writeRoute

/-! ### The spare -/

theorem execRotationStep (h : s.Kept P z) {t : Nat} : OutKept P z (execRotationStep p t s) := .when h.atTick.modPort

theorem execRetirementStep (h : s.Kept P z) {t : Nat} : OutKept P z (execRetirementStep p t s) := by
  unfold Machine.execRetirementStep
  dsimp only
  split
  · trivial
  · exact .when h.atTick.modPort

theorem switchTx (h : s.Kept P z) {t : Nat} : (s.switchTx p t).Kept P z := by
  unfold State.switchTx
  dsimp only
  split
  · have hc := (h.modPort (p := p) (f := fun x => { x with tx := x.tx.switch })).count (k := cntLineRot p) (n := 1)
    split
    · exact hc.holdSpare
    · exact hc
  · exact h

theorem switchRx (h : s.Kept P z) {t : Nat} : (s.switchRx p t).Kept P z := by
  unfold State.switchRx
  split
  · exact h.modPort.count
  · exact h

theorem execRotationSwitch (h : s.Kept P z) {t : Nat} : OutKept P z (execRotationSwitch p t s) := .when h.atTick.switchTx.switchRx

theorem execCalibrationVisit (h : s.Kept P z) {v : Verdict} : OutKept P z (execCalibrationVisit p v s) := by
  unfold Machine.execCalibrationVisit
  dsimp only
  split
  · trivial
  · split
    · exact h.modPort
    · split
      · exact h.modPort.retireLane
      · exact h.modPort
    · exact h.modPort.retireLane

theorem lostRec (h : s.Kept P z) {l : Nat} : (s.lostRec p l).Kept P z := h.event

theorem execLaneLost (h : s.Kept P z) {l : Nat} : OutKept P z (execLaneLost p l s) := by
  unfold Machine.execLaneLost
  dsimp only
  repeat' split
  · trivial
  · exact h.lostRec.portDown
  · exact h.lostRec.modPort

theorem jumpTx (h : s.Kept P z) {t : Nat} : (s.jumpTx p t).Kept P z := by
  unfold State.jumpTx
  split
  · exact h.modPort.holdSpare
  · exact h

theorem jumpRx (h : s.Kept P z) {t : Nat} : (s.jumpRx p t).Kept P z := by
  unfold State.jumpRx
  split
  · exact h.modPort.laneEvent
  · exact h

theorem execSpareJump (h : s.Kept P z) {t : Nat} : OutKept P z (execSpareJump p t s) := .when h.atTick.jumpTx.jumpRx

/-! ### The injector and the hall counter -/

theorem writeInj (h : s.Kept P z) {f : Injector → Injector} : (s.writeInj p f).Kept P z := by
  unfold State.writeInj
  split
  · exact h.modPort
  · exact h.setLockvio

theorem execInjectorArm (h : s.Kept P z) {v : W64} : OutKept P z (execInjectorArm p v s) := by
  unfold Machine.execInjectorArm
  split
  · trivial
  · exact .hostWrite h h.writeInj
end

theorem execHallCounterSlip (h : s.Kept P z) : OutKept P z (execHallCounterSlip s) := by
  change State.Kept P z (if s.opened then s.contain 1 none 0 else s)
  split
  · exact h.contain
  · exact h

end State.Kept

end Sys2Proof.Machine
end

section
/-! Tenancies opened and taken out of service, quiesces, and the power governor keep the tables' sizes and the canonical form. -/

namespace Sys2Proof.Machine

namespace State.Kept

variable {P : Prop} {z : Base} {s : State} {n t : Nat}

/-! ### OPEN, RUN and epochs -/

theorem zeroShare (h : s.Kept P z) {k : Nat} : (s.zeroShare n k).Kept P z :=
  h.foldl (fun _ _ hu => hu.modCluster fun _ hx => memZero_wf _ _ hx) _

theorem openTen (h : s.Kept P z) : (s.openTen n).Kept P z := by
  have h0 : ∀ u : State, u.Kept P z → (if u.st = .ready then u.moveBlock .serving else u).Kept P z := fun u hu => by
    split
    · exact hu.moveBlock
    · exact hu
  refine h0 _ (zeroShare (moveTen ?_))
  exact h.modTen (t := n) (f := fun t => { t.modSlot 0 fun x => { x with
    st := .resident, ctx := 0, xc := [], blockedSince := none, move := none, tcOpen := false } with
    hinted := false, holder := none, holdLost := false, unitsUsed := [], usedPorts := 0 })

theorem writeOpen (h : s.Kept P z) : (s.writeOpen n).Kept P z := by
  have hopen : (if (s.ten n).st ≠ .free then s.tenErr n errState else if s.openOk n = true then s.openTen n
      else s.tenErr n errValue).Kept P z := by
    repeat' split
    · exact h.tenErr
    · exact h.openTen
    · exact h.tenErr
  unfold State.writeOpen
  split
  · exact h.tenErr
  · exact hopen
  · exact hopen
  · exact h
  · exact h
  · exact h
  · exact h

theorem writeRun (h : s.Kept P z) : (s.writeRun n).Kept P z := by
  unfold State.writeRun
  split
  · exact h.moveTen
  · exact h.tenErr

theorem execOpenTenancy (h : s.Kept P z) : OutKept P z (execOpenTenancy n s) := by
  unfold Machine.execOpenTenancy
  split
  · trivial
  · exact .hostWrite h h.writeOpen

theorem execRunTenancy (h : s.Kept P z) : OutKept P z (execRunTenancy n s) := by
  unfold Machine.execRunTenancy
  split
  · trivial
  · exact .hostWrite h h.writeRun

theorem writeEpochAdv (h : s.Kept P z) : (s.writeEpochAdv n).Kept P z := by
  unfold State.writeEpochAdv
  dsimp only
  repeat' split
  · exact h.tenErr
  · exact h.modTen
  · exact h.modTen

theorem execLedEpochAdv (h : s.Kept P z) : OutKept P z (execLedEpochAdv n s) := by
  unfold Machine.execLedEpochAdv
  split
  · trivial
  · exact .hostWrite h h.writeEpochAdv

theorem epochGo (h : s.Kept P z) {v : W32} {o : Option CoachRef} : (s.epochGo n v o).Kept P z := by
  have hall : ∀ (u : State) (p : Cohort → Bool), u.Kept P z → State.Kept P z { u with
      cohorts := modWhere p (fun h => { h with coaches := h.coaches.map fun k => { k with epochWait := none } }) u.cohorts } :=
    fun u p hu => hu.with_cohorts fun _ hw x hx => by
      rcases mem_modWhere hx with hx | ⟨y, hy, rfl⟩
      · exact hw x hx
      · exact (hw y hy).mapCoaches fun _ hk => hk
  cases o with
  | none => exact hall s _ h
  | some c =>
    refine hall _ _ (h.modCoach fun _ k hk => ?_)
    split
    · next ud d act _ => exact Coach.Canonical.epochWrite (k := { k with epochWait := none }) hk ud d act v
    · exact hk

theorem execEpochDeferredAdvance (h : s.Kept P z) : OutKept P z (execEpochDeferredAdvance n s) := .when h.modTen.epochGo

theorem execSwapHint (h : s.Kept P z) : OutKept P z (execSwapHint n t s) := by
  unfold Machine.execSwapHint
  dsimp only
  split
  · trivial
  · exact .when h.atTick.event.modTen

/-! ### Quiesces -/

theorem hostOrder (h : s.Kept P z) {a v r : Nat} : (s.hostOrder a v r).Kept P z := h.event
theorem purgeAll (h : s.Kept P z) {p : Hitch → Bool} : (s.purgeAll n p).Kept P z := h.modTen
theorem dropBuffers (h : s.Kept P z) : (s.dropBuffers n).Kept P z := h.modPort

theorem forceTask (h : s.Kept P z) {c : W32} {k : Task} : (State.forceTask c s k).Kept P z := by
  have h1 : State.Kept P z { s with quiesce := { s.quiesce with aborted := s.quiesce.aborted + 1 } } := h
  unfold State.forceTask
  dsimp only
  split
  · exact h1.fresh.abortTask
  · exact h1

theorem forceQuiesce (h : s.Kept P z) {kind v : Nat} : (s.forceQuiesce kind n v).Kept P z := by
  have h1 : (s.hostOrder 0x58 v 0).Kept P z := h.hostOrder
  unfold State.forceQuiesce
  dsimp only
  generalize s.hostOrder 0x58 v 0 = s1 at h1 ⊢
  have h2 : (if kind = 5 then s1.fresh.2.ckEnd n (s1.fresh.1.toNat % 256) else s1).Kept P z := by
    split
    · exact h1.fresh.ckEnd
    · exact h1
  generalize (if kind = 5 then s1.fresh.2.ckEnd n (s1.fresh.1.toNat % 256) else s1) = s2 at h2 ⊢
  generalize (if kind = 5 then s2.openCmds n fun _ => true else []) = cs
  have h3 : (if kind = 5 then s2.dropCmds n fun _ => true else s2).Kept P z := by
    split
    · exact h2.dropCmds
    · exact h2
  generalize (if kind = 5 then s2.dropCmds n fun _ => true else s2) = s3 at h3 ⊢
  have h4 : ((s3.tasksAt kind n).foldl (State.forceTask s.ev.seq) s3).Kept P z := h3.foldl (fun _ _ hu => hu.forceTask) _
  generalize (s3.tasksAt kind n).foldl (State.forceTask s.ev.seq) s3 = s4 at h4 ⊢
  split
  · split
    · exact h4.purgeAll
    · exact h4
  · exact h4.dropBuffers
  · refine purgeAll (modTen (unserveAll ?_))
    exact (h4.discardAll (cs := cs)).stopRings.orderBrake (t := n) (b := BitVec.ofNat 64 _)
  · exact h4

theorem startQuiesce (h : s.Kept P z) {kind l : Nat} : (s.startQuiesce kind n l).Kept P z := by
  unfold State.startQuiesce
  split
  · split
    · exact h.modPort
    · exact h.retireLane
  · exact h.moveTen
  · exact h

theorem writeQuiesce (h : s.Kept P z) {kind l : Nat} {force : Bool} : (s.writeQuiesce kind n l force).Kept P z := by
  have hq : ∀ q : Quiesce, State.Kept P z { s with quiesce := q } := fun _ => h
  unfold State.writeQuiesce
  dsimp only
  split
  · split
    · refine forceQuiesce ?_
      split
      · exact (hq _).moveTen
      · exact hq _
    · exact h.setIgn
  · split
    · exact hq _
    · split
      · exact (hq _).startQuiesce.forceQuiesce
      · exact (hq _).startQuiesce

theorem execQuiesce (h : s.Kept P z) {k : BitVec 3} {i : BitVec 8} {l : BitVec 5} {f : Bool} : OutKept P z (execQuiesce k i l f s) := by
  change State.Kept P z (ite _ _ _)
  split
  · exact h
  · exact h.writeQuiesce

theorem setEnable (h : s.Kept P z) {kind : Nat} {b : Bool} : (s.setEnable kind n b).Kept P z := by
  unfold State.setEnable
  split
  · exact h
  · exact h
  · exact h
  · exact h
  · exact h

theorem writeEnable (h : s.Kept P z) {kind l : Nat} : (s.writeEnable kind n l).Kept P z := by
  have hq : ∀ q : Quiesce, State.Kept P z { s with quiesce := q } := fun _ => h
  unfold State.writeEnable
  dsimp only
  split
  · exact h.setIgn
  · split
    · exact (hq _).setEnable
    · exact hq _

theorem execQuiesceEnable (h : s.Kept P z) {k : BitVec 3} {i : BitVec 8} {l : BitVec 5} : OutKept P z (execQuiesceEnable k i l s) := by
  change State.Kept P z (ite _ _ _)
  split
  · exact h
  · exact h.writeEnable

/-! ### A function out of service -/

theorem forceClose (h : s.Kept P z) {table : Nat} {send : Bool} : (s.forceClose n table send).Kept P z := by
  unfold State.forceClose
  split
  · exact h
  · dsimp only
    split
    · exact h
    · refine closeBank ?_
      split
      · exact h
      · exact h.modBank.modTen

theorem writeOff (h : s.Kept P z) {b : Broken} : (State.writeOff n s b).Kept P z := by
  refine modTen ?_
  split
  · exact h
  · exact h.modBank

theorem forceBoth (h : s.Kept P z) {t : Nat} : ((s.forceClose n t false).forceClose n t true).Kept P z := h.forceClose.forceClose

theorem forceAll (h : s.Kept P z) (ts : List Nat) :
    (ts.foldl (fun (u : State) t => (u.forceClose n t false).forceClose n t true) s).Kept P z :=
  h.foldl (fun _ _ hu => hu.forceBoth) ts

theorem writeOffAll (h : s.Kept P z) (bs : List Broken) : (bs.foldl (State.writeOff n) s).Kept P z :=
  h.foldl (fun _ _ hu => hu.writeOff) bs

theorem settleBooks (h : s.Kept P z) : (s.settleBooks n).1.Kept P z := by
  unfold State.settleBooks
  dsimp only
  exact (h.forceAll _).writeOffAll _

theorem reportClear (h : s.Kept P z) : (s.reportClear n).Kept P z := by
  unfold State.reportClear
  split
  · exact h
  · refine event ?_
    exact h

theorem releaseTen (h : s.Kept P z) : (s.releaseTen n).Kept P z := by
  refine modTen ?_
  have h1 : (s.dropTt n).Kept P z := h.dropTt
  generalize s.dropTt n = u at h1 ⊢
  exact (h1.with_rings (l := u.rings.map fun r => if r.en ∧ r.ten.toNat = n then { r with en := false, hold := .none } else r)
    (List.length_map ..)).mapClusters (f := fun c => { c with maps := c.maps.filter (·.ten != n) })

theorem restBlock (h : s.Kept P z) : s.restBlock.Kept P z := by
  unfold State.restBlock
  split
  · exact h.moveBlock
  · exact h

theorem endQuiesce (h : s.Kept P z) {st w : Nat} : (s.endQuiesce st w).Kept P z := by
  refine event ?_
  exact h

theorem disableFn (h : s.Kept P z) {kind : Nat} : (s.disableFn kind n).Kept P z := by
  unfold State.disableFn
  split
  · refine endQuiesce ?_
    exact (h.setEnable (n := n) (kind := 0) (b := false)).with_tens (List.length_map ..)
  · refine endQuiesce (setEnable ?_)
    split
    · exact h
    · exact h.portDown
  · refine restBlock (moveTen (releaseTen (endQuiesce (reportClear ?_))))
    split
    · exact h.settleBooks
    · exact h
  · exact h.setEnable.endQuiesce

theorem execFunctionDisabled (h : s.Kept P z) : OutKept P z (execFunctionDisabled s) := by
  unfold Machine.execFunctionDisabled
  dsimp only
  split
  · trivial
  · split
    · trivial
    · split
      · exact h.disableFn
      · split
        · exact h.disableFn
        · split
          · exact h.disableFn
          · exact h.foldl (fun _ _ hu => hu.actBroken) _

theorem execTenancyClear (h : s.Kept P z) : OutKept P z (execTenancyClear n s) := .when h.reportClear

/-! ### Containment by the host -/

theorem writeContain (h : s.Kept P z) {v : Nat} : (s.writeContain v).Kept P z := h.hostOrder.contain

theorem writeHalt (h : s.Kept P z) {v : Nat} : (s.writeHalt n v).Kept P z := by
  unfold State.writeHalt
  split
  · exact h
  · exact h
  · exact h.hostOrder.haltTen

theorem execContainBlock (h : s.Kept P z) : OutKept P z (execContainBlock s) := by
  change State.Kept P z (ite _ _ _)
  split
  · exact h.writeContain
  · exact h

theorem execHaltTenancy (h : s.Kept P z) : OutKept P z (execHaltTenancy n s) := by
  unfold Machine.execHaltTenancy
  split
  · trivial
  · change State.Kept P z (ite _ _ _)
    split
    · exact h.writeHalt
    · exact h

theorem execHoldoffEnd (h : s.Kept P z) : OutKept P z (execHoldoffEnd t s) := .when h.atTick.evSignal

/-! ### The power governor -/

/-- The governor's registers but VCORE's code and the sensors' readings may change. -/
theorem with_power (h : s.Kept P z) {w : Power} (ht : w.temps = s.pwr.temps) (hv : w.vid = s.pwr.vid) : ({ s with pwr := w } : State).Kept P z :=
  h.with_pwr (ht ▸ id) (hv ▸ id)

theorem thermal (h : s.Kept P z) : s.thermal.Kept P z := h.event

theorem setVid (h : s.Kept P z) {v : Nat} (hv : s.pwr.vid ≤ 48 → v ≤ 48) : (s.setVid v).Kept P z := by
  unfold State.setVid
  split
  · exact h
  · exact h.with_pwr id hv

theorem holdVid (h : s.Kept P z) {b : Bool} : (s.holdVid b).Kept P z := by
  unfold State.holdVid
  dsimp only
  split
  · exact thermal (h.with_power rfl rfl)
  · exact h.with_power rfl rfl

/-- An evaluation stays within the highest code (R483). -/
theorem evalSteps (h : s.Kept P z) : s.evalSteps.Kept P z := by
  have hlo : s.vidFloor ≤ 16 := by
    unfold State.vidFloor
    split <;> decide
  have hf : s.fresh.2.Kept P z := h.fresh
  have hvid : s.fresh.2.pwr.vid = s.pwr.vid := rfl
  unfold State.evalSteps
  dsimp only
  split
  · exact (hf.setVid fun hv => by omega).holdVid
  · split
    · exact (hf.setVid fun hv => by omega).holdVid
    · exact (hf.setVid fun hv => Nat.min_le_left ..).holdVid

theorem staleRec (h : s.Kept P z) : s.staleRec.Kept P z := by
  unfold State.staleRec
  split
  · exact thermal (h.with_power rfl rfl)
  · exact h

theorem execGovernorEvaluation (h : s.Kept P z) : OutKept P z (execGovernorEvaluation t s) := by
  unfold Machine.execGovernorEvaluation
  dsimp only
  split
  · trivial
  · refine staleRec ?_
    split
    · exact h.atTick.with_power rfl rfl
    · exact evalSteps (h.atTick.with_power rfl rfl)

theorem execRateReport (h : s.Kept P z) {mhz : Nat} : OutKept P z (execRateReport t mhz s) := .when (h.atTick.with_power rfl rfl)
theorem execPowerTelemetry (h : s.Kept P z) {p : W16} : OutKept P z (execPowerTelemetry p s) := h.with_power rfl rfl
theorem execPowerReportStale (h : s.Kept P z) : OutKept P z (execPowerReportStale t s) := .when (h.atTick.with_power rfl rfl)
theorem execVidAck (h : s.Kept P z) : OutKept P z (execVidAck s) := .when (h.with_power rfl rfl)

theorem execThermalReport (h : s.Kept P z) {k : Nat} {v : BitVec 9} : OutKept P z (execThermalReport k v s) :=
  .when (h.with_pwr (fun ht => smSet_ok _ _ ht) id)

end State.Kept

end Sys2Proof.Machine
end

section
/-! Supplies, resets, the boot check, the self-test, live update and test access keep the tables' sizes and the canonical form. -/

namespace Sys2Proof.Machine

/-- The sizes of the block as it is built (R12, R351, R405). -/
def blockSizes : Sizes := ⟨8, 32, 16, 8⟩

theorem sizes_reset : State.reset.sizes = blockSizes := rfl

/-- No copies come from any. -/
theorem CopiesFrom.nil (l : List Copy) : CopiesFrom l [] := fun _ _ hc => nomatch hc

namespace State.Kept

variable {P : Prop} {z : Base} {s : State}

/-! ### Supplies and reset -/

section
variable (hz : z.sizes = blockSizes)

include hz

/-- A block wiped has the sizes of the block as it is built; the memory of the package stays as it was (log 79). -/
theorem wiped (h : s.Kept P z) : s.wiped.Kept P z := by
  refine ⟨hz ▸ sizes_reset, fun l _ => .nil l, fun p => ?_⟩
  obtain ⟨hm, -, -, hs, -, -⟩ := h.2.2 p
  exact ⟨hm, fun c hc => List.eq_of_mem_replicate hc ▸ rfl, fun _ hc => absurd hc List.not_mem_nil, hs, rfl, (by decide : ({} : Power).vid ≤ 48)⟩

theorem toSafe (h : s.Kept P z) : s.toSafe.Kept P z := by
  have hw : s.wiped.Kept P z := h.wiped hz
  unfold State.toSafe
  dsimp only
  split
  · exact moveBlock (s := { s.wiped with st := s.st }) hw
  · exact hw

theorem doReset (h : s.Kept P z) : s.doReset.Kept P z := toSafe (s := s.nextTick) hz h

theorem execPowerGood (h : s.Kept P z) : OutKept P z (execPowerGood s) := .when (toSafe (s := { s with powered := true, st := .off }) hz h)

theorem execSupplyLoss (h : s.Kept P z) : OutKept P z (execSupplyLoss s) :=
  .when (wiped (s := State.nextTick { s with powered := false }) hz h)

theorem execReset (h : s.Kept P z) : OutKept P z (execReset s) := doReset (s := { s with resetLow := true }) hz h

theorem execCtlReset (h : s.Kept P z) : OutKept P z (execCtlReset s) := by
  change State.Kept P z (ite _ _ _)
  split
  · exact h
  · exact h.doReset hz
end

theorem execResetRelease (h : s.Kept P z) {b : Bool} : OutKept P z (execResetRelease b s) := .when h

theorem execCtlDrain (h : s.Kept P z) : OutKept P z (execCtlDrain s) := by
  change State.Kept P z (ite _ _ _)
  split
  · exact h.moveBlock
  · exact h

/-! ### The boot check -/

theorem incompat (h : s.Kept P z) {d p o : Nat} : (s.incompat d p o).Kept P z := by
  refine event ?_
  exact h

theorem booted (h : s.Kept P z) {p : Personality} {f l : FwHeader} {g : W32} {w : W64} : (s.booted p f l g w).Kept P z := by
  have hp : State.Kept P z { s with ports := s.ports.mapIdx fun i x => x.bootRetired (p.retired.getD i 0) } :=
    h.with_ports List.length_mapIdx
  have hm := hp.with_mem (m := { s.mem with grant := g, wayGrant := w }) id
  refine moveBlock ?_
  exact hm.with_power (w := { s.pwr with loadedTick := s.tick, lastEval := s.tick, lastRate := s.tick }) rfl rfl

theorem writeGo (h : s.Kept P z) {v : Verdicts} {g : W32} {w : W64} : (s.writeGo v g w).Kept P z := by
  unfold State.writeGo
  split
  · exact h.setLockvio
  · dsimp only
    split
    · refine incompat ?_
      exact h
    · exact h.booted

theorem execGo (h : s.Kept P z) {v : Verdicts} {g : W32} {w : W64} {hm : HostMem} : OutKept P z (execGo v g w hm s) :=
  h.withHost fun u hu => by
    change State.Kept P z (ite _ _ _)
    split
    · exact hu.writeGo
    · exact hu

/-! ### The self-test -/

theorem clearTestRegion (h : s.Kept P z) : s.clearTestRegion.Kept P z := h.with_mem fun hm p => memZero_wf _ _ (hm p)

theorem execSelfTestDone (h : s.Kept P z) {p : BitVec 8} {b : Bool} : OutKept P z (execSelfTestDone p b s) := by
  have hc := clearTestRegion (s := { s with
    enCluster := s.enCluster &&& (p &&& s.fw.perClusters), fw := { s.fw with pass := p &&& s.fw.perClusters, shared := b } }) h
  unfold Machine.execSelfTestDone
  dsimp only
  split
  · trivial
  · change State.Kept P z (ite _ _ _)
    split
    · exact hc.contain
    · exact hc.moveBlock

theorem setRefused (h : s.Kept P z) : s.setRefused.Kept P z := by
  unfold State.setRefused
  dsimp only
  split
  · exact h
  · refine errRecord ?_
    exact h

theorem writeSelftest (h : s.Kept P z) {c : BitVec 3} {b : Bool} : (s.writeSelftest c b).Kept P z := by
  unfold State.writeSelftest
  extract_lets fw u
  have hu : u.Kept P z := h
  split
  · exact hu
  · split
    · exact hu
    · exact hu.setRefused

theorem execSelftestRun (h : s.Kept P z) {c : BitVec 3} : OutKept P z (execSelftestRun c s) := by
  change State.Kept P z (ite _ _ _)
  split
  · exact h.writeSelftest
  · exact h

theorem execClusterTestDone (h : s.Kept P z) {b : Bool} : OutKept P z (execClusterTestDone b s) := .when h

/-! ### Live update -/

theorem writeUpdate (h : s.Kept P z) {k : BitVec 2} {u : W32} {b : Bool} : (s.writeUpdate k u b).Kept P z := by
  unfold State.writeUpdate
  dsimp only
  split
  · exact h.setLockvio
  · split
    · refine incompat ?_
      exact h
    · exact h

theorem execUpdate (h : s.Kept P z) {k : BitVec 2} {u : W32} {b : Bool} {hm : HostMem} : OutKept P z (execUpdate k u b hm s) :=
  h.withHost fun u hu => by
    change State.Kept P z (ite _ _ _)
    split
    · exact hu.writeUpdate
    · exact hu

theorem execFwImageReady (h : s.Kept P z) : OutKept P z (execFwImageReady s) := .when h

theorem execFwSwitch (h : s.Kept P z) : OutKept P z (execFwSwitch s) := by
  unfold Machine.execFwSwitch
  split
  · trivial
  · exact .when h

theorem execFwUpdateTimeout (h : s.Kept P z) {t : Nat} : OutKept P z (execFwUpdateTimeout t s) := by
  unfold Machine.execFwUpdateTimeout
  split
  · trivial
  · refine .when ?_
    exact h.atTick (t := t)

theorem execFwWatchdog (h : s.Kept P z) {n : Nat} : OutKept P z (execFwWatchdog n s) := by
  unfold Machine.execFwWatchdog
  split
  · trivial
  · extract_lets own offered cause u fw v
    have hu : u.Kept P z := h.event
    have hv : v.Kept P z := hu
    exact hv.contain

/-! ### Test access -/

theorem execTapInstruction (h : s.Kept P z) {o : TapOp} : OutKept P z (execTapInstruction o s) := h
theorem execWrapperInstruction (h : s.Kept P z) {o : WrapOp} : OutKept P z (execWrapperInstruction o s) := h

end State.Kept

end Sys2Proof.Machine
end

section
/-! A host write of a register keeps the tables' sizes and the canonical form. -/

namespace Sys2Proof.Machine

namespace State.Kept

variable {P : Prop} {z : Base} {s t : State} {w : Wr}

/-- One of two outcomes. -/
theorem ite {c : Prop} [Decidable c] (hs : s.Kept P z) (ht : t.Kept P z) : (if c then s else t).Kept P z := by
  split
  · exact hs
  · exact ht

theorem ackBits (h : s.Kept P z) {o b : Nat} : (s.ackBits o b).Kept P z := by
  refine h.foldl (fun u x hu => ?_) _
  unfold State.bitRecord
  split
  · exact hu.markSet.event
  · exact hu.markSet.errRecord

/-! ### CTL_, PER_, FW_ -/

theorem lockable (h : s.Kept P z) (ht : t.Kept P z) : (s.lockable t).Kept P z := by
  unfold State.lockable
  split
  · exact h.setLockvio
  · exact ht

theorem regQuiesce (h : s.Kept P z) : (s.regQuiesce w).Kept P z := by
  unfold State.regQuiesce
  dsimp only
  split
  · exact h.writeEnable
  · exact h.writeQuiesce

theorem writeCtl (hz : z.sizes = blockSizes) (h : s.Kept P z) {a : Nat} : (s.writeCtl a w).Kept P z := by
  unfold State.writeCtl
  repeat' split
  · exact h.doReset hz
  · exact h
  · exact h.moveBlock
  · exact h
  · exact h.lockable h
  · exact h.regQuiesce
  · refine ackBits ?_
    exact h
  · exact h

theorem regSelftest (h : s.Kept P z) : (s.regSelftest w).Kept P z := by
  refine writeSelftest (ackBits ?_)
  exact h

theorem regFwCtl (h : s.Kept P z) : (s.regFwCtl w).Kept P z := by
  have h1 : (if w.bit 0 ∨ w.bit 1 then s.fresh else (0, s)).2.Kept P z := by
    split
    · exact h.fresh
    · exact h
  unfold State.regFwCtl
  dsimp only
  generalize (if w.bit 0 ∨ w.bit 1 then s.fresh else (0, s)) = r at h1 ⊢
  have h2 : (if w.bit 0 = true then r.2.fresh.2.fresh.2.fresh.2.writeGo ⟨bitOf r.1.toNat 0, bitOf r.1.toNat 1, bitOf r.1.toNat 2⟩ r.2.fresh.1
      (BitVec.ofNat 64 (r.2.fresh.2.fresh.1.toNat + r.2.fresh.2.fresh.2.fresh.1.toNat * 2 ^ 32)) else r.2).Kept P z := by
    split
    · exact h1.fresh.fresh.fresh.writeGo
    · exact h1
  split
  · exact State.Kept.writeUpdate h2
  · exact h2

theorem writeFw (h : s.Kept P z) {a : Nat} : (s.writeFw a w).Kept P z := by
  unfold State.writeFw
  repeat' split
  · exact h.lockable h
  · exact h
  · exact h.setLockvio
  · exact h
  · exact h
  · exact h.regFwCtl
  · exact h
  · exact h.regSelftest
  · exact h

/-! ### TEN_ -/

section
variable {n : Nat}

theorem bound (h : s.Kept P z) {b : Bool} {f : Tenancy → Tenancy} : (s.bound n b f).Kept P z := by
  unfold State.bound
  split
  · exact h.modTen
  · exact h.tenErr

theorem writeClusters (h : s.Kept P z) {c : BitVec 8} : (s.writeClusters n c).Kept P z := by
  unfold State.writeClusters
  dsimp only
  split
  · exact h.modTen
  · split
    · exact h.modTen
    · exact h.tenErr
  · exact h.tenErr
  · exact h.tenErr
  · exact h.tenErr

theorem writeMode (h : s.Kept P z) {m : BitVec 2} {b : Bool} : (s.writeMode n m b).Kept P z := by
  unfold State.writeMode
  dsimp only
  split
  · exact h.modTen.modTen
  · split
    · exact h.modTen
    · exact h.modTen.tenErr

theorem writeMask (h : s.Kept P z) {k : Nat} {v g : BitVec k} {f : Tenancy → BitVec k} {p : BitVec k → Tenancy → Tenancy} :
    (s.writeMask n v g f p).Kept P z := by
  unfold State.writeMask
  split
  · exact h.tenErr
  · split
    · exact h.tenErr
    · exact h.modTen

theorem writeRcway (h : s.Kept P z) {v : W16} : (s.writeRcway n v).Kept P z := by
  unfold State.writeRcway
  dsimp only
  split
  · exact h.tenErr
  · split
    · exact h
    · exact h.modTen

theorem writeAllot (h : s.Kept P z) {x : BitVec 9} {c : BitVec 15} : (s.writeAllot n x c).Kept P z := by
  unfold State.writeAllot
  dsimp only
  split
  · exact h.tenErr
  · split
    · exact h.tenErr
    · exact h.modTen

theorem writeAperture (h : s.Kept P z) {b : BitVec 26} : (s.writeAperture n b).Kept P z := by
  unfold State.writeAperture
  split
  · exact h.tenErr
  · split
    · exact h.tenErr
    · exact h.modTen

theorem writeLane (h : s.Kept P z) {k : Nat} {v : W32} : (s.writeLane n k v).Kept P z := by
  unfold State.writeLane
  dsimp only
  split
  · exact h.modSlot
  · exact h.tenErr

theorem writeSp (h : s.Kept P z) {k : Nat} {v : W32} : (s.writeSp n k v).Kept P z := by
  unfold State.writeSp
  dsimp only
  split
  · exact h.tenErr
  · split
    · exact h.modSlot
    · split
      · exact h.modSlot.zeroShare
      · exact h.tenErr

theorem writeXwin (h : s.Kept P z) {k : Nat} {v : W32} : (s.writeXwin n k v).Kept P z := by
  unfold State.writeXwin
  dsimp only
  split
  · exact h.modSlot
  · exact h.tenErr

theorem writeSlot (h : s.Kept P z) {k a : Nat} : (s.writeSlot n k a w).Kept P z := by
  unfold State.writeSlot
  repeat' split
  · exact h.writeLane
  · exact h.writeSp
  · exact h.writeXwin
  · exact h

theorem regTenCtl (h : s.Kept P z) : (s.regTenCtl n w).Kept P z := by
  unfold State.regTenCtl
  dsimp only
  repeat' split
  · exact h.writeOpen.writeRun
  · exact h.writeRun
  · exact h.writeOpen
  · exact h

theorem writeTen (h : s.Kept P z) {a : Nat} : (s.writeTen n a w).Kept P z := by
  exact ite h.writeSlot <| ite (ite h.pinWriteReg h) <| ite h.regTenCtl <| ite h.writeClusters <| ite h.writeMode <| ite h.bound <|
    ite h.writeMask <| ite h.writeMask <| ite h.writeRcway <| ite h.writeAllot <| ite h.modTen <| ite h.modTen <| ite h.modTen <|
    ite h.bound <| ite h.bound <| ite h.bound <| ite h.bound <| ite h.writeAperture <| ite h.bound <| ite h.modTen <| ite h.modTen <|
    ite h.modTen <| ite h.modTen h

/-! ### FE_, XLT_, MEM_ -/

theorem ringBound (h : s.Kept P z) {f : Ring → Ring} : (s.ringBound n f).Kept P z := by
  unfold State.ringBound
  split
  · exact h.tenErr
  · exact h.modRing

theorem writeRing (h : s.Kept P z) {a : Nat} : (s.writeRing n a w).Kept P z := by
  unfold State.writeRing
  repeat' split
  · exact h.writeRingBase
  · exact h.ringBound
  · exact h.ringBound
  · exact h.resumeRing
  · exact h
  · exact h

theorem writeFaultResp (h : s.Kept P z) {f : W16} {b : Bool} : (s.writeFaultResp n f b).Kept P z := by
  unfold State.writeFaultResp
  split
  · exact h.tenErr
  · split
    · exact h.answerAbort
    · exact h.answerRetry

theorem writeCommit (h : s.Kept P z) {e : Nat} : (s.writeCommit n e).Kept P z := by
  unfold State.writeCommit
  split
  · exact h.commitSend
  · exact h.commitRecv
  · exact h.commitPod
  · exact h

theorem writeXlt (h : s.Kept P z) : (s.writeXlt n w).Kept P z := by
  unfold State.writeXlt
  repeat' split
  · exact h.writeFaultResp
  · exact h
  · exact h
  · exact h
  · exact h.writeCommit
  · exact h

theorem writeMem (h : s.Kept P z) : (s.writeMem n w).Kept P z := by
  unfold State.writeMem
  dsimp only
  split
  · split
    · exact h
    · exact h
  · repeat' split
    · exact h
    · refine ackBits ?_
      exact h
    · exact h.writeMargin
    · exact h
    · exact h.setLockvio
    · exact h

/-! ### LINE_, LED_ -/

theorem regLineCtl (h : s.Kept P z) : (s.regLineCtl n w).Kept P z := by
  unfold State.regLineCtl
  dsimp only
  repeat' split
  · exact h.trainPort.disablePort
  · exact h.disablePort
  · exact h.trainPort
  · exact h

theorem writeLine (h : s.Kept P z) {a : Nat} : (s.writeLine n a w).Kept P z := by
  unfold State.writeLine
  repeat' split
  · exact h.regLineCtl
  · exact h.writeRetire
  · exact h.writeFence
  · exact h.writeRoute
  · exact h

theorem ledTen (h : s.Kept P z) {a : Nat} (ht : s.ledTen n a w = some t) : t.Kept P z := by
  obtain ⟨y, -, rfl⟩ := Option.map_eq_some_iff.1 ht
  exact h.modTen

theorem ledPort (h : s.Kept P z) {a : Nat} (ht : s.ledPort n a w = some t) : t.Kept P z := by
  obtain ⟨y, -, rfl⟩ := Option.map_eq_some_iff.1 ht
  exact h.modPort

theorem writeTenLed (h : s.Kept P z) {a : Nat} : (s.writeTenLed n a w).Kept P z := by
  unfold State.writeTenLed
  split
  · split
    · exact h.writeEpochAdv
    · exact h
  · split
    · next ht =>
      split
      · exact h.ledTen ht
      · exact h.tenErr
    · exact h

theorem writePortLed (h : s.Kept P z) {a : Nat} : (s.writePortLed n a w).Kept P z := by
  unfold State.writePortLed
  split
  · exact h
  · next ht =>
    split
    · exact h.ledPort ht
    · split
      · exact h.tenErr
      · exact h

theorem writeLed (h : s.Kept P z) : (s.writeLed n w).Kept P z := by
  unfold State.writeLed
  repeat' split
  · exact h.writeTenLed
  · exact h.writePortLed
  · exact h

/-! ### ERR_, INJ_, CAL_, PWR_, CNT_ -/

theorem writeBlkStat (h : s.Kept P z) : (s.writeBlkStat w).Kept P z := by
  refine ackBits ?_
  exact h

theorem regContain (h : s.Kept P z) : (s.regContain w).Kept P z := by
  unfold State.regContain
  repeat' split
  · exact h
  · exact h.writeContain
  · exact h.writeHalt
  · exact h

theorem writeEvrCfg (h : s.Kept P z) : (s.writeEvrCfg w).Kept P z := by
  unfold State.writeEvrCfg
  extract_lets e x base bad fixed u
  have hu : u.Kept P z := h
  refine evFlush ?_
  split
  · exact hu.setLockvio
  · exact hu

theorem writeTenErr (h : s.Kept P z) : (s.writeTenErr n w).Kept P z := h.modTen.ackBits

theorem writeErr (h : s.Kept P z) : (s.writeErr n w).Kept P z := by
  unfold State.writeErr
  split
  · exact h.writeTenErr
  · repeat' split
    · exact h.writeBlkStat
    · exact h.regContain
    · exact h.writeEvrCfg
    · refine evFlush ?_
      exact h
    · exact h
    · exact h
    · exact h

theorem regInj (h : s.Kept P z) {a : Nat} : (s.regInj n a w).Kept P z := by
  unfold State.regInj
  repeat' split
  · exact h.writeInj
  · exact h.writeInj
  · exact h.writeInj
  · exact h

theorem writePwr (h : s.Kept P z) : (s.writePwr n w).Kept P z := by
  unfold State.writePwr
  split
  · exact h.modPort.ackBits
  · split
    · exact h.with_power rfl rfl
    · exact h

theorem regCnt (h : s.Kept P z) : (s.regCnt n w).Kept P z := by
  unfold State.regCnt
  split
  · split
    · exact h
    · exact h
  · refine ackBits ?_
    exact h
  · exact h
end

/-! ### The window -/

theorem regWrite (hz : z.sizes = blockSizes) (h : s.Kept P z) {a : Nat} : (s.regWrite a w).Kept P z := by
  exact ite (h.writeCtl hz) <| ite h.writeFw <| ite h.writeTen <| ite h.writeRing <| ite h <| ite h.writeXlt <| ite h.writeMem <| ite h <|
    ite h.writeLine <| ite h <| ite h.writeLed <| ite h.writeErr <| ite h.regInj <| ite h <| ite h.writePwr h.regCnt

theorem execRegisterWrite (hz : z.sizes = blockSizes) (h : s.Kept P z) {a : BitVec 17} {be : BitVec 8} {d : W64} :
    OutKept P z (execRegisterWrite a be d s) := by
  unfold Machine.execRegisterWrite
  dsimp only
  split
  · exact h
  · split
    · exact ite h h.setLockvio
    · exact h.regWrite hz

end State.Kept

end Sys2Proof.Machine
end

section
/-! Every row, and so every step, keeps the tables' sizes and the canonical form (O6). -/

namespace Sys2Proof.Machine

/-! ### Conversions, and integer instructions across threads -/

namespace BodyKept

variable {P : Prop} {z : Base}

theorem cvt {f : Coach → LaneWord → Nat → CvtOut} : BodyKept P z (cvtBody f) := fun _ _ hs hx =>
  hs.count.count.advance fun p => (hx p).1.writeD ..

theorem cvtExp {f : Coach → LaneWord → Nat → CvtOut} : BodyKept P z (cvtExpBody f) := fun _ _ hs hx =>
  .ite hs.instrFault (cvt _ _ hs hx)

theorem cq {f : LaneCtx → Bool} : BodyKept P z (cqBody f) := fun _ _ hs hx => predBody _ _ hs hx

/-- A value that the whole coach gives. -/
theorem cqValue {f : LaneCtx → W32} : BodyKept P z fun s x => Machine.aluBody (fun _ _ _ => f x) s x := fun _ _ hs hx => aluBody _ _ hs hx

theorem latchTick {s : State} {x : LaneCtx} {k : Coach} (h : k.Canonical) : (latchTick s x k).Canonical := by
  unfold Machine.latchTick
  split
  · exact h
  · exact h

theorem movSr : BodyKept P z fun s x =>
    s.advance x (Machine.latchTick s x (x.k.writeD x.w x.threads fun j => [BitVec.ofNat 32 (specialReg s x (fImm x.w) j)])) :=
  fun _ _ hs hx => hs.advance fun p => latchTick ((hx p).1.writeD ..)

theorem prUnpack : BodyKept P z fun s x => s.advance x ((List.range 8).foldl (fun k p =>
    k.setPred p x.act (predMask x.threads fun j => (opA x.k x.w j).getLsbD p)) x.k) :=
  fun _ _ hs hx => hs.advance fun p => List.foldlRecOn (motive := Coach.Canonical) _ _ (hx p).1 fun _ hk _ _ => hk.setPred ..

theorem nop : BodyKept P z fun s x => s.advance x x.k := fun _ _ hs hx => hs.advance fun p => (hx p).1

end BodyKept

section

variable {P : Prop} {z : Base} {s : State}

/-- Each row keeps what a state is held to, where the sizes are those of the block and its copies are not held to those before. -/
theorem exec_kept (hz : z.sizes = blockSizes) (hc : z.copies = none) (h : s.Kept P z) (i : Instr) : OutKept P z (exec i s) := by
  cases i with
  | dispatch r e => exact (h.execDispatch : OutKept P z (execDispatch r e s))
  | fenceFull r e => exact (h.execFenceFull : OutKept P z (execFenceFull r e s))
  | fenceOverlap r e => exact (h.execFenceOverlap : OutKept P z (execFenceOverlap r e s))
  | tableLoad r e => exact (h.execTableLoad : OutKept P z (execTableLoad r e s))
  | tableReplace r e => exact (h.execTableReplace : OutKept P z (execTableReplace r e s))
  | tableRelease r e => exact (h.execTableRelease : OutKept P z (execTableRelease r e s))
  | timetableLoad r e => exact (h.execTimetableLoad : OutKept P z (execTimetableLoad r e s))
  | timetableUnload r e => exact (h.execTimetableUnload : OutKept P z (execTimetableUnload r e s))
  | hitchBuild r e => exact (h.execHitchBuild : OutKept P z (execHitchBuild r e s))
  | hitchDismantle r e => exact (h.execHitchDismantle : OutKept P z (execHitchDismantle r e s))
  | dismantleComplete ten hitch => exact (h.execDismantleComplete : OutKept P z (execDismantleComplete ten hitch s))
  | invalidateAll r e => exact (h.execInvalidateAll : OutKept P z (execInvalidateAll r e s))
  | invalidateAllDone ten => exact (h.execInvalidateAllDone : OutKept P z (execInvalidateAllDone ten s))
  | arm r e => exact (h.execArm : OutKept P z (execArm r e s))
  | brake r e => exact (h.execBrake : OutKept P z (execBrake r e s))
  | checkpoint r e => exact (h.execCheckpoint : OutKept P z (execCheckpoint r e s))
  | checkpointDone ten => exact (h.execCheckpointDone : OutKept P z (execCheckpointDone ten s))
  | park r e => exact (h.execPark : OutKept P z (execPark r e s))
  | parkDone ten slot => exact (h.execParkDone : OutKept P z (execParkDone ten slot s))
  | parkTimeout ten slot t => exact (h.execParkTimeout : OutKept P z (execParkTimeout ten slot t s))
  | unpark r e => exact (h.execUnpark : OutKept P z (execUnpark r e s))
  | audit r e => exact (h.execAudit : OutKept P z (execAudit r e s))
  | ringWake r tail hm => exact (h.execRingWake : OutKept P z (execRingWake r tail hm s))
  | ringResume r => exact (h.execRingResume : OutKept P z (execRingResume r s))
  | ringEnable r log2n base => exact (h.execRingEnable : OutKept P z (execRingEnable r log2n base s))
  | cohortPlacement task cluster lane => exact (h.execCohortPlacement : OutKept P z (execCohortPlacement task cluster lane s))
  | cohortEnd task cohort => exact (h.execCohortEnd : OutKept P z (execCohortEnd task cohort s))
  | cohortStuck task cohort => exact (h.execCohortStuck : OutKept P z (execCohortStuck task cohort s))
  | sharedWaitLimit c t => exact (h.execSharedWaitLimit : OutKept P z (execSharedWaitLimit c t s))
  | add c w => exact (h.lane .aluBody : OutKept P z (execAdd c w s))
  | sub c w => exact (h.lane .aluBody : OutKept P z (execSub c w s))
  | mulLo c w => exact (h.lane .aluBody : OutKept P z (execMulLo c w s))
  | mulHiS c w => exact (h.lane .aluBody : OutKept P z (execMulHiS c w s))
  | mulHiU c w => exact (h.lane .aluBody : OutKept P z (execMulHiU c w s))
  | mad c w => exact (h.lane .aluBody : OutKept P z (execMad c w s))
  | divS c w => exact (h.lane .aluBody : OutKept P z (execDivS c w s))
  | divU c w => exact (h.lane .aluBody : OutKept P z (execDivU c w s))
  | remS c w => exact (h.lane .aluBody : OutKept P z (execRemS c w s))
  | remU c w => exact (h.lane .aluBody : OutKept P z (execRemU c w s))
  | and c w => exact (h.lane .aluBody : OutKept P z (execAnd c w s))
  | or c w => exact (h.lane .aluBody : OutKept P z (execOr c w s))
  | xor c w => exact (h.lane .aluBody : OutKept P z (execXor c w s))
  | not c w => exact (h.lane .aluBody : OutKept P z (execNot c w s))
  | shl c w => exact (h.lane .aluBody : OutKept P z (execShl c w s))
  | shr c w => exact (h.lane .aluBody : OutKept P z (execShr c w s))
  | sar c w => exact (h.lane .aluBody : OutKept P z (execSar c w s))
  | minS c w => exact (h.lane .aluBody : OutKept P z (execMinS c w s))
  | minU c w => exact (h.lane .aluBody : OutKept P z (execMinU c w s))
  | maxS c w => exact (h.lane .aluBody : OutKept P z (execMaxS c w s))
  | maxU c w => exact (h.lane .aluBody : OutKept P z (execMaxU c w s))
  | popc c w => exact (h.lane .aluBody : OutKept P z (execPopc c w s))
  | clz c w => exact (h.lane .aluBody : OutKept P z (execClz c w s))
  | bfe c w => exact (h.lane .aluBody : OutKept P z (execBfe c w s))
  | bfi c w => exact (h.lane .aluBody : OutKept P z (execBfi c w s))
  | sel c w => exact (h.lane .aluBody : OutKept P z (execSel c w s))
  | mov c w => exact (h.lane .aluBody : OutKept P z (execMov c w s))
  | movh c w => exact (h.lane .aluBody : OutKept P z (execMovh c w s))
  | cmp c w => exact (h.lane .predBody : OutKept P z (execCmp c w s))
  | pop c w => exact (h.lane .predBody : OutKept P z (execPop c w s))
  | addX64 c w => exact (h.lane .aluBody64 : OutKept P z (execAddX64 c w s))
  | subX64 c w => exact (h.lane .aluBody64 : OutKept P z (execSubX64 c w s))
  | mulWideS c w => exact (h.lane .aluBody64 : OutKept P z (execMulWideS c w s))
  | mulWideU c w => exact (h.lane .aluBody64 : OutKept P z (execMulWideU c w s))
  | cxGet c w => exact (h.lane .aluBody : OutKept P z (execCxGet c w s))
  | cqAny c w => exact (h.lane .cq : OutKept P z (execCqAny c w s))
  | cqAll c w => exact (h.lane .cq : OutKept P z (execCqAll c w s))
  | cqMask c w => exact (h.lane .cqValue : OutKept P z (execCqMask c w s))
  | movSr c w => exact (h.lane .movSr : OutKept P z (execMovSr c w s))
  | prPack c w => exact (h.lane .aluBody : OutKept P z (execPrPack c w s))
  | prUnpack c w => exact (h.lane .prUnpack : OutKept P z (execPrUnpack c w s))
  | cqCnt c w => exact (h.lane .cqValue : OutKept P z (execCqCnt c w s))
  | fadd c w => exact (h.lane .aluBody : OutKept P z (execFadd c w s))
  | fsub c w => exact (h.lane .aluBody : OutKept P z (execFsub c w s))
  | fmul c w => exact (h.lane .aluBody : OutKept P z (execFmul c w s))
  | ffma c w => exact (h.lane .aluBody : OutKept P z (execFfma c w s))
  | fdiv c w => exact (h.lane .aluBody : OutKept P z (execFdiv c w s))
  | fsqrt c w => exact (h.lane .aluBody : OutKept P z (execFsqrt c w s))
  | fmin c w => exact (h.lane .aluBody : OutKept P z (execFmin c w s))
  | fmax c w => exact (h.lane .aluBody : OutKept P z (execFmax c w s))
  | fminNum c w => exact (h.lane .aluBody : OutKept P z (execFminNum c w s))
  | fmaxNum c w => exact (h.lane .aluBody : OutKept P z (execFmaxNum c w s))
  | fabs c w => exact (h.lane .aluBody : OutKept P z (execFabs c w s))
  | fneg c w => exact (h.lane .aluBody : OutKept P z (execFneg c w s))
  | fex2 c w => exact (h.lane .aluBody : OutKept P z (execFex2 c w s))
  | flg2 c w => exact (h.lane .aluBody : OutKept P z (execFlg2 c w s))
  | fcmp c w => exact (h.lane .predBody : OutKept P z (execFcmp c w s))
  | cvtF32S32 c w => exact (h.lane .cvt : OutKept P z (execCvtF32S32 c w s))
  | cvtF32U32 c w => exact (h.lane .cvt : OutKept P z (execCvtF32U32 c w s))
  | cvtS32F32 c w => exact (h.lane .cvt : OutKept P z (execCvtS32F32 c w s))
  | cvtU32F32 c w => exact (h.lane .cvt : OutKept P z (execCvtU32F32 c w s))
  | cvtBf16F32 c w => exact (h.lane .cvt : OutKept P z (execCvtBf16F32 c w s))
  | cvtF16F32 c w => exact (h.lane .cvt : OutKept P z (execCvtF16F32 c w s))
  | cvtE4m3F32 c w => exact (h.lane .cvt : OutKept P z (execCvtE4m3F32 c w s))
  | cvtE5m2F32 c w => exact (h.lane .cvt : OutKept P z (execCvtE5m2F32 c w s))
  | cvtF32Bf16 c w => exact (h.lane .cvt : OutKept P z (execCvtF32Bf16 c w s))
  | cvtF32F16 c w => exact (h.lane .cvt : OutKept P z (execCvtF32F16 c w s))
  | cvtF32E4m3 c w => exact (h.lane .cvt : OutKept P z (execCvtF32E4m3 c w s))
  | cvtF32E5m2 c w => exact (h.lane .cvt : OutKept P z (execCvtF32E5m2 c w s))
  | cvtQ64F32 c w => exact (h.lane .cvtExp : OutKept P z (execCvtQ64F32 c w s))
  | cvtF32Q64 c w => exact (h.lane .cvtExp : OutKept P z (execCvtF32Q64 c w s))
  | llLd c w => exact (h.lane (.checked .llLd) : OutKept P z (execLlLd c w s))
  | llSt c w => exact (h.lane (.checked .llSt) : OutKept P z (execLlSt c w s))
  | spLd c w => exact (h.lane (.checked .spLd) : OutKept P z (execSpLd c w s))
  | spSt c w => exact (h.lane (.checked .spSt) : OutKept P z (execSpSt c w s))
  | pmLd c w => exact (h.lane (.checked .pmIssue) : OutKept P z (execPmLd c w s))
  | pmSt c w => exact (h.lane (.checked .pmSt) : OutKept P z (execPmSt c w s))
  | pmAddU32 c w => exact (h.lane (.checked .pmIssue) : OutKept P z (execPmAddU32 c w s))
  | pmAddS64 c w => exact (h.lane (.checked .pmIssue) : OutKept P z (execPmAddS64 c w s))
  | pmCasB64 c w => exact (h.lane (.checked .pmIssue) : OutKept P z (execPmCasB64 c w s))
  | pinnedAccessReturn c => exact (h.execPinnedAccessReturn : OutKept P z (execPinnedAccessReturn c s))
  | cpU c w => exact (h.lane (.copy hc) : OutKept P z (execCpU c w s))
  | cpT c w => exact (h.lane (.copy hc) : OutKept P z (execCpT c w s))
  | copyComplete id => exact (h.execCopyComplete : OutKept P z (execCopyComplete id s))
  | barSync c w => exact (h.lane .barSync : OutKept P z (execBarSync c w s))
  | acWait c w => exact (h.lane .acWait : OutKept P z (execAcWait c w s))
  | acAdd c w => exact (h.lane .acAdd : OutKept P z (execAcAdd c w s))
  | acMode c w => exact (h.lane .acMode : OutKept P z (execAcMode c w s))
  | fencePm c w => exact (h.lane .fence : OutKept P z (execFencePm c w s))
  | fenceSp c w => exact (h.lane .fence : OutKept P z (execFenceSp c w s))
  | epochAdv c w => exact (h.lane .epochAdv : OutKept P z (execEpochAdv c w s))
  | hcGet c w => exact (h.lane .hcGet : OutKept P z (execHcGet c w s))
  | hcPut c w => exact (h.lane .hcPut : OutKept P z (execHcPut c w s))
  | hcTake c w => exact (h.lane .hcTake : OutKept P z (execHcTake c w s))
  | hcRet c w => exact (h.lane .hcRet : OutKept P z (execHcRet c w s))
  | nop c w => exact (h.lane .nop : OutKept P z (execNop c w s))
  | br c w => exact (h.lane (.ctl brResult_kept) : OutKept P z (execBr c w s))
  | call c w => exact (h.lane (.ctl callResult_kept) : OutKept P z (execCall c w s))
  | ret c w => exact (h.lane (.ctl retResult_kept) : OutKept P z (execRet c w s))
  | jmpR c w => exact (h.lane (.ctl jmpResult_kept) : OutKept P z (execJmpR c w s))
  | exit c w => exact (h.lane .exit : OutKept P z (execExit c w s))
  | gathQ c w => exact (h.issueOrder : OutKept P z (execGathQ c w s))
  | gathBk c w => exact (h.issueOrder : OutKept P z (execGathBk c w s))
  | gathOvf c w => exact (h.issueOrder : OutKept P z (execGathOvf c w s))
  | saddOpen c w => exact (h.issueOrder : OutKept P z (execSaddOpen c w s))
  | saddX64 c w => exact (h.issueOrder : OutKept P z (execSaddX64 c w s))
  | saddQ64 c w => exact (h.issueOrder : OutKept P z (execSaddQ64 c w s))
  | saddSeal c w => exact (h.issueOrder : OutKept P z (execSaddSeal c w s))
  | sealTakesEffect ten table send => exact (h.execSealTakesEffect : OutKept P z (execSealTakesEffect ten table send s))
  | saddClose c w => exact (h.issueOrder : OutKept P z (execSaddClose c w s))
  | arenaAddComplete n => exact (h.execArenaAddComplete : OutKept P z (execArenaAddComplete n s))
  | stRun c w => exact (h.issueOrder : OutKept P z (execStRun c w s))
  | streamTransferLands mover queue n => exact (h.execStreamTransferLands : OutKept P z (execStreamTransferLands mover queue n s))
  | plBag c w => exact (h.issueOrder : OutKept P z (execPlBag c w s))
  | poolingPass cluster => exact (h.execPoolingPass : OutKept P z (execPoolingPass cluster s))
  | gatherRowLands engine queue pos => exact (h.execGatherRowLands : OutKept P z (execGatherRowLands engine queue pos s))
  | scanLd c w => exact (h.issueOrder : OutKept P z (execScanLd c w s))
  | scanB1 c w => exact (h.issueOrder : OutKept P z (execScanB1 c w s))
  | tkRd c w => exact (h.issueOrder : OutKept P z (execTkRd c w s))
  | tkMerge c w => exact (h.issueOrder : OutKept P z (execTkMerge c w s))
  | tkClr c w => exact (h.issueOrder : OutKept P z (execTkClr c w s))
  | iaMma c w => exact (h.issueOrder : OutKept P z (execIaMma c w s))
  | iaSt c w => exact (h.issueOrder : OutKept P z (execIaSt c w s))
  | iaLd c w => exact (h.issueOrder : OutKept P z (execIaLd c w s))
  | iaZero c w => exact (h.issueOrder : OutKept P z (execIaZero c w s))
  | epCvt c w => exact (h.issueOrder : OutKept P z (execEpCvt c w s))
  | chainLinkCopy ten hitch cart => exact (h.execChainLinkCopy : OutKept P z (execChainLinkCopy ten hitch cart s))
  | lnPut c w => exact (h.issueOrder : OutKept P z (execLnPut c w s))
  | lnTake c w => exact (h.issueOrder : OutKept P z (execLnTake c w s))
  | lnOvf c w => exact (h.issueOrder : OutKept P z (execLnOvf c w s))
  | foldSgd c w => exact (h.issueOrder : OutKept P z (execFoldSgd c w s))
  | foldAdagrad c w => exact (h.issueOrder : OutKept P z (execFoldAdagrad c w s))
  | foldAdam c w => exact (h.issueOrder : OutKept P z (execFoldAdam c w s))
  | foldGet c w => exact (h.issueOrder : OutKept P z (execFoldGet c w s))
  | orderAccept c => exact (h.execOrderAccept : OutKept P z (execOrderAccept c s))
  | orderComplete id => exact (h.execOrderComplete : OutKept P z (execOrderComplete id s))
  | bulkPromotion id t => exact (h.execBulkPromotion : OutKept P z (execBulkPromotion id t s))
  | memoryResponse l t u p b ce mis => exact (h.execMemoryResponse : OutKept P z (execMemoryResponse l t u p b ce mis s))
  | rowCacheFill slice n => exact (h.execRowCacheFill : OutKept P z (execRowCacheFill slice n s))
  | rcwayClearDone ten => exact (h.execRcwayClearDone : OutKept P z (execRcwayClearDone ten s))
  | walkComplete n => exact (h.execWalkComplete : OutKept P z (execWalkComplete n s))
  | pin ten k base size hm => exact (h.execPin : OutKept P z (execPin ten k base size hm s))
  | unpin ten k => exact (h.execUnpin : OutKept P z (execUnpin ten k s))
  | pinWalkDone ten k => exact (h.execPinWalkDone : OutKept P z (execPinWalkDone ten k s))
  | faultRetry ten fid hm => exact (h.execFaultRetry : OutKept P z (execFaultRetry ten fid hm s))
  | faultAbort ten fid => exact (h.execFaultAbort : OutKept P z (execFaultAbort ten fid s))
  | faultTimeout ten fid t => exact (h.execFaultTimeout : OutKept P z (execFaultTimeout ten fid t s))
  | invalidationRange asid va pages => exact (h.broadcast : OutKept P z (execInvalidationRange asid va pages s))
  | invalidationSpace asid => exact (h.broadcast : OutKept P z (execInvalidationSpace asid s))
  | invalidationAll => exact (h.broadcast : OutKept P z (execInvalidationAll s))
  | invalidationAck t => exact (h.execInvalidationAck : OutKept P z (execInvalidationAck t s))
  | winCommitSend entry hm => exact (h.execWinCommitSend : OutKept P z (execWinCommitSend entry hm s))
  | winCommitRecv entry hm => exact (h.execWinCommitRecv : OutKept P z (execWinCommitRecv entry hm s))
  | podexpCommit entry hm => exact (h.execPodexpCommit : OutKept P z (execPodexpCommit entry hm s))
  | windowReleased entry => exact (h.execWindowReleased : OutKept P z (execWindowReleased entry s))
  | read port => exact (h.serveNext : OutKept P z (execRead port s))
  | write port => exact (h.serveNext : OutKept P z (execWrite port s))
  | add64 port => exact (h.serveNext : OutKept P z (execAdd64 port s))
  | add32 port => exact (h.serveNext : OutKept P z (execAdd32 port s))
  | cas64 port => exact (h.serveNext : OutKept P z (execCas64 port s))
  | resp port => exact (h.execResp : OutKept P z (execResp port s))
  | windowTimeout rtag t => exact (h.execWindowTimeout : OutKept P z (execWindowTimeout rtag t s))
  | tensorCoreAccess ten slot cluster op => exact (h.execTensorCoreAccess : OutKept P z (execTensorCoreAccess ten slot cluster op s))
  | carriageDeparture port t => exact (h.execCarriageDeparture : OutKept P z (execCarriageDeparture port t s))
  | dataCarriage port c => exact (h.execDataCarriage : OutKept P z (execDataCarriage port c s))
  | vacantCarriage port c => exact (h.execVacantCarriage : OutKept P z (execVacantCarriage port c s))
  | rollCarriage port c => exact (h.execRollCarriage : OutKept P z (execRollCarriage port c s))
  | auditCarriage port c => exact (h.execAuditCarriage : OutKept P z (execAuditCarriage port c s))
  | freeCarriage port c => exact (h.execFreeCarriage : OutKept P z (execFreeCarriage port c s))
  | carriageTimeout port n t => exact (h.execCarriageTimeout : OutKept P z (execCarriageTimeout port n t s))
  | armControl port c => exact (h.execArmControl : OutKept P z (execArmControl port c s))
  | ack port c => exact (h.execAck : OutKept P z (execAck port c s))
  | nak port c => exact (h.execNak : OutKept P z (execNak port c s))
  | confirm port c => exact (h.execConfirm : OutKept P z (execConfirm port c s))
  | disarm port c => exact (h.execDisarm : OutKept P z (execDisarm port c s))
  | link port c => exact (h.execLink : OutKept P z (execLink port c s))
  | departure ten t => exact (h.execDeparture : OutKept P z (execDeparture ten t s))
  | rollCallCheck ten t => exact (h.execRollCallCheck : OutKept P z (execRollCallCheck ten t s))
  | stopCarriage ten t => exact (h.execStopCarriage : OutKept P z (execStopCarriage ten t s))
  | brakeIdle ten t => exact (h.execBrakeIdle : OutKept P z (execBrakeIdle ten t s))
  | lineTrain port => exact (h.execLineTrain : OutKept P z (execLineTrain port s))
  | trainingComplete port r => exact (h.execTrainingComplete : OutKept P z (execTrainingComplete port r s))
  | trainingSignalTimeout port t => exact (h.execTrainingSignalTimeout : OutKept P z (execTrainingSignalTimeout port t s))
  | lineDown port => exact (h.execLineDown : OutKept P z (execLineDown port s))
  | lineRetire port lanes => exact (h.execLineRetire : OutKept P z (execLineRetire port lanes s))
  | lineFence fence => exact (h.execLineFence : OutKept P z (execLineFence fence s))
  | routeWrite index mask => exact (h.execRouteWrite : OutKept P z (execRouteWrite index mask s))
  | rotationStep port t => exact (h.execRotationStep : OutKept P z (execRotationStep port t s))
  | rotationSwitch port t => exact (h.execRotationSwitch : OutKept P z (execRotationSwitch port t s))
  | calibrationVisit port v => exact (h.execCalibrationVisit : OutKept P z (execCalibrationVisit port v s))
  | retirementStep port t => exact (h.execRetirementStep : OutKept P z (execRetirementStep port t s))
  | laneLost port lane => exact (h.execLaneLost : OutKept P z (execLaneLost port lane s))
  | spareJump port t => exact (h.execSpareJump : OutKept P z (execSpareJump port t s))
  | injectorArm port v => exact (h.execInjectorArm : OutKept P z (execInjectorArm port v s))
  | hallCounterSlip => exact (h.execHallCounterSlip : OutKept P z (execHallCounterSlip s))
  | governorEvaluation t => exact (h.execGovernorEvaluation : OutKept P z (execGovernorEvaluation t s))
  | rateReport t mhz => exact (h.execRateReport : OutKept P z (execRateReport t mhz s))
  | powerTelemetry p => exact (h.execPowerTelemetry : OutKept P z (execPowerTelemetry p s))
  | powerReportStale t => exact (h.execPowerReportStale : OutKept P z (execPowerReportStale t s))
  | vidAck => exact (h.execVidAck : OutKept P z (execVidAck s))
  | thermalReport stack temp => exact (h.execThermalReport : OutKept P z (execThermalReport stack temp s))
  | openTenancy ten => exact (h.execOpenTenancy : OutKept P z (execOpenTenancy ten s))
  | runTenancy ten => exact (h.execRunTenancy : OutKept P z (execRunTenancy ten s))
  | ledEpochAdv ten => exact (h.execLedEpochAdv : OutKept P z (execLedEpochAdv ten s))
  | epochDeferredAdvance ten => exact (h.execEpochDeferredAdvance : OutKept P z (execEpochDeferredAdvance ten s))
  | holderSwitch ten => exact (h.execHolderSwitch : OutKept P z (execHolderSwitch ten s))
  | holdTimeout ten t => exact (h.execHoldTimeout : OutKept P z (execHoldTimeout ten t s))
  | swapHint ten t => exact (h.execSwapHint : OutKept P z (execSwapHint ten t s))
  | quiesce kind index lane force => exact (h.execQuiesce : OutKept P z (execQuiesce kind index lane force s))
  | quiesceEnable kind index lane => exact (h.execQuiesceEnable : OutKept P z (execQuiesceEnable kind index lane s))
  | functionDisabled => exact (h.execFunctionDisabled : OutKept P z (execFunctionDisabled s))
  | tenancyClear ten => exact (h.execTenancyClear : OutKept P z (execTenancyClear ten s))
  | containBlock => exact (h.execContainBlock : OutKept P z (execContainBlock s))
  | haltTenancy ten => exact (h.execHaltTenancy : OutKept P z (execHaltTenancy ten s))
  | holdoffEnd t => exact (h.execHoldoffEnd : OutKept P z (execHoldoffEnd t s))
  | powerGood => exact (h.execPowerGood hz : OutKept P z (execPowerGood s))
  | supplyLoss => exact (h.execSupplyLoss hz : OutKept P z (execSupplyLoss s))
  | reset => exact (h.execReset hz : OutKept P z (execReset s))
  | ctlReset => exact (h.execCtlReset hz : OutKept P z (execCtlReset s))
  | ctlDrain => exact (h.execCtlDrain : OutKept P z (execCtlDrain s))
  | go v grant ways hm => exact (h.execGo : OutKept P z (execGo v grant ways hm s))
  | selfTestDone pass shared => exact (h.execSelfTestDone : OutKept P z (execSelfTestDone pass shared s))
  | selftestRun cluster => exact (h.execSelftestRun : OutKept P z (execSelftestRun cluster s))
  | update kind utmo sig hm => exact (h.execUpdate : OutKept P z (execUpdate kind utmo sig hm s))
  | fwImageReady => exact (h.execFwImageReady : OutKept P z (execFwImageReady s))
  | fwSwitch => exact (h.execFwSwitch : OutKept P z (execFwSwitch s))
  | fwUpdateTimeout t => exact (h.execFwUpdateTimeout : OutKept P z (execFwUpdateTimeout t s))
  | fwWatchdog image => exact (h.execFwWatchdog : OutKept P z (execFwWatchdog image s))
  | memMargin v => exact (h.execMemMargin : OutKept P z (execMemMargin v s))
  | registerWrite addr be data => exact (h.execRegisterWrite hz : OutKept P z (execRegisterWrite addr be data s))
  | discardedCarriage port carno fec => exact (h.execDiscardedCarriage : OutKept P z (execDiscardedCarriage port carno fec s))
  | unparkDone ten slot => exact (h.execUnparkDone : OutKept P z (execUnparkDone ten slot s))
  | tableLoadDone ten => exact (h.execTableLoadDone : OutKept P z (execTableLoadDone ten s))
  | timetableLoadDone ten => exact (h.execTimetableLoadDone : OutKept P z (execTimetableLoadDone ten s))
  | clusterTestDone pass => exact (h.execClusterTestDone : OutKept P z (execClusterTestDone pass s))
  | resetRelease testEn => exact (h.execResetRelease : OutKept P z (execResetRelease testEn s))
  | tapInstruction op => exact (h.execTapInstruction : OutKept P z (execTapInstruction op s))
  | wrapperInstruction op => exact (h.execWrapperInstruction : OutKept P z (execWrapperInstruction op s))

theorem step_kept (hz : z.sizes = blockSizes) (hc : z.copies = none) (h : s.Kept P z) : OutKept P z (step s) := by
  unfold Machine.step
  split
  · next c cs _ => exact exec_kept (s := { s with pending := cs }) hz hc h c
  · exact h.atTick.ite h

end

/-- Settles O6: every row keeps the block's tables at their sizes, its memories and register files canonical and VCORE in range, and
so does a tick that passes. -/
theorem stepKeepsShape : Obligations.StepKeepsShape := by
  unfold Obligations.StepKeepsShape
  intro s t hs ht
  exact t.shape_iff_kept.2 ((step_kept rfl rfl (s.shape_iff_kept.1 hs)).of_next ht)

end Sys2Proof.Machine
end
